-- ==== Sys2Proof/Word.lean ====
section
/-!
DEFINITION. The word types of the D4 and their plainest arithmetic.
-/
namespace Sys2Proof

abbrev Byte := BitVec 8
abbrev Word32 := BitVec 32
abbrev Word64 := BitVec 64
abbrev Word128 := BitVec 128

/-- Bits hi:lo of a number. -/
def bits (n hi lo : Nat) : Nat := n / 2 ^ lo % 2 ^ (hi + 1 - lo)

/-- Bit k of a number. -/
def bit (n k : Nat) : Bool := n / 2 ^ k % 2 == 1

/-- A flag as a number. -/
def flag (b : Bool) : Nat := if b then 1 else 0

/-- The signed value of a w-bit pattern. -/
def signed (w n : Nat) : Int := if n % 2 ^ w < 2 ^ (w - 1) then (n % 2 ^ w : Nat) else (n % 2 ^ w : Nat) - (2 ^ w : Nat)

/-- The w-bit two's complement pattern of a number. -/
def wrap (w : Nat) (v : Int) : Nat := (v % (2 ^ w : Nat)).toNat

end Sys2Proof
end

