-- ==== Sys2Proof/Config.lean ====
section
/-!
DEFINITION. What an implementation fixes and the values the spec leaves open. A free value is an opaque constant: no
proof can see what it is, so a statement about it holds for every value (notes/assumptions).
-/
namespace Sys2Proof.Config

/-- Time that passes in a step, in units of 1/35 ns (log 1). -/
opaque elapsed : Nat → Nat

/-- A free value of the machine, one for each count of `State.fresh` (log 32). -/
opaque free : Nat → Nat

/-- Where the bounds computed for a transcendental result do not decide its rounding, which of the two neighbours it is
(log 15): false for the lower. -/
opaque hardCase : Nat → Bool

/-- The charge of an access to host memory, pJ, which 26 R407 does not give (log 23). -/
opaque hostCharge : Nat

/-- Lanes of an Ethernet port, which the spec gives by rate alone (25 R394 Table 1). -/
opaque ethernetLanes : Nat

/-- What the physically unclonable function of the package gives at every reset (28 R437, log 52). -/
opaque puf : Nat

/-- The private and the public half of the P-384 identity key that the function's value gives, and a signature of a number
under a private half, one for each draw (28 R437, R438, log 52). -/
opaque identityPrivate : Nat → Nat
opaque identityPublic : Nat → Nat
opaque signature : Nat → Nat → Nat → Nat

end Sys2Proof.Config
end

