-- ==== Sys2Proof/Machine/Store.lean ====
section
/-!
DEFINITION. A table with a default: the form in which State holds memory, slots, contexts and every other keyed
collection. Keys rise strictly and no entry equals the default, so equal tables are equal data.
-/
namespace Sys2Proof.Machine

/-- A table from numbers to values. -/
abbrev Store (α : Type) := List (Nat × α)

/-- The value at a key; `d` where the key is not listed. -/
def Store.get {α : Type} (d : α) : Store α → Nat → α
  | [], _ => d
  | (k, v) :: r, n => if k = n then v else Store.get d r n

/-- Put a value at a key; putting the default removes the entry. -/
def Store.put {α : Type} [DecidableEq α] (d : α) : Store α → Nat → α → Store α
  | [], n, v => if v = d then [] else [(n, v)]
  | (k, w) :: r, n, v =>
    if n < k then (if v = d then (k, w) :: r else (n, v) :: (k, w) :: r)
    else if n = k then (if v = d then r else (n, v) :: r)
    else (k, w) :: Store.put d r n v

/-- Every key of the table is above `n`. -/
def Store.above {α : Type} (n : Nat) (m : Store α) : Bool := m.all fun e => n < e.1

/-- The canonical form. -/
def Store.wf {α : Type} [DecidableEq α] (d : α) : Store α → Bool
  | [] => true
  | (k, v) :: r => v != d && Store.above k r && Store.wf d r

/-- A set of numbers, as a table of units: strictly rising, no repeats. -/
abbrev NatSet := List Nat

def NatSet.mem (s : NatSet) (n : Nat) : Bool := s.contains n

def NatSet.add : NatSet → Nat → NatSet
  | [], n => [n]
  | k :: r, n => if n < k then n :: k :: r else if n = k then k :: r else k :: NatSet.add r n

def NatSet.del : NatSet → Nat → NatSet
  | [], _ => []
  | k :: r, n => if n = k then r else k :: NatSet.del r n

/-- Strictly rising. -/
def NatSet.wf : NatSet → Bool
  | [] => true
  | k :: r => r.all (fun n => k < n) && NatSet.wf r

/-- The least number below `bound` that is not in the set; none when all are. -/
def NatSet.leastFree (s : NatSet) : Nat → Nat → Option Nat
  | 0, _ => none
  | f + 1, n => if s.mem n then NatSet.leastFree s f (n + 1) else some n

end Sys2Proof.Machine
end

