-- ==== Sys2Proof/Syntax.lean ====
section
/-!
DEFINITION. The syntax of the D4 (spec/06_encoding.md, spec/opcode_table.json): the fields of an instruction's words
and one constructor of `Instr` per row of the opcode table.
-/
namespace Sys2Proof

/-- The four length codes of R100. -/
inductive Form where
  | one | ext | lit | extLit
deriving DecidableEq, Repr

/-- The fields of an instruction, word 0 (R99) without len and op, word 1 and word 2 (R101), and the literal (R102).
In the forms without word 1 the fields of words 1 and 2 are zero, and without a literal the literal is zero. -/
structure Fields where
  form : Form
  g    : BitVec 8
  d    : BitVec 5
  a    : BitVec 5
  b    : BitVec 5
  c    : BitVec 5
  xop  : BitVec 10
  ty   : BitVec 5
  mod  : BitVec 12
  imm  : BitVec 32
  lit  : BitVec 64
deriving DecidableEq, Repr

/-- A one-word instruction's fields. -/
def Fields.oneWord (g : BitVec 8) (d a b : BitVec 5) : Fields :=
  { form := .one, g, d, a, b, c := 0, xop := 0, ty := 0, mod := 0, imm := 0, lit := 0 }

def Fields.hasLit (e : Fields) : Bool := e.form == .lit || e.form == .extLit
def Fields.hasWord1 (e : Fields) : Bool := e.form == .ext || e.form == .extLit

/-- The number of 32-bit words of a form (R100 Table 2). -/
def Form.words : Form → Nat
  | .one => 1 | .ext => 3 | .lit => 3 | .extLit => 5

/-- RND of R104 Table 4. -/
def Fields.rnd (e : Fields) : Nat := e.mod.toNat % 8
def Fields.sat (e : Fields) : Bool := e.mod.getLsbD 3
def Fields.ftz (e : Fields) : Bool := e.mod.getLsbD 4
def Fields.sfd (e : Fields) : Bool := e.mod.getLsbD 5
def Fields.sfa (e : Fields) : Bool := e.mod.getLsbD 6
def Fields.sfb (e : Fields) : Bool := e.mod.getLsbD 7
def Fields.sfc (e : Fields) : Bool := e.mod.getLsbD 8

/-- The stream stride in bytes (R104): code 0 and code 1 advance by 16, codes 4 to 7 go backwards. -/
def Fields.stride (e : Fields) : Int :=
  let s := e.mod.toNat / 512
  if s = 0 then 16 else if s < 4 then 16 * (s : Int) else 16 * ((s : Int) - 8)

/-- The modifiers of a memory access (R106 Table 6). -/
def Fields.scope (e : Fields) : Nat := e.mod.toNat % 8
def Fields.rx (e : Fields) : Bool := e.mod.getLsbD 3
def Fields.acq (e : Fields) : Bool := e.mod.getLsbD 4
def Fields.rel (e : Fields) : Bool := e.mod.getLsbD 5
def Fields.post (e : Fields) : Bool := e.mod.getLsbD 6

/-- COND and COMB of a compare (R105). -/
def Fields.cond (e : Fields) : Nat := e.xop.toNat % 16
def Fields.comb (e : Fields) : Nat := e.xop.toNat / 16 % 4

/-- The 15-bit immediate fd:fa:fb of `br`, `call`, `brk` and `trap` (R103). -/
def Fields.imm15 (e : Fields) : BitVec 15 := e.d ++ e.a ++ e.b

/-- Who writes or reads a register of the machine: a thread by its slot, or the host port (17 R327). -/
inductive Writer where
  | thread (slot : Nat)
  | host
deriving DecidableEq, Repr

/-- The instructions and events of the opcode table, one constructor per row. An instruction row carries the fields of
its words; an event row, which has no encoding, carries what tells one such event from another. -/
inductive Instr where
  /-- ADD, R125. -/
  | add (e : Fields)
  /-- ADD_X, R125. -/
  | addX (e : Fields)
  /-- SUB, R125. -/
  | sub (e : Fields)
  /-- SUB_X, R125. -/
  | subX (e : Fields)
  /-- MUL, R125. -/
  | mul (e : Fields)
  /-- MUL_X, R125. -/
  | mulX (e : Fields)
  /-- MULHI, R125. -/
  | mulhi (e : Fields)
  /-- MULHI_X, R125. -/
  | mulhiX (e : Fields)
  /-- DIV, R125. -/
  | div (e : Fields)
  /-- DIV_X, R125. -/
  | divX (e : Fields)
  /-- REM, R125. -/
  | rem (e : Fields)
  /-- REM_X, R125. -/
  | remX (e : Fields)
  /-- MIN, R125. -/
  | min (e : Fields)
  /-- MIN_X, R125. -/
  | minX (e : Fields)
  /-- MAX, R125. -/
  | max (e : Fields)
  /-- MAX_X, R125. -/
  | maxX (e : Fields)
  /-- AND, R128. -/
  | and (e : Fields)
  /-- AND_X, R128. -/
  | andX (e : Fields)
  /-- OR, R128. -/
  | or (e : Fields)
  /-- OR_X, R128. -/
  | orX (e : Fields)
  /-- XOR, R128. -/
  | xor (e : Fields)
  /-- XOR_X, R128. -/
  | xorX (e : Fields)
  /-- ANDN, R128. -/
  | andn (e : Fields)
  /-- ANDN_X, R128. -/
  | andnX (e : Fields)
  /-- SHL, R127. -/
  | shl (e : Fields)
  /-- SHL_X, R127. -/
  | shlX (e : Fields)
  /-- SHR, R127. -/
  | shr (e : Fields)
  /-- SHR_X, R127. -/
  | shrX (e : Fields)
  /-- SAR, R127. -/
  | sar (e : Fields)
  /-- SAR_X, R127. -/
  | sarX (e : Fields)
  /-- ROT, R127. -/
  | rot (e : Fields)
  /-- ROT_X, R127. -/
  | rotX (e : Fields)
  /-- ADDSAT, R125. -/
  | addsat (e : Fields)
  /-- ADDSAT_X, R125. -/
  | addsatX (e : Fields)
  /-- SUBSAT, R125. -/
  | subsat (e : Fields)
  /-- SUBSAT_X, R125. -/
  | subsatX (e : Fields)
  /-- ABS, R126. -/
  | abs (e : Fields)
  /-- ABS_X, R126. -/
  | absX (e : Fields)
  /-- NEG, R126. -/
  | neg (e : Fields)
  /-- NEG_X, R126. -/
  | negX (e : Fields)
  /-- CLZ, R126. -/
  | clz (e : Fields)
  /-- CLZ_X, R126. -/
  | clzX (e : Fields)
  /-- CTZ, R126. -/
  | ctz (e : Fields)
  /-- CTZ_X, R126. -/
  | ctzX (e : Fields)
  /-- POPC, R126. -/
  | popc (e : Fields)
  /-- POPC_X, R126. -/
  | popcX (e : Fields)
  /-- MOV, R129. -/
  | mov (e : Fields)
  /-- MOV_X, R129. -/
  | movX (e : Fields)
  /-- MOV_TAG, R130. -/
  | movTag (e : Fields)
  /-- MOV_RAW, R130. -/
  | movRaw (e : Fields)
  /-- SEL, R131. -/
  | sel (e : Fields)
  /-- SEL_X, R131. -/
  | selX (e : Fields)
  /-- SHUF, R132. -/
  | shuf (e : Fields)
  /-- SHUF_X, R132. -/
  | shufX (e : Fields)
  /-- BCAST, R133. -/
  | bcast (e : Fields)
  /-- BCAST_X, R133. -/
  | bcastX (e : Fields)
  /-- EXT, R133. -/
  | ext (e : Fields)
  /-- EXT_X, R133. -/
  | extX (e : Fields)
  /-- PACK, R134. -/
  | pack (e : Fields)
  /-- PACK_X, R134. -/
  | packX (e : Fields)
  /-- UNPACK, R134. -/
  | unpack (e : Fields)
  /-- UNPACK_X, R134. -/
  | unpackX (e : Fields)
  /-- MAD, R125. -/
  | mad (e : Fields)
  /-- MAD_X, R125. -/
  | madX (e : Fields)
  /-- INS, R133. -/
  | ins (e : Fields)
  /-- INS_X, R133. -/
  | insX (e : Fields)
  /-- FADD, R135. -/
  | fadd (e : Fields)
  /-- FADD_X, R135. -/
  | faddX (e : Fields)
  /-- FSUB, R135. -/
  | fsub (e : Fields)
  /-- FSUB_X, R135. -/
  | fsubX (e : Fields)
  /-- FMUL, R135. -/
  | fmul (e : Fields)
  /-- FMUL_X, R135. -/
  | fmulX (e : Fields)
  /-- FMA, R135. -/
  | fma (e : Fields)
  /-- FMA_X, R135. -/
  | fmaX (e : Fields)
  /-- FMIN, R136. -/
  | fmin (e : Fields)
  /-- FMIN_X, R136. -/
  | fminX (e : Fields)
  /-- FMAX, R136. -/
  | fmax (e : Fields)
  /-- FMAX_X, R136. -/
  | fmaxX (e : Fields)
  /-- FABS, R136. -/
  | fabs (e : Fields)
  /-- FABS_X, R136. -/
  | fabsX (e : Fields)
  /-- FNEG, R136. -/
  | fneg (e : Fields)
  /-- FNEG_X, R136. -/
  | fnegX (e : Fields)
  /-- FRCP, R137. -/
  | frcp (e : Fields)
  /-- FRCP_X, R137. -/
  | frcpX (e : Fields)
  /-- FRSQ, R137. -/
  | frsq (e : Fields)
  /-- FRSQ_X, R137. -/
  | frsqX (e : Fields)
  /-- FSQRT, R137. -/
  | fsqrt (e : Fields)
  /-- FSQRT_X, R137. -/
  | fsqrtX (e : Fields)
  /-- FEXP2, R137. -/
  | fexp2 (e : Fields)
  /-- FEXP2_X, R137. -/
  | fexp2X (e : Fields)
  /-- FLOG2, R137. -/
  | flog2 (e : Fields)
  /-- FLOG2_X, R137. -/
  | flog2X (e : Fields)
  /-- FDOT, R139. -/
  | fdot (e : Fields)
  /-- FDOT_X, R139. -/
  | fdotX (e : Fields)
  /-- FCVT, R140. -/
  | fcvt (e : Fields)
  /-- FCVT_X, R141. -/
  | fcvtX (e : Fields)
  /-- FROUND, R138. -/
  | fround (e : Fields)
  /-- FROUND_X, R138. -/
  | froundX (e : Fields)
  /-- CMP, R142. -/
  | cmp (e : Fields)
  /-- FCMP, R142. -/
  | fcmp (e : Fields)
  /-- PLOP, R143. -/
  | plop (e : Fields)
  /-- PMOV, R144. -/
  | pmov (e : Fields)
  /-- PMOV_NZ, R144. -/
  | pmovNz (e : Fields)
  /-- PGET, R145. -/
  | pget (e : Fields)
  /-- PGET_MASK, R145. -/
  | pgetMask (e : Fields)
  /-- PCNT, R146. -/
  | pcnt (e : Fields)
  /-- PCNT_X, R146. -/
  | pcntX (e : Fields)
  /-- SETGF, R147. -/
  | setgf (e : Fields)
  /-- PFIRST, R146. -/
  | pfirst (e : Fields)
  /-- PFIRST_X, R146. -/
  | pfirstX (e : Fields)
  /-- BR, R149. -/
  | br (e : Fields)
  /-- BR_X, R149. -/
  | brX (e : Fields)
  /-- JMP, R150. -/
  | jmp (e : Fields)
  /-- JMP_TABLE, R150. -/
  | jmpTable (e : Fields)
  /-- CALL, R151. -/
  | call (e : Fields)
  /-- CALL_X, R151. -/
  | callX (e : Fields)
  /-- CALLR, R152. -/
  | callr (e : Fields)
  /-- RET, R152. -/
  | ret (e : Fields)
  /-- EXIT, R153. -/
  | exit (e : Fields)
  /-- SAFE, R154. -/
  | safe (e : Fields)
  /-- BRK, R425. -/
  | brk (e : Fields)
  /-- BRK_X, R425. -/
  | brkX (e : Fields)
  /-- LD, R164. -/
  | ld (e : Fields)
  /-- LD_X, R164. -/
  | ldX (e : Fields)
  /-- ST, R166. -/
  | st (e : Fields)
  /-- ST_X, R166. -/
  | stX (e : Fields)
  /-- LDS, R165. -/
  | lds (e : Fields)
  /-- LDS_X, R165. -/
  | ldsX (e : Fields)
  /-- STS, R166. -/
  | sts (e : Fields)
  /-- STS_X, R166. -/
  | stsX (e : Fields)
  /-- LDFE, R168. -/
  | ldfe (e : Fields)
  /-- LDFE_X, R168. -/
  | ldfeX (e : Fields)
  /-- STEF, R168. -/
  | stef (e : Fields)
  /-- STEF_X, R168. -/
  | stefX (e : Fields)
  /-- LDFF, R168. -/
  | ldff (e : Fields)
  /-- LDFF_X, R168. -/
  | ldffX (e : Fields)
  /-- FEFILL, R169. -/
  | fefill (e : Fields)
  /-- FEFILL_X, R169. -/
  | fefillX (e : Fields)
  /-- ATOM, R171. -/
  | atom (e : Fields)
  /-- ATOM_X, R171. -/
  | atomX (e : Fields)
  /-- CAS, R172. -/
  | cas (e : Fields)
  /-- CAS_X, R172. -/
  | casX (e : Fields)
  /-- FENCE, R175. -/
  | fence (e : Fields)
  /-- FENCE_X, R175. -/
  | fenceX (e : Fields)
  /-- WAIT, R176. -/
  | wait (e : Fields)
  /-- WAIT_X, R176. -/
  | waitX (e : Fields)
  /-- LDCAP, R179. -/
  | ldcap (e : Fields)
  /-- LDCAP_X, R179. -/
  | ldcapX (e : Fields)
  /-- STCAP, R180. -/
  | stcap (e : Fields)
  /-- STCAP_X, R180. -/
  | stcapX (e : Fields)
  /-- SEND, R189. -/
  | send (e : Fields)
  /-- SEND_X, R189. -/
  | sendX (e : Fields)
  /-- RECV, R190. -/
  | recv (e : Fields)
  /-- RECV_TRY, R190. -/
  | recvTry (e : Fields)
  /-- CSET, R183. -/
  | cset (e : Fields)
  /-- CSET_X, R183. -/
  | csetX (e : Fields)
  /-- CPERM, R184. -/
  | cperm (e : Fields)
  /-- CPERM_X, R184. -/
  | cpermX (e : Fields)
  /-- CINC, R184. -/
  | cinc (e : Fields)
  /-- CINC_X, R184. -/
  | cincX (e : Fields)
  /-- CGET, R185. -/
  | cget (e : Fields)
  /-- CGET_X, R185. -/
  | cgetX (e : Fields)
  /-- CTEST, R186. -/
  | ctest (e : Fields)
  /-- CTEST_FIT, R186. -/
  | ctestFit (e : Fields)
  /-- CSEAL, R187. -/
  | cseal (e : Fields)
  /-- CSEAL_X, R187. -/
  | csealX (e : Fields)
  /-- CUNSEAL, R187. -/
  | cunseal (e : Fields)
  /-- CUNSEAL_X, R187. -/
  | cunsealX (e : Fields)
  /-- CCLR, R181. -/
  | cclr (e : Fields)
  /-- CCLR_X, R181. -/
  | cclrX (e : Fields)
  /-- CJOIN, R339. -/
  | cjoin (e : Fields)
  /-- CJOIN_X, R339. -/
  | cjoinX (e : Fields)
  /-- CLEAVE, R339. -/
  | cleave (e : Fields)
  /-- CLEAVE_X, R339. -/
  | cleaveX (e : Fields)
  /-- CBAR, R356. -/
  | cbar (e : Fields)
  /-- CBAR_X, R356. -/
  | cbarX (e : Fields)
  /-- CARR, R357. -/
  | carr (e : Fields)
  /-- CARR_X, R357. -/
  | carrX (e : Fields)
  /-- CWAIT, R358. -/
  | cwait (e : Fields)
  /-- CWAIT_PH, R358. -/
  | cwaitPh (e : Fields)
  /-- CVOTE, R343. -/
  | cvote (e : Fields)
  /-- CVOTE_X, R343. -/
  | cvoteX (e : Fields)
  /-- CRED, R344. -/
  | cred (e : Fields)
  /-- CRED_X, R344. -/
  | credX (e : Fields)
  /-- CMAKE, R335. -/
  | cmake (e : Fields)
  /-- TRAP, R311. -/
  | trap (e : Fields)
  /-- TRAP_X, R311. -/
  | trapX (e : Fields)
  /-- TRES, R312. -/
  | tres (e : Fields)
  /-- GETS, R302. -/
  | gets (e : Fields)
  /-- GETS_X, R302. -/
  | getsX (e : Fields)
  /-- PUTS, R302. -/
  | puts (e : Fields)
  /-- PUTS_X, R302. -/
  | putsX (e : Fields)
  /-- MIGR, R318. -/
  | migr (e : Fields)
  /-- MIGR_X, R318. -/
  | migrX (e : Fields)
  /-- TLBI, R366. -/
  | tlbi (e : Fields)
  /-- TLBI_CTX, R366. -/
  | tlbiCtx (e : Fields)
  /-- TLBI_VA, R366. -/
  | tlbiVa (e : Fields)
  /-- YIELD, R313. -/
  | yield (e : Fields)
  /-- CTR_READ, R432. -/
  | ctrRead (e : Fields)
  /-- CTR_READ_X, R432. -/
  | ctrReadX (e : Fields)
  /-- CTR_START, R432. -/
  | ctrStart (e : Fields)
  /-- CTR_STOP, R432. -/
  | ctrStop (e : Fields)
  /-- CTR_SEL, R432. -/
  | ctrSel (e : Fields)
  /-- TMM, R220. -/
  | tmm (e : Fields)
  /-- TGMM, R226. -/
  | tgmm (e : Fields)
  /-- TSFX, R230. -/
  | tsfx (e : Fields)
  /-- TRED, R231. -/
  | tred (e : Fields)
  /-- TCVT, R232. -/
  | tcvt (e : Fields)
  /-- TZERO, R234. -/
  | tzero (e : Fields)
  /-- RCSNAP, R228. -/
  | rcsnap (e : Fields)
  /-- RCREAD, R229. -/
  | rcread (e : Fields)
  /-- TSTAT, R235. -/
  | tstat (e : Fields)
  /-- CPY, R238. -/
  | cpy (e : Fields)
  /-- CPY2, R238. -/
  | cpy2 (e : Fields)
  /-- CPYG, R238. -/
  | cpyg (e : Fields)
  /-- CFILL, R238. -/
  | cfill (e : Fields)
  /-- QJOIN, R284. -/
  | qjoin (e : Fields)
  /-- QSTAT, R286. -/
  | qstat (e : Fields)
  /-- GSUB, R267. -/
  | gsub (e : Fields)
  /-- TPOST, R268. -/
  | tpost (e : Fields)
  /-- TRIG, R269. -/
  | trig (e : Fields)
  /-- VREAD, R270. -/
  | vread (e : Fields)
  /-- GSTAT, R271. -/
  | gstat (e : Fields)
  /-- GABORT, R272. -/
  | gabort (e : Fields)
  /-- NWAIT, R273. -/
  | nwait (e : Fields)
  /-- NWAIT_TRY, R273. -/
  | nwaitTry (e : Fields)
  /-- CFIND, R336. -/
  | cfind (e : Fields)
  /-- CFREE, R337. -/
  | cfree (e : Fields)
  /-- CSTAT, R345. -/
  | cstat (e : Fields)
  /-- HNEW, R373. -/
  | hnew (e : Fields)
  /-- HEXT, R373. -/
  | hext (e : Fields)
  /-- HXL, R373. -/
  | hxl (e : Fields)
  /-- HFORK, R373. -/
  | hfork (e : Fields)
  /-- HREL, R373. -/
  | hrel (e : Fields)
  /-- HCOW, R373. -/
  | hcow (e : Fields)
  /-- HSTAT, R373. -/
  | hstat (e : Fields)
  /-- PARK, R376. -/
  | park (e : Fields)
  /-- WAKE, R388. -/
  | wake (e : Fields)
  /-- LPRO, R389. -/
  | lpro (e : Fields)
  /-- LSTAT, R390. -/
  | lstat (e : Fields)
  /-- THAW, R323. -/
  | thaw (e : Fields)
  /-- CXSW_CREATE, R324. -/
  | cxswCreate (e : Fields)
  /-- SLOTW, R325. -/
  | slotw (e : Fields)
  /-- GOVSET, R326. -/
  | govset (e : Fields)
  /-- QSTAT_HANDLE, R286: Mints a queue-handle capability for a queue of the grove. -/
  | qstatHandle
  /-- CXSW_RUN, R324: Makes a created context runnable. -/
  | cxswRun
  /-- CXSW_SUSPEND, R299: Begins suspension of a context, pre-empting its threads. -/
  | cxswSuspend
  /-- CXSW_RESUME, R324: Resumes a suspended context. -/
  | cxswResume
  /-- CXSW_TEARDOWN, R300: Begins teardown of a context. -/
  | cxswTeardown
  /-- CXSW_FREEZE, R299: Begins freezing a context. -/
  | cxswFreeze
  /-- CXSW_THAW_CONTEXT, R324: Moves a frozen context to suspended. -/
  | cxswThawContext
  /-- CXSW_PREEMPT_CORE, R317: Pre-empts every thread of a context on one physical core. -/
  | cxswPreemptCore
  /-- BREAKPOINT_MATCH, R423: An offered turn whose PC and identifier match an enabled breakpoint stops the thread. -/
  | breakpointMatch
  /-- FETCH_BLOCK_RETURN, R114: A requested 64-byte code block arrives in a fetch buffer. -/
  | fetchBlockReturn
  /-- ACCESS_PERFORMED, R160: An ordinary access completes at its home and the waiting thread becomes ready. -/
  | accessPerformed
  /-- RELAXED_ACCESS_DONE, R161: A relaxed access returns, writes its destination and leaves ld or st. -/
  | relaxedAccessDone
  /-- SEND_ACCEPT, R189: A waiting send's entry is accepted into a channel or spill queue, or discarded. -/
  | sendAccept
  /-- HOST_COMPLETION_TIMEOUT, R32: A host-memory request reaches the PCIe completion timeout and ends as a data error. -/
  | hostCompletionTimeout
  /-- THREAD_DRAIN_END, R153: A halted thread's asynchronous work has drained and its slot empties. -/
  | threadDrainEnd
  /-- TASK_PLACEMENT, R255: At an issue opportunity the Landing places the task of highest key on the track of best score. -/
  | taskPlacement
  /-- WAVE_PLACEMENT, R34: Freed slots receive the next wave of a wide thread task. -/
  | wavePlacement
  /-- LANDING_TICK, R257: The 10 us tick recomputes every projection, delay loss and key of the die. -/
  | landingTick
  /-- GRAPH_ABANDONED, R260: When no work of an abandoning graph remains, its status is written and a notice is sent. -/
  | graphAbandoned
  /-- KERNEL_COPY_COMPLETE, R293: The copy of kernel code into a grove's kernel area is whole and the placed threads become ready. -/
  | kernelCopyComplete
  /-- KERNEL_UNREGISTER, R292: An evicted kernel with no thread holding a PC in it is unregistered. -/
  | kernelUnregister
  /-- UNIT_DISPATCH, R212: A free unit takes the longest-waiting head operation. -/
  | unitDispatch
  /-- BALLAST_SLICE_END, R414: A 128-cycle ballast slice ends and a waiting operation may start. -/
  | ballastSliceEnd
  /-- TILE_OP_COMPLETE, R222: A tile operation is whole, its completion word is incremented and tl falls. -/
  | tileOpComplete
  /-- COPY_COMPLETE, R239: A copy is whole, its completion word is incremented and cp falls. -/
  | copyComplete
  /-- ENGINE_TRANSLATION_FAULT, R223: An engine access faults and its queue halts with EXLAT and a handler message. -/
  | engineTranslationFault
  /-- ENGINE_DATA_ERROR, R205: An engine access meets poison and the operation ends with EDATA and its queue halts. -/
  | engineDataError
  /-- ENGINE_CAPABILITY_VIOLATION, R226: A gathered row fails its check and the queue freezes with ECAP. -/
  | engineCapabilityViolation
  /-- JOIN_RESOLVE, R284: A join whose named work has ended leaves its queue. -/
  | joinResolve
  /-- QUEUE_RESUME, R282: A queue control write resumes a halted queue. -/
  | queueResume
  /-- QUEUE_DISCARD, R282: A queue control write discards every entry of a halted queue. -/
  | queueDiscard
  /-- HANDLER_MESSAGE_DELIVER, R309: A held stop, freeze or halt message is delivered as two channel entries. -/
  | handlerMessageDeliver
  /-- HARD_PREEMPTION, R314: A pending request meets a safe-point distance above 2,048 and every register is saved. -/
  | hardPreemption
  /-- SAVE_FRAME_FREE, R315: A frame frees and a save deferred by NOFRAME is made. -/
  | saveFrameFree
  /-- THREAD_RESUME, R316: The Landing restores the saved threads of a logical core, redelivering spilled entries. -/
  | threadResume
  /-- TEARDOWN_END, R300: Teardown ends once no access of the context remains outstanding. -/
  | teardownEnd
  /-- SLOT_REASSIGN, R301: At a core's rotation boundary, empty unpinned slots pass to contexts below their target. -/
  | slotReassign
  /-- CORE_OVERHEAT, R319: A core sensor passes 95 C and its logical cores migrate or its slots are masked. -/
  | coreOverheat
  /-- MIGRATION_TRANSFER, R320: Once every thread of a logical core is migrating, its state and slot regions are transferred. -/
  | migrationTransfer
  /-- MIGRATION_REMAP, R320: The transfer ends, the logical core remaps and its threads become ready. -/
  | migrationRemap
  /-- SHARE_WRITE, R302: A SHARE write changes weight and allowed tracks, migrating threads off removed tracks. -/
  | shareWrite
  /-- BUDGET_REFILL, R409: Each microsecond the governor refills core and slot budgets and clears thermal masks. -/
  | budgetRefill
  /-- GOVERNOR_WINDOW_END, R412: Each 1 ms window reads board power, sets the correction and the next target. -/
  | governorWindowEnd
  /-- PARK_SAVE_WRITTEN, R378: A parking continuation's save frame is written and it becomes parked. -/
  | parkSaveWritten
  /-- THBM_EXPIRY, R381: The THBM timer expires and the chain's blocks move to the CXL DRAM tier. -/
  | thbmExpiry
  /-- TCXL_EXPIRY, R381: The TCXL timer expires and blocks move to the CXL flash tier. -/
  | tcxlExpiry
  /-- PAGE_MOVE_START, R367: Once accesses through dropped translations have drained, a page's bytes are copied. -/
  | pageMoveStart
  /-- BLOCK_MOVE_COMPLETE, R367: A page move ends with the leaf rewrite and waiting accesses are performed at the new home. -/
  | blockMoveComplete
  /-- CONTINUATION_PLACEMENT, R383: The Landing places a ready continuation, restores it and starts stage 2. -/
  | continuationPlacement
  /-- KERNEL_REGISTER, R290: A kernel register write with ACT 1 checks and registers an image. -/
  | kernelRegister
  /-- KERNEL_EVICT, R292: A kernel register write with ACT 2 evicts a kernel. -/
  | kernelEvict
  /-- GRAPH_SUBMIT, R327: A GSUBMIT write admits a graph into the context in CSEL. -/
  | graphSubmit
  /-- KVPOOL_WRITE, R371: A KVPOOL write sets the key-value pool when no handle is live and the pages qualify. -/
  | kvpoolWrite
  /-- QP_CREATE, R403: A QPCMD create takes the lowest free queue pair and moves it to its state. -/
  | qpCreate
  /-- QP_MODIFY, R403: A QPCMD modify moves an owned queue pair to a new state. -/
  | qpModify
  /-- QP_DESTROY, R403: A QPCMD destroy frees a queue pair and flushes its work. -/
  | qpDestroy
  /-- QP_DOORBELL_SEND, R403: A QPDOOR write gives a queue pair's new send producer index. -/
  | qpDoorbellSend
  /-- QP_DOORBELL_RECV, R403: A QPDOOR write with RQ gives the receive producer index. -/
  | qpDoorbellRecv
  /-- WORK_REQUEST, R403: The next work request of a send ring is taken and performed. -/
  | workRequest
  /-- WORK_REQUEST_COMPLETE, R403: A work request ends and its completion is written, or the pair enters Error. -/
  | workRequestComplete
  /-- RDMA_WRITE_IN, R403: An incoming RDMA write is checked and performed through the owner's translation. -/
  | rdmaWriteIn
  /-- RDMA_READ_IN, R403: An incoming RDMA read is checked and answered. -/
  | rdmaReadIn
  /-- RDMA_ATOMIC_IN, R403: An incoming 8-byte compare-swap or fetch-add is performed at its home. -/
  | rdmaAtomicIn
  /-- SEND_IN, R403: An incoming SEND takes the next posted receive entry or is answered with RNR. -/
  | sendIn
  /-- DEBUG_RESUME, R426: A DBGCMD resume lets a stopped thread continue. -/
  | debugResume
  /-- DEBUG_STEP, R426: A DBGCMD step lets a stopped thread issue exactly one instruction. -/
  | debugStep
  /-- DEBUG_STOP, R426: A DBGCMD stop stops the target thread before decode. -/
  | debugStop
  /-- STEP_STOP, R426: A stepped instruction's work has drained and the thread stops with CAUSE 3. -/
  | stepStop
  /-- LOG_ENABLE, R429: Setting EN in LOGCTL initialises each core's ring and starts logging. -/
  | logEnable
  /-- LOG_DELTA_OVERFLOW, R428: 65,535 cycles without a record write a filler record. -/
  | logDeltaOverflow
  /-- SAMPLE_ENABLE, R430: A write to SMPCTL enables PC sampling. -/
  | sampleEnable
  /-- PC_SAMPLE, R430: At each sampling interval a core writes a sample record. -/
  | pcSample
  /-- RAS_CLEAR, R420: A privileged write of 1 clears a RAS count field. -/
  | rasClear
  /-- SYSTEM_REGISTER_WRITE, R302: A write to a system register with no behaviour of its own. -/
  | systemRegisterWrite
  /-- HOST_REGISTER_READ32, R405: A 4-byte host read of a register latches or returns a half. -/
  | hostRegisterRead32
  /-- HOST_REQUEST, R207: A request through the host port is performed at its home in PCIe order. -/
  | hostRequest
  /-- SCRUB_PASS, R419: Patrol scrubbing reads, corrects or poisons each word on its schedule. -/
  | scrubPass
  /-- CONTROL_FAULT, R418: A parity error or watchdog expiry takes a control unit out of service. -/
  | controlFault
  /-- PTP_MESSAGE, R404: A received IEEE 1588 message steers the waymark clock by slewing. -/
  | ptpMessage
  /-- LINK_TRAINING_END, R394: Training ends with a link up, degraded or down. -/
  | linkTrainingEnd
  /-- LANE_FAILURE, R394: A lane fails and the link drops to degraded. -/
  | laneFailure
  /-- LINK_LOSS, R394: The link is lost and goes down. -/
  | linkLoss
  /-- LINK_RETRAIN, R394: Every 10 ms a down link starts training again. -/
  | linkRetrain
  /-- FLIT_RECEIVE, R397: A flit's fourth beat arrives and its CRC is checked, triggering replay on failure. -/
  | flitReceive
  /-- PACKET_REQUEST, R399: A request packet reaches its home, performed once or answered from the reply cache. -/
  | packetRequest
  /-- PACKET_REPLY, R399: A reply reaches its source and completes the request. -/
  | packetReply
  /-- REPLY_ACK, R399: A source's acknowledgement frees a reply-cache entry. -/
  | replyAck
  /-- RETRANSMIT_TIMEOUT, R399: After 100 us a request is retransmitted, or after 8 tries ends unreachable. -/
  | retransmitTimeout
  /-- POWER_ON_RESET, R433: Reset starts the boot stages of die 0. -/
  | powerOnReset
  /-- RECOVERY_FIRMWARE, R435: Recovery doorbell value 1 submits a firmware image for verification. -/
  | recoveryFirmware
  /-- RECOVERY_CONFIG, R435: Recovery doorbell value 2 submits a configuration record for verification. -/
  | recoveryConfig
  /-- RECOVERY_VERIFY_END, R435: Verification of a recovery payload ends, accepting or refusing it. -/
  | recoveryVerifyEnd
  /-- GET_VERSION, R438: SPDM GET_VERSION request. -/
  | getVersion
  /-- GET_CAPABILITIES, R438: SPDM GET_CAPABILITIES request. -/
  | getCapabilities
  /-- NEGOTIATE_ALGORITHMS, R438: SPDM NEGOTIATE_ALGORITHMS request, P-384 and SHA-384 only. -/
  | negotiateAlgorithms
  /-- GET_CERTIFICATE, R438: SPDM GET_CERTIFICATE request. -/
  | getCertificate
  /-- CHALLENGE, R438: SPDM CHALLENGE request. -/
  | challenge
  /-- GET_MEASUREMENTS, R438: SPDM GET_MEASUREMENTS request for the image, record and version digests. -/
  | getMeasurements
  /-- PAGE_WALK_END, R365: A page walk of a translation unit ends, filling the TLB or faulting, and releases the masters waiting on it. -/
  | pageWalkEnd
  /-- CURRENT_BLOCK_END, R224: A tile operation stopped by abandonment or suspension reaches the end of its current block and is discarded or left at its queue's head. -/
  | currentBlockEnd
  /-- DEGRADED_RETRAIN, R394: A retrain of a degraded link restores every lane and the link returns to up. -/
  | degradedRetrain
  /-- QP_RETRY_TIMEOUT, R403: A RoCEv2 request of a queue pair goes unacknowledged, is retried, and on exhausting its retries sends the pair to Error. -/
  | qpRetryTimeout
deriving DecidableEq, Repr

end Sys2Proof
end

