-- ==== Sys2Proof/Machine/Thread.lean ====
section
/-!
DEFINITION. The state of one thread and of one thread slot (spec/04 R58, R59, R65; spec/02 R30; spec/08 R161, R188;
spec/17 R301, R306, R314).
-/
namespace Sys2Proof.Machine

/-- A q register: 128 bits, the kind bit and the format tag (R65). -/
structure QReg where
  bits : Word128
  cap : Bool
  tag : BitVec 5
deriving DecidableEq, Repr

/-- Data zero with tag raw. -/
def QReg.zero : QReg := ⟨0, false, 0⟩

/-- One entry of a channel (R188). -/
abbrev Entry := QReg

/-- What an access does at its home (08 R164 to R181). -/
inductive AccessOp where
  /-- `ld`, `lds`: read the bytes of the active nibbles. -/
  | load
  /-- `st`, `sts`: write the active nibbles. -/
  | store
  | ldfe | stef | ldff
  /-- `fefill`: set the bits of the words of the active lanes to full, or to empty. -/
  | fefill (empty : Bool)
  | atom (op : Nat)
  /-- `cas`, with the predicate pair it writes. -/
  | cas (pair : Option Nat)
  | ldcap | stcap | cclr
  /-- `wake` (23 R388), with the predicate pair it writes. -/
  | wake (pair : Nat)
deriving DecidableEq, Repr

/-- An access after its checks and its translation: what is done, where, and with what. -/
structure Access where
  op : AccessOp
  /-- the physical address as a key of memory. -/
  key : Nat
  /-- the address as the program formed it, for the fault address. -/
  va : Word64
  /-- bytes accessed from `key`. -/
  size : Nat
  /-- the active nibbles of those bytes. -/
  mask : Word32
  /-- the data stored, or the operand of an atomic; for `stcap` with its kind. -/
  data : QReg
  /-- the value `cas` compares with. -/
  expected : Nat
  /-- the register written with the result. -/
  dest : Option (BitVec 5)
  /-- format code of the access: the tag of the result. -/
  ty : BitVec 5
  /-- the PC of its instruction. -/
  pc : Word64
  /-- SPACE of its capability, and in SPACE 3 the base and size of what its translation maps. -/
  space : Nat
  page : Nat × Nat
  /-- the translation it was made through has been dropped (22 R366, R367). -/
  stale : Bool
deriving DecidableEq, Repr

/-- A relaxed access that has issued and has not been performed (R161), with its ordering (R162). -/
structure Relaxed where
  acc : Access
  acq : Bool
  rel : Bool
  scope : Nat
  /-- the number of its request to a peer package, 0 while none has been sent. -/
  req : Nat
  /-- what the lower half read, where that half alone has been performed (R163). -/
  low : Option Nat
deriving DecidableEq, Repr

/-- The error of a relaxed access, kept until an instruction of R177 takes it. -/
structure PendingError where
  /-- counted in st, not in ld. -/
  inSt : Bool
  cause : Nat
  key : Nat
  va : Word64
  pc : Word64
deriving DecidableEq, Repr

/-- What a thread waits for (R30 Table 1). In every wait but `memory` the PC stands at the instruction, which `e` gives
where it completes without being issued again; in a retry wait the thread issues it again once the condition holds. -/
inductive Wait where
  | none
  /-- an ordinary access that has been performed, its result written; ready when ACCESS_PERFORMED returns it. -/
  | memory
  /-- the upper 8 bytes of a 16-byte access, performed later (R163); `low` is what the lower half read. -/
  | upperHalf (acc : Access) (e : Fields) (low : Nat)
  /-- an access to host memory or to a peer package, performed when it returns. -/
  | remote (acc : Access) (e : Fields)
  /-- retry: no outstanding relaxed access must be performed before this one (R161, R162). -/
  | behind (acc : Access) (rel : Bool) (scope : Nat)
  /-- retry: no relaxed access with a home in the scope is outstanding; `all` also waits for cp and tl. -/
  | drain (scope : Nat) (all : Bool)
  /-- retry: ld, st, cp and tl at or below their limits. -/
  | counters (limits : Word32)
  /-- retry: the page walk for the address in a grove has ended, or one of the grove's 256 (22 R365). -/
  | walk (grove va : Nat)
  | fullEmpty (acc : Access) (e : Fields)
  | recv (e : Fields)
  | send (entry : Entry) (lcore : Option Nat) (slot : Nat) (e : Fields)
  | notice (e : Fields)
  /-- an arrival at barrier `bar` of crew `crew`, in `phase`: `kind` of 0 cbar, 1 cwait, 2 cvote, 3 cred. -/
  | crew (crew bar phase kind : Nat) (e : Fields)
  /-- retry: the member's held arrival on the barrier is taken first (20 R352). -/
  | crewFull (crew bar : Nat)
  /-- an arrival held by the barrier. -/
  | crewHeld (crew bar kind : Nat) (e : Fields)
  /-- retry: the move in progress of the page of an address (22 R367). -/
  | pageMove (va : Nat)
  /-- retry: the remap of a logical core that is being transferred (17 R320). -/
  | remap (lcore : Nat)
  /-- the walks and accesses made through translations that a `tlbi` has dropped (22 R366): every one, those of a context,
  or those that map a byte of a page. -/
  | tlb (kind ctx va size : Nat) (e : Fields)
  /-- the copy of kernel code (16 R293): ready when it is whole. -/
  | kernel
  /-- a peer package's answer for an operation of a crew: 0 `cbar`, 1 `cwait`, 2 `cvote`, 3 `cred`, 4 `carr`, 5 `cjoin`,
  6 `cfree`, 7 `cstat`, 8 `cfind`, 9 `cleave`. -/
  | peer (kind : Nat) (e : Fields)
deriving DecidableEq, Repr

/-- A stop (R305, R306): KIND, CAUSE, DETAIL and INFO of its message. -/
structure Stop where
  kind : Nat
  cause : Nat
  detail : Nat
  info : Word32
deriving DecidableEq, Repr

/-- Why a pre-emption request stands (R314). -/
inductive Request where
  | suspend | preempt | migrate | gang | abandon
deriving DecidableEq, Repr

/-- A 64-byte block of code in a fetch buffer (R114), and which of its 8-byte words met an uncorrectable error (R116). -/
structure CodeBlock where
  va : Nat
  bytes : List Byte
  bad : List Nat
deriving DecidableEq, Repr

/-- A thread (R58 Table 1) with what the machine keeps for it. -/
structure Thread where
  gtid : Word64
  q : Vector QReg 32
  p : Vector Word32 8
  gf : BitVec 16
  cp : Nat
  tl : Nat
  pc : Word64
  /-- the stochastic generator g (R89). -/
  gen : Word64
  /-- the safe-point distance D (R155). -/
  dist : Nat
  lcore : Nat
  slice : Nat
  pair : Bool
  trig : Bool
  /-- outstanding relaxed accesses, oldest first; ld and st count them. -/
  rx : List Relaxed
  /-- errors of relaxed accesses, in the order in which they were met (R177). -/
  pendErr : List PendingError
  wait : Wait
  stopped : Option Stop
  frozen : Bool
  migrating : Bool
  /-- the registers and predicates that are live in the request that made it migrating (17 R314, 18 R330). -/
  liveQ : Nat
  liveP : Nat
  halted : Bool
  /-- the instruction at the PC has been counted and is issued again. -/
  reissue : Bool
  /-- resumed at a breakpoint: the next issue is not matched (27 R424). -/
  skipBp : Bool
  /-- stepping: 1 the instruction is to issue, 2 it has issued (27 R426). -/
  stepping : Nat
  /-- what the stepped instruction started: its relaxed access, or its operation by queue and number (27 R426). -/
  stepAcc : Option Relaxed
  stepOp : Option (Nat × Nat)
  /-- a debug stop is wanted at the next offered turn. -/
  debugStop : Bool
  /-- forfeited its last turn: it holds priority (R76). -/
  prio : Bool
  /-- its last turn was forfeited. -/
  lost : Bool
  /-- the cycle of its core from which it is in rotation: a checkpoint holds it until then (17 R321). -/
  held : Nat
  /-- the checkpoint before the instruction at the PC has been taken (17 R321). -/
  marked : Bool
  request : Option Request
  fbuf : List CodeBlock
  /-- the previous issue was a special-function, div or rem instruction (R29). -/
  lastSfu : Bool
  /-- where the lockstep pair last met a mismatch (17 R321). -/
  mismatch : Option Word64
  /-- a stop that it takes at its next boundary: KIND and CAUSE (20 R352). -/
  due : Option (Nat × Nat)
  /-- restored in a wait of a crew before the copy of its kernel was whole, for which it then waits (16 R293). -/
  copying : Bool
  /-- the page, by its number, that the walk it waited for has found not present (22 R365). -/
  absent : Option Nat
deriving DecidableEq, Repr

/-- Outstanding relaxed loads. -/
def Thread.ld (t : Thread) : Nat := (t.rx.filter fun r => r.acc.op == .load).length

/-- Outstanding relaxed stores and atomics. -/
def Thread.st (t : Thread) : Nat := (t.rx.filter fun r => r.acc.op != .load).length

/-- The context of a thread, bits 63:52 of its identifier (R36). -/
def Thread.ctx (t : Thread) : Nat := t.gtid.toNat / 2 ^ 52

/-- A thread slot. -/
structure Slot where
  owner : Nat
  pin : Bool
  /-- owner and PIN that `slotw` gave while the slot was occupied (R325). -/
  deferred : Option (Nat × Bool)
  /-- masked by `govset` (R326). -/
  masked : Bool
  /-- masked for heat (R319). -/
  thermal : Bool
  /-- what is left of the microsecond's budget, pJ (26 R409). -/
  quota : Int
  /-- the deficit carried over, pJ (26 R409). -/
  deficit : Nat
  chan : List Entry
  thread : Option Thread
deriving DecidableEq, Repr

/-- A slot that nothing has used. -/
def Slot.empty : Slot := ⟨0, false, none, false, false, 0, 0, [], none⟩

end Sys2Proof.Machine
end

