-- ==== Sys2Proof/Machine/Context.lean ====
section
/-!
DEFINITION. The state of one context (spec/17 R295 to R317, spec/16 R289 to R294, spec/13 R262, R263, spec/22 R371,
spec/27 R431).
-/
namespace Sys2Proof.Machine

/-- The states of R298 Table 2; running and runnable are told apart by the work in progress. -/
inductive CtxMode where
  | none | created | active | suspended | frozen | tornDown
deriving DecidableEq, Repr

/-- A stop of a context that has begun and not ended (R299). -/
inductive Stopping where
  | suspend | freeze
deriving DecidableEq, Repr

/-- A handler message: the two entries of R308. -/
structure Message where
  e0 : Word128
  e1 : Word128
deriving DecidableEq, Repr

/-- A saved thread (R315): where its frame is, and what the D4 keeps with it. -/
structure Saved where
  gtid : Word64
  /-- its PC (16 R292). -/
  pc : Word64
  frame : Nat
  lcore : Nat
  slot : Nat
  die : Nat
  grove : Nat
  core : Nat
  cp : Nat
  tl : Nat
  /-- stepping, where the save was made before the step stop (27 R426, log 33). -/
  stepping : Nat
  frozen : Bool
  /-- a stop kept through the save. -/
  stopped : Option Stop
  /-- errors of relaxed accesses that no trap has taken (08 R177). -/
  pendErr : List PendingError
  /-- an arrival that was counted or held (19 R349): the wait it returns to. -/
  crewWait : Option Wait
  /-- a stop that it takes when it has been restored (20 R352). -/
  due : Option (Nat × Nat)
  /-- its first instruction passes by breakpoints (27 R424). -/
  skipBp : Bool
deriving DecidableEq, Repr

/-- An entry of the spill queue of a die (R317). -/
structure Spill where
  gtid : Word64
  entry : Entry
deriving DecidableEq, Repr

/-- A notice (13 R263): two entries of 128 bits. -/
structure Notice where
  lo : Word128
  hi : Word128
deriving DecidableEq, Repr

/-- A registered kernel (16 R289 to R292). -/
structure Kernel where
  image : Nat
  code : Nat
  size : Nat
  entries : List Nat
  /-- registered, or evicted and still in use; the cycle of the evict (16 R294). -/
  evicted : Bool
  evictedAt : Nat
deriving DecidableEq, Repr

/-- A pool page (22 R371): its reference count and whether it is sticky. -/
structure PoolPage where
  count : Nat
  sticky : Bool
deriving DecidableEq, Repr

/-- A performance counter (27 R431). -/
structure Counter where
  count : Nat
  event : Nat
  run : Bool
deriving DecidableEq, Repr

/-- The registers that a context record loads (R296 Table 1). -/
structure CtxRegs where
  ptroot : Nat
  save : Nat
  nframe : Nat
  kappa : Nat
  seed : Nat
  handler : Nat
  weight : Nat
  tracks : Nat
  limit : Nat
deriving DecidableEq, Repr

def CtxRegs.zero : CtxRegs :=
  { ptroot := 0, save := 0, nframe := 0, kappa := 0, seed := 0, handler := 0, weight := 0, tracks := 0, limit := 0 }

/-- What the Landing of a die works with: KAPPA, SHARE and LIMIT as they stood at its last recomputation (R302). -/
structure EffRegs where
  kappa : Nat
  weight : Nat
  tracks : Nat
  limit : Nat
deriving DecidableEq, Repr

def EffRegs.zero : EffRegs := { kappa := 0, weight := 0, tracks := 0, limit := 0 }

/-- The registers as they are now. -/
def CtxRegs.eff (r : CtxRegs) : EffRegs := { kappa := r.kappa, weight := r.weight, tracks := r.tracks, limit := r.limit }

/-- A context. -/
structure Ctx where
  mode : CtxMode
  sys : Bool
  stopping : Option Stopping
  regs : CtxRegs
  /-- what each die's Landing works with, by die. -/
  eff : Store EffRegs
  /-- logical core number to physical core (02 R35). -/
  remap : Store (Option Nat)
  /-- save frames in use, and the slots whose saves wait for one, in order (R315). -/
  frames : NatSet
  noFrame : List Nat
  saved : List Saved
  /-- the spill queues, by die. -/
  spill : Store (List Spill)
  messages : List Message
  value : Nat
  /-- energy account, pJ. -/
  energy : Nat
  notices : List Notice
  dropped : Nat
  /-- threads waiting for a notice, in order of arrival. -/
  noticeWait : List Nat
  serial : Nat
  kernels : Store (Option Kernel)
  kresult : Nat
  /-- the image that the kernel register last named. -/
  knamed : Nat
  gtag : Nat
  gresult : Nat
  poolBase : Nat
  poolCount : Nat
  pool : Store PoolPage
  stickyEvents : Nat
  counters : Store Counter
deriving DecidableEq, Repr

/-- A context that does not exist. -/
def Ctx.none : Ctx :=
  { mode := .none, sys := false, stopping := Option.none, regs := CtxRegs.zero, eff := [], remap := [], frames := []
    noFrame := [], saved := [], spill := [], messages := [], value := 0, energy := 0, notices := []
    dropped := 0, noticeWait := [], serial := 0, kernels := [], kresult := 0, knamed := 0, gtag := 0, gresult := 0
    poolBase := 0, poolCount := 0, pool := [], stickyEvents := 0, counters := [] }

end Sys2Proof.Machine
end

