-- ==== Sys2Proof/Machine/CrewState.lean ====
section
/-!
DEFINITION. The state of a crew and of its barriers (spec/19 R331 to R346, spec/20 R350 to R353).
-/
namespace Sys2Proof.Machine

/-- What a phase collects (R342): plain arrivals, a vote mode (0 any, 1 all, 2 cnt), a reduction with its type. -/
inductive PhaseKind where
  | plain
  | vote (mode : Nat)
  | red (op ty : Nat)
deriving DecidableEq, Repr

/-- A member is named by its package and its global task identifier: pkg · 2^64 + gtid. -/
abbrev MemberId := Nat

/-- An arrival with its contribution (R344: an inactive lane carries the identity); `waits` when its thread waits for
the release. -/
structure Arrival where
  who : MemberId
  kind : PhaseKind
  value : Word128
  waits : Bool
deriving DecidableEq, Repr

/-- The result of a released phase, held until every waiting member has taken it (R342, R353). -/
structure PhaseResult where
  phase : Nat
  damaged : Bool
  kind : PhaseKind
  value : Word128
  arrived : Nat
  takers : List MemberId
deriving DecidableEq, Repr

/-- One barrier of a crew (R350). -/
structure Barrier where
  phase : Nat
  kind : Option PhaseKind
  /-- members the open phase counts and that have not departed. -/
  counted : List MemberId
  /-- rank order when the phase opened. -/
  ranks : List MemberId
  arrivals : List Arrival
  held : List Arrival
  /-- the open phase has passed through damaged. -/
  damaged : Bool
  /-- DAMAGED of the last released phase. -/
  lastDamaged : Bool
  results : List PhaseResult
  /-- a departure has taken a counted member from the open phase, which is released once no member is awaited (20 R350). -/
  due : Bool
  /-- members on peer packages that wait by `cwait`, with their phases. -/
  awaits : List (MemberId × Nat)
deriving DecidableEq, Repr

def Barrier.idle : Barrier :=
  { phase := 0, kind := none, counted := [], ranks := [], arrivals := [], held := [], damaged := false, due := false
    lastDamaged := false, results := [], awaits := [] }

/-- How a crew came to be: by name, or with a thread task (R335, R338). -/
inductive CrewOrigin where
  | named (name : Word64)
  | implicit (gserTask : Nat)
deriving DecidableEq, Repr

/-- An entry of the crew table (R331). -/
structure Crew where
  gen : Nat
  used : Bool
  ctx : Nat
  dom : Bool
  gang : Bool
  origin : CrewOrigin
  /-- members in the order in which they joined; rank is the place as of the last boundary. -/
  members : List MemberId
  /-- ranks as of the last boundary; a departed member's place stays until the next. -/
  ranks : List MemberId
  joins : List MemberId
  leaves : List MemberId
  /-- those whose join or leave was performed in a cycle, and that cycle plus one (R340). -/
  late : List MemberId
  lateAt : Nat
  faults : Nat
  broken : Bool
  /-- the peer packages that have been told that members of other packages wait on its barriers (R348). -/
  told : NatSet
  bar0 : Barrier
  bar1 : Barrier
  bar2 : Barrier
  bar3 : Barrier
deriving DecidableEq, Repr

def Crew.free : Crew :=
  { gen := 0, used := false, ctx := 0, dom := false, gang := false, origin := .implicit 0, members := [], ranks := []
    joins := [], leaves := [], late := [], lateAt := 0, faults := 0, broken := false, told := [], bar0 := Barrier.idle, bar1 := Barrier.idle
    bar2 := Barrier.idle, bar3 := Barrier.idle }

def Crew.bar (c : Crew) (b : Nat) : Barrier :=
  match b % 4 with
  | 0 => c.bar0 | 1 => c.bar1 | 2 => c.bar2 | _ => c.bar3

def Crew.setBar (c : Crew) (b : Nat) (v : Barrier) : Crew :=
  match b % 4 with
  | 0 => { c with bar0 := v } | 1 => { c with bar1 := v } | 2 => { c with bar2 := v } | _ => { c with bar3 := v }

end Sys2Proof.Machine
end

