-- ==== Sys2Proof/Machine/Engine.lean ====
section
/-!
DEFINITION. The state of the engine queues and of a grove (spec/11 R211 to R235, spec/15 R277 to R286, spec/22 R365).
-/
namespace Sys2Proof.Machine

/-- What an entry of an engine queue is. -/
inductive EngineKind where
  /-- a tile operation, by its xop (11 R217). -/
  | tile (xop : Nat)
  /-- a copy operation, by its xop (11 R237). -/
  | copy (xop : Nat)
  /-- a join: queue codes and the number of entries that must have ended there (15 R284). -/
  | join (points : List (Nat × Nat))
deriving DecidableEq, Repr

/-- An entry of an engine queue, with its operands as they stood at issue (R213). -/
structure EngineOp where
  kind : EngineKind
  /-- the global task identifier of the issuer, or of the tile task. -/
  gtid : Word64
  /-- the operation of a tile task, which no thread counts. -/
  isTask : Bool
  ty : Nat
  mod : Nat
  imm : Nat
  d : QReg
  a : QReg
  b : QReg
  /-- the control register F of a tile operation, or the geometry. -/
  f : QReg
  /-- the completion word, when one is named. -/
  w : Option QReg
  /-- IA of `tgmm`, IX of `cpyg`. -/
  ia : QReg
  ic : QReg
  /-- the physical core of the issuer, for SPACE 0 with cursor bit 51 (R239). -/
  core : Nat
  /-- the number of the entry among those ever appended to its queue. -/
  serial : Nat
  /-- the key of the queue that holds it. -/
  queue : Nat
deriving DecidableEq, Repr

/-- The lasting part of the states of R279; active, blocked and empty follow from the entries. -/
inductive QueueMode where
  | running | halted | frozen
deriving DecidableEq, Repr

/-- A granule that a tile operation has computed and not yet written: the nibbles of `v` that `mask` names. `row` is the row that
is written when it is; `old` what the operation has accumulated into. -/
structure EngineWrite where
  row : Nat
  reg : QReg
  addr : Nat
  v : Nat
  mask : Nat
  old : Option Nat
deriving DecidableEq, Repr

/-- A row of A as it was read, with the address of its C row (R219, R226). -/
structure LoopRow where
  row : Nat
  addr : Nat
  elems : Nat
  scales : Nat
  out : Nat
deriving DecidableEq, Repr

/-- What the K loop of a block has read (R222): the panel's rows, scales and output scales, and the rows of A. `mixed` says
that A or B shares bytes with C (R221). -/
structure LoopData where
  block : Nat
  mixed : Bool
  panel : List Nat
  scales : List Nat
  outs : Nat
  rows : List LoopRow
deriving DecidableEq, Repr

/-- An access of an engine or of an Ethernet port to a peer package, by its key: its request, and once that has ended what it gave
(25 R398). -/
structure FarPart where
  key : Nat
  write : Bool
  req : Nat
  done : Bool
  ok : Bool
  value : Nat
deriving DecidableEq, Repr

/-- An engine queue (R211, R235, R279). -/
structure Queue where
  ops : List EngineOp
  appended : Nat
  /-- the cycle of the grove in which an entry was last appended, and the entries ever appended before that cycle (15 R284). -/
  appendedAt : Nat
  before : Nat
  mode : QueueMode
  /-- the unit working on the head, 0 none (R235 Table 8, R286). -/
  unit : Nat
  /-- the head has started and been stopped, or has halted: it restarts from its progress. -/
  started : Bool
  /-- a stop at the end of the current block is wanted: 1 suspension, 2 abandonment (R224). -/
  stopping : Nat
  done : Nat
  /-- ROWS of a tile queue; bytes before the progress point of a copy queue. -/
  prog : Nat
  restarts : Nat
  rrow : Nat
  /-- ROWS, RESTARTS and RROW of the last operation that completed, and its xop (R235, 12 R241). -/
  lastRows : Nat
  lastRestarts : Nat
  lastRrow : Nat
  lastXop : Nat
  eres : Bool
  edata : Bool
  exlat : Bool
  efmt : Bool
  ecap : Bool
  /-- the generator of the running operation (05 R90). -/
  gen : Word64
  /-- the head has ended with its error bit set and stays until resume or discard (R280). -/
  headEnded : Bool
  /-- recomputed blocks of the running operation met a residue mismatch once (R225). -/
  recompute : Bool
  /-- the stamp at which the head began to wait (R212). -/
  since : Nat
  /-- the row at which a stop that is wanted ends the operation (R224). -/
  stopRow : Nat
  /-- granules that the operation accumulates into, written for a row that is not whole, as they stood before: row, address and
  value (R223); of `rcsnap` the counters it has taken (R228). -/
  rowBuf : List (Nat × Nat × Nat)
  /-- the source granules as they stood when a copy that overlaps itself began, none where one could not be reached (R204), each
  with its tag bit and 0, or 1 or 2 where its first or second word held an uncorrectable error (09 R205). -/
  snap : Option (List (Option (Nat × Bool × Nat)))
  /-- offsets of the destination granules of a copy or `tzero` that have been written before the progress reaches them (09
  R202). -/
  ahead : List Nat
  /-- the K loop of the block in work. -/
  loop : Option LoopData
  /-- granules that are computed and not yet written; the row before which all are computed, or of `tzero` the bytes before
  its progress point; and the generator after each row from `prog` on. -/
  plan : List EngineWrite
  planEnd : Nat
  planGens : List Nat
  /-- all but the completion-word increment is done (R201). -/
  whole : Bool
deriving DecidableEq, Repr

def Queue.empty : Queue :=
  { ops := [], appended := 0, appendedAt := 0, before := 0, mode := .running, unit := 0, started := false, stopping := 0, done := 0, prog := 0
    restarts := 0, rrow := 0, lastRows := 0, lastRestarts := 0, lastRrow := 0, lastXop := 0, eres := false, edata := false, exlat := false, efmt := false, ecap := false, gen := 0
    headEnded := false, recompute := false, since := 0, stopRow := 0, rowBuf := [], snap := none
    ahead := [], loop := none, plan := [], planEnd := 0, planGens := [], whole := false }

/-- A translation held by a grove's translation unit (22 R365). -/
structure Translation where
  ctx : Nat
  /-- the first address of the page and its size. -/
  base : Nat
  size : Nat
  /-- the leaf entry (22 R362). -/
  leaf : Nat
deriving DecidableEq, Repr

/-- A page walk that runs in a grove (22 R365). -/
structure Walking where
  ctx : Nat
  va : Nat
  /-- what the entries gave when it began. -/
  found : Option Translation
  /-- it has met an uncorrectable error. -/
  bad : Bool
  /-- a `tlbi` or a page move has dropped what it read (22 R366). -/
  stale : Bool
deriving DecidableEq, Repr

/-- A kernel held in a grove's kernel area (16 R291). -/
structure Resident where
  ctx : Nat
  kernel : Nat
  /-- bytes taken in the area. -/
  size : Nat
  /-- its 8-byte words as they were copied, and whether each met an error. -/
  code : List (Nat × Bool)
  /-- the copy is whole; until then, the skidder that makes it, 0 while it waits for one. -/
  whole : Bool
  skidder : Nat
  /-- instant of the last placement. -/
  used : Nat
deriving DecidableEq, Repr

/-- A grove. -/
structure Grove where
  /-- the 64 route counters (11 R227). -/
  routes : Store Nat
  tlb : List Translation
  walks : List Walking
  kernels : List Resident
  /-- what is left of the engines' budget, pJ (26 R409, R410). -/
  budget : Int
  /-- charges of the units in the current microsecond and in those before it, newest first (R409). -/
  charged : Store Nat
  recent : Store (List Nat)
  /-- engines with a ballast slice in progress (26 R414). -/
  ballast : List Nat
  /-- units out of service after a control fault (26 R418). -/
  dead : List Nat
  /-- the banks of grove memory: the first of the grove's cycles in which each may serve an access, and the requester that then
  comes first in its rotating order (01 R15). -/
  banks : Store (Nat × Nat)
deriving DecidableEq, Repr

def Grove.empty : Grove :=
  { routes := [], tlb := [], walks := [], kernels := [], budget := 0, charged := [], recent := [], ballast := [], dead := [], banks := [] }

/-- The table key of queue `code` of a context in a grove. -/
def queueKey (ctx grove code : Nat) : Nat := (ctx * 192 + grove) * 16 + code

end Sys2Proof.Machine
end

