-- ==== Sys2Proof/Machine/LandingState.lean ====
section
/-!
DEFINITION. The state of the Landings: admitted graphs and their tasks (spec/13 R242 to R259, spec/02 R38, R39).
-/
namespace Sys2Proof.Machine

/-- A value curve (R246). -/
structure Curve where
  v0 : Nat
  t1 : Nat
  v1 : Nat
  t2 : Nat
  t3 : Nat
deriving DecidableEq, Repr

/-- The task states of R250 Table 9. -/
inductive TaskState where
  | blocked | ready | placed | done | culled | discarded
deriving DecidableEq, Repr

/-- Bytes 16 to 63 of a tile task (R245 Table 4). -/
structure TileFields where
  ops : Nat
  xop : Nat
  mod : Nat
  ty : Nat
  imm : Nat
  ctrl : Nat
  fb : Nat
deriving DecidableEq, Repr

def TileFields.none : TileFields := { ops := 0, xop := 0, mod := 0, ty := 0, imm := 0, ctrl := 0, fb := 0 }

/-- A task of an admitted graph. -/
structure GTask where
  tile : Bool
  /-- 0, or m+1 for the milestone with curve m. -/
  mstone : Nat
  cost : Nat
  energy : Nat
  launch : Nat
  fields : TileFields
  state : TaskState
  /-- predecessors that are neither done nor triggered. -/
  preds : Nat
  /-- track, graph time, width and lockstep of its placement; threads placed so far. -/
  track : Nat
  start : Nat
  width : Nat
  pair : Bool
  entry : Nat
  next : Nat
  /-- threads that have triggered or exited, and threads whose slots have emptied after exit. -/
  handed : Nat
  exited : Nat
  /-- its successors have been released by its triggers (R39). -/
  released : Bool
  crew : Option Nat
  /-- its operation ended in error or was discarded (R259). -/
  failed : Bool
  /-- delay loss and key of the last recomputation. -/
  loss : Nat
  key : Nat
deriving DecidableEq, Repr

/-- The wake milestone of a continuation (23 R384). -/
structure WakeMile where
  gtid : Word64
  curve : Curve
  /-- graph time of the wake. -/
  at_ : Nat
  cost : Nat
  energy : Nat
  /-- track and graph time of its placement. -/
  placed : Option (Nat × Nat)
  dead : Bool
deriving DecidableEq, Repr

inductive GraphState where
  | running | suspended | abandoning
deriving DecidableEq, Repr

/-- An admitted graph. -/
structure Graph where
  ctx : Nat
  ser : Nat
  die : Nat
  filler : Bool
  donenote : Bool
  tag : Nat
  /-- admission instant, ns. -/
  admitted : Nat
  tasks : List GTask
  edges : List (Nat × Nat)
  curves : List Curve
  status : Nat
  state : GraphState
  reason : Nat
  /-- `gabort` on a suspended graph (R272). -/
  abort : Bool
  mdone : Nat
  mdead : Nat
  earned : Nat
  /-- energy spent, pJ. -/
  spent : Nat
  /-- R(g) and J(g) of the last recomputation. -/
  rval : Nat
  jrem : Nat
  wakes : List WakeMile
deriving DecidableEq, Repr

def Graph.none : Graph :=
  { ctx := 0, ser := 0, die := 0, filler := false, donenote := false, tag := 0, admitted := 0, tasks := [], edges := []
    curves := [], status := 0, state := .running, reason := 0, abort := false, mdone := 0, mdead := 0, earned := 0
    spent := 0, rval := 0, jrem := 0, wakes := [] }

end Sys2Proof.Machine
end

