-- ==== Sys2Proof/Machine/LayByState.lean ====
section
/-!
DEFINITION. The state of the lay-by: cache handles, page moves and parked continuations (spec/22 R367, R370, spec/23 R374
to R384).
-/
namespace Sys2Proof.Machine

/-- An entry of the handle table (22 R370). `blocks` holds the page numbers of its chain. -/
structure Handle where
  gen : Nat
  live : Bool
  held : Bool
  tenant : Nat
  blocks : List Nat
deriving DecidableEq, Repr

def Handle.free : Handle := { gen := 0, live := false, held := false, tenant := 0, blocks := [] }

/-- A page move (22 R367): the page of a context, from where to where, and the continuation it serves. -/
structure PageMove where
  ctx : Nat
  va : Nat
  src : Nat
  dst : Nat
  /-- the wake word, the frame and the thread of the continuation, and the die charged where its graph is gone. -/
  word : Nat
  frame : Nat
  gtid : Word64
  die : Nat
  /-- where the first entry of the page's group stands, and what it held when the move began (R368). -/
  leaf : Nat
  entry : Nat
  /-- software has cleared M since, and has dropped the page's translations then (R368). -/
  obeyed : Bool
deriving DecidableEq, Repr

inductive ContState where
  | parking | parked | stage1 | ready | stage2
deriving DecidableEq, Repr

/-- A continuation (23 R374). -/
structure Continuation where
  /-- the key of its wake word. -/
  word : Nat
  ctx : Nat
  gtid : Word64
  frame : Nat
  handle : Option Nat
  /-- the aging timers, µs; none for never. -/
  thbm : Option Nat
  tcxl : Option Nat
  w : Nat
  curve : Option Curve
  cost : Nat
  energy : Nat
  state : ContState
  armed : Bool
  /-- the wake value, once a wake write has been taken. -/
  value : Option Nat
  /-- from when IDLE counts, and when a timer is due, ns. -/
  since : Nat
  dueHbm : Option Nat
  dueCxl : Option Nat
  tier : Nat
  /-- page numbers to promote, in order; and to demote, with the level they go to. -/
  up : List Nat
  down : List Nat
  downTgt : Nat
  /-- the promotions are those of an `lpro`. -/
  pro : Bool
  /-- the promotion count of the stage, for the stack due. -/
  turn : Nat
  die : Nat
  core : Nat
  lcore : Nat
  slot : Nat
  /-- the register and pair written at restore. -/
  d : BitVec 5
  pk : Nat
  /-- the thread was stepping (27 R427). -/
  stepped : Bool
  /-- key of its task, from the end of stage 1. -/
  key : Nat
  /-- the PC at which it goes on (16 R292). -/
  pc : Word64
  /-- a stop that the thread takes when it has been restored (20 R352). -/
  due : Option (Nat × Nat)
deriving DecidableEq, Repr

end Sys2Proof.Machine
end

