-- ==== Sys2Proof/Machine/PackageState.lean ====
section
/-!
DEFINITION. The state of the package outside its groves: reliability counts, power, links and their requests, queue pairs,
debug and start-up (spec/25 R394 to R403, spec/26 R405 to R420, spec/27 R422 to R430, spec/28 R433 to R439).
-/
namespace Sys2Proof.Machine

/-- RAS, system register 0x0078 (26 R420). -/
structure Ras where
  cesram : Nat
  cehbm : Nat
  ue : Nat
  resid : Nat
  lock : Nat
  ctrl : Nat
deriving DecidableEq, Repr

def Ras.zero : Ras := { cesram := 0, cehbm := 0, ue := 0, resid := 0, lock := 0, ctrl := 0 }

/-- A count of `w` bits that saturates. -/
def satInc (w n : Nat) : Nat := if n + 1 < 2 ^ w then n + 1 else 2 ^ w - 1

/-! ## Cores -/

/-- The turn a core offered last, for the PC sampler (27 R430 Table 7). -/
structure IssueNote where
  slot : Nat
  gtid : Word64
  pc : Word64
  flags : Nat
deriving DecidableEq, Repr

/-- The state of one core beside its slots. -/
structure CoreState where
  /-- temperature sensor, 1/16 °C (17 R303). -/
  temp : Nat
  /-- charges of the current microsecond, pJ, and of the microseconds before it, newest first, at most 1,000. -/
  charged : Nat
  recent : List Nat
  /-- out of service after a control fault (26 R418). -/
  dead : Bool
  /-- the first of the core's cycles whose turn has not been taken (02 R27). -/
  taken : Nat
  note : IssueNote
  /-- the core's cycle at its last log record, and the records written since enable (27 R428, R429). -/
  logCycle : Nat
  logCount : Nat
  /-- records have been dropped since the last one (R429). -/
  logLost : Bool
  /-- changes of the present cycle, by slot: what a record of each says beside DELTA (R428); and the records that die memory has
  not taken, oldest first (R429). -/
  logNow : List (Nat × Nat)
  logHeld : List Nat
  /-- the first multiple of INTERVAL since enable that has not been sampled (R430). -/
  sampled : Nat
  /-- the first of the core's rotations at whose boundary no slot has passed to another owner yet (17 R301). -/
  shared : Nat
deriving DecidableEq, Repr

def CoreState.idle : CoreState :=
  { temp := 0, charged := 0, recent := [], dead := false, taken := 0, note := ⟨0, 0, 0, 1⟩, logCycle := 0, logCount := 0, logLost := false, logNow := [], logHeld := [], sampled := 0
    shared := 0 }

/-! ## Power (26 R405 to R416, R440) -/

structure Power where
  /-- board limit and ramp limit, mW; parameter 3 of `govset`. -/
  limit : Nat
  ramp : Nat
  fillerOk : Bool
  ballastOk : Bool
  /-- static power of each die by the configuration record, mW. -/
  fixed : List Nat
  /-- correction k, 4.12 fixed point. -/
  k : Nat
  /-- package target of the current window, mW; the parts of the dies. -/
  target : Nat
  parts : List Nat
  /-- the estimate of the last window that closed. -/
  estimate : Nat
  misses : Nat
  ballast : Bool
  filler : Bool
  held : Bool
  /-- the target stands above the demand of the current window, so that load is asked for. -/
  asked : Bool
  /-- energy accumulators, pJ: dies 0 to 3, the package, ballast. -/
  die : List Nat
  pkg : Nat
  ballastPj : Nat
  /-- charges of the current window but for static power: all, filler graphs, ballast; `pkg` at its start. -/
  window : Nat
  windowFiller : Nat
  windowBallast : Nat
  windowStart : Nat
  /-- the record's number, and its ring: where (0 none, 1 host memory, 2 RDMA), base, log₂ of its size, and for RDMA the QPN of
  the pair of context 0 on the port of die 0, and the remote key. -/
  seq : Nat
  produced : Nat
  ringKind : Nat
  ringBase : Nat
  ringLog : Nat
  ringQpn : Nat
  ringKey : Nat
  /-- records emitted that the ring took, newest first. -/
  records : List Nat
deriving DecidableEq, Repr

def Power.reset : Power :=
  { limit := 0, ramp := 0, fillerOk := false, ballastOk := false, fixed := [0, 0, 0, 0], k := 0x1000, target := 0, parts := [0, 0, 0, 0]
    estimate := 0, misses := 0, ballast := false, filler := false, held := false, asked := false, die := [0, 0, 0, 0], pkg := 0
    ballastPj := 0, window := 0, windowFiller := 0, windowBallast := 0, windowStart := 0, seq := 0, produced := 0, ringKind := 0
    ringBase := 0, ringLog := 0, ringQpn := 0, ringKey := 0, records := [] }

/-! ## Requests beyond the package and links -/

/-- What a request from a peer package asks of its home (25 R398 to R400). -/
inductive PeerOp where
  | access (a : Access)
  /-- an arrival of a member at a barrier, with its contribution; `h` is the cursor of the crew handle. -/
  | arrive (h bar : Nat) (kind : PhaseKind) (value : Word128) (who : MemberId) (waits : Bool)
  | join (h : Nat) (who : MemberId)
  | leave (h : Nat) (who : MemberId)
  | stat (h : Nat) (who : MemberId)
  | free (h : Nat)
  | find (ctx name : Nat)
  /-- a `cwait` for a phase, or for the open one. -/
  | await (h bar : Nat) (phase : Option Nat) (who : MemberId)
  /-- a member departs from the crews of this home (19 R341). -/
  | depart (who : MemberId) (fault : Bool)
  /-- from the home of a crew, by its entry: the release of a phase. -/
  | release (crew bar : Nat) (r : PhaseResult)
  /-- from the home of a crew, by its entry: a held arrival of a member is not counted, for a crew-broken cause: it has
  another kind than its phase (20 R352), or its member has left. -/
  | odd (crew bar : Nat) (who : MemberId) (cause : Nat)
  /-- from the home of a gang crew: it is broken, and the members that wait on its barriers stop (19 R346). -/
  | broken (crew : Nat)
  /-- from the home of a crew: a member has left it, or its join has been cancelled. -/
  | left (crew : Nat) (who : MemberId)
  /-- from the home of a crew: a boundary has admitted a member, of a gang crew or not. -/
  | joined (crew : Nat) (who : MemberId) (gang : Bool)
  /-- from the home of a crew without GANG: members of other packages wait on its barriers, or no longer do (19 R348). -/
  | waits (crew : Nat) (now : Bool)
  /-- a pre-emption sent to a member of a gang crew; and from the package of the member `who` to the home, which spreads it (19
  R347). -/
  | preempt (gtid : Word64)
  | gang (crew : Nat) (who : MemberId)
  /-- the full/empty access that the source sent with SEQ `seq` is withdrawn, where it still waits (08 R170). -/
  | withdraw (seq : Nat)
  /-- a block of code, for a fetch buffer (06 R114). -/
  | block (key : Nat)
deriving DecidableEq, Repr

/-- A thread of this package, by name, that has joined the crew of an entry of a peer package: whether a boundary has admitted it,
whether the crew is broken, and whether a member of another package waits on its barriers. -/
structure FarCrew where
  who : MemberId
  pkg : Nat
  ci : Nat
  gang : Bool
  member : Bool
  broken : Bool
  waits : Bool
deriving DecidableEq, Repr

/-- Who waits for the reply of a request to another package. -/
inductive Asker where
  /-- the thread in a slot, for an ordinary access or an operation of a crew or handle. -/
  | thread (slot : Nat)
  /-- a relaxed access of the thread in a slot. -/
  | relaxed (slot : Nat)
  /-- the operation of an engine queue, or a port for a queue pair, which makes the access `a`. -/
  | engine (queue : Nat) (a : Access)
  /-- the fetch buffer of the thread in a slot: a block of its code. -/
  | fetch (slot : Nat) (gtid : Word64) (va key : Nat)
  /-- nobody: the package itself, which asks `op`. -/
  | message (op : PeerOp)
deriving DecidableEq, Repr

/-- A request to another package (25 R398 to R400), of `size` bytes with its header; `seq` is assigned when it is sent. -/
structure OutRequest where
  id : Nat
  dest : Nat
  seq : Nat
  cls : Nat
  size : Nat
  who : Asker
  tries : Nat
  since : Nat
  sent : Bool
  /-- its home has been told to withdraw it (08 R170). -/
  withdrawn : Bool
deriving DecidableEq, Repr

/-- A packet (25 R398): a request by its number, a reply by its source and SEQ, or the acknowledgement of a reply by its home and
SEQ. -/
inductive Packet where
  | request (id : Nat)
  | reply (src seq : Nat)
  | ack (dest seq : Nat)
deriving DecidableEq, Repr

/-- A flit in a replay buffer (25 R396, R397), with the packet that begins in it. -/
structure Flit where
  lseq : Nat
  packet : Packet
deriving DecidableEq, Repr

/-- What a lane group has sent: a flit, or the last good LSEQ after a failure. -/
inductive LineItem where
  | flit (lseq : Nat)
  | report (lseq : Nat)
deriving DecidableEq, Repr

/-- A notice of context `ctx` that enters its channel once request `req`, where it is not 0, has ended (13 R263). -/
structure DueNotice where
  ctx : Nat
  req : Nat
  lo : Nat
  hi : Nat
deriving DecidableEq, Repr

/-- A link (25 R394, R395, R397, R400). -/
structure Link where
  state : Nat
  lanes : Nat
  crcerr : Nat
  retry : Nat
  e2e : Nat
  /-- the LSEQ expected next; the receiver discards flits until the replay arrives. -/
  expect : Nat
  replay : Bool
  /-- the instant at which the link went down. -/
  since : Nat
  /-- packets that the flit accepted last may still deliver. -/
  holds : Nat
  /-- the sender: the LSEQ of its next flit, the flits not acknowledged, and what it has sent, oldest first. -/
  lseq : Nat
  buffer : List Flit
  line : List LineItem
  /-- bytes of class 0 sent in a count of 10 µs of the oscillator, and by how many bytes class 1 is ahead of class 2. -/
  prio : Nat
  prioAt : Nat
  lead : Int
deriving DecidableEq, Repr

/-- A link at power-on: training. -/
def Link.reset : Link :=
  { state := 0, lanes := 0, crcerr := 0, retry := 0, e2e := 0, expect := 0, replay := false, since := 0, holds := 0, lseq := 0
    buffer := [], line := [], prio := 0, prioAt := 0, lead := 0 }

/-- A request of a peer package that has arrived and is not performed yet (25 R399, R400); `alone` where those missing before it
are of other classes. -/
structure InRequest where
  src : Nat
  seq : Nat
  cls : Nat
  op : PeerOp
  alone : Bool
deriving DecidableEq, Repr

/-- A saved reply of a peer's request (25 R399). -/
structure ReplyEntry where
  src : Nat
  seq : Nat
  ok : Bool
  status : Nat
  value : Nat
deriving DecidableEq, Repr

/-- A RoCEv2 queue pair (25 R403 Table 8), its state of R403, and its ring indexes. -/
structure QueuePair where
  owner : Nat
  state : Nat
  access : Nat
  mtu : Nat
  dqpn : Nat
  rkey : Nat
  dgid : Nat
  sq : Nat
  rq : Nat
  cq : Nat
  rings : Nat
  psn : Nat
  sendProd : Nat
  sendCons : Nat
  recvProd : Nat
  recvCons : Nat
  completions : Nat
  /-- the work request that has been taken and has not completed, and the status a local check gave it. -/
  busy : Bool
  wr : Nat
  fail : Nat
  /-- PHASE of the first round of the completion ring, a free value (log 34). -/
  phase0 : Nat
  retries : Nat
deriving DecidableEq, Repr

/-! ## Debug (27 R422 to R430) -/

structure Debug where
  target : Word64
  result : Nat
  keys : List Word64
  ctls : List Nat
  logctl : Nat
  smpctl : Nat
  /-- samples written to each die's ring since enable, those dropped, and the oscillator at enable. -/
  samples : List Nat
  samplesLost : List Nat
  since : Nat
  /-- samples of each die that its memory has not taken, oldest first (R430). -/
  held : Store (List Nat)
deriving DecidableEq, Repr

def Debug.reset : Debug :=
  { target := 0, result := 0, keys := List.replicate 8 0, ctls := List.replicate 8 0, logctl := 0xC00, smpctl := 0xC00
    samples := [0, 0, 0, 0], samplesLost := [0, 0, 0, 0], since := 0, held := [] }

/-! ## Start-up (28 R433 to R439) -/

/-- The fields of a verified configuration record that the D4 uses (28 R436). -/
structure ConfigRecord where
  domain : Nat
  pkg : Nat
  cxlDram : Nat
  cxlFlash : Nat
  tagBase : Nat
  /-- 64 KiB pages the lay-by may take: at TGT 4, at TGT 5, and of HBM for promotion. -/
  dramPages : List Nat
  flashPages : List Nat
  hbmPages : List Nat
  limit : Nat
  ramp : Nat
  /-- static power of each die. -/
  fixed : List Nat
  ringKind : Nat
  ringBase : Nat
  ringLog : Nat
  ringQpn : Nat
  ringKey : Nat
  ptpDomain : Nat
  /-- the HBM range exposed over CXL.mem. -/
  memBase : Nat
  memSize : Nat
  /-- Zalfer group of each destination package. -/
  groups : List (Nat × Nat)
deriving DecidableEq, Repr

def ConfigRecord.none : ConfigRecord :=
  { domain := 0, pkg := 0, cxlDram := 0, cxlFlash := 0, tagBase := 0, dramPages := [], flashPages := [], hbmPages := []
    limit := 0, ramp := 0, fixed := [0, 0, 0, 0], ringKind := 0, ringBase := 0, ringLog := 0, ringQpn := 0, ringKey := 0, ptpDomain := 0, memBase := 0
    memSize := 0, groups := [] }

/-- The identity key of the package (28 R437). -/
structure IdentityKey where
  secretHalf : Nat
  publicHalf : Nat
deriving DecidableEq, Repr

/-- BOOTSTAT (R439), the recovery window (R435) and what measurements report (R438). -/
structure Boot where
  stage : Nat
  err : Nat
  src : Nat
  fwver : Nat
  fused : Nat
  /-- the stage whose failure holds the sequence, 0 none. -/
  failed : Nat
  window : Bool
  doorbell : Nat
  length : Nat
  result : Nat
  payload : Store Byte
  imageDigest : Nat
  recordDigest : Nat
  romver : Nat
  /-- the identity key, once stage 1 has derived it (R437), and the manufacturer's certificate, read from board flash. -/
  key : Option IdentityKey
  certificate : List Byte
  /-- SPDM responses sent: the request's code, and 0 Busy, 1 answered with the values, 2 unexpected or 3 invalid. -/
  spdm : List (Nat × Nat × List Nat)
  /-- the steps of SPDM taken: 1 version, 2 capabilities, 3 algorithms. -/
  spdmStep : Nat
deriving DecidableEq, Repr

def Boot.reset : Boot :=
  { stage := 0, err := 0, src := 0, fwver := 0, fused := 0, failed := 0, window := false, doorbell := 0, length := 0
    result := 0, payload := [], imageDigest := 0, recordDigest := 0, romver := 0, key := none, certificate := [], spdm := [], spdmStep := 0 }

/-- What the host port sent back: the requester, whether the request was performed, and what it read. -/
structure HostReply where
  requester : Nat
  ok : Bool
  value : Nat
deriving DecidableEq, Repr

end Sys2Proof.Machine
end

