-- ==== Sys2Proof/Machine/State.lean ====
section
/-!
DEFINITION. The state of a D4 package, plain data, and its state right after reset.
-/
namespace Sys2Proof.Machine

/-- Why a run stops. -/
inductive Fault where
  /-- `exec` was asked to issue an instruction in a slot that holds no thread. No step does so; safe: the machine stops
  where the hardware has nothing to do. -/
  | noThread
deriving DecidableEq, Repr

/-- Why an instruction has no meaning. -/
inductive Refusal where
  /-- An instruction whose arm of `exec` gives it no meaning yet raises this; safe: the model stops. -/
  | notModelled (mnemonic : String)
deriving DecidableEq, Repr

/-- What the surroundings decide of one turn: whether a space-0 access of another master wins a bank it needs (04 R76),
whether a lockstep comparison mismatches (17 R321), whether the upper half of a 16-byte access is performed later
(08 R163), whether a page walk outlasts the step (22 R365), whether a block that the owner's fetch, or a
borrower's, needs is still absent (06 R114), and the error that the instruction meets (26 R417): 1 a single-bit error of a
register or of the lay-by's store, 2 a double-bit error of a register, 3 one of the lay-by's store. -/
structure TurnOpts where
  lostBank : Bool
  mismatch : Bool
  split : Bool
  walk : Bool
  late : Bool
  lateLent : Bool
  ecc : Nat
deriving DecidableEq, Repr

def TurnOpts.plain : TurnOpts := { lostBank := false, mismatch := false, split := false, walk := false, late := false, lateLent := false, ecc := 0 }

/-- What an event is about; each event reads the fields its row needs. -/
structure Arg where
  /-- a slot, queue key, die, link or entry index. -/
  index : Nat
  /-- a second index: a context, an offset or a register number. -/
  index2 : Nat
  addr : Nat
  value : Nat
  data : List Byte
  ok : Bool
  writer : Writer
  fields : Fields
  cfg : ConfigRecord
  peer : PeerOp
  /-- the blocks that meet a residue mismatch, once for each time (11 R225). -/
  resid : List Nat
  /-- a page walk of an engine outlasts the step (22 R365). -/
  walk : Bool
deriving DecidableEq, Repr

def Arg.none : Arg :=
  { index := 0, index2 := 0, addr := 0, value := 0, data := [], ok := false, writer := .host
    fields := Fields.oneWord 0 0 0 0, cfg := ConfigRecord.none, peer := .find 0 0, resid := [], walk := false }

/-- What moves next: the turn of a core's present cycle, or an event of the opcode table. -/
inductive Move where
  | turn (core : Nat) (opts : TurnOpts)
  | event (i : Instr) (arg : Arg)
deriving DecidableEq, Repr

/-- Where a migration is to go (17 R318, R319): a track, a core of the package, or a cooler core. -/
inductive MigrationGoal where
  | track (t : Nat)
  | core (n : Nat)
  | cooler
deriving DecidableEq, Repr

/-- A migration of a logical core (17 R320): the core it leaves, its goal, and once the transfer has begun the core and
the slot numbers that it has taken. -/
structure Migration where
  ctx : Nat
  lcore : Nat
  core : Nat
  goal : MigrationGoal
  dest : Option Nat
  slots : List Nat
  /-- the slot numbers still to be transferred, in turn, and the skidder that transfers them (18 R330). -/
  left : List Nat
  skidder : Nat
deriving DecidableEq, Repr

/-- One input of the agenda: the time since the last step, in units of 1/35 ns, and what moves. -/
structure Input where
  elapsed : Nat
  move : Move
  /-- die memory takes no log records and no samples in the step (27 R429, R430). -/
  busy : Bool := false
  /-- bits of memory that have turned since the last step: 8-byte words, by key / 8, one bit of each or two (26 R417). -/
  hits : List (Nat × Bool) := []
deriving DecidableEq, Repr

/-- Everything memory holds: the bytes, the full/empty bits, the capability tag bits and the ECC errors. -/
structure Memory where
  /-- keys are PKG ≪ 56 | TGT ≪ 52 | PA (22 R362); a byte that is not listed reads 0. -/
  bytes : List Host.Cell
  /-- 8-byte words whose full/empty bit is full, by key / 8. -/
  full : NatSet
  /-- granules whose capability tag bit is set, by key / 16. -/
  tags : NatSet
  /-- 8-byte words with an uncorrectable error, by key / 8. -/
  poison : NatSet
  /-- 8-byte words with a single-bit error not yet corrected, and those with a double-bit error not yet met, by key / 8. -/
  single : NatSet
  double : NatSet
deriving DecidableEq, Repr

/-- The state of the package. -/
structure State where
  mem : Memory
  slots : Store Slot
  ctxs : Store Ctx
  queues : Store Queue
  /-- the crew table of the package (19 R331). -/
  crews : Store Crew
  /-- messages of context 0's own handler that the host port's error interrupt reported (17 R309). -/
  hostErrors : List Message
  groves : Store Grove
  cores : Store CoreState
  power : Power
  /-- admitted graphs by order of admission (13 R247), and the next admission's number. -/
  graphs : Store Graph
  nextGraph : Nat
  /-- the handle table (22 R370), parked continuations (23 R374) and page moves (22 R367). -/
  handles : Store Handle
  conts : List Continuation
  moves : List PageMove
  /-- migrations that have been requested and have not ended (17 R320). -/
  migrations : List Migration
  /-- free 64 KiB pages of the lay-by: CXL DRAM tier, CXL flash tier, HBM promotion areas (23 R381, R382). -/
  dramFree : List Nat
  flashFree : List Nat
  hbmFree : List Nat
  ras : Ras
  /-- Landings out of service after a control fault, by die (26 R418). -/
  deadLandings : List Nat
  links : Store Link
  /-- the Zalfer group of each destination package (28 R436). -/
  groups : List (Nat × Nat)
  /-- notices of graphs whose final status word has been asked of a peer package, and those behind them (13 R263). -/
  noticesDue : List DueNotice
  /-- the reply cache of this home (25 R399), and what crews have for other packages, which every step asks of them. -/
  replies : List ReplyEntry
  /-- requests of peer packages that have arrived and wait for those before them; for each source the first SEQ that has not been
  seen, and those after it that have (25 R399, R400). -/
  arrived : List InRequest
  /-- arrivals of peer packages at barriers that wait for a held one of their members to be taken (20 R352). -/
  heldOver : List InRequest
  seenTo : Store Nat
  seenPast : Store NatSet
  peerOut : List (Nat × PeerOp)
  /-- the crews of peer packages that threads of this package have joined (19 R341, R347). -/
  farCrews : List FarCrew
  /-- queue pairs by 4,096 · port + QPN − 0x1000 (25 R403), and QPRES. -/
  qps : Store (Option QueuePair)
  qpres : Nat
  dbg : Debug
  boot : Boot
  /-- PCIe functions that are frozen, with their contexts (17 R307); what the host port sent; the latched upper half of a
  register for each requester (26 R405). -/
  hostFrozen : List (Nat × Nat)
  hostOut : List HostReply
  hostLatch : Store (Option (Nat × Nat))
  /-- PTPSTAT (26 R405), and the offset still to be slewed away, ns (R404). -/
  ptpSync : Bool
  /-- a synchronisation has been held since reset. -/
  ptpOnce : Bool
  ptpPort : Nat
  /-- the ports that hold synchronisation. -/
  ptpHeld : NatSet
  ptpOffset : Nat
  slew : Int
  ptpDomain : Nat
  /-- the HBM range exposed over CXL.mem (28 R436). -/
  memBase : Nat
  memSize : Nat
  /-- a count that orders the heads that wait for a unit (11 R212). -/
  stamp : Nat
  /-- pJ of the accesses of the instruction being issued (26 R407). -/
  spent : Nat
  /-- requests to other packages that have no reply yet, and the next SEQ of each destination (25 R398). -/
  requests : List OutRequest
  /-- what the work in hand of an engine queue, or of a queue pair by 2^40 plus its number, has asked of peer packages. -/
  far : Store (List FarPart)
  nextSeq : Store Nat
  nextReq : Nat
  /-- waiting full/empty accesses in order of arrival: a slot, or 2^16 and the key of one from a peer package. -/
  feWait : List Nat
  /-- waiting full/empty accesses from peer packages, by source · 2^16 + SEQ. -/
  farWait : Store (Option Access)
  /-- 16-byte accesses of peer packages, by source · 2^16 + SEQ, whose lower half alone has been performed: what it read,
  and whether it met no error (08 R163). -/
  farHalf : Store (Option (Nat × Bool))
  /-- slots with a waiting send, in order of arrival. -/
  sendWait : List Nat
  /-- nanoseconds of the waymark clock (26 R404). -/
  now : Nat
  /-- the oscillator since reset, in units of 1/35 ns: a cycle of a core is 28, 35 or 50 of them (01 R13). -/
  osc : Nat
  /-- the microsecond of the waymark clock for which each die's budgets were last refilled (26 R409), and the millisecond
  whose window was last ended (R412). -/
  refilled : Store Nat
  windowed : Nat
  /-- the count of 10 µs of the waymark clock for which each die's Landing last recomputed at a tick (13 R257). -/
  ticked : Store Nat
  /-- the instant of the oscillator from which the clock may be slewed again (26 R404). -/
  slewed : Nat
  /-- the package and domain numbers of the configuration record (01 R23). -/
  pkg : Nat
  domain : Nat
  /-- capacities of the CXL DRAM and CXL flash tiers, in bytes, and the CXL tag region (28 R436, 22 R369). -/
  cxlDram : Nat
  cxlFlash : Nat
  tagBase : Nat
  csel : Nat
  hostCsel : Nat
  /-- the issuing slot, and the choices of the turn. -/
  cur : Nat
  opts : TurnOpts
  /-- die memory takes no records in this step (27 R429, R430). -/
  busy : Bool
  arg : Arg
  agenda : List Input
  /-- free values taken so far. -/
  fresh : Nat
deriving DecidableEq, Repr

/-- Memory right after reset: nothing listed. -/
def Memory.empty : Memory := { bytes := [], full := [], tags := [], poison := [], single := [], double := [] }

/-- Context 0, which exists from power-on and holds system privilege (17 R295); it is allowed every track (log 12). -/
def Ctx.house : Ctx :=
  { Ctx.none with
    mode := .active, sys := true, regs := { CtxRegs.zero with tracks := 7 }
    eff := (List.range 4).map fun d => (d, { EffRegs.zero with tracks := 7 }) }

/-- The package right after power-on. -/
def State.reset : State :=
  { mem := Memory.empty, slots := [], ctxs := [(0, Ctx.house)], queues := [], crews := [], hostErrors := [], groves := []
    cores := [], power := Power.reset, graphs := [], nextGraph := 0, handles := [], conts := [], moves := [], migrations := [], dramFree := []
    flashFree := [], hbmFree := [], ras := Ras.zero, deadLandings := [], links := [], groups := [], noticesDue := [], replies := [], arrived := [], heldOver := [], seenTo := [], seenPast := [], peerOut := [], farCrews := [], qps := []
    qpres := 0, dbg := Debug.reset, boot := Boot.reset, hostFrozen := [], hostOut := [], hostLatch := []
    ptpSync := false, ptpOnce := false, ptpPort := 0, ptpHeld := [], ptpOffset := 0, slew := 0, ptpDomain := 0, memBase := 0, memSize := 0, stamp := 0
    spent := 0, requests := [], far := [], nextSeq := [], nextReq := 0, feWait := [], farWait := [], farHalf := [], sendWait := [], now := 0, osc := 0, refilled := [], windowed := 0, ticked := [], slewed := 0, pkg := 0
    domain := 0, cxlDram := 0, cxlFlash := 0, tagBase := 0, csel := 0, hostCsel := 0, cur := 0, opts := TurnOpts.plain, busy := false
    arg := Arg.none, agenda := [], fresh := 0 }

end Sys2Proof.Machine
end

