-- ==== Sys2Proof/Machine/Caps.lean ====
section
/-!
DEFINITION. Capabilities (spec/04 R70 to R73, spec/08 R183 to R187): fields, bounds, the representable window and the
check.
-/
namespace Sys2Proof.Machine

/-- A capability's fields, read from its 128 bits (R70 Table 6). -/
def capCursor (b : Word128) : Nat := b.toNat % 2 ^ 64
def capHigh (b : Word128) : Nat := b.toNat / 2 ^ 64
/-- The ten permissions, bit 9 PL down to bit 0 PSYS (R184). -/
def capPerms (b : Word128) : Nat := bits (capHigh b) 63 54
def capSpace (b : Word128) : Nat := bits (capHigh b) 53 51
def capKind (b : Word128) : Nat := bits (capHigh b) 50 48
def capE (b : Word128) : Nat := bits (capHigh b) 47 42
def capBF (b : Word128) : Nat := bits (capHigh b) 41 21
def capTF (b : Word128) : Nat := bits (capHigh b) 20 0

def permPL : Nat := 0x200
def permPS : Nat := 0x100
def permPX : Nat := 0x080
def permPLC : Nat := 0x040
def permPSC : Nat := 0x020
def permPA : Nat := 0x010
def permPSEAL : Nat := 0x008
def permPUNS : Nat := 0x004
def permPENG : Nat := 0x002
def permPSYS : Nat := 0x001

def kindMemory : Nat := 0
def kindExecute : Nat := 1
def kindCrew : Nat := 2
def kindQueue : Nat := 3
def kindSealed : Nat := 4
def kindGraph : Nat := 5

/-- Units from base up to the cursor (R72): the cursor may stand below base. -/
def capOff (b : Word128) : Int :=
  let a : Nat := capCursor b / 2 ^ capE b % 2 ^ 21
  let off : Nat := (a + 2 ^ 21 - capBF b) % 2 ^ 21
  if 0x180000 ≤ off then (off : Int) - ((2 ^ 21 : Nat) : Int) else (off : Int)

/-- The length in units (R72). -/
def capLen (b : Word128) : Nat := (capTF b + 2 ^ 21 - capBF b) % 2 ^ 21

/-- base (R72). -/
def capBase (b : Word128) : Nat :=
  wrap 64 (((capCursor b / 2 ^ capE b : Nat) - capOff b : Int) * (2 ^ capE b : Nat))

/-- top (R72); it may reach 2^64. -/
def capTop (b : Word128) : Nat := capBase b + capLen b * 2 ^ capE b

/-- A capability from its parts. -/
def mkCap (perms space kind e bf tf cursor : Nat) : Word128 :=
  BitVec.ofNat 128 ((perms * 2 ^ 54 + space * 2 ^ 51 + kind * 2 ^ 48 + e * 2 ^ 42 + bf * 2 ^ 21 + tf) * 2 ^ 64 + cursor)

/-- Replace the cursor, bits 63:0. -/
def setCursor (b : Word128) (c : Nat) : Word128 := BitVec.ofNat 128 (capHigh b * 2 ^ 64 + c % 2 ^ 64)

/-- Replace the high half. -/
def setHigh (b : Word128) (h : Nat) : Word128 := BitVec.ofNat 128 (h % 2 ^ 64 * 2 ^ 64 + capCursor b)

/-- A cursor in the representable window of a capability's bounds (R72). -/
def inWindow (b : Word128) (c : Nat) : Bool :=
  let slack := 2 ^ (capE b + 19)
  decide ((capBase b : Int) - slack ≤ c) && decide (c < capTop b + slack)

/-- Move the cursor of a register to `c`: outside the window the register becomes data, tag raw, with the bits as
computed (R72). A data register just gets the bits. -/
def moveCursor (r : QReg) (c : Nat) : QReg :=
  let b := setCursor r.bits c
  if r.cap then (if inWindow r.bits (c % 2 ^ 64) then { r with bits := b } else ⟨b, false, 0⟩) else { r with bits := b }

/-- A capability, not sealed, of KIND memory or execute. -/
def QReg.isMem (r : QReg) : Bool := r.cap && (capKind r.bits == kindMemory || capKind r.bits == kindExecute)

/-- `capcheck` of R73 for a register that must name memory. -/
def capcheck (r : QReg) (addr n perm : Nat) : Bool :=
  r.isMem && (capPerms r.bits &&& perm == perm) && decide (capBase r.bits ≤ addr) && decide (addr + n ≤ capTop r.bits)

/-- The least exponent from `e` on, within `fuel` steps, for which the rounded bounds fit (R183). -/
def leastE (b t : Nat) : Nat → Nat → Nat
  | 0, e => e
  | f + 1, e =>
    let nb := b / 2 ^ e * 2 ^ e
    let nt := (t + 2 ^ e - 1) / 2 ^ e * 2 ^ e
    if nt - nb ≤ 2 ^ (e + 20) then e else leastE b t f (e + 1)

/-- `cset` (R183): bounds from the cursor with length `len`; data, tag raw, where they do not fit. -/
def capSetBounds (r : QReg) (len : Nat) (exact : Bool) : QReg :=
  let b := capCursor r.bits
  let t := b + len
  let e := leastE b t 46 0
  let nb := b / 2 ^ e * 2 ^ e
  let nt := (t + 2 ^ e - 1) / 2 ^ e * 2 ^ e
  let ok := decide (e ≤ 37) && decide (t ≤ 2 ^ 64) && decide (capBase r.bits ≤ nb) && decide (nt ≤ capTop r.bits) &&
    (!exact || (nb == b && nt == t))
  if ok then
    { r with bits := mkCap (capPerms r.bits) (capSpace r.bits) (capKind r.bits) e (nb / 2 ^ e % 2 ^ 21) (nt / 2 ^ e % 2 ^ 21) b }
  else ⟨r.bits, false, 0⟩

/-- A memory capability with exact bounds where E 0 can hold them. -/
def memCap (perms space base top cursor : Nat) : QReg :=
  let e := leastE base top 46 0
  ⟨mkCap perms space kindMemory e (base / 2 ^ e % 2 ^ 21) ((top + 2 ^ e - 1) / 2 ^ e % 2 ^ 21) cursor, true, 27⟩

end Sys2Proof.Machine
end

