-- ==== Sys2Proof/Machine/Basic.lean ====
section
/-!
DEFINITION. Reading and updating the parts of State: threads and slots, registers and predicates, contexts, queues,
groves, and bytes of memory.
-/
namespace Sys2Proof.Machine

/-! ## Where things are: a slot index is ((grove·16 + core)·16 + slot) -/

def slotNum (n : Nat) : Nat := n % 16
/-- The physical core of the package, 0 to 3,071. -/
def slotCore (n : Nat) : Nat := n / 16
def slotGrove (n : Nat) : Nat := n / 256
def slotDie (n : Nat) : Nat := n / 12288
def groveDie (g : Nat) : Nat := g / 48
/-- The column of a grove, and its track (01 R12, R13): 0 fast, 1 standard, 2 efficient. -/
def groveColumn (g : Nat) : Nat := g % 8
def groveRow (g : Nat) : Nat := g % 48 / 8
def groveTrack (g : Nat) : Nat := if groveColumn g < 2 then 0 else if groveColumn g < 6 then 1 else 2

/-- Units of 1/35 ns in a cycle of a core's clock (01 R13). -/
def corePeriod (core : Nat) : Nat := match groveTrack (core / 16) with | 0 => 28 | 1 => 35 | _ => 50

/-! ## Parts of State -/

def State.slot (s : State) (n : Nat) : Slot := Store.get Slot.empty s.slots n
def State.setSlot (s : State) (n : Nat) (v : Slot) : State := { s with slots := Store.put Slot.empty s.slots n v }
def State.thread (s : State) (n : Nat) : Option Thread := (s.slot n).thread
def State.setThread (s : State) (n : Nat) (t : Thread) : State := s.setSlot n { s.slot n with thread := some t }
def State.ctx (s : State) (c : Nat) : Ctx := Store.get Ctx.none s.ctxs c
def State.setCtx (s : State) (c : Nat) (v : Ctx) : State := { s with ctxs := Store.put Ctx.none s.ctxs c v }
def State.queue (s : State) (k : Nat) : Queue := Store.get Queue.empty s.queues k
def State.setQueue (s : State) (k : Nat) (v : Queue) : State := { s with queues := Store.put Queue.empty s.queues k v }
def State.grove (s : State) (g : Nat) : Grove := Store.get Grove.empty s.groves g
def State.setGrove (s : State) (g : Nat) (v : Grove) : State := { s with groves := Store.put Grove.empty s.groves g v }

/-- The present cycle of a core (02 R27). -/
def State.cycle (s : State) (core : Nat) : Nat := s.osc / corePeriod core

/-- KAPPA, SHARE and LIMIT of a context as a die's Landing works with them. -/
def State.eff (s : State) (c die : Nat) : EffRegs := Store.get EffRegs.zero (s.ctx c).eff die

/-- A free value of Config, and the state that has used it. -/
def State.takeFree (s : State) : Nat × State := (Config.free s.fresh, { s with fresh := s.fresh + 1 })

/-- A die's Landing has to recompute: the tick of the present 10 µs of the waymark clock has not been taken (13 R257). -/
def State.tickDue (s : State) (die : Nat) : Bool :=
  decide (die < 4) && !s.deadLandings.contains die && decide (Store.get 0 s.ticked die < s.now / 10000)

/-- Queue pairs by the key of a port and a QPN (25 R403). -/
def State.qp (s : State) (k : Nat) : Option QueuePair := Store.get none s.qps k
def State.setQp (s : State) (k : Nat) (q : Option QueuePair) : State := { s with qps := Store.put none s.qps k q }

/-- The key of a pair of a port. -/
def qpKey (port qpn : Nat) : Nat := 4096 * port + (qpn - 0x1000)

/-! ## Registers -/

def Thread.reg (t : Thread) (r : BitVec 5) : QReg := t.q[r.toNat]'(r.isLt)
def Thread.setReg (t : Thread) (r : BitVec 5) (v : QReg) : Thread := { t with q := t.q.set r.toNat v r.isLt }
/-- A predicate by number; the decoder admits 0 to 7. -/
def Thread.pred (t : Thread) (k : Nat) : Word32 := t.p[k % 8]'(Nat.mod_lt k (by decide))
def Thread.setPred (t : Thread) (k : Nat) (v : Word32) : Thread := { t with p := t.p.set (k % 8) v (Nat.mod_lt k (by decide)) }

/-- The names a, b and c of the guard frame (R59 Table 2). -/
def Thread.gfA (t : Thread) : Nat := bits t.gf.toNat 8 6
def Thread.gfB (t : Thread) : Nat := bits t.gf.toNat 5 3
def Thread.gfC (t : Thread) : Nat := bits t.gf.toNat 2 0

/-- The system privilege of a thread (17 R297). -/
def State.privileged (s : State) (t : Thread) : Bool := (s.ctx t.ctx).sys

/-- 64-bit data: the value in bits 63:0, zeros above. -/
def data64 (v : Nat) (tag : BitVec 5) : QReg := ⟨BitVec.ofNat 128 (v % 2 ^ 64), false, tag⟩
/-- Two lanes of 64 bits. -/
def lanes64 (lo hi : Nat) (tag : BitVec 5) : QReg := ⟨BitVec.ofNat 128 (hi % 2 ^ 64 * 2 ^ 64 + lo % 2 ^ 64), false, tag⟩
/-- A signed result in lane 0, as data i64. -/
def dataInt (v : Int) : QReg := data64 (wrap 64 v) 4

/-- Lane 0 of a register, 64 bits. -/
def QReg.lo (r : QReg) : Nat := r.bits.toNat % 2 ^ 64
def QReg.hi (r : QReg) : Nat := r.bits.toNat / 2 ^ 64

/-- Data tagged i64, ui64 or raw: an integer or name operand (R182, R334). -/
def QReg.isInt (r : QReg) : Bool := !r.cap && (r.tag == 4 || r.tag == 8 || r.tag == 0)

/-! ## Memory -/

/-- The key of a physical address (22 R362 Table 2): package, target level, address. -/
def memKey (pkg tgt pa : Nat) : Nat := pkg * 2 ^ 56 + tgt % 16 * 2 ^ 52 + pa % 2 ^ 52
def keyPkg (k : Nat) : Nat := k / 2 ^ 56
def keyTgt (k : Nat) : Nat := k / 2 ^ 52 % 16
def keyPa (k : Nat) : Nat := k % 2 ^ 52

/-- What a byte that nothing has written reads as (log 3). -/
def unwrittenByte : Byte := 0

/-- The canonical form of memory: addresses strictly rising and no entry equal to what an unlisted byte reads as. -/
def Memory.wf (m : Memory) : Bool :=
  Store.wf unwrittenByte m.bytes && NatSet.wf m.full && NatSet.wf m.tags && NatSet.wf m.poison && NatSet.wf m.single &&
    NatSet.wf m.double

def State.byte (s : State) (k : Nat) : Byte := Store.get unwrittenByte s.mem.bytes k
def State.setByte (s : State) (k : Nat) (v : Byte) : State :=
  { s with mem := { s.mem with bytes := Store.put unwrittenByte s.mem.bytes k v } }

/-- `n` bytes from a key as a number, the first the least significant. -/
def State.readNum (s : State) (k : Nat) : Nat → Nat
  | 0 => 0
  | n + 1 => (s.byte k).toNat + 256 * State.readNum s (k + 1) n

/-- Bytes as a number. -/
def numOf (l : List Byte) : Nat := l.foldr (fun b v => b.toNat + 256 * v) 0

/-- `n` bytes from a key. -/
def State.readBytes (s : State) (k n : Nat) : List Byte := (List.range n).map fun i => s.byte (k + i)

/-- Write the nibbles of `v` that `mask` names, two to a byte, from a key. -/
def State.writeNibbles (s : State) (k : Nat) : Nat → Nat → Nat → State
  | 0, _, _ => s
  | n + 1, v, mask =>
    let old := (s.byte k).toNat
    let lo := if bit mask 0 then v % 16 else old % 16
    let hi := if bit mask 1 then v / 16 % 16 else old / 16
    State.writeNibbles (if bit mask 0 || bit mask 1 then s.setByte k (BitVec.ofNat 8 (hi * 16 + lo)) else s)
      (k + 1) n (v / 256) (mask / 4)

/-- Write `n` whole bytes of a number. -/
def State.writeNum (s : State) (k n v : Nat) : State := s.writeNibbles k n v (2 ^ (2 * n) - 1)

def State.isFull (s : State) (k : Nat) : Bool := s.mem.full.mem (k / 8)
def State.setFull (s : State) (k : Nat) (v : Bool) : State :=
  { s with mem := { s.mem with full := if v then s.mem.full.add (k / 8) else s.mem.full.del (k / 8) } }

/-- The number of a granule of a CXL tier within the capacity (22 R369): those of the DRAM tier come first (log 83). -/
def State.cxlGranule (s : State) (k : Nat) : Option Nat :=
  if keyTgt k = 4 ∧ keyPa k < s.cxlDram then some (keyPa k / 16)
  else if keyTgt k = 5 ∧ keyPa k < s.cxlFlash then some ((s.cxlDram + keyPa k) / 16)
  else none

/-- The byte of the CXL tag region that holds the tag bit of a granule of a CXL tier (22 R369). -/
def State.tagByte (s : State) (g : Nat) : Nat := memKey s.pkg 0 (s.tagBase + g / 8)

/-- A byte is the one of the CXL tag region that holds the tag bit of the granule of a key (22 R369). -/
def State.isTagByte (s : State) (k j : Nat) : Prop := 3 < keyTgt k ∧ ∃ g, s.cxlGranule k = some g ∧ j = s.tagByte g

/-- The capability tag bit of a granule: one of HBM, die memory, grove memory or scratch has its own; one of a CXL tier lies
in the tag region, and what lies beyond the capacity, as host memory, has none (09 R191, 22 R369). -/
def State.hasTag (s : State) (k : Nat) : Bool :=
  if keyTgt k ≤ 3 then s.mem.tags.mem (k / 16)
  else match s.cxlGranule k with
    | some g => bit (s.byte (s.tagByte g)).toNat (g % 8)
    | none => false

/-- Memory with the tag bit of a granule set to a value. -/
def State.withTag (s : State) (k : Nat) (v : Bool) : Memory :=
  if keyTgt k ≤ 3 then { s.mem with tags := if v then s.mem.tags.add (k / 16) else s.mem.tags.del (k / 16) }
  else match s.cxlGranule k with
    | some g =>
      let b := (s.byte (s.tagByte g)).toNat
      (s.setByte (s.tagByte g) (BitVec.ofNat 8 (if bit b (g % 8) == v then b else b ^^^ 2 ^ (g % 8)))).mem
    | none => s.mem

def State.setTag (s : State) (k : Nat) (v : Bool) : State := { s with mem := s.withTag k v }

/-- An uncorrectable error in the 8-byte word of a key: it is poisoned, or has a double-bit error that nothing has met yet. -/
def State.poisoned (s : State) (k : Nat) : Bool := s.mem.poison.mem (k / 8) || s.mem.double.mem (k / 8)
def State.setPoison (s : State) (k : Nat) (v : Bool) : State :=
  { s with mem := { s.mem with poison := if v then s.mem.poison.add (k / 8) else s.mem.poison.del (k / 8)
                               double := s.mem.double.del (k / 8) } }

/-- A read that meets a double-bit error poisons the word, and counts it (26 R417, R420). -/
def State.detect (s : State) (k : Nat) : State :=
  if s.mem.double.mem (k / 8) then { s.setPoison k true with ras := { s.ras with ue := satInc 8 s.ras.ue } } else s

/-- A read of an 8-byte word corrects a single-bit error in it, in one step, and counts it. -/
def State.correct (s : State) (k : Nat) : State :=
  if s.mem.single.mem (k / 8) then
    { s with
      mem := { s.mem with single := s.mem.single.del (k / 8) }
      ras := if keyTgt k = 0 then { s.ras with cehbm := satInc 16 s.ras.cehbm }
             else { s.ras with cesram := satInc 16 s.ras.cesram } }
  else s

/-- One bit of a word, or two, have turned: a second single-bit error makes a double-bit one; a poisoned word stays so. -/
def State.hitWord (s : State) (h : Nat × Bool) : State :=
  let m := s.mem
  if m.poison.mem h.1 || m.double.mem h.1 then s
  else if h.2 || m.single.mem h.1 then { s with mem := { m with single := m.single.del h.1, double := m.double.add h.1 } }
  else { s with mem := { m with single := m.single.add h.1 } }

/-- The size of the level behind a target, in bytes; none where the level has no size at the D4 (22 R362, R363). -/
def State.beyond (s : State) (tgt pa : Nat) : Bool :=
  match tgt with
  | 0 => decide (2 ^ 39 ≤ pa)
  | 1 => decide (2 ^ 34 ≤ pa) || bits pa 31 27 != 0
  | 2 => decide (2 ^ 40 ≤ pa) || bits pa 31 22 != 0 || decide (192 ≤ pa / 2 ^ 32)
  | 3 => decide (2 ^ 40 ≤ pa) || bits pa 27 17 != 0 || decide (192 ≤ pa / 2 ^ 32) || decide (98304 ≤ pa % 2 ^ 17)
  | 4 => decide (s.cxlDram ≤ pa)
  | 5 => decide (s.cxlFlash ≤ pa)
  | _ => false

/-- In the CXL tag region of HBM (22 R369). -/
def State.inTagRegion (s : State) (tgt pa : Nat) : Bool :=
  tgt == 0 && decide (s.tagBase ≤ pa) && decide (pa < s.tagBase + (s.cxlDram + s.cxlFlash + 127) / 128)

/-- The level of a key has full/empty bits (08 R167). -/
def keyHasFull (k : Nat) : Bool := 1 ≤ keyTgt k && keyTgt k ≤ 3
/-- Atomics are performed at the level of a key (08 R174). -/
def keyHasAtomics (k : Nat) : Bool := keyTgt k ≤ 3
end Sys2Proof.Machine
end

