-- ==== Sys2Proof/Machine/Charge.lean ====
section
/-!
DEFINITION. Energy charges and event counters (spec/26 R407, R408; spec/13 R262; spec/27 R431).
-/
namespace Sys2Proof.Machine

def State.core (s : State) (n : Nat) : CoreState := Store.get CoreState.idle s.cores n
def State.setCore (s : State) (n : Nat) (v : CoreState) : State := { s with cores := Store.put CoreState.idle s.cores n v }
def State.graph (s : State) (k : Nat) : Graph := Store.get Graph.none s.graphs k
def State.setGraph (s : State) (k : Nat) (v : Graph) : State := { s with graphs := Store.put Graph.none s.graphs k v }

/-- The key of the admitted graph of a global task identifier. -/
def State.graphOf (s : State) (gtid : Word64) : Option Nat :=
  (s.graphs.find? fun e => e.2.ctx == gtid.toNat / 2 ^ 52 && e.2.ser == gtid.toNat / 2 ^ 32 % 2 ^ 20).map (·.1)

/-! ## Counters (27 R431) -/

def Counter.zero : Counter := { count := 0, event := 0, run := false }

/-- An engine performs an operation of the context. -/
def State.engineBusy (s : State) (c : Nat) : Bool := s.queues.any fun e => e.2.unit != 0 && e.1 / 16 / 192 == c

/-- The placed threads of a context. -/
def State.placedCount (s : State) (c : Nat) : Nat :=
  (s.slots.filter fun e => match e.2.thread with | some t => t.ctx == c | none => false).length

/-- The context is in the state running (17 R298). -/
def State.ctxRunning (s : State) (c : Nat) : Bool :=
  (s.ctx c).mode == .active && (decide (0 < s.placedCount c) || s.engineBusy c)

/-- An event of a context happens `n` times. -/
def State.countEvent (s : State) (c ev n : Nat) : State :=
  let x := s.ctx c
  if (x.counters.any fun k => k.2.run && k.2.event == ev) && s.ctxRunning c then
    s.setCtx c { x with counters := x.counters.map fun k =>
      if k.2.run && k.2.event == ev then (k.1, { k.2 with count := (k.2.count + n) % 2 ^ 64 }) else k }
  else s

/-! ## Charges (26 R407, R408) -/

/-- Add to entry `i` of a list. -/
def addAt : List Nat → Nat → Nat → List Nat
  | [], _, _ => []
  | x :: r, 0, v => (x + v) :: r
  | x :: r, i + 1, v => x :: addAt r i v

/-- Credit a charge to the die, to the package and to the context, and to the graph it was made for. -/
def State.credit (s : State) (die c : Nat) (g : Option Nat) (pj : Nat) : State :=
  let filler := match g with | some k => (s.graph k).filler | none => false
  let p := s.power
  let s := { s with power := { p with die := addAt p.die die pj, pkg := p.pkg + pj, window := p.window + pj
                                      windowFiller := p.windowFiller + if filler then pj else 0 } }
  let s := s.setCtx c { s.ctx c with energy := (s.ctx c).energy + pj }
  let s := match g with
    | some k => s.setGraph k { s.graph k with spent := (s.graph k).spent + pj }
    | none => s
  s.countEvent c 9 pj

/-- Charge a unit of a grove, to the budget of the grove's engines. -/
def State.chargeUnit (s : State) (grove unit : Nat) (gtid : Word64) (pj : Nat) : State :=
  let g := s.grove grove
  let s := s.setGrove grove
    { g with budget := g.budget - pj, charged := Store.put 0 g.charged unit (Store.get 0 g.charged unit + pj) }
  s.credit (groveDie grove) (gtid.toNat / 2 ^ 52) (s.graphOf gtid) pj

/-- The charge of one access of up to 64 bytes at the level of a key (R407 Table 2). -/
def State.levelCharge (s : State) (ownScratch : Bool) (key : Nat) : Nat :=
  let c := match keyTgt key with
    | 0 => 320 | 1 => 100 | 2 => 40 | 3 => if ownScratch then 12 else 40 | 4 => 900 | 5 => 4000 | _ => Config.hostCharge
  if keyPkg key = s.pkg || 4 ≤ keyTgt key then c else c + 160

/-- Add the charge of an access of the issuing thread. -/
def State.spend (s : State) (core key : Nat) : State :=
  let own := keyPkg key == s.pkg && keyTgt key == 3 && keyPa key / 2 ^ 28 == core / 16 * 16 + core % 16
  { s with spent := s.spent + s.levelCharge own key }

end Sys2Proof.Machine
end

