-- ==== Sys2Proof/Machine/Num.lean ====
section
/-!
DEFINITION. Number formats and arithmetic (spec/05_numbers.md): integer and floating formats, exact values, the one
rounding of R86, the stochastic generator, and the special functions.
-/
namespace Sys2Proof.Machine

/-- `f (n-1) (... (f 1 (f 0 a)))`: a loop over 0 … n−1 in ascending order. -/
def loopUp {α : Type} : Nat → (Nat → α → α) → α → α
  | 0, _, a => a
  | n + 1, f, a => f n (loopUp n f a)

/-! ## Formats (R65 Table 5, R81, R83) -/

/-- The width in bits of one element of a format; 0 for the codes without an element of their own. -/
def fmtWidth (code : Nat) : Nat :=
  match code with
  | 1 => 8 | 2 => 16 | 3 => 32 | 4 => 64 | 5 => 8 | 6 => 16 | 7 => 32 | 8 => 64
  | 9 => 32 | 10 => 16 | 11 => 16 | 12 => 8 | 13 => 8 | 14 => 6 | 15 => 6 | 16 => 4 | 17 => 4
  | _ => 0

/-- A signed integer format. -/
def fmtSigned (code : Nat) : Bool := code == 17 || (1 ≤ code && code ≤ 4)

/-- An integer format (R81). -/
def fmtIsInt (code : Nat) : Bool := code == 17 || (1 ≤ code && code ≤ 8)

/-- A floating format (R83). -/
def fmtIsFloat (code : Nat) : Bool := 9 ≤ code && code ≤ 16

/-- What R83 Table 2 gives a floating format: exponent bits, fraction bits, bias, whether it has infinities, its
canonical NaN where it has one, and the pattern of its largest finite value. -/
structure FloatFmt where
  ebits : Nat
  mbits : Nat
  bias : Nat
  infs : Bool
  nan : Option Nat
  maxPat : Nat
deriving DecidableEq, Repr

def floatFmt (code : Nat) : FloatFmt :=
  match code with
  | 9 => ⟨8, 23, 127, true, some 0x7FC00000, 0x7F7FFFFF⟩
  | 10 => ⟨5, 10, 15, true, some 0x7E00, 0x7BFF⟩
  | 11 => ⟨8, 7, 127, true, some 0x7FC0, 0x7F7F⟩
  | 12 => ⟨5, 2, 15, true, some 0x7E, 0x7B⟩
  | 13 => ⟨4, 3, 7, false, some 0x7F, 0x7E⟩
  | 14 => ⟨3, 2, 3, false, none, 0x1F⟩
  | 15 => ⟨2, 3, 1, false, none, 0x1F⟩
  | _ => ⟨2, 1, 1, false, none, 0x7⟩

/-- The width of a floating pattern, sign included. -/
def FloatFmt.width (f : FloatFmt) : Nat := f.ebits + f.mbits + 1

/-! ## Exact values -/

/-- A value before rounding: not a number, an infinity, or ±(m + δ)·2^e, where δ is 0, or lies strictly between 0 and 1
when `sticky` is set. -/
inductive Val where
  | nan
  | inf (neg : Bool)
  | num (neg : Bool) (m : Nat) (e : Int) (sticky : Bool)
deriving DecidableEq, Repr

def Val.zero (neg : Bool) : Val := .num neg 0 0 false

/-- The exact value of an integer. -/
def Val.ofInt (v : Int) : Val := .num (v < 0) v.natAbs 0 false

/-- The value of a floating pattern (R83). -/
def floatVal (f : FloatFmt) (p : Nat) : Val :=
  let neg := bit p (f.ebits + f.mbits)
  let e := bits p (f.ebits + f.mbits - 1) f.mbits
  let m := p % 2 ^ f.mbits
  let mag := e * 2 ^ f.mbits + m
  if f.maxPat < mag then
    if f.infs && m == 0 then .inf neg else .nan
  else if e = 0 then .num neg m (1 - (f.bias : Int) - f.mbits) false
  else .num neg (2 ^ f.mbits + m) ((e : Int) - f.bias - f.mbits) false

/-- The exact value of an element of a format, integer or floating. -/
def elemVal (code p : Nat) : Val :=
  if fmtIsFloat code then floatVal (floatFmt code) p
  else if fmtSigned code then .ofInt (signed (fmtWidth code) p)
  else .ofInt ((p % 2 ^ fmtWidth code : Nat) : Int)

def Val.isNan : Val → Bool
  | .nan => true | _ => false

def Val.isInf (neg : Bool) : Val → Bool
  | .inf n => n == neg | _ => false

def Val.isZero : Val → Bool
  | .num _ m _ s => m == 0 && !s | _ => false

def Val.isNeg : Val → Bool
  | .nan => false | .inf n => n | .num n _ _ _ => n

def Val.neg : Val → Val
  | .nan => .nan | .inf n => .inf !n | .num n m e s => .num (!n) m e s

/-- The product of two exact values, with the special values of IEEE 754. -/
def Val.mul : Val → Val → Val
  | .nan, _ => .nan
  | _, .nan => .nan
  | .inf a, .inf b => .inf (a != b)
  | .inf a, .num b m _ _ => if m = 0 then .nan else .inf (a != b)
  | .num a m _ _, .inf b => if m = 0 then .nan else .inf (a != b)
  | .num a m e _, .num b n f _ => .num (a != b) (m * n) (e + f) false

/-- A dyadic number m·2^e. -/
structure Dyadic where
  m : Int
  e : Int
deriving DecidableEq, Repr

def Dyadic.add (a b : Dyadic) : Dyadic :=
  if a.e ≤ b.e then ⟨a.m + b.m * 2 ^ (b.e - a.e).toNat, a.e⟩ else ⟨a.m * 2 ^ (a.e - b.e).toNat + b.m, b.e⟩

/-- The dyadic number of an exact finite value. -/
def Val.dyadic : Val → Dyadic
  | .num n m e _ => ⟨if n then -(m : Int) else m, e⟩
  | _ => ⟨0, 0⟩

def dyadicSum : List Val → Dyadic
  | [] => ⟨0, 0⟩
  | v :: r => v.dyadic.add (dyadicSum r)

/-- The exact sum of a list of values (R84, R95): NaN when one is NaN or infinities of both signs meet, an infinity when
one is; an exact zero keeps the common sign of zero terms, and is otherwise + but − when rounding toward −∞. -/
def sumVals (l : List Val) (rdn : Bool) : Val :=
  if l.any Val.isNan || (l.any (Val.isInf false) && l.any (Val.isInf true)) then .nan
  else if l.any (Val.isInf false) then .inf false
  else if l.any (Val.isInf true) then .inf true
  else
    let d := dyadicSum l
    if d.m = 0 then
      if l.all (fun v => v.isZero && v.isNeg) && !l.isEmpty then .zero true
      else if l.all (fun v => v.isZero && !v.isNeg) then .zero false
      else .zero rdn
    else .num (d.m < 0) d.m.natAbs d.e false

/-- −1, 0 or 1 as x is less than, equal to or greater than y, for values that are not NaN; −0 equals +0. -/
def Val.compare (x y : Val) : Int :=
  match x, y with
  | .inf a, .inf b => if a == b then 0 else if a then -1 else 1
  | .inf a, _ => if a then -1 else 1
  | _, .inf b => if b then 1 else -1
  | x, y =>
    let d := x.dyadic.add ⟨-y.dyadic.m, y.dyadic.e⟩
    if d.m < 0 then -1 else if d.m = 0 then 0 else 1

/-! ## Rounding (R85 to R88) -/

/-- The rounding modes of R85 Table 4. -/
inductive Rnd where
  | rne | rtz | rup | rdn | rna | sr
deriving DecidableEq, Repr

def rndOf (code : Nat) : Rnd :=
  match code with
  | 0 => .rne | 1 => .rtz | 2 => .rup | 3 => .rdn | 4 => .rna | _ => .sr

/-- The floor of |x| / 2^qe and whether R86 rounds it up, for |x| = (m + δ)·2^e. -/
def roundAt (neg : Bool) (m : Nat) (e : Int) (sticky : Bool) (qe : Int) (mode : Rnd) (rb : Nat) : Nat × Bool :=
  let sh := (qe - e).toNat
  let lo := if qe ≤ e then m * 2 ^ (e - qe).toNat else m / 2 ^ sh
  let rem := if qe ≤ e then 0 else m % 2 ^ sh
  let half := if qe ≤ e then 1 else 2 ^ (sh - 1)
  let pos := decide (0 < rem) || sticky
  let up := match mode with
    | .rne => decide (half < rem) || (rem == half && (sticky || lo % 2 == 1))
    | .rna => decide (half ≤ rem)
    | .rtz => false
    | .rup => pos && !neg
    | .rdn => pos && neg
    | .sr => pos && decide (2 ^ 16 ≤ rem * 2 ^ 16 / 2 ^ sh + rb)
  (lo, up)

/-- A pattern of sign and magnitude. -/
def signPat (f : FloatFmt) (neg : Bool) (mag : Nat) : Nat := (if neg then 2 ^ (f.ebits + f.mbits) else 0) + mag

/-- The magnitude of an overflow (R86). -/
def overflowMag (f : FloatFmt) (neg : Bool) (mode : Rnd) (sat : Bool) : Nat :=
  let infPat := (2 ^ f.ebits - 1) * 2 ^ f.mbits
  if sat || !f.infs then f.maxPat
  else match mode with
    | .rne | .rna | .sr => infPat
    | .rtz => f.maxPat
    | .rup => if neg then f.maxPat else infPat
    | .rdn => if neg then infPat else f.maxPat

/-- `round` of R86 into a floating format, then `.ftz` (R88). -/
def roundFloat (f : FloatFmt) (mode : Rnd) (sat ftz : Bool) (rb : Nat) (x : Val) : Nat :=
  match x with
  | .nan => f.nan.getD 0
  | .inf neg => signPat f neg (if f.infs && !sat then (2 ^ f.ebits - 1) * 2 ^ f.mbits else f.maxPat)
  | .num neg m e sticky =>
    if m = 0 && !sticky then signPat f neg 0
    else
      let emin : Int := 1 - (f.bias : Int)
      let lg : Int := if m = 0 then emin - 1 else (Nat.log2 m : Int) + e
      let qe := max lg emin - f.mbits
      let (lo, up) := roundAt neg m e sticky qe mode rb
      let r := lo + flag up
      let mag := if r < 2 ^ f.mbits then r else (qe + f.mbits + f.bias).toNat * 2 ^ f.mbits + (r - 2 ^ f.mbits)
      if f.maxPat < mag then signPat f neg (overflowMag f neg mode sat)
      else if ftz && mag < 2 ^ f.mbits then signPat f neg 0
      else signPat f neg mag

/-- Rounding to an integer without a clamp (R87: R86 with q = 1). -/
def roundInt (mode : Rnd) (rb : Nat) (neg : Bool) (m : Nat) (e : Int) (sticky : Bool) : Int :=
  let (lo, up) := roundAt neg m e sticky 0 mode rb
  if neg then -((lo + flag up : Nat) : Int) else ((lo + flag up : Nat) : Int)

/-- The smallest and the largest value of an integer format. -/
def intMin (code : Nat) : Int := if fmtSigned code then -((2 ^ (fmtWidth code - 1) : Nat) : Int) else 0
def intMax (code : Nat) : Int :=
  if fmtSigned code then ((2 ^ (fmtWidth code - 1) : Nat) : Int) - 1 else ((2 ^ fmtWidth code : Nat) : Int) - 1

def clampTo (lo hi v : Int) : Int := if v < lo then lo else if hi < v then hi else v

/-- Clamp to the range of an integer format. -/
def clampFmt (code : Nat) (v : Int) : Int := clampTo (intMin code) (intMax code) v

/-- `round` of R87 into an integer format. -/
def roundToInt (code : Nat) (mode : Rnd) (rb : Nat) (x : Val) : Nat :=
  wrap (fmtWidth code) <| match x with
    | .nan => 0
    | .inf neg => if neg then intMin code else intMax code
    | .num neg m e sticky => clampFmt code (roundInt mode rb neg m e sticky)

/-- `round` into any element format (R86, R87). -/
def roundTo (code : Nat) (mode : Rnd) (sat ftz : Bool) (rb : Nat) (x : Val) : Nat :=
  if fmtIsFloat code then roundFloat (floatFmt code) mode sat ftz rb x else roundToInt code mode rb x

/-- Every finite value of format `s` is a value of format `d` (R98). -/
def exactPair (s d : Nat) : Bool :=
  if s == d then true
  else if fmtIsInt s then
    if fmtIsInt d then decide (intMin d ≤ intMin s) && decide (intMax s ≤ intMax d)
    else
      let f := floatFmt d
      let mag := if fmtSigned s then fmtWidth s - 1 else fmtWidth s
      decide (mag ≤ f.mbits + 1) &&
        (decide (roundFloat f .rtz true false 0 (.ofInt (intMax s)) ≤ f.maxPat) &&
          (floatVal f (roundFloat f .rtz true false 0 (.ofInt (intMax s)))).compare (.ofInt (intMax s)) == 0 &&
          (floatVal f (roundFloat f .rtz true false 0 (.ofInt (intMin s)))).compare (.ofInt (intMin s)) == 0)
  else if fmtIsInt d then false
  else
    let a := floatFmt s
    let b := floatFmt d
    decide (a.mbits ≤ b.mbits) && decide ((b.bias : Int) + b.mbits ≥ (a.bias : Int) + a.mbits) &&
      (floatVal a a.maxPat).compare (floatVal b b.maxPat) ≤ 0

/-- `fround` (R138): rounding to an integral value of the same format. -/
def froundPat (f : FloatFmt) (mode : Rnd) (rb p : Nat) : Nat :=
  match floatVal f p with
  | .num neg m e sticky =>
    if m = 0 || 0 ≤ e then p
    else
      let (lo, up) := roundAt neg m e sticky 0 mode rb
      roundFloat f .rne false false 0 (.num neg (lo + flag up) 0 false)
  | x => roundFloat f .rne false false 0 x

/-! ## The stochastic generator (R89) -/

/-- The SplitMix64 finaliser. -/
def mix (z : Nat) : Nat :=
  let z := ((z ^^^ (z >>> 30)) * 0xBF58476D1CE4E5B9) % 2 ^ 64
  let z := ((z ^^^ (z >>> 27)) * 0x94D049BB133111EB) % 2 ^ 64
  z ^^^ (z >>> 31)

/-- The next generator state. -/
def genNext (g : Nat) : Nat := (g + 0x9E3779B97F4A7C15) % 2 ^ 64

/-- The 16-bit random value of a generator state. -/
def genBits (g : Nat) : Nat := mix g >>> 48

/-! ## Special functions (R85, R137): correctly rounded -/

/-- The integer square root, bit by bit from bit `k`. -/
def isqrtFrom : Nat → Nat → Nat → Nat
  | 0, _, r => r
  | k + 1, n, r =>
    let r' := r + 2 ^ k
    isqrtFrom k n (if r' * r' ≤ n then r' else r)

def isqrt (n : Nat) : Nat := isqrtFrom (Nat.log2 n / 2 + 1) n 0

/-- 1/x. -/
def recipVal : Val → Val
  | .nan => .nan
  | .inf n => .zero n
  | .num n m e _ =>
    if m = 0 then .inf n
    else
      let k := Nat.log2 m + 72
      .num n (2 ^ k / m) (-(k : Int) - e) (2 ^ k % m != 0)

/-- √x. -/
def sqrtVal : Val → Val
  | .nan => .nan
  | .inf n => if n then .nan else .inf false
  | .num n m e _ =>
    if m = 0 then .zero n
    else if n then .nan
    else
      let k : Nat := 160 + (if (e % 2) = 0 then 0 else 1)
      let v := m * 2 ^ k
      let r := isqrt v
      .num false r ((e - k) / 2) (r * r != v)

/-- 1/√x. -/
def rsqrtVal : Val → Val
  | .nan => .nan
  | .inf n => if n then .nan else .zero false
  | .num n m e _ =>
    if m = 0 then .inf n
    else if n then .nan
    else
      let m' := if (e % 2) = 0 then m else 2 * m
      let e' := if (e % 2) = 0 then e else e - 1
      let k := Nat.log2 m' / 2 + 80
      let r := isqrt (2 ^ (2 * k) / m')
      .num false r (-(k : Int) - e' / 2) (r * r * m' != 2 ^ (2 * k))

/-- Fixed-point precision of the series below, in bits. -/
def seriesBits : Nat := 320

/-- Σ u^(2k+1)/(2k+1) for k < n, at the series precision, from below: `p` is the current odd power. -/
def atanhSum : Nat → Nat → Nat → Nat → Nat
  | 0, _, _, _ => 0
  | n + 1, u2, p, k => p / k + atanhSum n u2 (p * u2 / 2 ^ seriesBits) (k + 2)

/-- 2·atanh(a/b) at the series precision, from below. -/
def lnRatio (a b : Nat) : Nat :=
  let u := a * 2 ^ seriesBits / b
  2 * atanhSum 120 (u * u / 2 ^ seriesBits) u 1

/-- ln 2 at the series precision, from below. -/
def ln2Fix : Nat := lnRatio 1 3

/-- Σ y^k/k! from k on, at the series precision, from below. -/
def expSum : Nat → Nat → Nat → Nat → Nat
  | 0, _, _, _ => 0
  | n + 1, y, t, k => t + expSum n y (t * y / 2 ^ seriesBits / (k + 1)) (k + 1)

/-- What the truncations of the series can add up to, in units of the last place. -/
def seriesSlack : Nat := 2 ^ 12

/-- Round a value known to lie strictly between two bounds: the common rounding of both, or, where they differ, the one
the free value of Config names (log 15). -/
def roundBetween (f : FloatFmt) (mode : Rnd) (sat ftz : Bool) (rb : Nat) (neg : Bool) (lo hi : Nat) (e : Int) : Nat :=
  let a := roundFloat f mode sat ftz rb (.num neg lo e true)
  let b := roundFloat f mode sat ftz rb (.num neg hi e true)
  if a = b then a else if Config.hardCase lo then b else a

/-- 2^x rounded (R137). A dyadic x that is no integer has an irrational power, so its rounding is never a tie. -/
def exp2Round (f : FloatFmt) (mode : Rnd) (sat ftz : Bool) (rb : Nat) (x : Val) : Nat :=
  match x with
  | .nan => roundFloat f mode sat ftz rb .nan
  | .inf n => roundFloat f mode sat ftz rb (if n then .zero false else .inf false)
  | .num neg m e _ =>
    let v : Int := if neg then -(m : Int) else m
    if 0 ≤ e || m = 0 then
      let n := clampTo (-4000) 4000 (v * 2 ^ (min e.toNat 20))
      roundFloat f mode sat ftz rb (.num false 1 n false)
    else
      let d := (-e).toNat
      let n := v / (2 ^ d : Nat)
      if n < -4000 then roundFloat f mode sat ftz rb (.num false 1 (-4000) true)
      else if 4000 < n then roundFloat f mode sat ftz rb (.num false 1 4000 true)
      else
        let fr := (v % (2 ^ d : Nat)).toNat
        if fr = 0 then roundFloat f mode sat ftz rb (.num false 1 n false)
        else
          let y := ln2Fix * fr / 2 ^ d
          let s := expSum 100 y (2 ^ seriesBits) 0
          roundBetween f mode sat ftz rb false s (s + seriesSlack) (n - seriesBits)

/-- log₂ x rounded (R137). -/
def log2Round (f : FloatFmt) (mode : Rnd) (sat ftz : Bool) (rb : Nat) (x : Val) : Nat :=
  match x with
  | .nan => roundFloat f mode sat ftz rb .nan
  | .inf n => roundFloat f mode sat ftz rb (if n then .nan else .inf false)
  | .num neg m e _ =>
    if m = 0 then roundFloat f mode sat ftz rb (.inf true)
    else if neg then roundFloat f mode sat ftz rb .nan
    else
      let k := Nat.log2 m
      let ip : Int := (k : Int) + e
      if m = 2 ^ k then
        roundFloat f mode sat ftz rb (if ip = 0 then .zero false else .ofInt ip)
      else
        let l := lnRatio (m - 2 ^ k) (m + 2 ^ k) * 2 ^ seriesBits / ln2Fix
        let v : Int := ip * (2 ^ seriesBits : Nat) + l
        let a := v - seriesSlack
        let b := v + seriesSlack
        if v < 0 then roundBetween f mode sat ftz rb true b.natAbs a.natAbs (-(seriesBits : Int))
        else roundBetween f mode sat ftz rb false a.natAbs b.natAbs (-(seriesBits : Int))

end Sys2Proof.Machine
end

