-- ==== Sys2Proof/Machine/Guard.lean ====
section
/-!
DEFINITION. Guards and lanes (spec/04 R60 to R63): which lanes of an instruction are active, and the merge of a result
into the lanes of a register.
-/
namespace Sys2Proof.Machine

/-- The guard's value at predicate bit `k` (R61). -/
def Thread.guardBit (t : Thread) (g : BitVec 8) (k : Nat) : Bool :=
  let a := (t.pred t.gfA).getLsbD k
  let b := (t.pred t.gfB).getLsbD k
  let c := (t.pred t.gfC).getLsbD k
  g.getLsbD (4 * flag a + 2 * flag b + flag c)

/-- Lane `l` of width `w` is active. -/
def Thread.active (t : Thread) (g : BitVec 8) (w l : Nat) : Bool := t.guardBit g (l * w / 4)

/-- A scalar instruction is live. -/
def Thread.live0 (t : Thread) (g : BitVec 8) : Bool := t.guardBit g 0

/-- Some lane of width `w` is active. -/
def Thread.live (t : Thread) (g : BitVec 8) (w : Nat) : Bool := (List.range (128 / w)).any (t.active g w)

/-- The nibbles that belong to active lanes of width `w`, a bit for each of the 32 nibbles of a register. -/
def Thread.nibbleMask (t : Thread) (g : BitVec 8) (w : Nat) : Nat :=
  loopUp 32 (fun i m => if t.guardBit g (i / (w / 4) * (w / 4)) then m + 2 ^ i else m) 0

/-- Lane `l` of width `w` of a 128-bit number. -/
def lane (v w l : Nat) : Nat := v / 2 ^ (w * l) % 2 ^ w

/-- Put `x` into lane `l` of width `w`. -/
def setLane (v w l x : Nat) : Nat := v - lane v w l * 2 ^ (w * l) + x % 2 ^ w * 2 ^ (w * l)

/-- Merge `new` into `old` in the nibbles of a mask. -/
def mergeNibbles (old new mask : Nat) : Nat :=
  loopUp 32 (fun i v => if bit mask i then setLane v 4 i (lane new 4 i) else v) old

/-- `f` on each lane of width `w`, packed. -/
def mapLanes (w : Nat) (f : Nat → Nat) : Nat := loopUp (128 / w) (fun l v => v + f l % 2 ^ w * 2 ^ (w * l)) 0

end Sys2Proof.Machine
end

