-- ==== Sys2Proof/Machine/Crew.lean ====
section
/-!
DEFINITION. Crews and barriers at their home (spec/19 R340 to R346, spec/20 R350 to R353): arrivals, releases,
boundaries and departures. Each operation is one step of the home.
-/
namespace Sys2Proof.Machine

def State.crew (s : State) (i : Nat) : Crew := Store.get Crew.free s.crews i
def State.setCrew (s : State) (i : Nat) (v : Crew) : State := { s with crews := Store.put Crew.free s.crews i v }

/-- The present cycle of the standard track, which untracked counts mean (00 R4). -/
def State.tick (s : State) : Nat := s.osc / 35

/-- The crew table holds 16,384 entries; a crew of a peer package is named by its package and entry, above them. -/
def crewEntries : Nat := 16384
def peerCrew (pkg ci : Nat) : Nat := (pkg + 1) * crewEntries + ci

/-- The name of a thread of this package as a member. -/
def State.memberOf (s : State) (t : Thread) : MemberId := s.pkg * 2 ^ 64 + t.gtid.toNat

/-- Phase `k` is released when PHASE stands at `phase` (R351). -/
def phaseReleased (phase k : Nat) : Bool :=
  let d := (phase + 2 ^ 32 - k % 2 ^ 32) % 2 ^ 32
  1 ≤ d && d < 2 ^ 31

/-! ## Reductions (R344) -/

/-- The identity of a reduction in one lane. -/
def redIdentity (op ty : Nat) : Nat :=
  let w := fmtWidth ty
  match op with
  | 1 => wrap w (intMax ty)
  | 2 => wrap w (intMin ty)
  | 3 => 2 ^ w - 1
  | 6 => 2 ^ (w - 1)
  | _ => 0

/-- A lane read as an integer of a format. -/
def intVal (ty x : Nat) : Int := if fmtSigned ty then signed (fmtWidth ty) x else ((x % 2 ^ fmtWidth ty : Nat) : Int)

/-- The combination of two lanes. -/
def redCombine (op ty x y : Nat) : Nat :=
  match op with
  | 0 => (x + y) % 2 ^ fmtWidth ty
  | 1 => if intVal ty x ≤ intVal ty y then x else y
  | 2 => if intVal ty x ≤ intVal ty y then y else x
  | 3 => x &&& y
  | 4 => x ||| y
  | 5 => x ^^^ y
  | _ => roundFloat (floatFmt ty) .rne false false 0
           (sumVals [floatVal (floatFmt ty) x, floatVal (floatFmt ty) y] false)

/-- Two registers, lane by lane. -/
def redLanes (op ty : Nat) (x y : Word128) : Word128 :=
  BitVec.ofNat 128 (mapLanes (fmtWidth ty) fun l => redCombine op ty (lane x.toNat (fmtWidth ty) l) (lane y.toNat (fmtWidth ty) l))

/-- One level of the tree: neighbours combined; a last one alone meets the identity of the padding. -/
def redPairs (op ty : Nat) (ident : Word128) : List Word128 → List Word128
  | a :: b :: r => redLanes op ty a b :: redPairs op ty ident r
  | [a] => [redLanes op ty a ident]
  | [] => []

/-- The tree over the contributions in rank order, padded with the identity to a power of two. -/
def redTree (op ty : Nat) (ident : Word128) : Nat → List Word128 → Word128
  | 0, l => l.headD ident
  | n + 1, l => match l with
    | [] => ident
    | [a] => a
    | l => redTree op ty ident n (redPairs op ty ident l)

/-- The identity in every lane. -/
def redIdentReg (op ty : Nat) : Word128 := BitVec.ofNat 128 (mapLanes (fmtWidth ty) fun _ => redIdentity op ty)

/-- The value of a phase from its arrivals: the number of votes of 1, or the reduction. -/
def Barrier.value (b : Barrier) : Word128 :=
  match b.kind with
  | some (.red op ty) =>
    let ident := redIdentReg op ty
    redTree op ty ident 17 (b.ranks.map fun m => ((b.arrivals.find? fun a => a.who == m).map (·.value)).getD ident)
  | some (.vote _) => BitVec.ofNat 128 ((b.arrivals.filter fun a => a.value.toNat % 2 == 1).length)
  | _ => 0

/-! ## What a thread receives (R342, R343, R344, R356, R358) -/

/-- Write k, or its complement, to bits `w−1:0` of a predicate pair, in `.set` mode. -/
def Thread.setPair (t : Thread) (pd w : Nat) (k : Bool) : Thread :=
  let m : Word32 := BitVec.ofNat 32 (2 ^ w - 1)
  let put (old : Word32) (v : Bool) : Word32 := if v then old ||| m else old &&& ~~~m
  (t.setPred pd (put (t.pred pd) k)).setPred (pd + 1) (put (t.pred (pd + 1)) (!k))

/-- A thread past the instruction it stands at. -/
def Thread.pass (t : Thread) (words : Nat) : Thread := { t with pc := t.pc + BitVec.ofNat 64 (4 * words), reissue := false, skipBp := false }

/-- The collective of a thread completes with the result of its phase. -/
def Thread.takeResult (t : Thread) (r : PhaseResult) (stale : Bool) (kind : Nat) (e : Fields) : Thread :=
  let t := { t with wait := .none }
  let t := match kind with
    | 0 => t.setReg e.d (lanes64 r.phase (flag r.damaged) 4)
    | 1 => t.setReg e.d (lanes64 r.phase (if stale then 2 else flag r.damaged) 4)
    | 2 =>
      if e.xop == 2 then t.setReg e.d (lanes64 r.value.toNat 0 4)
      else t.setPair e.d.toNat 16 (if e.xop == 0 then r.value != 0 else r.value.toNat == r.arrived)
    | _ => match r.kind with
      | .red _ ty =>
        let w := fmtWidth ty
        let v := mergeNibbles (t.reg e.d).bits.toNat r.value.toNat (t.nibbleMask e.g w)
        let t := t.setReg e.d ⟨BitVec.ofNat 128 v, false, BitVec.ofNat 5 ty⟩
        if e.mod.getLsbD 1 then t.setReg (e.d + 1) (lanes64 r.arrived 0 4) else t
      | _ => t
  t.pass e.form.words

/-- Every thread in a slot that waits for a phase of the barrier that is released takes its result. -/
def State.giveResults (s : State) (ci b : Nat) (bar : Barrier) : State :=
  { s with slots := s.slots.map fun e =>
      match e.2.thread with
      | some t =>
        match t.wait with
        | .crew c b' k kind f =>
          if c = ci ∧ b' = b ∧ phaseReleased bar.phase k then
            let r := (bar.results.find? fun r => r.phase == k).getD
              { phase := k, damaged := bar.lastDamaged, kind := .plain, value := 0, arrived := 0, takers := [] }
            let stale := k != (bar.phase + 2 ^ 32 - 1) % 2 ^ 32
            (e.1, { e.2 with thread := some (t.takeResult r stale kind f) })
          else e
        | _ => e
      | none => e }

/-- A member has taken its result, or is owed none: it is no taker of a barrier's results. -/
def State.dropTaker (s : State) (ci b : Nat) (m : MemberId) : State :=
  let c := s.crew ci
  let bar := c.bar b
  s.setCrew ci (c.setBar b { bar with
    results := (bar.results.map fun x => { x with takers := x.takers.erase m }).filter fun x => !x.takers.isEmpty })

/-- The threads in slots with a waiting collective on a crew stop being named as takers once they have their results. -/
def State.slotMembers (s : State) : List MemberId := s.slots.filterMap fun e => e.2.thread.map s.memberOf

/-! ## Releases and boundaries -/

/-- No member of the open phase is awaited, after an arrival or a departure (R350, R351). -/
def Barrier.complete (b : Barrier) : Bool :=
  (!b.arrivals.isEmpty || b.due) && b.counted.all fun m => b.arrivals.any fun a => a.who == m

/-- Open the next phase over the members present (R351), with the ranks of the last boundary (R344). -/
def Barrier.openNext (b : Barrier) (members ranks : List MemberId) (keep : List PhaseResult) : Barrier :=
  { b with phase := (b.phase + 1) % 2 ^ 32, kind := none, counted := members, ranks, arrivals := []
           damaged := false, due := false, lastDamaged := b.damaged, results := keep }

/-- Members depart from a barrier: they are no longer awaited, and their held arrivals go (R341). -/
def Barrier.drop (b : Barrier) (l : List MemberId) : Barrier :=
  { b with counted := b.counted.filter fun m => !l.contains m
           held := b.held.filter fun a => !l.contains a.who
           due := b.due || b.counted.any l.contains }

/-- The members whose join or leave was performed in the present cycle: an arrival in it is taken first (R340). A crew without
members has its boundary at once. -/
def Crew.lateNow (c : Crew) (tick : Nat) : List MemberId := if c.lateAt = tick + 1 ∧ c.members ≠ [] then c.late else []

/-- A member's join or leave is performed in the present cycle. -/
def Crew.addLate (c : Crew) (tick : Nat) (m : MemberId) : Crew :=
  { c with late := m :: (if c.lateAt = tick + 1 then c.late else []), lateAt := tick + 1 }

/-- Members in the order of their global task identifiers. -/
def MemberId.before (a b : MemberId) : Bool :=
  decide (a % 2 ^ 64 < b % 2 ^ 64) || (a % 2 ^ 64 == b % 2 ^ 64 && decide (a < b))

/-- A join goes behind those of earlier cycles, and among those of its cycle by identifier (R340). -/
def insertJoin (late : List MemberId) (m : MemberId) : List MemberId → List MemberId
  | [] => [m]
  | x :: r => if late.contains x && MemberId.before m x then m :: x :: r else x :: insertJoin late m r

/-- The leaves and the joins that a boundary applies. -/
def Crew.leaving (c : Crew) (late : List MemberId) : List MemberId := c.leaves.filter fun m => !late.contains m
def Crew.joining (c : Crew) (late : List MemberId) : List MemberId := c.joins.filter fun m => !late.contains m

/-- The boundary of barrier 0 (R340): leaves, joins, ranks, but for what `late` has asked in its cycle. A leaver leaves the other
barriers too; a `cwait` of its goes on. -/
def Crew.boundary (c : Crew) (late : List MemberId) : Crew :=
  let gone := c.leaving late
  let drop (b : Barrier) : Barrier := b.drop gone
  let ms := (c.members.filter fun m => !gone.contains m) ++ c.joining late
  { c with members := ms, ranks := ms, joins := c.joins.filter late.contains, leaves := c.leaves.filter late.contains
           bar0 := drop c.bar0, bar1 := drop c.bar1, bar2 := drop c.bar2, bar3 := drop c.bar3 }

/-- The members whose held arrivals have another kind than the first, and are not counted when their phase opens (R342). -/
def Barrier.heldOdd (b : Barrier) : List MemberId :=
  match b.held with
  | [] => []
  | a :: r => (r.filter fun x => x.kind != a.kind).map (·.who)

/-- Take the held arrivals of a barrier into the phase that has just opened (R352). -/
def Barrier.takeHeld (b : Barrier) : Barrier :=
  match b.held with
  | [] => b
  | a :: r =>
    { b with kind := some a.kind, arrivals := b.arrivals ++ (a :: r).filter (fun x => x.kind == a.kind), held := [] }

/-- What a held arrival's wait becomes when its phase opens: the thread waits for that phase. -/
def Wait.heldTaken (w : Wait) (ci b phase : Nat) : Wait :=
  match w with
  | .crewHeld c b' kind f => if c = ci ∧ b' = b then .crew ci b phase kind f else w
  | w => w

/-- Threads whose held arrivals have been taken now wait for their phase. -/
def State.heldTaken (s : State) (ci b phase : Nat) : State :=
  { s with
    slots := s.slots.map fun e =>
      match e.2.thread with
      | some t => (e.1, { e.2 with thread := some { t with wait := t.wait.heldTaken ci b phase } })
      | none => e
    ctxs := s.ctxs.map fun e =>
      (e.1, { e.2 with saved := e.2.saved.map fun x => { x with crewWait := x.crewWait.map fun w => w.heldTaken ci b phase } }) }

/-- The package of a member. -/
def memberPkg (m : MemberId) : Nat := m / 2 ^ 64

/-- Operations for other packages are held until the step ends. -/
def State.tell (s : State) (pkgs : List Nat) (op : PeerOp) : State :=
  { s with peerOut := s.peerOut ++ ((pkgs.filter (· != s.pkg)).eraseDups.map fun p => (p, op)) }

/-- A wait for a barrier of a crew, or one whose held arrival would be taken there. -/
def Wait.onBarrier (w : Wait) (ci b : Nat) : Bool :=
  match w with
  | .crew c b' _ kind _ => c == ci && b' == b && kind != 1
  | .crewHeld c b' _ _ => c == ci && b' == b
  | _ => false

/-- A member of this package takes a crew-broken trap for an arrival on a barrier that was held and is not counted (R342,
R352): at the collective where it waits for it, else where it then stands, or when it has been restored (log 89). -/
def State.breakMember (s : State) (ci b : Nat) (who : MemberId) (cause : Nat) : State :=
  let w (x : Wait) : Wait := if x.onBarrier ci b then .none else x
  { s with
    slots := s.slots.map fun e =>
      match e.2.thread with
      | some t => if s.memberOf t = who then (e.1, { e.2 with thread := some { t with wait := w t.wait, due := some (5, cause) } }) else e
      | none => e
    ctxs := s.ctxs.map fun e =>
      (e.1, { e.2 with saved := e.2.saved.map fun v =>
        if s.pkg * 2 ^ 64 + v.gtid.toNat = who then
          { v with crewWait := v.crewWait.filter (fun x => !x.onBarrier ci b), due := some (5, cause) }
        else v })
    conts := s.conts.map fun v => if s.pkg * 2 ^ 64 + v.gtid.toNat = who then { v with due := some (5, cause) } else v }

/-- The members of held arrivals that are not counted are broken, here or on their packages. -/
def State.breakHeld (s : State) (ci b cause : Nat) (l : List MemberId) : State :=
  l.foldl (fun s m => if memberPkg m = s.pkg then s.breakMember ci b m cause else s.tell [memberPkg m] (.odd ci b m cause)) s

/-- The boundary of a crew is applied (R340): leavers whose arrivals were held and wait are broken, and leavers and joiners of peer
packages are told. -/
def State.applyBoundary (s : State) (ci : Nat) : State :=
  let c := s.crew ci
  let late := c.lateNow s.tick
  let s := s.setCrew ci (c.boundary late)
  let s := (c.leaving late).foldl (fun s m => s.tell [memberPkg m] (.left ci m)) s
  let s := (c.joining late).foldl (fun s m => s.tell [memberPkg m] (.joined ci m c.gang)) s
  (List.range 4).foldl (fun s b =>
    s.breakHeld ci b 3 (((c.bar b).held.filter fun a => a.waits && (c.leaving late).contains a.who).map (·.who))) s

/-- Release the open phase of a barrier (R350, R353): fix its result, open the next phase, apply the boundary of
barrier 0, give the results and take the held arrivals. Results of members on peer packages are sent to them. -/
def State.releaseOnce (s : State) (ci b : Nat) : State :=
  let c := s.crew ci
  let bar := c.bar b
  let inSlots := s.slotMembers
  let res : PhaseResult :=
    { phase := bar.phase, damaged := bar.damaged, kind := bar.kind.getD .plain, value := bar.value
      arrived := bar.arrivals.length, takers := (bar.arrivals.filter (·.waits)).map (·.who) }
  let s := if b % 4 = 0 then s.applyBoundary ci else s
  let c := s.crew ci
  let bar := (c.bar b).openNext c.members c.ranks (res :: bar.results)
  let s := s.giveResults ci b bar
  let ended (w : MemberId × Nat) : Bool := phaseReleased bar.phase w.2
  let s := s.tell ((res.takers ++ (bar.awaits.filter ended).map (·.1)).map memberPkg) (.release ci b res)
  let bar := { bar with awaits := bar.awaits.filter fun w => !ended w }
  let near (m : MemberId) : Bool := !inSlots.contains m && memberPkg m == s.pkg
  let keep := (bar.results.map fun r => { r with takers := r.takers.filter near }).filter fun r => !r.takers.isEmpty
  let held : Barrier := { bar with results := keep }
  ((s.setCrew ci (c.setBar b held.takeHeld)).breakHeld ci b 2 held.heldOdd).heldTaken ci b bar.phase

/-- Barrier 0 has a boundary at once when the crew has no members and a join is pending (R340). -/
def Crew.boundaryDue (c : Crew) : Bool := c.members.isEmpty && !c.joins.isEmpty

/-- Release every barrier whose open phase is complete, until none is. -/
def State.settle (s : State) (ci : Nat) : Nat → State
  | 0 => s
  | n + 1 =>
    let c := s.crew ci
    if c.bar0.complete || c.boundaryDue then State.settle (s.releaseOnce ci 0) ci n
    else if c.bar1.complete then State.settle (s.releaseOnce ci 1) ci n
    else if c.bar2.complete then State.settle (s.releaseOnce ci 2) ci n
    else if c.bar3.complete then State.settle (s.releaseOnce ci 3) ci n
    else s

/-- Releases that one event can cause: each barrier once for its arrivals and once more for its held ones, and again
after a boundary. -/
def settleFuel : Nat := 16

/-! ## Arrivals (R342, R352) -/

/-- How an arrival is met. -/
inductive ArriveResult where
  | taken (phase : Nat)
  | held (phase : Nat)
  | full
  | broken (cause : Nat)
deriving DecidableEq, Repr

/-- A phase that counts nobody is released by the first arrival, with no result (R351). -/
def State.openEmpty (s : State) (ci b : Nat) : State :=
  let bar := (s.crew ci).bar b
  if bar.counted.isEmpty && bar.arrivals.isEmpty then s.releaseOnce ci b else s

/-- Whether and how an arrival of a member would be met. -/
def Crew.arriveResult (c : Crew) (b : Nat) (a : Arrival) : ArriveResult :=
  let bar := c.bar b
  if !c.members.contains a.who then .broken 3
  else if c.gang && c.broken then .broken 1
  else if (bar.arrivals.any fun x => x.who == a.who) || !bar.counted.contains a.who then
    (if bar.held.any fun x => x.who == a.who then .full else .held ((bar.phase + 1) % 2 ^ 32))
  else if bar.kind.isSome && bar.kind != some a.kind then .broken 2
  else .taken bar.phase

/-- Record an arrival that is taken or held. -/
def Crew.record (c : Crew) (b : Nat) (a : Arrival) : ArriveResult → Crew
  | .taken _ => c.setBar b { c.bar b with kind := some a.kind, arrivals := (c.bar b).arrivals ++ [a] }
  | .held _ => c.setBar b { c.bar b with held := (c.bar b).held ++ [a] }
  | _ => c

/-! ## Departures (R341, R346) -/

/-- A member departs: it leaves every barrier and is no longer awaited; by fault, the phases that counted it are
damaged, or a gang crew is broken. -/
def Crew.depart (c : Crew) (m : MemberId) (fault : Bool) : Crew :=
  if !c.members.contains m then { c with joins := c.joins.erase m, leaves := c.leaves.erase m }
  else
    let drop (b : Barrier) : Barrier :=
      { b.drop [m] with
        awaits := b.awaits.filter fun w => w.1 != m, damaged := b.damaged || (fault && !c.gang && b.counted.contains m) }
    { c with members := c.members.erase m, joins := c.joins.erase m, leaves := c.leaves.erase m
             faults := if fault then min 2047 (c.faults + 1) else c.faults
             broken := c.broken || (fault && c.gang)
             bar0 := drop c.bar0, bar1 := drop c.bar1, bar2 := drop c.bar2, bar3 := drop c.bar3 }

/-- The crews of the package in which a member stands or waits to. -/
def State.crewsOf (s : State) (m : MemberId) : List Nat :=
  s.crews.filterMap fun e =>
    if e.2.used && (e.2.members.contains m || e.2.joins.contains m) then some e.1 else none

/-- A broken gang crew's barriers stand idle: its waiting members are withdrawn (R346). -/
def Crew.clearBarriers (c : Crew) : Crew :=
  let clr (b : Barrier) : Barrier := { b with kind := none, arrivals := [], held := [], damaged := false, due := false, awaits := [] }
  { c with bar0 := clr c.bar0, bar1 := clr c.bar1, bar2 := clr c.bar2, bar3 := clr c.bar3 }

/-- The members that wait on a barrier. -/
def Barrier.waiters (b : Barrier) : List MemberId :=
  ((b.arrivals ++ b.held).filter (·.waits)).map (·.who) ++ b.awaits.map (·.1)

/-- A thread departs from a crew: a gang crew that it breaks releases nothing, and what waits on its barriers is withdrawn
(R346). -/
def State.departCrew (s : State) (m : MemberId) (fault : Bool) (ci : Nat) : State :=
  let c := (s.crew ci).depart m fault
  if fault && c.gang && c.broken then
    ((s.setCrew ci c.clearBarriers).tell ([0, 1, 2, 3].flatMap fun b => (c.bar b).waiters.map memberPkg) (.broken ci)).settle
      ci settleFuel
  else (s.setCrew ci c).settle ci settleFuel

/-- A thread of this package departs from the crews of peer packages: their homes are told. -/
def State.departFar (s : State) (m : MemberId) (fault : Bool) : State :=
  let s := s.tell ((s.farCrews.filter fun f => f.who == m).map (·.pkg)) (.depart m fault)
  { s with farCrews := s.farCrews.filter fun f => f.who != m }

/-- A thread departs from every crew (R341). -/
def State.departAll (s : State) (m : MemberId) (fault : Bool) : State :=
  ((s.crewsOf m).foldl (fun s ci => s.departCrew m fault ci) s).departFar m fault

/-- The slots whose threads wait on a barrier of a crew. -/
def State.crewWaiters (s : State) (ci : Nat) : List Nat :=
  s.slots.filterMap fun e =>
    match e.2.thread with
    | some t => match t.wait with
      | .crew c _ _ _ _ => if c = ci then some e.1 else none
      | .crewHeld c _ _ _ => if c = ci then some e.1 else none
      | .crewFull c _ => if c = ci then some e.1 else none
      | _ => none
    | none => none

end Sys2Proof.Machine
end

