-- ==== Sys2Proof/Machine/Translate.lean ====
section
/-!
DEFINITION. Translation of SPACE-3 addresses (spec/22 R362 to R366): the page walk, the TLB of a grove, and the drops of
`tlbi`; and the spaces of a capability (spec/04 R71).
-/
namespace Sys2Proof.Machine

/-- The fields of a page-table entry (R362 Table 1). -/
def pteV (e : Nat) : Bool := bit e 63
def pteL (e : Nat) : Bool := bit e 62
def pteS (e : Nat) : Bool := bit e 61
def pteX (e : Nat) : Bool := bit e 60
def pteC (e : Nat) : Bool := bit e 59
def pteM (e : Nat) : Bool := bit e 58
def pteT (e : Nat) : Bool := bit e 57
def pteTgt (e : Nat) : Nat := bits e 55 52
def ptePa (e : Nat) : Nat := bits e 51 12 * 4096
def ptePkg (e : Nat) : Nat := bits e 11 0

/-- The address a leaf gives to an offset in its page, as a key. -/
def leafKey (leaf off : Nat) : Nat := memKey (ptePkg leaf) (pteTgt leaf) (ptePa leaf + off)

/-- The size of the page that a leaf at a level maps (R362). -/
def levelSize (level : Nat) : Nat := 2 ^ (12 + 9 * level)

/-- An entry that no level takes as present, whether table or leaf (R363). -/
def entryAbsent (level e : Nat) : Bool :=
  !pteV e || bit e 56 || (3 ≤ level && !pteT e) || (level == 0 && pteT e) ||
    (pteT e && (pteL e || pteS e || pteX e || pteM e || pteTgt e != 0 || ptePkg e != 0))

/-- What makes a leaf not present (R363). -/
def State.leafAbsent (s : State) (level e : Nat) : Bool :=
  ptePa e % levelSize level != 0 || decide (7 ≤ pteTgt e) || (4 ≤ pteTgt e && ptePkg e != s.pkg) ||
    (1 ≤ level && pteC e)

/-- The key of the entry for `va` in the table at `pa` of a level. -/
def State.entryKey (s : State) (pa va level : Nat) : Nat :=
  memKey s.pkg 0 (pa + 8 * (va / 2 ^ (12 + 9 * level) % 512))

/-- The outcome of a walk: the leaf, its level and where the entry stands; not present; or the entry with an uncorrectable
error, which a walk reads as every ordinary access reads a word (R362, 26 R417). -/
inductive Walk where
  | leaf (level entry key : Nat)
  | absent
  | bad (key : Nat)
deriving DecidableEq, Repr

/-- The walk from a table, at most `n` levels below it (R362). What an entry of a group yields, its group says. -/
def State.walkFrom (s : State) (va : Nat) : Nat → Nat → Walk
  | 0, _ => .absent
  | n + 1, pa =>
    let k := s.entryKey pa va n
    if s.beyond 0 (pa + 4095) || s.inTagRegion 0 (keyPa k) then .absent
    else if s.poisoned k then .bad k
    else
      let e := s.readNum k 8
      if n = 0 && pteC e then .leaf 0 e k
      else if entryAbsent n e then .absent
      else if pteT e then State.walkFrom s va n (ptePa e)
      else if s.leafAbsent n e then .absent
      else .leaf n e k

/-- The walk of a context's page table; a context that does not exist has none. -/
def State.walk (s : State) (c va : Nat) : Walk :=
  if (s.ctx c).mode = .none then .absent else s.walkFrom va 5 (s.ctx c).regs.ptroot

/-- The entries that a walk reads. -/
def State.walkKeys (s : State) (va : Nat) : Nat → Nat → List Nat
  | 0, _ => []
  | n + 1, pa =>
    let k := s.entryKey pa va n
    let e := s.readNum k 8
    k :: if pteT e && n != 0 then State.walkKeys s va n (ptePa e) else []

/-- Entry `i` of the 64 KiB group of a level-0 entry. -/
def State.groupEntry (s : State) (key i : Nat) : Nat := s.readNum (key / 128 * 128 + 8 * i) 8

/-- The sixteen entries of a group are one page: identical but for PA, which rises by 4 KiB (R362). -/
def State.groupOk (s : State) (key : Nat) : Bool :=
  let e0 := s.groupEntry key 0
  decide (ptePa e0 + 65536 ≤ 2 ^ 52) &&
    (List.range 16).all fun i => s.groupEntry key i == e0 + i * 4096 && !s.poisoned (key / 128 * 128 + 8 * i)

/-- What an address is mapped to: a page, nothing, or an entry with an uncorrectable error. -/
inductive Mapped where
  | page (t : Translation)
  | absent
  | bad (key : Nat)
deriving DecidableEq, Repr

def Mapped.isBad : Mapped → Bool
  | .bad _ => true
  | _ => false

/-- The page, where there is one. -/
def Mapped.page? : Mapped → Option Translation
  | .page t => some t
  | _ => none

/-- What a group of sixteen entries maps an address to: one page of 64 KiB, which is not present where an entry is not or its PA is
not aligned to its size (R363, log 20); when the entries differ, by one of the sixteen, which is a free value. -/
def State.groupPage (s : State) (c va key : Nat) : Mapped × State :=
  if s.groupOk key then
    let e := s.groupEntry key 0
    (if entryAbsent 0 e || s.leafAbsent 0 e || ptePa e % 65536 != 0 then .absent
     else .page { ctx := c, base := va / 65536 * 65536, size := 65536, leaf := e }, s)
  else
    let (v, s) := s.takeFree
    let k := key / 128 * 128 + 8 * (v % 16)
    let e := s.groupEntry key (v % 16)
    (if s.poisoned k then .bad k
     else if entryAbsent 0 e || s.leafAbsent 0 e then .absent
     else .page { ctx := c, base := va / 4096 * 4096, size := 4096, leaf := e }, s)

/-- The entries that a walk reads are corrected (26 R417), and an uncorrectable error is noted. -/
def State.correctWalk (s : State) (c va : Nat) (w : Walk) : State :=
  if s.mem.single.isEmpty && s.mem.double.isEmpty then s
  else
    let s := (s.walkKeys va 5 (s.ctx c).regs.ptroot).foldl State.correct s
    match w with
    | .bad k => s.detect k
    | .leaf 0 _ k => (List.range 16).foldl (fun s i => s.correct (k / 128 * 128 + 8 * i)) s
    | _ => s

/-- The translation a walk yields. -/
def State.translationOf (s : State) (c va : Nat) (w : Walk) : Mapped × State :=
  let s := s.correctWalk c va w
  match w with
  | .absent => (.absent, s)
  | .bad k => (.bad k, s)
  | .leaf level e key =>
    if level = 0 && pteC e then s.groupPage c va key
    else (.page { ctx := c, base := va / levelSize level * levelSize level, size := levelSize level, leaf := e }, s)

/-- An address under a translation lies within its level's size and, in this package, outside the CXL tag region (R363, log 20). -/
def State.reaches (s : State) (t : Translation) (va : Nat) : Bool :=
  let a := ptePa t.leaf + (va - t.base)
  !s.beyond (pteTgt t.leaf) a && !(ptePkg t.leaf == s.pkg && s.inTagRegion (pteTgt t.leaf) a)

/-- A page that the address does not reach is not present (R363). -/
def State.within (s : State) (va : Nat) : Mapped → Mapped
  | .page t => if s.reaches t va then .page t else .absent
  | m => m

/-- What the page table of a context maps an address to. -/
def State.mapped (s : State) (c va : Nat) : Mapped × State :=
  let (m, s) := s.translationOf c va (s.walk c va)
  (s.within va m, s)

/-- The translation of an address that a TLB holds. -/
def tlbFind (l : List Translation) (c va : Nat) : Option Translation :=
  l.find? fun t => t.ctx == c && decide (t.base ≤ va) && decide (va < t.base + t.size)

/-- Put a translation into a grove's TLB; of more than 2,048 the oldest goes (R365, log 20). -/
def State.tlbFill (s : State) (g : Nat) (t : Translation) : State :=
  let gr := s.grove g
  s.setGrove g { gr with tlb := (t :: gr.tlb.filter (· != t)).take 2048 }

/-- Translate an address for a master of a grove: what it is mapped to, and the state with the TLB filled. -/
def State.translate (s : State) (g c va : Nat) : Mapped × State :=
  match tlbFind (s.grove g).tlb c va with
  | some t => (s.within va (.page t), s)
  | none =>
    let (m, s) := s.mapped c va
    (m, match m with | .page t => s.tlbFill g t | _ => s)

/-! ## Walks that run (R365) -/

/-- A running walk is for the page of an address of a context. -/
def Walking.covers (w : Walking) (c va : Nat) : Bool :=
  w.ctx == c && (w.va / 4096 == va / 4096 ||
    match w.found with | some t => decide (t.base ≤ va) && decide (va < t.base + t.size) | none => false)

/-- The walks that a translation unit runs at once. -/
def walkLimit : Nat := 256

/-- An address of a context has to wait for a walk: it misses, and its page is already being walked, or no walk is free, or
the walk that it starts outlasts the step. -/
def State.mustWalk (s : State) (g c va : Nat) : Bool :=
  (tlbFind (s.grove g).tlb c va).isNone &&
    (s.opts.walk || (s.grove g).walks.any (·.covers c va) || decide (walkLimit ≤ (s.grove g).walks.length))

/-- The miss joins a walk of its page, starts one, or finds none free. -/
def State.beginWalk (s : State) (g c va : Nat) : State :=
  let gr := s.grove g
  if gr.walks.any (·.covers c va) || walkLimit ≤ gr.walks.length then s
  else
    let (m, s) := s.mapped c va
    let gr := s.grove g
    s.setGrove g { gr with walks := gr.walks ++ [{ ctx := c, va, found := m.page?, bad := m.isBad, stale := false }] }

/-- A wait for a walk is over: no walk of the page runs, and one is free. -/
def State.walkOver (s : State) (g c va : Nat) : Bool :=
  !(s.grove g).walks.any (·.covers c va) && decide ((s.grove g).walks.length < walkLimit)

/-- The key of an address under a translation of it. -/
def Translation.key (t : Translation) (va : Nat) : Nat := leafKey t.leaf (va - t.base)

/-- A page of `m` bytes from `b` shares a byte with the page of `size` that holds `va`. -/
def pagesMeet (b m va size : Nat) : Bool := decide (b < va / size * size + size) && decide (va / size * size < b + m)

/-- A translation maps a byte of the page of `size` that holds `va`, for a context. -/
def Translation.covers (t : Translation) (c va size : Nat) : Bool := t.ctx == c && pagesMeet t.base t.size va size

/-- What a drop names (R366): 0 every page, 1 those of a context, 2 those that share a byte with a page; of `m` bytes from
`b` in context `x`. -/
def dropNames (kind c va size x b m : Nat) : Bool := kind == 0 || (x == c && (kind == 1 || pagesMeet b m va size))

/-- A running walk has read entries that a drop names. -/
def Walking.named (w : Walking) (kind c va size : Nat) : Bool :=
  match w.found with
  | some t => dropNames kind c va size w.ctx t.base t.size
  | none => dropNames kind c va size w.ctx (w.va / 4096 * 4096) 4096

/-- Drop, in every translation unit of the package, the translations that satisfy `p`; the running walks that satisfy `q`
have read what is dropped (R366). -/
def State.dropTranslations (s : State) (p : Translation → Bool) (q : Walking → Bool) : State :=
  { s with groves := s.groves.filterMap fun e =>
      let g : Grove :=
        { e.2 with tlb := e.2.tlb.filter fun t => !p t
                   walks := e.2.walks.map fun w => if q w then { w with stale := true } else w }
      if g = Grove.empty then none else some (e.1, g) }

/-- An access made through a translation of its page that a drop names. -/
def Access.named (a : Access) (kind c va size x : Nat) : Bool :=
  a.page.2 != 0 && dropNames kind c va size x a.page.1 a.page.2

/-- The access becomes stale where `p` holds. -/
def Access.mark (a : Access) (p : Access → Bool) : Access := if p a then { a with stale := true } else a

/-- Change the outstanding accesses of a thread. -/
def Thread.mapAccess (t : Thread) (f : Access → Access) : Thread :=
  { t with
    rx := t.rx.map fun r => { r with acc := f r.acc }
    wait := match t.wait with
      | .upperHalf a e l => .upperHalf (f a) e l
      | .remote a e => .remote (f a) e
      | .fullEmpty a e => .fullEmpty (f a) e
      | w => w }

/-- Drop the translations that a `tlbi` names: the walks that read them and the accesses made through them are stale. -/
def State.dropNamed (s : State) (kind c va size : Nat) : State :=
  let s := s.dropTranslations (fun x => dropNames kind c va size x.ctx x.base x.size) fun w => w.named kind c va size
  { s with slots := s.slots.map fun e => match e.2.thread with
      | some t => (e.1, { e.2 with thread := some (t.mapAccess fun a => a.mark fun a => a.named kind c va size t.ctx) })
      | none => e }

/-- A stale walk, or a stale access that has not been performed, is one that a drop names. -/
def State.staleLeft (s : State) (kind c va size : Nat) : Bool :=
  (s.groves.any fun e => e.2.walks.any fun w => w.stale && w.named kind c va size) ||
  s.slots.any fun e => match e.2.thread with
    | none => false
    | some t =>
      let hit (a : Access) : Bool := a.stale && a.named kind c va size t.ctx
      (t.rx.any fun r => hit r.acc) || match t.wait with
        | .upperHalf a _ _ => hit a
        | .remote a _ => hit a
        | .fullEmpty a _ => hit a
        | _ => false

/-- What an access needs of its page. -/
inductive Right where
  | load | store | execute
deriving DecidableEq, Repr

def leafHas (leaf : Nat) : Right → Bool
  | .load => pteL leaf | .store => pteS leaf | .execute => pteX leaf

/-- The outcome of forming an address: a key, a translation fault with its cause (17 R305), a protection or capability
violation (R71), or an uncorrectable error in an entry of the page table (R362). -/
inductive Formed where
  | key (k : Nat)
  | fault (cause : Nat)
  | protection
  | capability
  | bad
deriving DecidableEq, Repr

/-- The logical core that an address of SPACE 0 names by its number. -/
def logicalCore (space a : Nat) : Option Nat := if space = 0 ∧ !bit a 51 then some (bits a 63 52) else none

/-- A logical core of a context is being transferred (17 R320). -/
def State.transfers (s : State) (c l : Nat) : Bool := s.migrations.any fun m => m.ctx == c && m.lcore == l && m.dest.isSome

/-- The logical core whose remap an access of a context to an address waits for (17 R320). -/
def State.remapping (s : State) (c space a : Nat) : Option Nat := (logicalCore space a).filter (s.transfers c)

/-- Form the physical address of a SPACE-0 to SPACE-2 cursor value (R71 Table 7), for a thread of a context on a core. The
kernel area at the top of grove memory is beyond SPACE 1 (16 R291). -/
def State.formPhysical (s : State) (c core space a : Nat) : Formed :=
  let g := core / 16
  match space with
  | 0 =>
    if bits a 50 17 != 0 || decide (98304 ≤ a % 2 ^ 17) then .protection
    else if bit a 51 then .key (memKey s.pkg 3 (g * 2 ^ 32 + core % 16 * 2 ^ 28 + a % 2 ^ 17))
    else
      match Store.get none (s.ctx c).remap (bits a 63 52) with
      | none => .protection
      | some pc => .key (memKey s.pkg 3 (pc / 16 * 2 ^ 32 + pc % 16 * 2 ^ 28 + a % 2 ^ 17))
  | 1 => if 0x380000 ≤ a then .protection else .key (memKey s.pkg 2 (g * 2 ^ 32 + a))
  | 2 => if 2 ^ 27 ≤ a then .protection else .key (memKey s.pkg 1 (groveDie g * 2 ^ 32 + a))
  | _ => .capability

/-- Form the physical address of an address `a` of a space, with the right it needs (R71, 22 R363). -/
def State.form (s : State) (c core space a : Nat) (r : Right) : Formed × State :=
  if space = 3 then
    if 2 ^ 57 ≤ a then (.protection, s)
    else
      let (m, s) := s.translate (core / 16) c a
      match m with
      | .absent => (.fault 5, s)
      | .bad _ => (.bad, s)
      | .page t => if leafHas t.leaf r then (.key (t.key a), s) else (.fault 6, s)
  else (s.formPhysical c core space a, s)

end Sys2Proof.Machine
end

