-- ==== Sys2Proof/Machine/Ops.lean ====
section
/-!
DEFINITION. Taking an exception and what every instruction shares (spec/17 R305 to R309, spec/06 R111): stopping and
freezing a thread with its handler message, passing an instruction, and running a meaning on the issuing thread.
-/
namespace Sys2Proof.Machine

abbrev Result := Host.Outcome State Fault Refusal

/-! ## Handler messages (R308, R309) -/

/-- The cause word of R308 Table 7; SOURCE is 0 thread, 1 queue, 2 host function. -/
def causeWord (kind cause detail source : Nat) (info : Word32) : Nat :=
  kind * 2 ^ 56 + cause * 2 ^ 48 + detail * 2 ^ 40 + source * 2 ^ 38 + info.toNat

/-- The thread in slot `n` is the handler thread of its context (R296 Table 1, R309). -/
def State.isHandler (s : State) (n : Nat) (t : Thread) : Bool :=
  let h := (s.ctx t.ctx).regs.handler
  bit h 31 && bits h 15 12 == slotNum n && bits h 11 0 == t.lcore

/-- Hold a message for a context's handler. -/
def State.holdMessage (s : State) (c : Nat) (m : Message) : State :=
  let x := s.ctx c
  s.setCtx c { x with messages := x.messages ++ [m] }

/-- Hold a message of a context for its handler, and count it (27 R431). -/
def State.postMessage (s : State) (c : Nat) (m : Message) : State := (s.holdMessage c m).countEvent c 10 1

/-- The message of an event of the thread in slot `n`: a handler's own events go to the handler of context 0, and those
of that handler to the host port's error interrupt. It is one of the thread's context (27 R431). -/
def State.report (s : State) (n : Nat) (t : Thread) (kind cause detail : Nat) (info : Word32) (addr : Nat) : State :=
  let m : Message :=
    { e0 := (lanes64 t.gtid.toNat (causeWord kind cause detail 0 info) 0).bits
      e1 := (lanes64 t.pc.toNat addr 0).bits }
  let s :=
    if s.isHandler n t then (if t.ctx = 0 then { s with hostErrors := s.hostErrors ++ [m] } else s.holdMessage 0 m)
    else s.holdMessage t.ctx m
  s.countEvent t.ctx 10 1

/-! ## Stops and freezes (R306, R307) -/

/-- The wait in which a thread that is stopped remains when it goes on: only its kernel's copy (R31). -/
def Wait.kept : Wait → Wait
  | .kernel => .kernel
  | _ => .none

/-- Stop the thread in slot `n`: it leaves rotation with its PC where it stands, and its message is held. -/
def State.stopThread (s : State) (n : Nat) (kind cause detail : Nat) (info : Word32) (addr : Nat) : State :=
  match s.thread n with
  | none => s
  | some t =>
    let t := { t with stopped := some ⟨kind, cause, detail, info⟩, wait := t.wait.kept, reissue := false, stepping := 0
                      debugStop := false, absent := none }
    (s.setThread n t).report n t kind cause detail info addr

/-- The members of a crew of this home that wait on its barriers, by slot: not a pending joiner, which only waits for its
boundary (19 R340). -/
def State.waitingMembers (s : State) (ci : Nat) : List Nat :=
  (s.crewWaiters ci).filter fun n => (s.thread n).any fun t => (s.crew ci).members.contains (s.memberOf t)

/-- A member departs by fault (19 R341): the members that wait in a gang crew it was of are stopped (19 R346). -/
def State.faultDeparts (s : State) (m : MemberId) : State :=
  let cs := (s.crewsOf m).filter fun ci => (s.crew ci).gang && (s.crew ci).members.contains m
  let ws := cs.flatMap s.waitingMembers
  ws.foldl (fun s w => s.stopThread w 5 1 0 0 0) (s.departAll m true)

/-- A stop with a data error of the thread's own core: it also departs from its crews (19 R341). -/
def State.coreFault (s : State) (n cause : Nat) (addr : Nat) : State :=
  match s.thread n with
  | none => s
  | some t =>
    (s.stopThread n 4 cause 0 0 addr).faultDeparts (s.memberOf t)

/-- Begin a stop of a context (R299): every thread of it receives a pre-emption request; one that
an abandonment has asked to stop is still discarded (13 R260). -/
def State.beginStop (s : State) (c : Nat) (w : Stopping) : State :=
  let x := s.ctx c
  let s := s.setCtx c { x with stopping := some w }
  { s with slots := s.slots.map fun e =>
      match e.2.thread with
      | some t => if t.ctx = c then (e.1, { e.2 with thread := some { t with request := if t.request = some .abandon then t.request else some .suspend } }) else e
      | none => e }

/-- Freeze the thread in slot `n` for a violation; a violation by the handler thread also freezes its context, and
turns a suspend that has begun into a freeze (R299, R309). Context 0 is never frozen (R295). -/
def State.freezeThread (s : State) (n : Nat) (kind : Nat) (addr : Nat) : State :=
  match s.thread n with
  | none => s
  | some t =>
    let t := { t with frozen := true, wait := t.wait.kept, reissue := false, stepping := 0, debugStop := false, absent := none }
    let s := (s.setThread n t).report n t kind 0 0 0 addr
    if s.isHandler n t && t.ctx != 0 && (s.ctx t.ctx).mode == .active then s.beginStop t.ctx .freeze else s

/-- What ends an instruction without its effect. -/
inductive Trap where
  /-- a format fault; `misaligned` sets its detail bit. -/
  | format (misaligned : Bool) (addr : Nat)
  /-- a translation fault with its cause and address. -/
  | translation (cause : Nat) (addr : Nat)
  /-- an uncorrectable error; `own` when it lies in the thread's own scratch. -/
  | data (cause : Nat) (addr : Nat) (own : Bool)
  | crewBroken (cause : Nat)
  | illegal (cause : Nat)
  | capability (addr : Nat)
  | protection (addr : Nat)
deriving DecidableEq, Repr

/-- Take an exception: nothing of the instruction has taken effect, the PC stays at it, and the thread in slot `n` is
stopped or frozen as the kind says (R305 Table 6). -/
def State.take (s : State) (n : Nat) : Trap → State
  | .format mis addr => s.stopThread n 2 0 (flag mis) 0 addr
  | .translation cause addr => s.stopThread n 3 cause 0 0 addr
  | .data cause addr own => if own then s.coreFault n cause addr else s.stopThread n 4 cause 0 0 addr
  | .crewBroken cause => s.stopThread n 5 cause 0 0 0
  | .illegal cause => s.stopThread n 1 cause 0 0 0
  | .capability addr => s.freezeThread n 8 addr
  | .protection addr => s.freezeThread n 9 addr

/-- A stopped thread leaves stopped and enters the state that remains (R31): the return of `tres` and of a debug
resume. One that leaves a stop of KIND 6 is not matched at its first instruction (27 R424). -/
def Thread.unstop (t : Thread) : Thread :=
  { t with stopped := none, skipBp := match t.stopped with | some x => x.kind == 6 | none => false }

/-! ## Running a meaning on the issuing thread -/

/-- Run `f` on the thread of the issuing slot. -/
def State.onThread (s : State) (f : Thread → State) : Result :=
  match s.thread s.cur with
  | none => .fault .noThread
  | some t => .next (f t)

/-- The next sequential address (R100). -/
def Thread.nextPc (t : Thread) (e : Fields) : Word64 := t.pc + BitVec.ofNat 64 (4 * e.form.words)

/-- Pass the instruction: the PC at the next one. -/
def Thread.next (t : Thread) (e : Fields) : Thread :=
  { t with pc := t.nextPc e, reissue := false, prio := false, skipBp := false, absent := none }

/-- Put the issuing thread back. -/
def State.put (s : State) (t : Thread) : State := s.setThread s.cur t

/-- Take an exception at the issuing thread. -/
def State.trap (s : State) (x : Trap) : State := s.take s.cur x

/-- A forfeited turn (04 R58, R76, 01 R15): nothing takes effect; the retry of one that lost a scratch bank holds priority. -/
def State.forfeit (s : State) (t : Thread) (bank : Bool) : State := s.put { t with lost := true, prio := t.prio || bank }

/-- A scalar instruction: one that is not live only passes (R63). -/
def State.scalar (s : State) (e : Fields) (f : Thread → State) : Result :=
  s.onThread fun t => if t.live0 e.g then f t else s.put (t.next e)

/-- The thread waits and its instruction is issued again when the condition holds. -/
def State.retry (s : State) (t : Thread) (w : Wait) : State := s.put { t with wait := w, reissue := true }

/-- Write a result and pass. -/
def State.finish (s : State) (t : Thread) (e : Fields) (v : QReg) : State := s.put ((t.setReg e.d v).next e)

/-- Write a result, pass, and wait on memory for the access to return. -/
def State.finishMem (s : State) (t : Thread) (e : Fields) (v : QReg) : State :=
  s.put { (t.setReg e.d v).next e with wait := .memory }

/-- An integer operand: lane 0 of fb, or the literal; none for a register of another tag or kind. -/
def Thread.intB (t : Thread) (e : Fields) : Option Nat :=
  if e.hasLit then some e.lit.toNat else if (t.reg e.b).isInt then some (t.reg e.b).lo else none

end Sys2Proof.Machine
end

