-- ==== Sys2Proof/Machine/Wake.lean ====
section
/-!
DEFINITION. Chains of pool pages (spec/22 R370, R371) and what a wake write does to a continuation (spec/23 R378, R379,
R382, R384).
-/
namespace Sys2Proof.Machine

/-! ## Chains -/

def State.handle (s : State) (i : Nat) : Handle := Store.get Handle.free s.handles i
def State.setHandle (s : State) (i : Nat) (v : Handle) : State := { s with handles := Store.put Handle.free s.handles i v }

def PoolPage.free : PoolPage := { count := 0, sticky := false }
/-- Pool pages are counted by the number of their 64 KiB page in the address space: a sticky page stays so when the pool is
moved (R371). -/
def Ctx.poolKey (x : Ctx) (p : Nat) : Nat := x.poolBase / 65536 + p
def State.poolPage (s : State) (c p : Nat) : PoolPage := Store.get PoolPage.free (s.ctx c).pool ((s.ctx c).poolKey p)
def State.setPoolPage (s : State) (c p : Nat) (v : PoolPage) : State :=
  let x := s.ctx c
  s.setCtx c { x with pool := Store.put PoolPage.free x.pool (x.poolKey p) v }

/-- The address of a pool page. -/
def State.poolVa (s : State) (c p : Nat) : Nat := (s.ctx c).poolBase + 65536 * p

/-- The target level at which a pool page stands; none where it is not mapped. -/
def State.pageLevel (s : State) (c p : Nat) : Option Nat :=
  (s.mapped c (s.poolVa c p)).1.page?.map fun x => pteTgt x.leaf

/-- The number of blocks of a chain that stand at a level. -/
def State.blocksAt (s : State) (c : Nat) (l : List Nat) (tgt : Nat) : Nat :=
  (l.filter fun p => s.pageLevel c p == some tgt).length

/-- The chain of a continuation. -/
def State.chain (s : State) (c : Continuation) : List Nat :=
  match c.handle with | some h => (s.handle h).blocks | none => []

/-- A block of a continuation's chain is being moved. -/
def State.blockMoving (s : State) (c : Continuation) (p : Nat) : Bool :=
  s.moves.any fun m => m.ctx == c.ctx && m.va == s.poolVa c.ctx p

/-- The newest `n` blocks of a chain that are not at TGT 0 or are on their way from it, newest first. -/
def State.toPromote (s : State) (c : Continuation) (n : Nat) : List Nat :=
  (((s.chain c).reverse.take n).filter fun p => s.pageLevel c.ctx p != some 0 || s.blockMoving c p)

/-- The stage-1 blocks: the newest W, or all. -/
def State.stage1Count (s : State) (c : Continuation) : Nat := if c.w = 0 then (s.chain c).length else c.w

/-- A page of SPACE 3 that is being moved. -/
def State.moving (s : State) (c va : Nat) : Bool :=
  s.moves.any fun m => m.ctx == c && m.va == va / 65536 * 65536

/-- The entries of a page's group are `e` and what follows it. -/
def State.groupIs (s : State) (leaf e : Nat) : Bool :=
  (List.range 16).all fun i => s.readNum (leaf + 8 * i) 8 == e + 4096 * i

/-- The entries of a moving page are as they were when its move began. -/
def State.leafKept (s : State) (m : PageMove) : Bool := s.groupIs m.leaf m.entry

/-- An entry without M. -/
def clearM (e : Nat) : Nat := if pteM e then e - 2 ^ 58 else e

/-- Software has cleared M in the entries of a moving page, and has changed nothing else of them. -/
def State.leafCleared (s : State) (m : PageMove) : Bool := s.groupIs m.leaf (clearM m.entry)

/-- A `tlbi` that names a page whose M software has cleared while it moves is what R368 asks of it. -/
def State.noteObeyed (s : State) (kind c va size : Nat) : State :=
  { s with moves := s.moves.map fun m =>
      if dropNames kind c va size m.ctx m.va 65536 && s.leafCleared m then { m with obeyed := true } else m }

/-! ## Continuations -/

/-- The continuation of a wake word: the one armed on it, else the last that resumes from it (R390). -/
def State.contOf (s : State) (word : Nat) : Option Continuation :=
  (s.conts.find? fun c => c.word == word && c.armed).or (s.conts.filter fun c => c.word == word).getLast?

/-- A continuation is the one of a frame of a context: its frame stays taken to its end (R378). -/
def Continuation.stands (c : Continuation) (ctx frame : Nat) : Bool := c.ctx == ctx && c.frame == frame

/-- The continuation of a frame. -/
def State.contAt (s : State) (ctx frame : Nat) : Option Continuation := s.conts.find? fun c => c.stands ctx frame

/-- Replace the continuation of its frame. -/
def State.setCont (s : State) (c : Continuation) : State :=
  { s with conts := s.conts.map fun x => if x.stands c.ctx c.frame then c else x }

/-- The wake milestone is live from the wake write (R384). -/
def State.wakeMile (s : State) (c : Continuation) : State :=
  match c.curve, s.graphOf c.gtid with
  | some v, some k =>
    let g := s.graph k
    s.setGraph k { g with wakes := g.wakes ++ [{ gtid := c.gtid, curve := v, at_ := (s.now - g.admitted) / 1000
                                                 cost := c.cost, energy := c.energy, placed := none, dead := false }] }
  | _, _ => s

/-- Stage 1 begins (R382): the promotions are listed, and scheduled demotions are dropped. -/
def State.startStage1 (s : State) (c : Continuation) : State :=
  s.setCont { c with state := .stage1, up := s.toPromote c (s.stage1Count c), down := [], pro := false, turn := 0
                     dueHbm := none, dueCxl := none }

/-- An 8-byte write of the whole of a word: the armed continuation takes it as its wake write, and its wake milestone is live;
one that is still parking only records it. -/
def State.wakeWrite (s : State) (word v : Nat) : State :=
  match s.conts.find? fun c => c.word == word && c.armed with
  | none => s
  | some c =>
    let c := { c with armed := false, value := some v }
    let s := s.wakeMile c
    if c.state = .parking then s.setCont c else s.startStage1 c

/-- A continuation is armed on a word. -/
def State.wakeArmed (s : State) (word : Nat) : Bool := s.conts.any fun c => c.word == word && c.armed

end Sys2Proof.Machine
end

