-- ==== Sys2Proof/Machine/Zalfer.lean ====
section
/-!
DEFINITION. The sending side of the Zalfer link (spec/25 R396 to R400): the lane group of a packet, its flits and their replay
buffer, and requests with their SEQ and class.
-/
namespace Sys2Proof.Machine

def State.link (s : State) (n : Nat) : Link := Store.get Link.reset s.links n
def State.setLink (s : State) (n : Nat) (v : Link) : State := { s with links := Store.put Link.reset s.links n v }

/-- The link carries traffic. -/
def Link.open (l : Link) : Bool := l.state == 1 || l.state == 2

/-- The group on which a packet to a package is sent: the one the record assigns, else the next that carries traffic. -/
def State.routeTo (s : State) (dest : Nat) : Option Nat :=
  let g := ((s.groups.find? fun e => e.1 == dest).map (·.2)).getD 0
  ([0, 1, 2, 3].map fun i => (g + i) % 4).find? fun l => (s.link l).open

/-! ## Flits (R396, R397) -/

/-- A flit goes out and is kept until it is acknowledged (R397); one packet begins in each (log 90). -/
def Link.send (l : Link) (p : Packet) : Link :=
  { l with lseq := (l.lseq + 1) % 2 ^ 32, buffer := l.buffer ++ [{ lseq := l.lseq, packet := p }], line := l.line ++ [.flit l.lseq] }

/-- The flits up to an LSEQ that the other end has received whole leave the replay buffer. -/
def Link.acked (l : Link) (lack : Nat) : Link :=
  if l.buffer.any fun f => f.lseq == lack then { l with buffer := (l.buffer.dropWhile fun f => f.lseq != lack).drop 1 } else l

/-- The flits not acknowledged are sent again, in order. -/
def Link.resend (l : Link) : Link :=
  { l with line := l.line ++ l.buffer.map fun f => .flit f.lseq, retry := satInc 16 l.retry }

/-- Send a packet to a package; while all four groups are down it waits (R399). -/
def State.sendPacket (s : State) (dest : Nat) (p : Packet) : State :=
  match s.routeTo dest with
  | some g => s.setLink g ((s.link g).send p)
  | none => s

/-! ## Requests (R398, R400) -/

/-- Bytes of an access with its header: the data it carries in granules of 16 bytes. -/
def Access.packetBytes (a : Access) : Nat :=
  match a.op with
  | .load | .ldfe | .ldff | .ldcap | .cclr | .fefill _ => 16
  | .cas _ => 48
  | _ => 32

/-- Bytes of a request of the package itself. -/
def PeerOp.packetBytes : PeerOp → Nat
  | .access a => a.packetBytes
  | .arrive _ _ .plain .. => 16
  | .arrive .. | .release .. => 32
  | _ => 16

/-- Bytes of a request. -/
def State.packetBytes (s : State) : Asker → Nat
  | .thread n => (match (s.thread n).map fun (t : Thread) => t.wait with
    | some (.remote a _) => a.packetBytes
    | some (.peer kind _) => if kind = 2 ∨ kind = 3 then 32 else 16
    | _ => 16)
  | .relaxed _ => 32
  | .engine _ a => a.packetBytes
  | .fetch .. => 16
  | .message op => op.packetBytes

/-- A request to another package, which is to be sent. -/
def State.ask (s : State) (dest cls : Nat) (who : Asker) : State :=
  { s with
    requests := s.requests ++
      [{ id := s.nextReq + 1, dest, seq := 0, cls, size := s.packetBytes who, who, tries := 0, since := s.now, sent := false, withdrawn := false }]
    nextReq := s.nextReq + 1 }

/-- Requests outstanding to a destination. -/
def State.outstanding (s : State) (dest : Nat) : Nat := (s.requests.filter fun r => r.sent && r.dest == dest).length

/-- The count of 10 µs of the oscillator. -/
def State.tenth (s : State) : Nat := s.osc / 350000

/-- Bytes that are 5 % of the bandwidth of a group in 10 µs: of 18 lanes of 448 Gb/s, or of half of them (01 R20). -/
def Link.share (l : Link) : Nat := if l.state = 1 then 504000 else 252000

/-- Bytes of class 0 that a group has sent in the present 10 µs. -/
def State.prioSent (s : State) (l : Link) : Nat := if l.prioAt = s.tenth then l.prio else 0

/-- A request may be sent: the limit of 64 lets it go, and where it is of class 0 its share. -/
def State.maySend (s : State) (r : OutRequest) : Bool :=
  !r.sent && decide (s.outstanding r.dest < 64) &&
    match s.routeTo r.dest with
    | some g => r.cls != 0 || decide (s.prioSent (s.link g) + r.size ≤ (s.link g).share)
    | none => true

/-- By how many bytes class 1 is ahead of class 2 on the group to a package. -/
def State.leadTo (s : State) (dest : Nat) : Int := match s.routeTo dest with | some g => (s.link g).lead | none => 0

/-- The request to be sent next: of class 0, else of the class 1 or 2 that has had less (R400). -/
def State.nextToSend (s : State) : Option OutRequest :=
  let first (c : Nat) : Option OutRequest := s.requests.find? fun r => r.cls == c && s.maySend r
  match first 0, first 1, first 2 with
  | some r, _, _ => some r
  | none, some a, some b => some (if s.leadTo a.dest ≤ 0 then a else b)
  | none, a, b => a.or b

/-- What a request of a class takes of a group; the lead of a class lasts while both have something to send. -/
def State.takeShare (s : State) (l : Link) (r : OutRequest) (both : Bool) : Link :=
  match r.cls with
  | 0 => { l with prio := s.prioSent l + r.size, prioAt := s.tenth }
  | 1 => { l with lead := if both then l.lead + r.size else 0 }
  | _ => { l with lead := if both then l.lead - r.size else 0 }

/-- Send a request with the next SEQ of its destination. -/
def State.sendRequest (s : State) (r : OutRequest) : State :=
  let q := Store.get 0 s.nextSeq r.dest
  let both := (s.requests.any fun x => x.cls == 1 && s.maySend x) && s.requests.any fun x => x.cls == 2 && s.maySend x
  let s := match s.routeTo r.dest with
    | some g => s.setLink g ((s.takeShare (s.link g) r both).send (.request r.id))
    | none => s
  { s with
    requests := s.requests.map fun x => if x.id = r.id then { x with sent := true, seq := q, since := s.now } else x
    nextSeq := Store.put 0 s.nextSeq r.dest ((q + 1) % 2 ^ 16) }

/-- Send the requests that may go. -/
def State.sendRequests : Nat → State → State
  | 0, s => s
  | n + 1, s => match s.nextToSend with | some r => State.sendRequests n (s.sendRequest r) | none => s

end Sys2Proof.Machine
end

