-- ==== Sys2Proof/Machine/Mem.lean ====
section
/-!
DEFINITION. Memory accesses (spec/08 R157 to R181, spec/09 R191 to R196, R203, spec/26 R417): what an access does at its
home, the order of a thread's accesses, full/empty waiters, and the common effect of R159.
-/
namespace Sys2Proof.Machine

/-! ## The words an access touches -/

/-- Nibbles of 8-byte word `i` of the access that are active. -/
def Access.wordMask (a : Access) (i : Nat) : Nat :=
  a.mask.toNat % 2 ^ (2 * a.size) * 2 ^ (2 * (a.key % 8)) / 2 ^ (16 * i) % 2 ^ 16

/-- The 8-byte words with an active nibble: key and nibble mask. -/
def Access.words (a : Access) : List (Nat × Nat) :=
  ([(a.key / 8 * 8, a.wordMask 0), (a.key / 8 * 8 + 8, a.wordMask 1)]).filter fun w => w.2 != 0

/-- The bytes with an active nibble, of a word's nibble mask. -/
def nibbleBytes (m : Nat) : Nat := loopUp 8 (fun i b => if m / 4 ^ i % 4 = 0 then b else b + 2 ^ i) 0

/-- Two accesses touch one byte. -/
def Access.overlaps (a b : Access) : Bool :=
  a.words.any fun x => b.words.any fun y => x.1 == y.1 && (nibbleBytes x.2 &&& nibbleBytes y.2) != 0

/-- The address of the word at `key`, as the program formed it. -/
def Access.wordVa (a : Access) (key : Nat) : Nat := wrap 64 ((a.va.toNat : Int) + (key : Int) - (a.key : Int))

/-! ## Homes and scopes -/

/-- The package performs accesses to this key itself; others go to a peer package or to the host. -/
def State.isLocal (s : State) (k : Nat) : Bool := keyPkg k == s.pkg && keyTgt k ≤ 5

/-- The scratch of a physical core. -/
def State.inCore (s : State) (core k : Nat) : Bool :=
  keyPkg k == s.pkg && keyTgt k == 3 && keyPa k / 2 ^ 28 == core / 16 * 16 + core % 16

/-- The home of a key lies in a scope, reckoned from a core (08 R162 Table 3). -/
def State.inScope (s : State) (core scope k : Nat) : Bool :=
  let own := keyPkg k == s.pkg
  let t := keyTgt k
  let pa := keyPa k
  let g := core / 16
  match scope with
  | 0 => s.inCore core k
  | 1 => own && (t == 2 || t == 3) && pa / 2 ^ 32 == g
  | 2 => own && (((t == 2 || t == 3) && groveDie (pa / 2 ^ 32) == groveDie g) ||
           (t == 1 && pa / 2 ^ 32 == groveDie g) || (t == 0 && pa / 2 ^ 37 == groveDie g))
  | 3 => own && t ≤ 3
  | 4 => decide (t ≤ 3)
  | _ => true

/-- An earlier relaxed access must be performed before an access with this ordering (R161, R162). -/
def State.precedes (s : State) (core : Nat) (r : Relaxed) (a : Access) (rel : Bool) (scope : Nat) : Bool :=
  r.acc.overlaps a || (r.acq && s.inScope core r.scope a.key) || (rel && s.inScope core scope r.acc.key)

/-! ## Error correction (26 R417) -/

/-- Fresh ECC for a word that is wholly written (08 R177). -/
def State.freshWord (s : State) (k : Nat) : State :=
  { s with mem := { s.mem with poison := s.mem.poison.del (k / 8), single := s.mem.single.del (k / 8), double := s.mem.double.del (k / 8) } }

/-- What a write of some nibbles of a word does to its ECC. -/
def State.eccWrite (s : State) (w : Nat × Nat) : State := if w.2 = 0xFFFF then s.freshWord w.1 else s.correct w.1

/-! ## Performing an access at a home of this package -/

inductive Status where
  | ok | error (key : Nat) | waits
deriving DecidableEq, Repr

/-- The outcome of an access at its home: what it read, and for a capability load the tag bit. -/
structure Performed where
  state : State
  status : Status
  old : Nat
  cap : Bool
deriving DecidableEq, Repr

/-- The new value of an atomic (R171). -/
def atomValue (op ty old b : Nat) : Nat :=
  let w := fmtWidth ty
  match op with
  | 0 => (old + b) % 2 ^ w
  | 1 => if intVal ty old ≤ intVal ty b then old else b
  | 2 => if intVal ty old ≤ intVal ty b then b else old
  | 3 => old &&& b
  | 4 => old ||| b
  | 5 => old ^^^ b
  | 6 => b
  | _ => roundFloat (floatFmt ty) .rne false false 0
           (sumVals [floatVal (floatFmt ty) old, floatVal (floatFmt ty) b] false)

/-- The aligned 8-byte parts of `n` bytes from an address: where each starts and its size (09 R207). -/
def hostParts : Nat → Nat → Nat → List (Nat × Nat)
  | 0, _, _ => []
  | f + 1, k, n =>
    if n = 0 then [] else
      let m := min n (8 - k % 8)
      (k, m) :: hostParts f (k + m) (n - m)

/-- A store that a unit of the package makes. -/
def unitStore (key va size mask : Nat) : Access :=
  { op := .store, key, va := BitVec.ofNat 64 va, size, mask := BitVec.ofNat 32 mask, data := QReg.zero, expected := 0
    dest := none, ty := 0, pc := 0, space := 3, page := (0, 0), stale := false }

/-- Write the access's data: merged in its active nibbles, ECC made anew, tag bits of the granules cleared. -/
def State.writeAccess (s : State) (a : Access) (v : Nat) : State :=
  let s := s.writeNibbles a.key a.size v a.mask.toNat
  let s := a.words.foldl State.eccWrite s
  a.words.foldl (fun s w => s.setTag w.1 false) s

/-- Read the access's bytes, correcting them. -/
def State.readAccess (s : State) (a : Access) : State × Nat :=
  (a.words.foldl (fun s w => s.correct w.1) s, s.readNum a.key a.size)

/-- The first word of the access with an uncorrectable error; `part` looks only at words written in part. -/
def State.badWord (s : State) (a : Access) (part : Bool) : Option Nat :=
  ((a.words.find? fun w => s.poisoned w.1 && (!part || w.2 != 0xFFFF)).map (·.1))

/-- The words that an access writes whole as 8 bytes may wake continuations (23 R379). -/
def State.wakeWords (s : State) (a : Access) : State :=
  (a.words.filter fun w => w.2 == 0xFFFF).foldl (fun s w => s.wakeWrite w.1 (s.readNum w.1 8)) s

/-- Write the access's data as a thread's store does. -/
def State.storeAccess (s : State) (a : Access) (v : Nat) : State := (s.writeAccess a v).wakeWords a

/-- Perform an access at its home. -/
def State.perform (s : State) (a : Access) : Performed :=
  let readOr (part : Bool) (f : Unit → Performed) : Performed :=
    match s.badWord a part with
    | some k => ⟨s.detect k, .error k, 0, false⟩
    | none => f ()
  match a.op with
  | .load => readOr false fun _ => let (s, v) := s.readAccess a; ⟨s, .ok, v, false⟩
  | .store => readOr true fun _ => ⟨s.storeAccess a a.data.bits.toNat, .ok, 0, false⟩
  | .wake _ => ⟨s.storeAccess a a.data.bits.toNat, .ok, flag (s.wakeArmed a.key), false⟩
  | .ldfe =>
    if s.isFull a.key then
      readOr false fun _ => let (s, v) := s.readAccess a; ⟨s.setFull a.key false, .ok, v, false⟩
    else ⟨s, .waits, 0, false⟩
  | .ldff =>
    if s.isFull a.key then readOr false fun _ => let (s, v) := s.readAccess a; ⟨s, .ok, v, false⟩
    else ⟨s, .waits, 0, false⟩
  | .stef =>
    if s.isFull a.key then ⟨s, .waits, 0, false⟩
    else ⟨(s.storeAccess a a.data.bits.toNat).setFull a.key true, .ok, 0, false⟩
  | .fefill empty => ⟨a.words.foldl (fun s w => s.setFull w.1 (!empty)) s, .ok, 0, false⟩
  | .atom op => readOr false fun _ =>
      let (s, v) := s.readAccess a
      ⟨s.storeAccess a (atomValue op a.ty.toNat v a.data.lo), .ok, v, false⟩
  | .cas _ => readOr false fun _ =>
      let (s, v) := s.readAccess a
      ⟨if v = a.expected then s.storeAccess a a.data.bits.toNat else s, .ok, v, false⟩
  | .ldcap => readOr false fun _ =>
      let (s, v) := s.readAccess a
      ⟨s, .ok, v, s.hasTag a.key⟩
  | .stcap => ⟨(s.writeAccess a a.data.bits.toNat).setTag a.key a.data.cap, .ok, 0, false⟩
  | .cclr => ⟨s.setTag a.key false, .ok, 0, false⟩

/-! ## The result at the thread -/

/-- Write what an access returned: the destination and, for `cas`, the pair. -/
def Thread.writeBack (t : Thread) (a : Access) (old : Nat) (cap : Bool) : Thread :=
  let t := match a.op with
    | .cas (some k) => t.setPair k (2 * a.size) (old == a.expected)
    | .wake k => t.setPair k 16 (old == 1)
    | _ => t
  match a.dest with
  | none => t
  | some d =>
    match a.op with
    | .ldcap => t.setReg d (if cap then ⟨BitVec.ofNat 128 old, true, 27⟩ else ⟨BitVec.ofNat 128 old, false, 0⟩)
    | .load =>
      let v := if a.size = 16 then mergeNibbles (t.reg d).bits.toNat old a.mask.toNat else old
      t.setReg d ⟨BitVec.ofNat 128 v, false, a.ty⟩
    | _ => t.setReg d ⟨BitVec.ofNat 128 old, false, a.ty⟩

/-- The post-increment of R157: the cursor of fa moves by imm32. -/
def Thread.postInc (t : Thread) (e : Fields) : Thread :=
  if e.post then t.setReg e.a (moveCursor (t.reg e.a) (wrap 64 ((t.reg e.a).lo + e.imm.toInt))) else t

/-- The instruction of an access completes: the advance, the result, the PC (R159). -/
def Thread.complete (t : Thread) (e : Fields) (a : Access) (old : Nat) (cap : Bool) : Thread :=
  (((t.postInc e).writeBack a old cap).next e)

/-- The trap of an uncorrectable error that the access of the thread in slot `n` met. -/
def State.dataTrap (s : State) (n : Nat) (a : Access) (key : Nat) : Trap :=
  .data 0 (a.wordVa key) (s.inCore (slotCore n) key)

/-! ## Full/empty waiters (R168, R170) -/

/-- The waiting access of an entry of `feWait`: of the thread in a slot, or of a peer package. -/
def State.feAccess (s : State) (n : Nat) : Option Access :=
  if 2 ^ 16 ≤ n then Store.get none s.farWait (n - 2 ^ 16)
  else match s.thread n with
    | some t => match t.wait with | .fullEmpty a _ => some a | _ => none
    | none => none

/-- The first waiting access to a word that finds the bit in its required state. -/
def State.servable (s : State) (w : Nat) : List Nat → Option (Nat × Access)
  | [] => none
  | n :: r =>
    match s.feAccess n with
    | some a => if a.key / 8 = w && s.isFull a.key == (a.op != .stef) then some (n, a) else s.servable w r
    | none => s.servable w r

/-- Save the reply of a request from a peer package (25 R399). -/
def State.saveReply (s : State) (src seq : Nat) (ok : Bool) (status value : Nat) : State :=
  ({ s with replies := s.replies ++ [{ src, seq, ok, status, value }] } : State).sendPacket src (.reply src seq)

/-- A waiting access has been performed, or has met an error: its thread completes it, or its reply is sent. -/
def State.served (s : State) (n : Nat) (a : Access) (r : Performed) : State :=
  if 2 ^ 16 ≤ n then
    let k := n - 2 ^ 16
    let s := { s with farWait := Store.put none s.farWait k none }
    s.saveReply (k / 2 ^ 16) (k % 2 ^ 16) (r.status == .ok) 0 r.old
  else match s.thread n with
    | some t =>
      match t.wait, r.status with
      | .fullEmpty .., .error k => r.state.take n (s.dataTrap n a k)
      | .fullEmpty _ e, _ => s.setThread n { t.complete e a r.old r.cap with wait := .memory }
      | _, _ => s
    | none => s

/-- Serve the waiting accesses to a word in order of arrival, for as long as one finds the bit in its state. -/
def State.serveWord (w : Nat) : Nat → State → State
  | 0, s => s
  | n + 1, s =>
    match s.servable w s.feWait with
    | none => s
    | some (x, a) =>
      let s := { s with feWait := s.feWait.erase x }
      let r := s.perform a
      State.serveWord w n (r.state.served x a r)

/-- Serve the words an access may have changed the bits of. -/
def State.serveAccess (s : State) (a : Access) : State :=
  match a.op with
  | .ldfe | .stef | .fefill _ => a.words.foldl (fun s w => State.serveWord (w.1 / 8) (s.feWait.length + 1) s) s
  | _ => s

/-! ## Pending errors of relaxed accesses (R177) -/

/-- Take the trap of a pending error at the instruction where the thread in slot `n` stands; an error of its own scratch
also departs it from its crews (19 R341). -/
def State.takePending (s : State) (n : Nat) (t : Thread) (p : PendingError) : State :=
  let x := (s.setThread n { t with pendErr := t.pendErr.erase p }).stopThread n 4 p.cause 0
    (((p.pc - t.pc).sshiftRight 2).truncate 32) p.va.toNat
  if s.inCore (slotCore n) p.key then x.faultDeparts (s.memberOf t) else x

/-- An instruction that orders the homes of a scope takes the first pending error whose home lies there; else `k` goes
on. -/
def State.orElsePending (s : State) (t : Thread) (scope : Nat) (k : State) : State :=
  match t.pendErr.find? fun p => s.inScope (slotCore s.cur) scope p.key with
  | some p => s.takePending s.cur t p
  | none => k

/-! ## Issuing an access -/

/-- The upper 8 bytes of a 16-byte access. -/
def Access.upper (a : Access) : Access :=
  { a with key := a.key + 8, va := a.va + 8, size := 8, mask := a.mask >>> 16, data := { a.data with bits := a.data.bits >>> 64 } }

/-- The lower 8 bytes of a 16-byte access. -/
def Access.lower (a : Access) : Access := { a with size := 8, mask := a.mask &&& 0xFFFF }

/-- Perform an ordinary access of the issuing thread at a home of this package. The thread then waits on memory, but
for its own core's scratch, whose accesses complete within the rotation (R160). -/
def State.performOrdinary (s : State) (t : Thread) (e : Fields) (a : Access) : State :=
  let r := s.perform a
  match r.status with
  | .waits => { s.put { t with wait := .fullEmpty a e } with feWait := s.feWait ++ [s.cur] }
  | .error k => r.state.trap (s.dataTrap s.cur a k)
  | .ok =>
    let w : Wait := if s.inCore (slotCore s.cur) a.key then .none else .memory
    (r.state.put { t.complete e a r.old r.cap with wait := w }).serveAccess a

/-- Perform the lower half of a 16-byte access; the upper half follows (R163). -/
def State.performLower (s : State) (t : Thread) (e : Fields) (a : Access) : State :=
  match s.badWord a (a.op == .store) with
  | some k => (s.detect k).trap (s.dataTrap s.cur a k)
  | none => let r := s.perform a.lower; r.state.put { t with wait := .upperHalf a e r.old }

/-! ## Banks (01 R15, 04 R76) -/

/-- The grove of a key of grove memory, and its bank there (01 R15). -/
def memGrove (k : Nat) : Nat := keyPa k / 2 ^ 32
def groveBank (k : Nat) : Nat := keyPa k / 64 % 16

/-- The bank of grove memory of a key. -/
def State.bank (s : State) (k : Nat) : Nat × Nat := Store.get (0, 0) (s.grove (memGrove k)).banks (groveBank k)

/-- The requester that the issuing thread is to a bank: its core's number in its own grove, 16 where it stands elsewhere (log 7). -/
def State.requester (s : State) (k : Nat) : Nat := if slotGrove s.cur = memGrove k then slotCore s.cur % 16 else 16

/-- A bank of grove memory does not serve the issuing thread: it has served an access in the present cycle, or one that another
requester makes comes before it in the rotating order (01 R15, log 7). -/
def State.losesGrove (s : State) (k : Nat) : Bool :=
  let b := s.bank k
  decide (s.cycle (16 * memGrove k) < b.1) || (s.opts.lostBank && (s.requester k != b.2 || s.requester k == 16))

/-- A bank serves the issuing thread, which then comes last in the rotating order. -/
def State.takeBank (s : State) (k : Nat) : State :=
  if keyPkg k = s.pkg ∧ keyTgt k = 2 then
    let g := s.grove (memGrove k)
    s.setGrove (memGrove k)
      { g with banks := Store.put (0, 0) g.banks (groveBank k) (s.cycle (16 * memGrove k) + 1, (s.requester k + 1) % 17) }
  else s

/-- A bank of core scratch or grove memory that the access needs is lost to another requester (01 R15, 04 R76); a retry
that holds priority does not lose a scratch bank. -/
def State.losesBank (s : State) (t : Thread) (a : Access) : Bool :=
  keyPkg a.key == s.pkg && ((keyTgt a.key == 2 && s.losesGrove a.key) || (keyTgt a.key == 3 && s.opts.lostBank && !t.prio))

/-- The access of an instruction of fields `e`, with its space and the page its translation maps. -/
def State.located (s : State) (t : Thread) (e : Fields) (a : Access) : Access :=
  let sp := capSpace (t.reg e.a).bits
  let page := if sp = 3 then (tlbFind (s.grove (slotGrove s.cur)).tlb t.ctx a.va.toNat).map fun x => (x.base, x.size) else none
  { a with space := sp, page := page.getD (0, 0) }

/-- An access that waits for a full/empty bit (R168). -/
def Access.feWaits (a : Access) : Bool := a.op == .ldfe || a.op == .stef || a.op == .ldff

/-- An access of 16 bytes that is performed as two 8-byte accesses (R163). -/
def Access.halves (a : Access) : Bool := a.size == 16 && (a.op == .load || a.op == .store)

/-- An access of the issuing thread takes its bank, and is charged for its active bytes (01 R15, 26 R407). -/
def State.spendAccess (s : State) (a : Access) : State :=
  if a.words.isEmpty then s else (s.spend (slotCore s.cur) a.key).takeBank a.key

/-- Issue an ordinary access (R160, R193). -/
def State.issueOrdinary (s : State) (t : Thread) (e : Fields) (a : Access) : State :=
  let a := s.located t e a
  if t.rx.any fun r => s.precedes (slotCore s.cur) r a e.rel e.scope then
    s.retry t (.behind a e.rel e.scope)
  else if s.losesBank t a then s.forfeit t (keyTgt a.key == 3)
  else
  let s := s.spendAccess a
  if !s.isLocal a.key then
    let s := s.put { t with wait := .remote a e }
    let cls := match a.op with | .wake _ => 0 | _ => 1
    if keyTgt a.key = 6 then s else s.ask (keyPkg a.key) cls (.thread s.cur)
  else if s.opts.split && a.halves then s.performLower t e a
  else s.performOrdinary t e a

/-- The first relaxed access of the thread in slot `n` to a peer package that has not been requested and that none before
it must be performed before (R161, R162): its place. -/
def State.unasked (s : State) (n : Nat) (t : Thread) : Option Nat :=
  (List.range t.rx.length).find? fun i => match t.rx[i]? with
    | some r => r.req == 0 && !s.isLocal r.acc.key && keyTgt r.acc.key != 6 &&
        !((t.rx.take i).any fun x => s.precedes (slotCore n) x r.acc r.rel r.scope)
    | none => false

/-- Send the requests of the relaxed accesses of the thread in slot `n` that may go. -/
def State.askRelaxed (n : Nat) : Nat → State → State
  | 0, s => s
  | f + 1, s =>
    match s.thread n with
    | none => s
    | some t =>
      match s.unasked n t with
      | none => s
      | some i =>
        match t.rx[i]? with
        | none => s
        | some r =>
          let s := s.setThread n { t with rx := t.rx.set i { r with req := s.nextReq + 1 } }
          State.askRelaxed n f (s.ask (keyPkg r.acc.key) 1 (.relaxed n))

/-- Issue a relaxed access (R58, R161): it is counted until it has been performed. -/
def State.issueRelaxed (s : State) (t : Thread) (e : Fields) (a : Access) : State :=
  let a := s.located t e a
  if 8 ≤ t.rx.length then s.forfeit t false
  else if s.losesBank t a then s.forfeit t (keyTgt a.key == 3)
  else
    let s := s.spendAccess a
    let r : Relaxed := { acc := a, acq := e.acq, rel := e.rel, scope := e.scope, req := 0, low := none }
    s.put { (t.postInc e).next e with rx := t.rx ++ [r] }

/-- Issue an access after its checks. -/
def State.issue (s : State) (t : Thread) (e : Fields) (a : Access) : State :=
  let go := if e.rx then s.issueRelaxed t e a else s.issueOrdinary t e a
  if e.rel then s.orElsePending t e.scope go else go

/-! ## The common effect of a memory instruction (R159) -/

/-- The address of a memory operand. -/
def Thread.memAddr (t : Thread) (e : Fields) : Nat :=
  if e.post then (t.reg e.a).lo else wrap 64 ((t.reg e.a).lo + e.imm.toInt)

/-- Every active byte of the operand passes the capability check. -/
def checkBytes (r : QReg) (va size mask perm : Nat) : Bool :=
  (List.range size).all fun i => mask / 4 ^ i % 4 == 0 || capcheck r (va + i) 1 perm

/-- Form and translate an address for the issuing thread, then go on with its key. A miss whose walk outlasts the step
leaves the thread waiting on memory (22 R365), as a move of the page (R367) and a transfer of the core (17 R320) do. -/
def State.withKey (s : State) (t : Thread) (space va : Nat) (rights : List Right) (go : State → Nat → State) : State :=
  let g := slotGrove s.cur
  if space == 3 && t.absent == some (va / 4096) then s.trap (.translation 5 va)
  else if space == 3 && va < 2 ^ 57 && s.mustWalk g t.ctx va then (s.beginWalk g t.ctx va).retry t (.walk g va)
  else if space == 3 && s.moving t.ctx va then s.retry t (.pageMove va)
  else
    let step (acc : Formed × State) (r : Right) : Formed × State :=
      match acc.1 with
      | .key _ => acc.2.form t.ctx (slotCore s.cur) space va r
      | _ => acc
    match rights.foldl step (.key 0, s) with
    | (.key k, s) => match s.remapping t.ctx space va with | some l => s.retry t (.remap l) | none => go s k
    | (.fault c, s) => s.trap (.translation c va)
    | (.protection, s) => s.trap (.protection va)
    | (.capability, s) => s.trap (.capability va)
    | (.bad, s) => s.trap (.data 0 va false)

/-- What a memory instruction asks of its operand. -/
structure MemUse where
  size : Nat
  mask : Nat
  perm : Nat
  rights : List Right
deriving DecidableEq, Repr

/-- Alignment, capability check, address and translation; then `go` with the key and the address. -/
def State.memOperand (s : State) (t : Thread) (e : Fields) (u : MemUse) (go : State → Nat → Nat → State) : State :=
  let r := t.reg e.a
  let va := t.memAddr e
  if va % u.size ≠ 0 then s.trap (.format true va)
  else if !(r.isMem && checkBytes r va u.size u.mask u.perm) then s.trap (.capability va)
  else s.withKey t (capSpace r.bits) va u.rights fun s k => go s k va

/-- An access record. -/
def mkAccess (t : Thread) (op : AccessOp) (key va size mask : Nat) (data : QReg) (dest : Option (BitVec 5)) (ty : BitVec 5) :
    Access :=
  { op, key, va := BitVec.ofNat 64 va, size, mask := BitVec.ofNat 32 mask, data, expected := 0, dest, ty, pc := t.pc, space := 3, page := (0, 0)
    stale := false }

end Sys2Proof.Machine
end

