-- ==== Sys2Proof/Machine/Save.lean ====
section
/-!
DEFINITION. The saved form of a thread (spec/17 R315 Table 9, R321; spec/04 R77): header, registers, predicates and
slice, as granules of 16 bytes, and the thread that a restore makes of them.
-/
namespace Sys2Proof.Machine

/-- 16 bytes with a capability tag bit. -/
abbrev Granule := Nat × Bool

/-! ## Making a save -/

/-- Sum of `f i · 2^(w·i)` over i < n. -/
def packNum (n w : Nat) (f : Nat → Nat) : Nat := loopUp n (fun i v => v + f i % 2 ^ w * 2 ^ (w * i)) 0

/-- The header as one number of 64 bytes. -/
def headerNum (t : Thread) (slot qmask pmask : Nat) (hard crewWait : Bool) : Nat :=
  let flags := flag hard + 2 * flag t.pair + 4 * flag t.trig + 8 * flag t.stopped.isSome + 16 * flag t.frozen +
    32 * flag crewWait
  let tags := packNum 32 6 fun i =>
    if bit qmask i then 32 * flag (t.reg (BitVec.ofNat 5 i)).cap + (t.reg (BitVec.ofNat 5 i)).tag.toNat else 0
  t.pc.toNat + t.gtid.toNat * 2 ^ 64 + t.gen.toNat * 2 ^ 128 + qmask * 2 ^ 192 + pmask * 2 ^ 224 +
    t.cp % 256 * 2 ^ 240 + t.tl % 256 * 2 ^ 248 + t.gf.toNat * 2 ^ 256 + t.lcore % 4096 * 2 ^ 272 +
    slot % 16 * 2 ^ 288 + flags * 2 ^ 296 + t.slice % 2 ^ 16 * 2 ^ 304 + tags * 2 ^ 320

/-- The numbers below `n` whose bit is set, in ascending order. -/
def setBits (n mask : Nat) : List Nat := (List.range n).filter (bit mask)

/-- The predicates as granules, four to a granule, padded. -/
def predGranules (t : Thread) (pmask : Nat) : List Granule :=
  let l := setBits 8 pmask
  (List.range ((l.length + 3) / 4)).map fun i =>
    (packNum 4 32 fun j => match l[4 * i + j]? with | some k => (t.pred k).toNat | none => 0, false)

/-- Header, live registers, live predicates (R315). -/
def saveRegs (t : Thread) (slot qmask pmask : Nat) (hard crewWait : Bool) : List Granule :=
  let h := headerNum t slot qmask pmask hard crewWait
  ((List.range 4).map fun i => (lane h 128 i, false)) ++
    ((setBits 32 qmask).map fun i => ((t.reg (BitVec.ofNat 5 i)).bits.toNat, (t.reg (BitVec.ofNat 5 i)).cap)) ++
    predGranules t pmask

/-- The key of a byte of a core's scratch. -/
def State.scratchKey (s : State) (core off : Nat) : Nat :=
  memKey s.pkg 3 (core / 16 * 2 ^ 32 + core % 16 * 2 ^ 28 + off)

/-- The key of a slot's 6,144-byte region. -/
def State.regionKey (s : State) (n : Nat) : Nat := s.scratchKey (slotCore n) (slotNum n * 6144)

/-- The granule of memory at a key. -/
def State.granule (s : State) (k : Nat) : Granule := (s.readNum k 16, s.hasTag k)

/-- Write a granule with its capability tag bit (R180). -/
def State.putGranule (s : State) (k : Nat) (g : Granule) : State :=
  (((s.writeNum k 16 g.1).freshWord k).freshWord (k + 8)).setTag k g.2

/-- The granules of a slot's slice. -/
def State.sliceGranules (s : State) (n slice : Nat) : List Granule :=
  (List.range slice).map fun i => s.granule (s.regionKey n + 16 * i)

/-- Write granules one after another. -/
def State.putGranules (s : State) (k : Nat) : List Granule → State
  | [] => s
  | g :: r => State.putGranules (s.putGranule k g) (k + 16) r

/-! ## Frames in the save region (R315) -/

/-- The address of a frame of a context. -/
def State.frameVa (s : State) (c i : Nat) : Nat := (s.ctx c).regs.save + 6752 * i

/-- Write granules to addresses of a context, through its page tables. A granule whose page cannot be written is lost
(log 21). -/
def State.putVa (s : State) (g c va : Nat) : List Granule → State
  | [] => s
  | x :: r =>
    let (f, s) := s.form c (g * 16) 3 va .store
    let s := match f with | .key k => s.putGranule k x | _ => s
    State.putVa s g c (va + 16) r

/-- Read `n` granules of a context; one whose page cannot be read is a free value (log 21). -/
def State.getVa (s : State) (g c : Nat) : Nat → Nat → List Granule × State
  | 0, _ => ([], s)
  | n + 1, va =>
    let (f, s) := s.form c (g * 16) 3 va .load
    let (x, s) := match f with
      | .key k => (s.granule k, s)
      | _ => let (v, s) := s.takeFree; ((v % 2 ^ 128, false), s)
    let (r, s) := State.getVa s g c n (va + 16)
    (x :: r, s)

/-- The charge of a save or a restore of `n` granules at an address: each 64 bytes an access of their level (26 R407),
credited to the die of the core and to the context (R315, 26 R408). -/
def State.chargeFrame (s : State) (g c va n : Nat) : State :=
  let pj := ((List.range ((n + 3) / 4)).map fun i =>
    match (s.form c (g * 16) 3 (va + 64 * i) .load).1 with | .key k => s.levelCharge false k | _ => 0).sum
  s.credit (groveDie g) c none pj

/-! ## Restoring (R77) -/

/-- A register from its granule and its six tag bits: a capability whose granule has lost its tag bit is data, raw; so
are bits that stand under a reserved or stray code (log 21). -/
def restoreReg (x : Granule) (tag : Nat) : QReg :=
  if tag / 32 = 1 then if x.2 then ⟨BitVec.ofNat 128 x.1, true, 27⟩ else ⟨BitVec.ofNat 128 x.1, false, 0⟩
  else ⟨BitVec.ofNat 128 x.1, false, if tag ≤ 26 then BitVec.ofNat 5 tag else 0⟩

/-- The place of `i` among the set bits of a mask. -/
def rankIn (mask i : Nat) : Nat := (setBits i mask).length

/-- The registers and predicates of a thread from its granules; the header gives the rest of R58 Table 1. -/
def restoreRegs (t : Thread) (l : List Granule) : Thread :=
  let h := packNum 4 128 fun i => ((l[i]?).getD (0, false)).1
  let qmask := bits h 223 192
  let pmask := bits h 231 224
  let nq := (setBits 32 qmask).length
  let regs := (List.range 32).foldl (fun (t : Thread) i =>
    t.setReg (BitVec.ofNat 5 i)
      (if bit qmask i then restoreReg ((l[4 + rankIn qmask i]?).getD (0, false)) (bits h (325 + 6 * i) (320 + 6 * i))
       else QReg.zero)) t
  let t := (List.range 8).foldl (fun (t : Thread) i =>
    let r := rankIn pmask i
    t.setPred i (if bit pmask i then BitVec.ofNat 32 (lane ((l[4 + nq + r / 4]?).getD (0, false)).1 32 (r % 4)) else 0)) regs
  { t with pc := BitVec.ofNat 64 (bits h 63 0), gtid := BitVec.ofNat 64 (bits h 127 64)
           gen := BitVec.ofNat 64 (bits h 191 128), gf := BitVec.ofNat 16 (bits h 264 256)
           slice := bits h 319 304, pair := bit h 297, trig := bit h 298, frozen := bit h 300
           lcore := bits h 283 272, dist := 0, fbuf := [] }

/-- The number of granules that hold a header, and the registers and predicates that two masks name (R315). -/
def stateLength (qmask pmask : Nat) : Nat := 4 + (setBits 32 qmask).length + ((setBits 8 pmask).length + 3) / 4

/-- The number of granules of the register part of a save. -/
def saveLength (h : Nat) : Nat := stateLength (bits h 223 192) (bits h 231 224)

/-- A thread as a restore of the registers and predicates that two masks name leaves it (04 R77). -/
def Thread.liveOnly (t : Thread) (qmask pmask : Nat) : Thread :=
  let t := (List.range 32).foldl (fun (t : Thread) i =>
    if bit qmask i then t else t.setReg (BitVec.ofNat 5 i) QReg.zero) t
  (List.range 8).foldl (fun (t : Thread) i => if bit pmask i then t else t.setPred i 0) t

/-- A thread with nothing in it, for a restore to fill. -/
def Thread.blank : Thread :=
  { gtid := 0, q := Vector.replicate 32 QReg.zero, p := Vector.replicate 8 0, gf := 0x000A, cp := 0, tl := 0, pc := 0
    gen := 0, dist := 0, lcore := 0, slice := 384, pair := false, trig := false, rx := [], pendErr := []
    wait := .none, stopped := none, frozen := false, migrating := false, liveQ := 0, liveP := 0, halted := false, reissue := false
    skipBp := false, stepping := 0, stepAcc := none, stepOp := none, debugStop := false, prio := false, lost := false, held := 0, marked := false, request := none, fbuf := [], lastSfu := false
    mismatch := none, due := none, copying := false, absent := none }

/-! ## Checkpoints of a lockstep pair (R321) -/

/-- The key of the checkpoint of the pair in slot `n` of an even core: the slot region of the odd core. -/
def State.checkpointKey (s : State) (n : Nat) : Nat := s.scratchKey (slotCore n + 1) (slotNum n * 6144)

/-- Take a checkpoint of the thread in slot `n`: the registers and predicates that two masks name, and the slice. -/
def State.checkpointOf (s : State) (n : Nat) (t : Thread) (qmask pmask : Nat) : State :=
  let l := saveRegs t (slotNum n) qmask pmask false false
  s.putGranules (s.checkpointKey n) (l ++ s.sliceGranules n t.slice)

/-- Take a checkpoint of every register. -/
def State.checkpoint (s : State) (n : Nat) (t : Thread) : State := s.checkpointOf n t (2 ^ 32 - 1) 0xFF

/-- A checkpoint holds a thread out of rotation for 16 + SLICE cycles from cycle `c` on. -/
def Thread.heldFrom (t : Thread) (c : Nat) : Thread := { t with held := c + 16 + t.slice }

/-- Restore the checkpoint of the pair in slot `n`: as every restore, with D at 0 (07 R155). -/
def State.rollback (s : State) (n : Nat) (t : Thread) : State :=
  let k := s.checkpointKey n
  let h := packNum 4 128 fun i => (s.granule (k + 16 * i)).1
  let len := saveLength h
  let l := (List.range len).map fun i => s.granule (k + 16 * i)
  let t' := { restoreRegs t l with cp := t.cp, tl := t.tl, trig := t.trig }
  let slice := (List.range t.slice).map fun i => s.granule (k + 16 * len + 16 * i)
  (s.putGranules (s.regionKey n) slice).setThread n
    { t' with wait := .none, reissue := false, prio := false, lost := false, marked := false }

end Sys2Proof.Machine
end

