-- ==== Sys2Proof/Machine/EngineMem.lean ====
section
/-!
DEFINITION. The accesses of tile engines and skidders (spec/09 R202 to R206, spec/11 R213, R214, R239): one aligned granule
at a time, each translated as it is made.
-/
namespace Sys2Proof.Machine

/-- What ends an engine's work. -/
inductive EngineStop where
  | translation (cause addr : Nat)
  | data (addr : Nat)
  /-- KIND 8 or 9. -/
  | violation (kind addr : Nat)
  /-- a second residue mismatch of a block (11 R225). -/
  | residue
  /-- the page is being walked or moved (22 R365, R367), the core is being transferred (17 R320), a reply is awaited (25 R398), or
  the work asked for has been done. -/
  | pause
deriving DecidableEq, Repr

/-- A computation of an engine: it ends in a value or a stop, and keeps what it has done. -/
abbrev Eng (α : Type) := ExceptT EngineStop (StateM State) α

/-- The key of an address of an engine operand, with the right the access needs. A miss joins or starts a walk of its page, and the
work goes on when it has ended (22 R365). -/
def EngineOp.key (op : EngineOp) (r : QReg) (a : Nat) (right : Right) : Eng Nat := do
  let s ← get
  let space := capSpace r.bits
  let (g, c) := (op.core / 16, op.gtid.toNat / 2 ^ 52)
  if space == 3 && s.moving c a then throw .pause
  if space == 3 && decide (a < 2 ^ 57) && s.mustWalk g c a then
    set (s.beginWalk g c a)
    throw .pause
  let (f, s) := s.form (op.gtid.toNat / 2 ^ 52) op.core space a right
  set s
  match f with
  | .key k => if (s.remapping (op.gtid.toNat / 2 ^ 52) space a).isSome then throw .pause else pure k
  | .fault c => throw (.translation c a)
  | .protection => throw (.violation 9 a)
  | .capability => throw (.violation 8 a)
  | .bad => throw (.data a)

/-- An access to host memory: when the event says that requests there fail, it is a data error (R205, 02 R32). -/
def farAccess (a : Nat) : Eng Unit := do
  let s ← get
  if s.arg.ok then pure () else throw (.data a)

/-- An access of a unit to a granule or a word. -/
def engineAccess (op : AccessOp) (key va size mask v : Nat) : Access :=
  { unitStore key va size mask with op, data := ⟨BitVec.ofNat 128 v, false, 0⟩, ty := 4 }

/-- What the work of a unit has asked of peer packages. -/
def State.farOf (s : State) (k : Nat) : List FarPart := Store.get [] s.far k
def State.setFar (s : State) (k : Nat) (l : List FarPart) : State := { s with far := Store.put [] s.far k l }

/-- An access of an operation at a peer package: it is asked for as traffic of class 2, and the work goes on when its request has
ended (25 R398 to R400); an unreachable home, as an error there, is a data error. What it read, bit 128 of which is a tag bit. -/
def EngineOp.askFar (op : EngineOp) (x : Access) (write : Bool) : Eng Nat := do
  let s ← get
  match (s.farOf op.queue).find? fun p => p.key == x.key && p.write == write with
  | some p =>
    if !p.done then throw .pause
    else if p.ok then pure p.value
    else throw (.data x.va.toNat)
  | none =>
    set ((s.ask (keyPkg x.key) 2 (.engine op.queue x)).setFar op.queue
      (s.farOf op.queue ++ [{ key := x.key, write, req := s.nextReq + 1, done := false, ok := false, value := 0 }]))
    throw .pause

/-- The accesses that satisfy `p` have served their purpose. -/
def EngineOp.dropFar (op : EngineOp) (p : FarPart → Bool) : Eng Unit :=
  modify fun s => s.setFar op.queue ((s.farOf op.queue).filter fun x => !p x)

/-- The request of an engine's access has ended. -/
def State.endFar (s : State) (k req : Nat) (ok : Bool) (v : Nat) : State :=
  s.setFar k ((s.farOf k).map fun p => if p.req = req then { p with done := true, ok, value := v } else p)

/-- The bytes that a granule of the host returns: 16 bytes of the event's data, or with none left a free value (log 9). -/
def State.farGranule (s : State) : Nat × State :=
  if s.arg.data.length < 16 then
    let (v, s) := s.takeFree
    (v % 2 ^ 128, s)
  else
    (loopUp 16 (fun i v => v + ((s.arg.data[i]?).getD 0).toNat * 256 ^ i) 0, { s with arg := { s.arg with data := s.arg.data.drop 16 } })

/-- The capability tag bit that a granule of a peer package returns, a free value (log 9); host memory has none. -/
def State.farTag (s : State) (k : Nat) : Bool × State :=
  if keyTgt k ≤ 3 then let (v, s) := s.takeFree; (v % 2 == 1, s) else (false, s)

/-- Read the granule that holds an address. -/
def EngineOp.readGranule (op : EngineOp) (r : QReg) (a : Nat) : Eng (Nat × Bool) := do
  let k ← op.key r (a / 16 * 16) .load
  let s ← get
  if !s.isLocal k then
    if keyTgt k ≤ 5 then
      let v ← op.askFar (engineAccess .load k (a / 16 * 16) 16 0xFFFFFFFF 0) false
      pure (v % 2 ^ 128, bit v 128)
    else
      farAccess a
      let (v, s) := s.farGranule
      set s
      pure (v, false)
  else if s.poisoned k then do set (s.detect k); throw (.data (a / 16 * 16))
  else if s.poisoned (k + 8) then do set (s.detect (k + 8)); throw (.data (a / 16 * 16 + 8))
  else
    set ((s.correct k).correct (k + 8))
    pure (s.readNum k 16, s.hasTag k)

/-- Write the bytes of a granule that a nibble mask names; the tag bit of the granule becomes `tag`. -/
def EngineOp.writeGranule (op : EngineOp) (r : QReg) (a v mask : Nat) (tag : Bool) : Eng Unit := do
  let k ← op.key r (a / 16 * 16) .store
  let s ← get
  if !s.isLocal k then
    if keyTgt k ≤ 5 then
      let _ ← op.askFar (engineAccess .store k (a / 16 * 16) 16 mask v) true
      op.dropFar fun p => p.key == k && p.write
    else farAccess a
  else
    let x := unitStore k (a / 16 * 16) 16 mask
    match s.badWord x true with
    | some w => do set (s.detect w); throw (.data (x.wordVa w))
    | none => set ((s.writeAccess x v).setTag k tag)

/-- `n` bytes from an address, as a number. -/
def EngineOp.readNum (op : EngineOp) (r : QReg) (a n : Nat) : Eng Nat := do
  let first := a / 16
  let count := (a % 16 + n + 15) / 16
  let v ← (List.range count).foldlM (fun v i => do
    let g ← op.readGranule r ((first + i) * 16)
    pure (v + g.1 * 2 ^ (128 * i))) 0
  pure (v / 2 ^ (8 * (a % 16)) % 2 ^ (8 * n))

/-- The granules of `n` bytes of a number at an address, as row `row` writes them over `old`. -/
def granuleWrites (row : Nat) (reg : QReg) (a n v : Nat) (old : Option Nat) : List EngineWrite :=
  let granule (v i : Nat) : Nat := v % 2 ^ (8 * n) * 2 ^ (8 * (a % 16)) / 2 ^ (128 * i) % 2 ^ 128
  let mask := (2 ^ (2 * n) - 1) * 2 ^ (2 * (a % 16))
  (List.range ((a % 16 + n + 15) / 16)).map fun i =>
    { row, reg, addr := (a / 16 + i) * 16, v := granule v i, mask := mask / 2 ^ (32 * i) % 2 ^ 32, old := old.map (granule · i) }

/-- Writes of one granule become one, in the place of the first (09 R202). -/
def joinWrites (l : List EngineWrite) : List EngineWrite :=
  l.foldl (fun l w =>
    if l.any fun x => x.reg == w.reg && x.addr == w.addr then
      l.map fun x =>
        if x.reg == w.reg && x.addr == w.addr then
          { x with v := mergeNibbles x.v w.v w.mask, mask := x.mask ||| w.mask, old := w.old.map fun o => mergeNibbles (x.old.getD 0) o w.mask }
        else x
    else l ++ [w]) []

/-- The key of an address of an operand, as it stands. -/
def EngineOp.keyAt (op : EngineOp) (s : State) (r : QReg) (a : Nat) (right : Right) : Option Nat :=
  match ((op.key r a right).run.run s).1 with | .ok k => some k | .error _ => none

/-- A check made when a row is used (11 R226, R238). -/
def needCap (r : QReg) (a n perm : Nat) : Eng Unit :=
  if capcheck r a n perm then pure () else throw (.violation 8 a)

end Sys2Proof.Machine
end

