-- ==== Sys2Proof/WellFormed.lean ====
section
/-!
DEFINITION. What makes an instruction's fields an encoding the decoder accepts: steps 5 to 8 of R111, with the cause of
R111 Table 9 for each failure, from the instruction tables of spec/ (07 R124, 08 R158 and R182, 11 R217, R218 and R237,
13 R266, 15 R284 and R286, 17 R302, R310 and R322, 19 R334, 20 R355, 22 R366 and R372, 23 R387, 27 R432).
-/
namespace Sys2Proof

/-- How a row uses a register field. -/
inductive FieldUse where
  /-- must be zero (cause 4). -/
  | zero
  /-- a q register, an index or immediate bits: every value. -/
  | any
  /-- a predicate field: 0 to 7 (cause 5). -/
  | pred
  /-- a predicate field that names the even member of a pair (cause 5). -/
  | predEven
  /-- fd of `cvote`: the even member of a pair, or a q register under `.cnt` (R334). -/
  | voteD
deriving DecidableEq, Repr

/-- The sets of format codes (R65 Table 5), one bit per code; bit 0 is the base form. -/
def tysNone : BitVec 32 := 0x00000001
def tysInt : BitVec 32 := 0x000201FF
def tysFp : BitVec 32 := 0x00000E01
def tysLn : BitVec 32 := 0x00033FFF
def tysLnFp : BitVec 32 := 0x00020FFF
def tysData : BitVec 32 := 0x07FFFFFF
def tysPack : BitVec 32 := 0x000001DF
def tysUnpack : BitVec 32 := 0x000200EF
def tysFdot : BitVec 32 := 0x00033C23
def tysCvt : BitVec 32 := 0x0003FFFE
def tysFcmp : BitVec 32 := 0x00003E01
def tysLds : BitVec 32 := 0x00000FFF
def tysI64 : BitVec 32 := 0x00000111
def tysAtom : BitVec 32 := 0x00000B99
def tysAtomF : BitVec 32 := 0x00000A00
def tysCas : BitVec 32 := 0x00000199
/-- The twenty matrix operand formats (05 R81, R83, R91, R93; 11 R218). -/
def tysMatrix : BitVec 32 := 0x07FFFE22
def tysUnscaled : BitVec 32 := 0x0007FE22
def tysTred : BitVec 32 := 0x00000209
def tysI4to8 : BitVec 32 := 0x00020022
def tysExp2D : BitVec 32 := 0x00003E01

/-- Reserved combinations of the mod of `tmm` and `tgmm` (R218 Table 4): SAT only with a C format other than f32, RND
only with bf16 and f16. -/
def tmmRsv (e : Fields) : Bool :=
  let cf := e.mod.toNat / 32 % 4
  (cf == 0 && e.mod.getLsbD 3) || (cf < 2 && e.rnd != 0)

/-- Format failures of `tmm` and `tgmm`: A and B are matrix formats, and an i32 C takes only i4, i8 and ui8. -/
def tmmFmt (e : Fields) : Bool :=
  let bf := e.mod.toNat / 128
  !tysMatrix.getLsbD bf ||
    (e.mod.toNat / 32 % 4 == 1 && !(tysI4to8.getLsbD e.ty.toNat && tysI4to8.getLsbD bf))

/-- Reserved codes of `tsfx` (R218 Table 5, R230): FN above 2; a DFMT or an fd with `rmax` or `rsum`. -/
def tsfxRsv (e : Fields) : Bool :=
  let fn := e.mod.toNat / 512
  fn > 2 || (fn != 0 && (e.mod.toNat / 16 % 32 != 0 || e.d != 0))

/-- A D format that `tsfx.exp2` does not admit, which fails with cause 6 (R218 names none, log 84). -/
def tsfxFmt (e : Fields) : Bool := !tysExp2D.getLsbD (e.mod.toNat / 16 % 32)

/-- Reserved codes of `tred`: FN above 2, `.sat` other than on an i32 add. -/
def tredRsv (e : Fields) : Bool :=
  let fn := e.mod.toNat / 512
  fn > 2 || (e.mod.getLsbD 3 && !(e.ty == 3 && fn == 0))

/-- The types a `cred` operation admits (R344). -/
def credTys (xop : Nat) : BitVec 32 :=
  if xop == 6 then tysFp else if xop < 3 then tysInt &&& ~~~0x00020000#32 else tysInt

/-- One row of the opcode table with an encoding: its opcode, forms and subfunctions, and what its entry admits in each
field. `x4`, `x6`, `x7` and `x8` are the row's own failures with that cause. -/
structure RowInfo where
  op : Nat
  forms : List Form
  xopLo : Nat := 0
  xopHi : Nat := 0
  d : FieldUse := .zero
  a : FieldUse := .zero
  b : FieldUse := .zero
  c : FieldUse := .zero
  ty : BitVec 32 := tysNone
  /-- a nonzero ty is a field that must be zero (cause 4), not a ty outside a set (cause 6). -/
  tyZero : Bool := false
  mod : BitVec 12 := 0
  imm : BitVec 32 := 0
  /-- mod follows R104: stream marks are judged in step 8. -/
  compute : Bool := false
  streams : BitVec 12 := 0
  destQ : Bool := true
  x4 : Fields → Bool := fun _ => false
  x6 : Fields → Bool := fun _ => false
  x7 : Fields → Bool := fun _ => false
  x8 : Fields → Bool := fun _ => false
  /-- what tells this row from another row of the same opcode and subfunction. -/
  pick : Fields → Bool := fun _ => true
  /-- the cause of a form the opcode admits and this row does not. -/
  formCause : Nat := 4

/-- The row of the opcode table behind each instruction, with its fields; events have no encoding. Each row states
what its entry of spec/ states: opcode, forms, subfunctions, and the fields and codes it admits. A mark for a stream on an fa that a literal form does not read
fails with cause 8 (log 86). -/
def Instr.row : Instr → Option (RowInfo × Fields)
  | .add e => some ({ op := 0x0, forms := [.one], d := .any, a := .any, b := .any }, e)
  | .addX e => some ({ op := 0x0, forms := [.ext, .lit, .extLit], d := .any, a := .any, b := .any, compute := true, streams := 0xe0, ty := tysInt, mod := 0xfe8 }, e)
  | .sub e => some ({ op := 0x1, forms := [.one], d := .any, a := .any, b := .any }, e)
  | .subX e => some ({ op := 0x1, forms := [.ext, .lit, .extLit], d := .any, a := .any, b := .any, compute := true, streams := 0xe0, ty := tysInt, mod := 0xfe8 }, e)
  | .mul e => some ({ op := 0x2, forms := [.one], d := .any, a := .any, b := .any }, e)
  | .mulX e => some ({ op := 0x2, forms := [.ext, .lit, .extLit], d := .any, a := .any, b := .any, compute := true, streams := 0xe0, ty := tysInt, mod := 0xfe8 }, e)
  | .mulhi e => some ({ op := 0x3, forms := [.one], d := .any, a := .any, b := .any }, e)
  | .mulhiX e => some ({ op := 0x3, forms := [.ext, .lit, .extLit], d := .any, a := .any, b := .any, compute := true, streams := 0xe0, ty := tysInt, mod := 0xfe0 }, e)
  | .div e => some ({ op := 0x4, forms := [.one], d := .any, a := .any, b := .any }, e)
  | .divX e => some ({ op := 0x4, forms := [.ext, .lit, .extLit], d := .any, a := .any, b := .any, compute := true, streams := 0xe0, ty := tysInt, mod := 0xfe8 }, e)
  | .rem e => some ({ op := 0x5, forms := [.one], d := .any, a := .any, b := .any }, e)
  | .remX e => some ({ op := 0x5, forms := [.ext, .lit, .extLit], d := .any, a := .any, b := .any, compute := true, streams := 0xe0, ty := tysInt, mod := 0xfe0 }, e)
  | .min e => some ({ op := 0x6, forms := [.one], d := .any, a := .any, b := .any }, e)
  | .minX e => some ({ op := 0x6, forms := [.ext, .lit, .extLit], d := .any, a := .any, b := .any, compute := true, streams := 0xe0, ty := tysInt, mod := 0xfe0 }, e)
  | .max e => some ({ op := 0x7, forms := [.one], d := .any, a := .any, b := .any }, e)
  | .maxX e => some ({ op := 0x7, forms := [.ext, .lit, .extLit], d := .any, a := .any, b := .any, compute := true, streams := 0xe0, ty := tysInt, mod := 0xfe0 }, e)
  | .and e => some ({ op := 0x8, forms := [.one], d := .any, a := .any, b := .any }, e)
  | .andX e => some ({ op := 0x8, forms := [.ext, .lit, .extLit], d := .any, a := .any, b := .any, compute := true, streams := 0xe0, ty := tysData, mod := 0xfe0 }, e)
  | .or e => some ({ op := 0x9, forms := [.one], d := .any, a := .any, b := .any }, e)
  | .orX e => some ({ op := 0x9, forms := [.ext, .lit, .extLit], d := .any, a := .any, b := .any, compute := true, streams := 0xe0, ty := tysData, mod := 0xfe0 }, e)
  | .xor e => some ({ op := 0xa, forms := [.one], d := .any, a := .any, b := .any }, e)
  | .xorX e => some ({ op := 0xa, forms := [.ext, .lit, .extLit], d := .any, a := .any, b := .any, compute := true, streams := 0xe0, ty := tysData, mod := 0xfe0 }, e)
  | .andn e => some ({ op := 0xb, forms := [.one], d := .any, a := .any, b := .any }, e)
  | .andnX e => some ({ op := 0xb, forms := [.ext, .lit, .extLit], d := .any, a := .any, b := .any, compute := true, streams := 0xe0, ty := tysData, mod := 0xfe0 }, e)
  | .shl e => some ({ op := 0xc, forms := [.one], d := .any, a := .any, b := .any }, e)
  | .shlX e => some ({ op := 0xc, forms := [.ext, .lit, .extLit], d := .any, a := .any, b := .any, compute := true, streams := 0xe0, ty := tysInt, mod := 0xfe0 }, e)
  | .shr e => some ({ op := 0xd, forms := [.one], d := .any, a := .any, b := .any }, e)
  | .shrX e => some ({ op := 0xd, forms := [.ext, .lit, .extLit], d := .any, a := .any, b := .any, compute := true, streams := 0xe0, ty := tysInt, mod := 0xfe0 }, e)
  | .sar e => some ({ op := 0xe, forms := [.one], d := .any, a := .any, b := .any }, e)
  | .sarX e => some ({ op := 0xe, forms := [.ext, .lit, .extLit], d := .any, a := .any, b := .any, compute := true, streams := 0xe0, ty := tysInt, mod := 0xfe0 }, e)
  | .rot e => some ({ op := 0xf, forms := [.one], d := .any, a := .any, b := .any }, e)
  | .rotX e => some ({ op := 0xf, forms := [.ext, .lit, .extLit], d := .any, a := .any, b := .any, compute := true, streams := 0xe0, ty := tysInt, mod := 0xfe0 }, e)
  | .addsat e => some ({ op := 0x10, forms := [.one], d := .any, a := .any, b := .any }, e)
  | .addsatX e => some ({ op := 0x10, forms := [.ext, .lit, .extLit], d := .any, a := .any, b := .any, compute := true, streams := 0xe0, ty := tysInt, mod := 0xfe0 }, e)
  | .subsat e => some ({ op := 0x11, forms := [.one], d := .any, a := .any, b := .any }, e)
  | .subsatX e => some ({ op := 0x11, forms := [.ext, .lit, .extLit], d := .any, a := .any, b := .any, compute := true, streams := 0xe0, ty := tysInt, mod := 0xfe0 }, e)
  | .abs e => some ({ op := 0x12, forms := [.one], d := .any, a := .any }, e)
  | .absX e => some ({ op := 0x12, forms := [.ext], d := .any, a := .any, compute := true, streams := 0x60, ty := tysInt, mod := 0xfe8 }, e)
  | .neg e => some ({ op := 0x13, forms := [.one], d := .any, a := .any }, e)
  | .negX e => some ({ op := 0x13, forms := [.ext], d := .any, a := .any, compute := true, streams := 0x60, ty := tysInt, mod := 0xfe8 }, e)
  | .clz e => some ({ op := 0x14, forms := [.one], d := .any, a := .any }, e)
  | .clzX e => some ({ op := 0x14, forms := [.ext], d := .any, a := .any, compute := true, streams := 0x60, ty := tysInt, mod := 0xfe0 }, e)
  | .ctz e => some ({ op := 0x15, forms := [.one], d := .any, a := .any }, e)
  | .ctzX e => some ({ op := 0x15, forms := [.ext], d := .any, a := .any, compute := true, streams := 0x60, ty := tysInt, mod := 0xfe0 }, e)
  | .popc e => some ({ op := 0x16, forms := [.one], d := .any, a := .any }, e)
  | .popcX e => some ({ op := 0x16, forms := [.ext], d := .any, a := .any, compute := true, streams := 0x60, ty := tysInt, mod := 0xfe0 }, e)
  | .mov e => some ({ op := 0x17, forms := [.one], d := .any, a := .any }, e)
  | .movX e => some ({ op := 0x17, forms := [.ext, .lit, .extLit], d := .any, a := .any, compute := true, streams := 0x60, ty := tysData, mod := 0xfe0, x4 := fun e => e.hasLit && e.a != 0, x8 := fun e => e.hasLit && e.mod.getLsbD 6 }, e)
  | .movTag e => some ({ op := 0x17, forms := [.ext], xopLo := 1, xopHi := 1, d := .any, a := .any, tyZero := true, formCause := 3 }, e)
  | .movRaw e => some ({ op := 0x17, forms := [.ext], xopLo := 2, xopHi := 2, d := .any, a := .any, tyZero := true, formCause := 3 }, e)
  | .sel e => some ({ op := 0x18, forms := [.one], d := .any, a := .any, b := .any }, e)
  | .selX e => some ({ op := 0x18, forms := [.ext, .lit, .extLit], d := .any, a := .any, b := .any, c := .pred, compute := true, streams := 0xe0, ty := tysData, mod := 0xfe0 }, e)
  | .shuf e => some ({ op := 0x19, forms := [.one], d := .any, a := .any, b := .any }, e)
  | .shufX e => some ({ op := 0x19, forms := [.ext, .lit, .extLit], d := .any, a := .any, b := .any, compute := true, streams := 0xe0, ty := tysData, mod := 0xfe0 }, e)
  | .bcast e => some ({ op := 0x1a, forms := [.one], d := .any, a := .any, b := .any }, e)
  | .bcastX e => some ({ op := 0x1a, forms := [.ext, .lit, .extLit], d := .any, a := .any, b := .any, compute := true, ty := tysLn, mod := 0x1e0 }, e)
  | .ext e => some ({ op := 0x1b, forms := [.one], d := .any, a := .any, b := .any }, e)
  | .extX e => some ({ op := 0x1b, forms := [.ext, .lit, .extLit], d := .any, a := .any, b := .any, compute := true, ty := tysLn, mod := 0x1e0 }, e)
  | .pack e => some ({ op := 0x1c, forms := [.one], d := .any, a := .any, b := .any }, e)
  | .packX e => some ({ op := 0x1c, forms := [.ext, .lit, .extLit], d := .any, a := .any, b := .any, compute := true, ty := tysPack, mod := 0x1e8 }, e)
  | .unpack e => some ({ op := 0x1d, forms := [.one], d := .any, a := .any }, e)
  | .unpackX e => some ({ op := 0x1d, forms := [.ext], xopHi := 1, d := .any, a := .any, compute := true, ty := tysUnpack, mod := 0x1e0 }, e)
  | .mad e => some ({ op := 0x1e, forms := [.one], d := .any, a := .any, b := .any }, e)
  | .madX e => some ({ op := 0x1e, forms := [.ext, .lit, .extLit], d := .any, a := .any, b := .any, c := .any, compute := true, streams := 0x1e0, ty := tysInt, mod := 0xfe8 }, e)
  | .ins e => some ({ op := 0x1f, forms := [.one], d := .any, a := .any, b := .any }, e)
  | .insX e => some ({ op := 0x1f, forms := [.ext, .lit, .extLit], d := .any, a := .any, b := .any, compute := true, ty := tysLn, mod := 0x1e0 }, e)
  | .fadd e => some ({ op := 0x20, forms := [.one], d := .any, a := .any, b := .any }, e)
  | .faddX e => some ({ op := 0x20, forms := [.ext, .lit, .extLit], d := .any, a := .any, b := .any, compute := true, streams := 0xe0, ty := tysFp, mod := 0xfff, x7 := fun e => e.rnd > 5 }, e)
  | .fsub e => some ({ op := 0x21, forms := [.one], d := .any, a := .any, b := .any }, e)
  | .fsubX e => some ({ op := 0x21, forms := [.ext, .lit, .extLit], d := .any, a := .any, b := .any, compute := true, streams := 0xe0, ty := tysFp, mod := 0xfff, x7 := fun e => e.rnd > 5 }, e)
  | .fmul e => some ({ op := 0x22, forms := [.one], d := .any, a := .any, b := .any }, e)
  | .fmulX e => some ({ op := 0x22, forms := [.ext, .lit, .extLit], d := .any, a := .any, b := .any, compute := true, streams := 0xe0, ty := tysFp, mod := 0xfff, x7 := fun e => e.rnd > 5 }, e)
  | .fma e => some ({ op := 0x23, forms := [.one], d := .any, a := .any, b := .any }, e)
  | .fmaX e => some ({ op := 0x23, forms := [.ext, .lit, .extLit], d := .any, a := .any, b := .any, c := .any, compute := true, streams := 0x1e0, ty := tysFp, mod := 0xfff, x7 := fun e => e.rnd > 5 }, e)
  | .fmin e => some ({ op := 0x24, forms := [.one], d := .any, a := .any, b := .any }, e)
  | .fminX e => some ({ op := 0x24, forms := [.ext, .lit, .extLit], d := .any, a := .any, b := .any, compute := true, streams := 0xe0, ty := tysFp, mod := 0xfe0 }, e)
  | .fmax e => some ({ op := 0x25, forms := [.one], d := .any, a := .any, b := .any }, e)
  | .fmaxX e => some ({ op := 0x25, forms := [.ext, .lit, .extLit], d := .any, a := .any, b := .any, compute := true, streams := 0xe0, ty := tysFp, mod := 0xfe0 }, e)
  | .fabs e => some ({ op := 0x26, forms := [.one], d := .any, a := .any }, e)
  | .fabsX e => some ({ op := 0x26, forms := [.ext], d := .any, a := .any, compute := true, streams := 0x60, ty := tysFp, mod := 0xfe0 }, e)
  | .fneg e => some ({ op := 0x27, forms := [.one], d := .any, a := .any }, e)
  | .fnegX e => some ({ op := 0x27, forms := [.ext], d := .any, a := .any, compute := true, streams := 0x60, ty := tysFp, mod := 0xfe0 }, e)
  | .frcp e => some ({ op := 0x28, forms := [.one], d := .any, a := .any }, e)
  | .frcpX e => some ({ op := 0x28, forms := [.ext], d := .any, a := .any, compute := true, streams := 0x60, ty := tysFp, mod := 0xfff, x7 := fun e => e.rnd > 5 }, e)
  | .frsq e => some ({ op := 0x29, forms := [.one], d := .any, a := .any }, e)
  | .frsqX e => some ({ op := 0x29, forms := [.ext], d := .any, a := .any, compute := true, streams := 0x60, ty := tysFp, mod := 0xfff, x7 := fun e => e.rnd > 5 }, e)
  | .fsqrt e => some ({ op := 0x2a, forms := [.one], d := .any, a := .any }, e)
  | .fsqrtX e => some ({ op := 0x2a, forms := [.ext], d := .any, a := .any, compute := true, streams := 0x60, ty := tysFp, mod := 0xfff, x7 := fun e => e.rnd > 5 }, e)
  | .fexp2 e => some ({ op := 0x2b, forms := [.one], d := .any, a := .any }, e)
  | .fexp2X e => some ({ op := 0x2b, forms := [.ext], d := .any, a := .any, compute := true, streams := 0x60, ty := tysFp, mod := 0xfff, x7 := fun e => e.rnd > 5 }, e)
  | .flog2 e => some ({ op := 0x2c, forms := [.one], d := .any, a := .any }, e)
  | .flog2X e => some ({ op := 0x2c, forms := [.ext], d := .any, a := .any, compute := true, streams := 0x60, ty := tysFp, mod := 0xfff, x7 := fun e => e.rnd > 5 }, e)
  | .fdot e => some ({ op := 0x2d, forms := [.one], d := .any, a := .any, b := .any }, e)
  | .fdotX e => some ({ op := 0x2d, forms := [.ext, .lit, .extLit], d := .any, a := .any, b := .any, c := .any, compute := true, streams := 0x1e0, ty := tysFdot, mod := 0xfff, x7 := fun e => e.rnd > 5 }, e)
  | .fcvt e => some ({ op := 0x2e, forms := [.one], d := .any, a := .any, b := .any, x6 := fun e => !tysCvt.getLsbD e.b.toNat }, e)
  | .fcvtX e => some ({ op := 0x2e, forms := [.ext], d := .any, a := .any, compute := true, ty := tysCvt, mod := 0x1ff, imm := 0xf, x6 := fun e => e.ty == 0, x7 := fun e => e.rnd > 5 }, e)
  | .fround e => some ({ op := 0x2f, forms := [.one], d := .any, a := .any }, e)
  | .froundX e => some ({ op := 0x2f, forms := [.ext], d := .any, a := .any, compute := true, streams := 0x60, ty := tysFp, mod := 0xfe7, x7 := fun e => e.rnd > 5 }, e)
  | .cmp e => some ({ op := 0x30, forms := [.ext, .extLit], xopHi := 1023, d := .predEven, a := .any, b := .any, compute := true, streams := 0xc0, destQ := false, ty := tysInt, mod := 0xfe0, x4 := fun e => e.xop.toNat >>> 6 != 0, x7 := fun e => e.cond > 5 || e.comb == 3 }, e)
  | .fcmp e => some ({ op := 0x31, forms := [.ext, .extLit], xopHi := 1023, d := .predEven, a := .any, b := .any, compute := true, streams := 0xc0, destQ := false, ty := tysFcmp, mod := 0xfe0, x4 := fun e => e.xop.toNat >>> 6 != 0, x7 := fun e => e.cond > 7 || e.comb == 3 }, e)
  | .plop e => some ({ op := 0x32, forms := [.ext], d := .pred, a := .pred, b := .pred, c := .pred, imm := 0xff }, e)
  | .pmov e => some ({ op := 0x33, forms := [.one, .ext], d := .pred, a := .pred }, e)
  | .pmovNz e => some ({ op := 0x33, forms := [.ext], xopLo := 1, xopHi := 1, d := .pred, a := .any }, e)
  | .pget e => some ({ op := 0x34, forms := [.one, .ext], d := .any, a := .pred }, e)
  | .pgetMask e => some ({ op := 0x34, forms := [.ext], xopLo := 1, xopHi := 1, d := .any, a := .pred }, e)
  | .pcnt e => some ({ op := 0x35, forms := [.one], d := .any, a := .pred }, e)
  | .pcntX e => some ({ op := 0x35, forms := [.ext], d := .any, a := .pred, ty := tysLn }, e)
  | .setgf e => some ({ op := 0x36, forms := [.one], d := .pred, a := .pred, b := .pred }, e)
  | .pfirst e => some ({ op := 0x37, forms := [.one], d := .any, a := .pred }, e)
  | .pfirstX e => some ({ op := 0x37, forms := [.ext], d := .any, a := .pred, ty := tysLn }, e)
  | .br e => some ({ op := 0x38, forms := [.one], d := .any, a := .any, b := .any }, e)
  | .brX e => some ({ op := 0x38, forms := [.ext], imm := 0xffffffff }, e)
  | .jmp e => some ({ op := 0x39, forms := [.one], a := .any }, e)
  | .jmpTable e => some ({ op := 0x39, forms := [.ext], a := .any, imm := 0xffffffff }, e)
  | .call e => some ({ op := 0x3a, forms := [.one], d := .any, a := .any, b := .any }, e)
  | .callX e => some ({ op := 0x3a, forms := [.ext], imm := 0xffffffff }, e)
  | .callr e => some ({ op := 0x3b, forms := [.one], a := .any }, e)
  | .ret e => some ({ op := 0x3c, forms := [.one], a := .any }, e)
  | .exit e => some ({ op := 0x3d, forms := [.one] }, e)
  | .safe e => some ({ op := 0x3e, forms := [.ext], mod := 0xff, imm := 0xffffffff }, e)
  | .brk e => some ({ op := 0x3f, forms := [.one], d := .any, a := .any, b := .any, tyZero := true }, e)
  | .brkX e => some ({ op := 0x3f, forms := [.ext], xopHi := 1023, imm := 0xffffffff, x4 := fun e => e.xop != 0, tyZero := true }, e)
  | .ld e => some ({ op := 0x40, forms := [.one], d := .any, a := .any }, e)
  | .ldX e => some ({ op := 0x40, forms := [.ext], d := .any, a := .any, ty := tysData, mod := 0x5f, imm := 0xffffffff, x4 := fun e => (!e.acq && !e.rel && e.scope != 0), x7 := fun e => e.scope > 5 }, e)
  | .st e => some ({ op := 0x41, forms := [.one], d := .any, a := .any }, e)
  | .stX e => some ({ op := 0x41, forms := [.ext], d := .any, a := .any, ty := tysData, mod := 0x6f, imm := 0xffffffff, x4 := fun e => (!e.acq && !e.rel && e.scope != 0), x7 := fun e => e.scope > 5 }, e)
  | .lds e => some ({ op := 0x42, forms := [.one], d := .any, a := .any }, e)
  | .ldsX e => some ({ op := 0x42, forms := [.ext], d := .any, a := .any, ty := tysLds, mod := 0x5f, imm := 0xffffffff, x4 := fun e => (!e.acq && !e.rel && e.scope != 0), x7 := fun e => e.scope > 5 }, e)
  | .sts e => some ({ op := 0x43, forms := [.one], d := .any, a := .any }, e)
  | .stsX e => some ({ op := 0x43, forms := [.ext], d := .any, a := .any, ty := tysLds, mod := 0x6f, imm := 0xffffffff, x4 := fun e => (!e.acq && !e.rel && e.scope != 0), x7 := fun e => e.scope > 5 }, e)
  | .ldfe e => some ({ op := 0x44, forms := [.one], d := .any, a := .any }, e)
  | .ldfeX e => some ({ op := 0x44, forms := [.ext], d := .any, a := .any, ty := tysI64, mod := 0x57, imm := 0xffffffff, x4 := fun e => (!e.acq && !e.rel && e.scope != 0), x7 := fun e => e.scope > 5 }, e)
  | .stef e => some ({ op := 0x45, forms := [.one], d := .any, a := .any }, e)
  | .stefX e => some ({ op := 0x45, forms := [.ext], d := .any, a := .any, ty := tysI64, mod := 0x67, imm := 0xffffffff, x4 := fun e => (!e.acq && !e.rel && e.scope != 0), x7 := fun e => e.scope > 5 }, e)
  | .ldff e => some ({ op := 0x46, forms := [.one], d := .any, a := .any }, e)
  | .ldffX e => some ({ op := 0x46, forms := [.ext], d := .any, a := .any, ty := tysI64, mod := 0x57, imm := 0xffffffff, x4 := fun e => (!e.acq && !e.rel && e.scope != 0), x7 := fun e => e.scope > 5 }, e)
  | .fefill e => some ({ op := 0x47, forms := [.one], a := .any }, e)
  | .fefillX e => some ({ op := 0x47, forms := [.ext], xopHi := 1, a := .any, mod := 0x40, imm := 0xffffffff }, e)
  | .atom e => some ({ op := 0x48, forms := [.one], d := .any, a := .any, b := .any }, e)
  | .atomX e => some ({ op := 0x48, forms := [.ext, .lit, .extLit], xopHi := 7, d := .any, a := .any, b := .any, ty := tysAtom, mod := 0x3f, imm := 0xffffffff, x4 := fun e => (!e.acq && !e.rel && e.scope != 0), x6 := fun e => if e.xop == 7 then !(tysAtomF.getLsbD e.ty.toNat) else tysAtomF.getLsbD e.ty.toNat, x7 := fun e => e.scope > 5 }, e)
  | .cas e => some ({ op := 0x49, forms := [.one], d := .any, a := .any, b := .any }, e)
  | .casX e => some ({ op := 0x49, forms := [.ext, .lit, .extLit], d := .any, a := .any, b := .any, c := .predEven, ty := tysCas, mod := 0xbf, imm := 0xffffffff, x4 := fun e => (!e.acq && !e.rel && e.scope != 0) || (!e.mod.getLsbD 7 && e.c != 0), x7 := fun e => e.scope > 5 }, e)
  | .fence e => some ({ op := 0x4a, forms := [.one] }, e)
  | .fenceX e => some ({ op := 0x4a, forms := [.ext], mod := 0x7, x7 := fun e => e.scope > 5 }, e)
  | .wait e => some ({ op := 0x4b, forms := [.one] }, e)
  | .waitX e => some ({ op := 0x4b, forms := [.ext], imm := 0xffffff }, e)
  | .ldcap e => some ({ op := 0x4c, forms := [.one], d := .any, a := .any }, e)
  | .ldcapX e => some ({ op := 0x4c, forms := [.ext], d := .any, a := .any, mod := 0x40, imm := 0xffffffff }, e)
  | .stcap e => some ({ op := 0x4d, forms := [.one], d := .any, a := .any }, e)
  | .stcapX e => some ({ op := 0x4d, forms := [.ext], d := .any, a := .any, mod := 0x40, imm := 0xffffffff }, e)
  | .send e => some ({ op := 0x4e, forms := [.one], a := .any, b := .any }, e)
  | .sendX e => some ({ op := 0x4e, forms := [.ext, .lit, .extLit], a := .any, b := .any }, e)
  | .recv e => some ({ op := 0x4f, forms := [.one, .ext], d := .any }, e)
  | .recvTry e => some ({ op := 0x4f, forms := [.ext], xopLo := 1, xopHi := 1, d := .any, a := .predEven }, e)
  | .cset e => some ({ op := 0x50, forms := [.one], d := .any, a := .any, b := .any }, e)
  | .csetX e => some ({ op := 0x50, forms := [.ext, .lit, .extLit], xopHi := 1, d := .any, a := .any, b := .any }, e)
  | .cperm e => some ({ op := 0x51, forms := [.one], d := .any, a := .any, b := .any }, e)
  | .cpermX e => some ({ op := 0x51, forms := [.ext, .lit, .extLit], d := .any, a := .any, b := .any }, e)
  | .cinc e => some ({ op := 0x52, forms := [.one], d := .any, a := .any, b := .any }, e)
  | .cincX e => some ({ op := 0x52, forms := [.ext, .lit, .extLit], d := .any, a := .any, b := .any }, e)
  | .cget e => some ({ op := 0x53, forms := [.one], d := .any, a := .any }, e)
  | .cgetX e => some ({ op := 0x53, forms := [.ext], xopHi := 8, d := .any, a := .any }, e)
  | .ctest e => some ({ op := 0x54, forms := [.one, .ext], d := .predEven, a := .any }, e)
  | .ctestFit e => some ({ op := 0x54, forms := [.ext], xopLo := 1, xopHi := 1, d := .predEven, a := .any, b := .any }, e)
  | .cseal e => some ({ op := 0x55, forms := [.one], d := .any, a := .any, b := .any }, e)
  | .csealX e => some ({ op := 0x55, forms := [.ext], d := .any, a := .any, b := .any }, e)
  | .cunseal e => some ({ op := 0x56, forms := [.one], d := .any, a := .any, b := .any }, e)
  | .cunsealX e => some ({ op := 0x56, forms := [.ext], d := .any, a := .any, b := .any }, e)
  | .cclr e => some ({ op := 0x57, forms := [.one], a := .any }, e)
  | .cclrX e => some ({ op := 0x57, forms := [.ext], a := .any, imm := 0xffffffff }, e)
  | .cjoin e => some ({ op := 0x58, forms := [.one], d := .predEven, a := .any, tyZero := true }, e)
  | .cjoinX e => some ({ op := 0x58, forms := [.ext], d := .predEven, a := .any, tyZero := true }, e)
  | .cleave e => some ({ op := 0x59, forms := [.one], d := .predEven, a := .any, tyZero := true }, e)
  | .cleaveX e => some ({ op := 0x59, forms := [.ext], d := .predEven, a := .any, tyZero := true }, e)
  | .cbar e => some ({ op := 0x5a, forms := [.one], d := .any, a := .any, tyZero := true }, e)
  | .cbarX e => some ({ op := 0x5a, forms := [.ext], d := .any, a := .any, imm := 0x3, tyZero := true }, e)
  | .carr e => some ({ op := 0x5b, forms := [.one], d := .any, a := .any, tyZero := true }, e)
  | .carrX e => some ({ op := 0x5b, forms := [.ext], d := .any, a := .any, imm := 0x3, tyZero := true }, e)
  | .cwait e => some ({ op := 0x5c, forms := [.one], d := .any, a := .any, tyZero := true }, e)
  | .cwaitPh e => some ({ op := 0x5c, forms := [.ext], d := .any, a := .any, b := .any, mod := 0x1, imm := 0x3, x4 := fun e => !e.mod.getLsbD 0 && e.b != 0, tyZero := true }, e)
  | .cvote e => some ({ op := 0x5d, forms := [.one], d := .predEven, a := .any, b := .pred, tyZero := true }, e)
  | .cvoteX e => some ({ op := 0x5d, forms := [.ext], xopHi := 2, d := .voteD, a := .any, b := .pred, imm := 0x3, tyZero := true }, e)
  | .cred e => some ({ op := 0x5e, forms := [.one], d := .any, a := .any, b := .any, tyZero := true }, e)
  | .credX e => some ({ op := 0x5e, forms := [.ext], xopHi := 6, d := .any, a := .any, b := .any, ty := tysLnFp, mod := 0x3, imm := 0x3, x4 := fun e => e.mod.getLsbD 1 && e.d == 31, x6 := fun e => e.ty != 0 && !(credTys e.xop.toNat).getLsbD e.ty.toNat }, e)
  | .cmake e => some ({ op := 0x5f, forms := [.lit, .extLit], d := .any, a := .predEven, imm := 0x3, tyZero := true }, e)
  | .trap e => some ({ op := 0x68, forms := [.one], d := .any, a := .any, b := .any, tyZero := true }, e)
  | .trapX e => some ({ op := 0x68, forms := [.ext], imm := 0xffffffff, tyZero := true }, e)
  | .tres e => some ({ op := 0x69, forms := [.one], d := .any, a := .any, tyZero := true }, e)
  | .gets e => some ({ op := 0x6a, forms := [.one], d := .any, a := .any, b := .any, tyZero := true }, e)
  | .getsX e => some ({ op := 0x6a, forms := [.ext], d := .any, imm := 0xffff, tyZero := true }, e)
  | .puts e => some ({ op := 0x6b, forms := [.one], d := .any, a := .any, b := .any, tyZero := true }, e)
  | .putsX e => some ({ op := 0x6b, forms := [.ext], d := .any, imm := 0xffff, tyZero := true }, e)
  | .migr e => some ({ op := 0x6c, forms := [.one], d := .any, a := .any, tyZero := true }, e)
  | .migrX e => some ({ op := 0x6c, forms := [.ext], d := .any, a := .any, tyZero := true }, e)
  | .tlbi e => some ({ op := 0x6d, forms := [.one, .ext], tyZero := true }, e)
  | .tlbiCtx e => some ({ op := 0x6d, forms := [.ext], xopLo := 1, xopHi := 1, a := .any, tyZero := true }, e)
  | .tlbiVa e => some ({ op := 0x6d, forms := [.ext], xopLo := 2, xopHi := 2, a := .any, mod := 0x3, tyZero := true }, e)
  | .yield e => some ({ op := 0x6e, forms := [.one], tyZero := true }, e)
  | .ctrRead e => some ({ op := 0x6f, forms := [.one], d := .any, b := .any, x4 := fun e => e.b.toNat > 7, tyZero := true }, e)
  | .ctrReadX e => some ({ op := 0x6f, forms := [.ext], d := .any, b := .any, x4 := fun e => e.b.toNat > 7, tyZero := true }, e)
  | .ctrStart e => some ({ op := 0x6f, forms := [.ext], xopLo := 1, xopHi := 1, imm := 0xff, tyZero := true }, e)
  | .ctrStop e => some ({ op := 0x6f, forms := [.ext], xopLo := 2, xopHi := 2, imm := 0xff, tyZero := true }, e)
  | .ctrSel e => some ({ op := 0x6f, forms := [.ext], xopLo := 3, xopHi := 3, imm := 0xff07, tyZero := true }, e)
  | .tmm e => some ({ op := 0x70, forms := [.ext, .extLit], d := .any, a := .any, b := .any, c := .any, ty := tysMatrix, mod := 0xfef, imm := 0xffffffff, x4 := fun e => e.c.toNat > 30 || tmmRsv e, x6 := fun e => tmmFmt e, x7 := fun e => e.rnd > 5 }, e)
  | .tgmm e => some ({ op := 0x70, forms := [.ext, .extLit], xopLo := 1, xopHi := 1, d := .any, a := .any, b := .any, c := .any, ty := tysUnscaled, mod := 0xfff, imm := 0xffffffff, x4 := fun e => e.c.toNat > 28 || tmmRsv e, x6 := fun e => tmmFmt e, x7 := fun e => e.rnd > 5 }, e)
  | .tsfx e => some ({ op := 0x70, forms := [.ext, .extLit], xopLo := 2, xopHi := 2, d := .any, a := .any, b := .any, c := .any, ty := tysFp, mod := 0xfff, imm := 0xffffffff, x4 := fun e => e.c.toNat > 30 || tsfxRsv e, x6 := fun e => e.ty == 0 || tsfxFmt e, x7 := fun e => e.rnd > 5 }, e)
  | .tred e => some ({ op := 0x70, forms := [.ext], xopLo := 3, xopHi := 3, d := .any, a := .any, c := .any, ty := tysTred, mod := 0xe08, imm := 0xffff, x4 := fun e => e.c.toNat > 30 || tredRsv e, x6 := fun e => e.ty == 0 }, e)
  | .tcvt e => some ({ op := 0x70, forms := [.ext], xopLo := 4, xopHi := 4, d := .any, a := .any, c := .any, ty := tysFp, mod := 0xf8f, imm := 0xffffffff, x4 := fun e => e.c.toNat > 30, x6 := fun e => e.ty == 0 || !tysMatrix.getLsbD (e.mod.toNat >>> 7), x7 := fun e => e.rnd > 5 }, e)
  | .tzero e => some ({ op := 0x70, forms := [.ext, .extLit], xopLo := 5, xopHi := 5, d := .any, b := .any, c := .any, x4 := fun e => e.c.toNat > 30, tyZero := true }, e)
  | .rcsnap e => some ({ op := 0x70, forms := [.ext], xopLo := 6, xopHi := 6, d := .any, c := .any, x4 := fun e => e.c.toNat > 30, tyZero := true }, e)
  | .rcread e => some ({ op := 0x70, forms := [.ext, .extLit], xopLo := 7, xopHi := 7, d := .any, b := .any, tyZero := true }, e)
  | .tstat e => some ({ op := 0x70, forms := [.ext, .extLit], xopLo := 8, xopHi := 8, d := .any, b := .any, mod := 0x1, tyZero := true }, e)
  | .cpy e => some ({ op := 0x71, forms := [.ext, .extLit], d := .any, a := .any, b := .any, mod := 0x3, imm := 0x3ff, x4 := fun e => (!e.mod.getLsbD 0 && e.imm.toNat % 32 != 0) || (!e.mod.getLsbD 1 && e.imm.toNat / 32 % 32 != 0), tyZero := true }, e)
  | .cpy2 e => some ({ op := 0x71, forms := [.ext, .extLit], xopLo := 1, xopHi := 1, d := .any, a := .any, b := .any, mod := 0x3, imm := 0x3ff, x4 := fun e => (!e.mod.getLsbD 0 && e.imm.toNat % 32 != 0) || (!e.mod.getLsbD 1 && e.imm.toNat / 32 % 32 != 0), tyZero := true }, e)
  | .cpyg e => some ({ op := 0x71, forms := [.ext, .extLit], xopLo := 2, xopHi := 2, d := .any, a := .any, b := .any, c := .any, mod := 0x3, imm := 0x3ff, x4 := fun e => (!e.mod.getLsbD 0 && e.imm.toNat % 32 != 0) || (!e.mod.getLsbD 1 && e.imm.toNat / 32 % 32 != 0), tyZero := true }, e)
  | .cfill e => some ({ op := 0x71, forms := [.ext, .extLit], xopLo := 3, xopHi := 3, d := .any, a := .any, b := .any, mod := 0x3, imm := 0x3ff, x4 := fun e => (!e.mod.getLsbD 0 && e.imm.toNat % 32 != 0) || (!e.mod.getLsbD 1 && e.imm.toNat / 32 % 32 != 0), tyZero := true }, e)
  | .qjoin e => some ({ op := 0x71, forms := [.ext], xopLo := 4, xopHi := 4, imm := 0x1fffff, tyZero := true }, e)
  | .qstat e => some ({ op := 0x71, forms := [.ext, .extLit], xopLo := 5, xopHi := 5, d := .any, a := .any, b := .any, mod := 0x1, x4 := fun e => !e.mod.getLsbD 0 && e.a != 0, tyZero := true }, e)
  | .gsub e => some ({ op := 0x72, forms := [.ext, .extLit], d := .any, a := .any, b := .any, tyZero := true }, e)
  | .tpost e => some ({ op := 0x72, forms := [.ext, .extLit], xopLo := 1, xopHi := 1, d := .any, a := .any, b := .any, tyZero := true }, e)
  | .trig e => some ({ op := 0x72, forms := [.ext], xopLo := 2, xopHi := 2, tyZero := true }, e)
  | .vread e => some ({ op := 0x72, forms := [.ext], xopLo := 3, xopHi := 3, d := .any, mod := 0x1, tyZero := true }, e)
  | .gstat e => some ({ op := 0x72, forms := [.ext], xopLo := 4, xopHi := 4, d := .any, a := .any, tyZero := true }, e)
  | .gabort e => some ({ op := 0x72, forms := [.ext], xopLo := 5, xopHi := 5, a := .any, tyZero := true }, e)
  | .nwait e => some ({ op := 0x72, forms := [.ext], xopLo := 6, xopHi := 6, d := .any, x4 := fun e => e.d == 31, tyZero := true, pick := fun e => !e.mod.getLsbD 0 }, e)
  | .nwaitTry e => some ({ op := 0x72, forms := [.ext], xopLo := 6, xopHi := 6, d := .any, c := .predEven, mod := 0x1, x4 := fun e => e.d == 31, tyZero := true, pick := fun e => e.mod.getLsbD 0 }, e)
  | .cfind e => some ({ op := 0x73, forms := [.ext, .extLit], d := .any, b := .any, c := .predEven, imm := 0x2, tyZero := true, formCause := 2 }, e)
  | .cfree e => some ({ op := 0x73, forms := [.ext], xopLo := 1, xopHi := 1, d := .any, a := .any, tyZero := true, formCause := 2 }, e)
  | .cstat e => some ({ op := 0x73, forms := [.ext], xopLo := 2, xopHi := 2, d := .any, a := .any, tyZero := true, formCause := 2 }, e)
  | .hnew e => some ({ op := 0x74, forms := [.ext, .extLit], d := .any, b := .any, c := .predEven, tyZero := true }, e)
  | .hext e => some ({ op := 0x74, forms := [.ext, .extLit], xopLo := 1, xopHi := 1, d := .any, a := .any, b := .any, c := .predEven, tyZero := true }, e)
  | .hxl e => some ({ op := 0x74, forms := [.ext, .extLit], xopLo := 2, xopHi := 2, d := .any, a := .any, b := .any, c := .predEven, tyZero := true }, e)
  | .hfork e => some ({ op := 0x74, forms := [.ext], xopLo := 3, xopHi := 3, d := .any, a := .any, c := .predEven, tyZero := true }, e)
  | .hrel e => some ({ op := 0x74, forms := [.ext], xopLo := 4, xopHi := 4, d := .any, a := .any, c := .predEven, tyZero := true }, e)
  | .hcow e => some ({ op := 0x74, forms := [.ext, .extLit], xopLo := 5, xopHi := 5, d := .any, a := .any, b := .any, c := .predEven, tyZero := true }, e)
  | .hstat e => some ({ op := 0x74, forms := [.ext], xopLo := 6, xopHi := 6, d := .any, a := .any, tyZero := true }, e)
  | .park e => some ({ op := 0x75, forms := [.ext], d := .any, a := .any, c := .predEven, mod := 0xff, imm := 0xffffffff, tyZero := true, formCause := 2 }, e)
  | .wake e => some ({ op := 0x75, forms := [.ext, .extLit], xopLo := 1, xopHi := 1, a := .any, b := .any, c := .predEven, tyZero := true, formCause := 2 }, e)
  | .lpro e => some ({ op := 0x75, forms := [.ext, .extLit], xopLo := 2, xopHi := 2, a := .any, b := .any, c := .predEven, tyZero := true, formCause := 2 }, e)
  | .lstat e => some ({ op := 0x75, forms := [.ext], xopLo := 3, xopHi := 3, d := .any, a := .any, tyZero := true, formCause := 2 }, e)
  | .thaw e => some ({ op := 0x77, forms := [.ext, .extLit], d := .any, a := .any, b := .any, tyZero := true }, e)
  | .cxswCreate e => some ({ op := 0x77, forms := [.ext, .extLit], xopLo := 1, xopHi := 1, d := .any, a := .any, b := .any, tyZero := true }, e)
  | .slotw e => some ({ op := 0x77, forms := [.ext], xopLo := 2, xopHi := 2, d := .any, a := .any, tyZero := true }, e)
  | .govset e => some ({ op := 0x77, forms := [.ext, .extLit], xopLo := 3, xopHi := 3, d := .any, a := .any, b := .any, tyZero := true }, e)
  | .qstatHandle => none
  | .cxswRun => none
  | .cxswSuspend => none
  | .cxswResume => none
  | .cxswTeardown => none
  | .cxswFreeze => none
  | .cxswThawContext => none
  | .cxswPreemptCore => none
  | .breakpointMatch => none
  | .fetchBlockReturn => none
  | .accessPerformed => none
  | .relaxedAccessDone => none
  | .sendAccept => none
  | .hostCompletionTimeout => none
  | .threadDrainEnd => none
  | .taskPlacement => none
  | .wavePlacement => none
  | .landingTick => none
  | .graphAbandoned => none
  | .kernelCopyComplete => none
  | .kernelUnregister => none
  | .unitDispatch => none
  | .ballastSliceEnd => none
  | .tileOpComplete => none
  | .copyComplete => none
  | .engineTranslationFault => none
  | .engineDataError => none
  | .engineCapabilityViolation => none
  | .joinResolve => none
  | .queueResume => none
  | .queueDiscard => none
  | .handlerMessageDeliver => none
  | .hardPreemption => none
  | .saveFrameFree => none
  | .threadResume => none
  | .teardownEnd => none
  | .slotReassign => none
  | .coreOverheat => none
  | .migrationTransfer => none
  | .migrationRemap => none
  | .shareWrite => none
  | .budgetRefill => none
  | .governorWindowEnd => none
  | .parkSaveWritten => none
  | .thbmExpiry => none
  | .tcxlExpiry => none
  | .pageMoveStart => none
  | .blockMoveComplete => none
  | .continuationPlacement => none
  | .kernelRegister => none
  | .kernelEvict => none
  | .graphSubmit => none
  | .kvpoolWrite => none
  | .qpCreate => none
  | .qpModify => none
  | .qpDestroy => none
  | .qpDoorbellSend => none
  | .qpDoorbellRecv => none
  | .workRequest => none
  | .workRequestComplete => none
  | .rdmaWriteIn => none
  | .rdmaReadIn => none
  | .rdmaAtomicIn => none
  | .sendIn => none
  | .debugResume => none
  | .debugStep => none
  | .debugStop => none
  | .stepStop => none
  | .logEnable => none
  | .logDeltaOverflow => none
  | .sampleEnable => none
  | .pcSample => none
  | .rasClear => none
  | .systemRegisterWrite => none
  | .hostRegisterRead32 => none
  | .hostRequest => none
  | .scrubPass => none
  | .controlFault => none
  | .ptpMessage => none
  | .linkTrainingEnd => none
  | .laneFailure => none
  | .linkLoss => none
  | .linkRetrain => none
  | .flitReceive => none
  | .packetRequest => none
  | .packetReply => none
  | .replyAck => none
  | .retransmitTimeout => none
  | .powerOnReset => none
  | .recoveryFirmware => none
  | .recoveryConfig => none
  | .recoveryVerifyEnd => none
  | .getVersion => none
  | .getCapabilities => none
  | .negotiateAlgorithms => none
  | .getCertificate => none
  | .challenge => none
  | .getMeasurements => none
  | .pageWalkEnd => none
  | .currentBlockEnd => none
  | .degradedRetrain => none
  | .qpRetryTimeout => none

/-- A field that must be zero and is not. -/
def FieldUse.notZero (u : FieldUse) (v : BitVec 5) : Bool := u == .zero && v != 0

/-- A predicate field above 7 or an odd pair register. -/
def FieldUse.badPred (u : FieldUse) (v : BitVec 5) (cnt : Bool) : Bool :=
  match u with
  | .zero | .any => false
  | .pred => v.toNat > 7
  | .predEven => v.toNat > 7 || v.toNat % 2 == 1
  | .voteD => !cnt && (v.toNat > 7 || v.toNat % 2 == 1)

/-- Step 7 of R111: a field or bit that must be zero is not. -/
def RowInfo.fails4 (r : RowInfo) (e : Fields) : Bool :=
  (e.hasLit && e.b != 0) || r.d.notZero e.d || r.a.notZero e.a || r.b.notZero e.b || r.c.notZero e.c ||
    e.mod &&& ~~~r.mod != 0 || e.imm &&& ~~~r.imm != 0 || (r.tyZero && e.ty != 0) || r.x4 e

/-- Step 8 of R111, cause 5. -/
def RowInfo.fails5 (r : RowInfo) (e : Fields) : Bool :=
  r.d.badPred e.d (e.xop == 2) || r.a.badPred e.a false || r.b.badPred e.b false || r.c.badPred e.c false

/-- Step 8 of R111, cause 6. -/
def RowInfo.fails6 (r : RowInfo) (e : Fields) : Bool := !r.ty.getLsbD e.ty.toNat || r.x6 e

/-- A stream mark names register `v` when its operand is marked. -/
def Fields.streamNames (e : Fields) (v : BitVec 5) : Bool :=
  (e.sfa && e.a == v) || (e.sfb && e.b == v) || (e.sfc && e.c == v)

/-- Step 8 of R111, cause 8 (R75, R104, R120). -/
def RowInfo.fails8 (r : RowInfo) (e : Fields) : Bool :=
  (r.compute && e.mod &&& 0x1E0 != 0 &&
    (e.mod &&& 0x1E0 &&& ~~~r.streams != 0 || e.ty == 0 || (e.sfb && e.hasLit) ||
      (r.destQ && !e.sfd && e.streamNames e.d))) || r.x8 e

/-- The first failing step of R111 from step 7 on, as its cause. -/
def RowInfo.violation (r : RowInfo) (e : Fields) : Option Nat :=
  if r.fails4 e then some 4 else if r.fails5 e then some 5 else if r.fails6 e then some 6
  else if r.x7 e then some 7 else if r.fails8 e then some 8 else none

/-- The fields a form does not carry are zero (R101, R102). -/
def Fields.canonical (e : Fields) : Bool :=
  (e.hasWord1 || (e.c == 0 && e.xop == 0 && e.ty == 0 && e.mod == 0 && e.imm == 0)) && (e.hasLit || e.lit == 0)

/-- The subfunction is one the row assigns. -/
def RowInfo.xopOk (r : RowInfo) (e : Fields) : Bool := r.xopLo ≤ e.xop.toNat && e.xop.toNat ≤ r.xopHi

/-- Well-formed: an event, or an instruction whose fields are an encoding of its own row. -/
def Instr.wf (i : Instr) : Bool :=
  match i.row with
  | none => true
  | some (r, e) => e.canonical && r.forms.contains e.form && r.xopOk e && r.pick e && (r.violation e).isNone

end Sys2Proof
end

