-- ==== Sys2Proof/Machine/Operands.lean ====
section
/-!
DEFINITION. The operands of compute instructions (spec/04 R67 to R69, R75, R76; spec/07 R118 to R121): typing, literals,
stream operands, and the common effect of a lane-wise instruction.
-/
namespace Sys2Proof.Machine

/-- What an entry of 07 Table 1 fixes of a lane-wise instruction. -/
structure LaneUse where
  /-- the admitted types, bit t for format code t. -/
  tys : BitVec 32
  /-- 4-bit lanes with sources of any data tag (R60, R69). -/
  nib : Bool := false
  /-- B and C are sources. -/
  useB : Bool := true
  useC : Bool := false
  /-- fd is a source that must carry the type or raw (R133). -/
  useD : Bool := false
  /-- B is an element index, of any integer tag or raw (R119). -/
  indexB : Bool := false
  /-- B may carry any data tag (R132). -/
  anyB : Bool := false
  /-- a literal takes the place of A (R129). -/
  litA : Bool := false
  /-- the accumulator C carries this tag of its own, given the type (R139). -/
  accTag : Option (Nat → Nat) := none

/-- The width of the lanes of a type; 0 where the format has no lanes of its own (R118). -/
def laneWidth (ty : Nat) : Nat := if tysLn.getLsbD ty && ty != 0 then fmtWidth ty else 0

/-- The type an instruction would run in: ty, or the tag of fa; 0 where fa gives none (R67). -/
def Thread.typeOf (t : Thread) (e : Fields) : Nat :=
  if e.ty != 0 then e.ty.toNat else if (t.reg e.a).cap then 0 else (t.reg e.a).tag.toNat

/-- The width over which liveness is decided: that of the type, else 4-bit lanes (R67). -/
def liveWidth (ty : Nat) : Nat := if laneWidth ty = 0 then 4 else laneWidth ty

/-- Data of an integer tag or raw. -/
def QReg.isIndex (r : QReg) : Bool := !r.cap && (r.tag == 0 || fmtIsInt r.tag.toNat)

/-- The register that C names: fd without word 1, fc with it (R119). -/
def regC (e : Fields) : BitVec 5 := if e.hasWord1 then e.c else e.d

/-- A register source agrees with the type (R67, R68). -/
def srcOk (e : Fields) (ty : Nat) (r : QReg) : Bool :=
  !r.cap && (r.tag.toNat == ty || (e.ty != 0 && r.tag == 0))

/-- A register source of a logical or shuffle operation: any data without ty; ty or raw with it (R69, R128). -/
def looseOk (e : Fields) (r : QReg) : Bool := !r.cap && (e.ty == 0 || r.tag == e.ty || r.tag == 0)

/-- The check of the register sources (R67 to R69, R119). -/
def Thread.typesOk (t : Thread) (e : Fields) (u : LaneUse) : Bool :=
  let ty := t.typeOf e
  let ok (r : QReg) : Bool := if u.nib then looseOk e r else srcOk e ty r
  (u.nib || (ty != 0 && u.tys.getLsbD ty)) &&
    (e.sfa || (u.litA && e.hasLit) || ok (t.reg e.a)) &&
    (!u.useB || e.hasLit || e.sfb ||
      (if u.indexB then (t.reg e.b).isIndex else if u.anyB then !(t.reg e.b).cap else ok (t.reg e.b))) &&
    (!u.useD || (!(t.reg e.d).cap && ((t.reg e.d).tag.toNat == ty || (t.reg e.d).tag == 0))) &&
    (!u.useC || e.sfc ||
      match u.accTag with
      | some f => !(t.reg (regC e)).cap && ((t.reg (regC e)).tag.toNat == f ty || (t.reg (regC e)).tag == 0)
      | none => ok (t.reg (regC e)))

/-! ## Streams (R75, R76, R120) -/

/-- A stream operand: its register, and whether it is read and written. -/
structure StreamUse where
  reg : BitVec 5
  read : Bool
  write : Bool
deriving DecidableEq, Repr

/-- Merge the uses of one register. -/
def addStream (l : List StreamUse) (r : BitVec 5) (write : Bool) : List StreamUse :=
  if l.any fun x => x.reg == r then
    l.map fun x => if x.reg = r then { x with read := x.read || !write, write := x.write || write } else x
  else l ++ [{ reg := r, read := !write, write := write }]

/-- The stream operands of an instruction, one for each register. -/
def streamsOf (e : Fields) : List StreamUse :=
  let l := if e.sfa then addStream [] e.a false else []
  let l := if e.sfb then addStream l e.b false else l
  let l := if e.sfc then addStream l e.c false else l
  if e.sfd then addStream l e.d true else l

/-- The permissions a stream operand needs. -/
def StreamUse.perm (x : StreamUse) : Nat := (if x.read then permPL else 0) + if x.write then permPS else 0

/-- Why the register of a stream operand ends the instruction, if it does: its kind and SPACE, then alignment (R75, R121). -/
def Thread.streamShape (t : Thread) (x : StreamUse) : Option Trap :=
  let r := t.reg x.reg
  if !(r.cap && capKind r.bits == kindMemory && capSpace r.bits == 0) then some (.capability r.lo)
  else if r.lo % 16 ≠ 0 then some (.format true r.lo)
  else none

/-- Why the address of a stream operand ends the instruction, if it does: bounds, then the space (R71, R121). Operands are taken one
after another, each with both checks, which the spec leaves open (log 99). -/
def State.streamReach (s : State) (t : Thread) (mask : Nat) (x : StreamUse) : Option Trap :=
  let r := t.reg x.reg
  if !checkBytes r r.lo 16 mask x.perm then some (.capability r.lo)
  else match s.formPhysical t.ctx (slotCore s.cur) 0 r.lo with
    | .key _ => none
    | .protection => some (.protection r.lo)
    | _ => some (.capability r.lo)

/-- Why the stream operands end the instruction, if they do: every one's shape comes before the bounds of any (R121). -/
def State.streamTrap (s : State) (t : Thread) (mask : Nat) (l : List StreamUse) : Option Trap :=
  (l.findSome? t.streamShape).or (l.findSome? (s.streamReach t mask))

/-- The key a stream operand addresses. -/
def State.streamKey (s : State) (t : Thread) (r : BitVec 5) : Nat :=
  match s.formPhysical t.ctx (slotCore s.cur) 0 (t.reg r).lo with
  | .key k => k
  | _ => 0

/-- The bank of a scratch key: the scratch, and (address ≫ 4) mod 3. -/
def keyBank (k : Nat) : Nat × Nat := (k / 2 ^ 28, k % 2 ^ 28 / 16 % 3)

/-- Two accesses of one instruction to different granules fall in one bank (R76, R120). -/
def ownConflict (keys : List Nat) : Bool :=
  keys.any fun a => keys.any fun b => a != b && keyBank a == keyBank b

/-- The access of a stream operand to its 16 bytes. -/
def State.streamAccess (s : State) (t : Thread) (r : BitVec 5) (op : AccessOp) (mask v : Nat) : Access :=
  mkAccess t op (s.streamKey t r) (t.reg r).lo 16 mask ⟨BitVec.ofNat 128 v, false, 0⟩ none 0

/-- A stream access that an outstanding relaxed access must be performed before (R120, 08 R161, R162). -/
def State.streamBehind (s : State) (t : Thread) (mask : Nat) (x : StreamUse) : Option Access :=
  let a := s.streamAccess t x.reg .load mask 0
  if t.rx.any fun r => s.precedes (slotCore s.cur) r a false 0 then some a else none

/-- The uncorrectable error a stream access meets: its word, and the trap. -/
def State.streamError (s : State) (t : Thread) (mask : Nat) (x : StreamUse) : Option (Nat × Trap) :=
  let rd := s.streamAccess t x.reg .load mask 0
  let bad := if x.read then s.badWord rd false else none
  let bad := if x.write && bad.isNone then s.badWord rd true else bad
  bad.map fun k => (k, s.dataTrap s.cur rd k)

/-- Advance every stream cursor once (R75, R72). -/
def Thread.advance (t : Thread) (e : Fields) : Thread :=
  (streamsOf e).foldl (fun t x => t.setReg x.reg (moveCursor (t.reg x.reg) (wrap 64 ((t.reg x.reg).lo + e.stride)))) t

/-! ## The common effect of a lane-wise instruction (R121) -/

/-- The sources as they were read. -/
structure Sources where
  ty : Nat
  a : Nat
  b : Nat
  c : Nat
  d : Nat
deriving DecidableEq, Repr

/-- A literal source: both halves for 4-bit lanes, else in every lane of the width (R102). -/
def litSource (nib : Bool) (w : Nat) (lit : BitVec 64) : Nat :=
  if nib then lit.toNat * 2 ^ 64 + lit.toNat else mapLanes w fun _ => lit.toNat

/-- Read a register or the stream at it. -/
def State.source (s : State) (t : Thread) (stream : Bool) (r : BitVec 5) : Nat :=
  if stream then s.readNum (s.streamKey t r) 16 else (t.reg r).bits.toNat

/-- The sources of an instruction. -/
def State.sources (s : State) (t : Thread) (e : Fields) (u : LaneUse) : Sources :=
  let ty := t.typeOf e
  { ty
    a := if u.litA && e.hasLit then litSource (laneWidth e.ty.toNat == 0) (laneWidth e.ty.toNat) e.lit
         else s.source t e.sfa e.a
    b := if !u.useB then 0 else if e.hasLit then litSource u.nib (laneWidth ty) e.lit else s.source t e.sfb e.b
    c := if u.useC then s.source t e.sfc (regC e) else 0
    d := (t.reg e.d).bits.toNat }

/-- The charges of a stream operand: one for its read and one for its write (26 R407). -/
def State.spendStream (s : State) (key : Nat) (x : StreamUse) : State :=
  let s := if x.read then s.spend (slotCore s.cur) key else s
  if x.write then s.spend (slotCore s.cur) key else s

/-- What a stream of an instruction waits for before any is read: the remap of its core (17 R320), or a relaxed access. -/
def State.streamWaits (s : State) (t : Thread) (mask : Nat) (x : StreamUse) : Option Wait :=
  match s.remapping t.ctx 0 (t.reg x.reg).lo with
  | some l => some (.remap l)
  | none => (s.streamBehind t mask x).map fun a => .behind a false 0

/-- Check a lane-wise instruction and read its sources, then go on: liveness, types, streams, relaxed accesses to be waited
for, banks, reads, in that order. `w` is the width of the lanes that guards govern, given the type: for a tag that names no lane
width, 4 bits, as for raw (log 100). -/
def State.withSources (s : State) (e : Fields) (u : LaneUse) (w : Nat → Nat)
    (go : State → Thread → Nat → Sources → State) : Result :=
  s.onThread fun t =>
    let ty := t.typeOf e
    let width := if u.nib then 4 else Nat.max 4 (w ty)
    if !t.live e.g width then s.put (t.next e)
    else if !t.typesOk e u then s.trap (.format false 0)
    else
      let mask := t.nibbleMask e.g width
      match s.streamTrap t mask (streamsOf e), (streamsOf e).findSome? (s.streamWaits t mask) with
      | some x, _ => s.trap x
      | none, some w => s.retry t w
      | none, none =>
        let keys := (streamsOf e).map fun x => s.streamKey t x.reg
        if !(streamsOf e).isEmpty && !t.prio && (ownConflict keys || s.opts.lostBank) then s.forfeit t true
        else match (streamsOf e).findSome? (s.streamError t mask) with
          | some x => (s.detect x.1).trap x.2
          | none =>
            let src := s.sources t e u
            let s := (streamsOf e).foldl (fun s x => s.spendStream (s.streamKey t x.reg) x) s
            let s := (streamsOf e).foldl (fun s x => if x.read then (s.readAccess (s.streamAccess t x.reg .load mask 0)).1 else s) s
            go s t mask src

/-- Write the result of a lane-wise instruction to fd or its stream, advance the cursors and pass. -/
def State.finishLanes (s : State) (t : Thread) (e : Fields) (mask : Nat) (v : Nat) (tag : Nat) : State :=
  if e.sfd then
    let a := s.streamAccess t e.d .store mask v
    (s.writeAccess a v).put ((t.advance e).next e)
  else
    let t := t.setReg e.d ⟨BitVec.ofNat 128 (mergeNibbles (t.reg e.d).bits.toNat v mask), false, BitVec.ofNat 5 tag⟩
    s.put ((t.advance e).next e)

/-- Compute the active lanes of width `w` in ascending order, each from its number and the generator. -/
def lanesGen (active : Nat → Bool) (w : Nat) (f : Nat → Nat → Nat × Nat) (gen : Nat) : Nat × Nat :=
  loopUp (128 / w)
    (fun l acc => if active l then let r := f l acc.2; (acc.1 + r.1 % 2 ^ w * 2 ^ (w * l), r.2) else acc) (0, gen)

/-- A lane-wise instruction whose lanes are computed one by one: `f ty x y z gen` gives a lane and the generator. -/
def State.lanewise (s : State) (e : Fields) (u : LaneUse) (f : Nat → Nat → Nat → Nat → Nat → Nat × Nat) : Result :=
  s.withSources e u laneWidth fun s t mask src =>
    let w := if u.nib then 4 else laneWidth src.ty
    let (v, gen) := lanesGen (t.active e.g w) w
      (fun l g => f src.ty (lane src.a w l) (lane src.b w l) (lane src.c w l) g) t.gen.toNat
    let t := { t with gen := BitVec.ofNat 64 gen }
    s.finishLanes t e mask v src.ty

/-- A lane-wise instruction that gives its whole register at once, with the tag of the result. -/
def State.wholewise (s : State) (e : Fields) (u : LaneUse) (w : Nat → Nat) (tag : Nat → Nat) (f : Sources → Nat) : Result :=
  s.withSources e u w fun s t mask src => s.finishLanes t e mask (f src) (tag src.ty)

end Sys2Proof.Machine
end

