-- ==== Sys2Proof/Machine/Float.lean ====
section
/-!
DEFINITION. Floating-point arithmetic and conversions (spec/07 R135 to R141, spec/05 R83 to R89, R97, R98): opcodes 0x20
to 0x2F.
-/
namespace Sys2Proof.Machine

/-- The 16 random bits of a rounding event and the generator after it; only mode sr draws (R89). -/
def drawBits (mode : Rnd) (g : Nat) : Nat × Nat := if mode = .sr then (genBits (genNext g), genNext g) else (0, g)

/-- Round an exact value into a lane, one event (R86, R88). -/
def roundEvent (e : Fields) (ty : Nat) (x : Val) (g : Nat) : Nat × Nat :=
  let (rb, g) := drawBits (rndOf e.rnd) g
  (roundFloat (floatFmt ty) (rndOf e.rnd) e.sat e.ftz rb x, g)

/-- A floating instruction whose lane is one rounding of an exact value (R135, R137). -/
def State.floatOp (s : State) (e : Fields) (useB useC : Bool) (f : Bool → Val → Val → Val → Val) : Result :=
  s.lanewise e { tys := tysFp, useB, useC } fun ty x y z g =>
    let v := floatVal (floatFmt ty)
    roundEvent e ty (f (rndOf e.rnd == .rdn) (v x) (v y) (v z)) g

/-- A floating instruction that is exact (R136). -/
def State.exactOp (s : State) (e : Fields) (useB : Bool) (f : FloatFmt → Nat → Nat → Nat) : Result :=
  s.lanewise e { tys := tysFp, useB } fun ty x y _ g => (f (floatFmt ty) x y, g)

def faddVal (rdn : Bool) (x y _ : Val) : Val := sumVals [x, y] rdn
def fsubVal (rdn : Bool) (x y _ : Val) : Val := sumVals [x, y.neg] rdn
def fmulVal (_ : Bool) (x y _ : Val) : Val := x.mul y
def fmaVal (rdn : Bool) (x y z : Val) : Val := sumVals [x.mul y, z] rdn

/-- `fmin` and `fmax` of patterns: the non-NaN operand, −0 less than +0 (R136). -/
def fminPat (mx : Bool) (f : FloatFmt) (x y : Nat) : Nat :=
  let a := floatVal f x
  let b := floatVal f y
  if a.isNan && b.isNan then f.nan.getD 0
  else if a.isNan then y
  else if b.isNan then x
  else
    let c := a.compare b
    let xLess := decide (c < 0) || (c == 0 && (a.isNeg && !b.isNeg))
    if xLess == mx then y else x

/-- The sign bit cleared or inverted; a NaN gives the canonical NaN (R136). -/
def fabsPat (f : FloatFmt) (x _ : Nat) : Nat :=
  if (floatVal f x).isNan then f.nan.getD 0 else x % 2 ^ (f.ebits + f.mbits)
def fnegPat (f : FloatFmt) (x _ : Nat) : Nat :=
  if (floatVal f x).isNan then f.nan.getD 0 else x ^^^ 2 ^ (f.ebits + f.mbits)

/-- FADD (R135). -/
def execFadd (e : Fields) (s : State) : Result := s.floatOp e true false faddVal
/-- FADD_X (R135). -/
def execFaddX (e : Fields) (s : State) : Result := s.floatOp e true false faddVal
/-- FSUB (R135). -/
def execFsub (e : Fields) (s : State) : Result := s.floatOp e true false fsubVal
/-- FSUB_X (R135). -/
def execFsubX (e : Fields) (s : State) : Result := s.floatOp e true false fsubVal
/-- FMUL (R135). -/
def execFmul (e : Fields) (s : State) : Result := s.floatOp e true false fmulVal
/-- FMUL_X (R135). -/
def execFmulX (e : Fields) (s : State) : Result := s.floatOp e true false fmulVal
/-- FMA (R135). -/
def execFma (e : Fields) (s : State) : Result := s.floatOp e true true fmaVal
/-- FMA_X (R135). -/
def execFmaX (e : Fields) (s : State) : Result := s.floatOp e true true fmaVal
/-- FMIN (R136). -/
def execFmin (e : Fields) (s : State) : Result := s.exactOp e true (fminPat false)
/-- FMIN_X (R136). -/
def execFminX (e : Fields) (s : State) : Result := s.exactOp e true (fminPat false)
/-- FMAX (R136). -/
def execFmax (e : Fields) (s : State) : Result := s.exactOp e true (fminPat true)
/-- FMAX_X (R136). -/
def execFmaxX (e : Fields) (s : State) : Result := s.exactOp e true (fminPat true)
/-- FABS (R136). -/
def execFabs (e : Fields) (s : State) : Result := s.exactOp e false fabsPat
/-- FABS_X (R136). -/
def execFabsX (e : Fields) (s : State) : Result := s.exactOp e false fabsPat
/-- FNEG (R136). -/
def execFneg (e : Fields) (s : State) : Result := s.exactOp e false fnegPat
/-- FNEG_X (R136). -/
def execFnegX (e : Fields) (s : State) : Result := s.exactOp e false fnegPat

/-! ## Special functions (R137) -/

/-- A special function with an exact value. -/
def State.specialOp (s : State) (e : Fields) (f : Val → Val) : Result :=
  s.floatOp e false false fun _ x _ _ => f x

/-- A special function that is rounded from bounds. -/
def State.seriesOp (s : State) (e : Fields) (f : FloatFmt → Rnd → Bool → Bool → Nat → Val → Nat) : Result :=
  s.lanewise e { tys := tysFp, useB := false } fun ty x _ _ g =>
    let (rb, g) := drawBits (rndOf e.rnd) g
    (f (floatFmt ty) (rndOf e.rnd) e.sat e.ftz rb (floatVal (floatFmt ty) x), g)

/-- FRCP (R137). -/
def execFrcp (e : Fields) (s : State) : Result := s.specialOp e recipVal
/-- FRCP_X (R137). -/
def execFrcpX (e : Fields) (s : State) : Result := s.specialOp e recipVal
/-- FRSQ (R137). -/
def execFrsq (e : Fields) (s : State) : Result := s.specialOp e rsqrtVal
/-- FRSQ_X (R137). -/
def execFrsqX (e : Fields) (s : State) : Result := s.specialOp e rsqrtVal
/-- FSQRT (R137). -/
def execFsqrt (e : Fields) (s : State) : Result := s.specialOp e sqrtVal
/-- FSQRT_X (R137). -/
def execFsqrtX (e : Fields) (s : State) : Result := s.specialOp e sqrtVal
/-- FEXP2 (R137). -/
def execFexp2 (e : Fields) (s : State) : Result := s.seriesOp e exp2Round
/-- FEXP2_X (R137). -/
def execFexp2X (e : Fields) (s : State) : Result := s.seriesOp e exp2Round
/-- FLOG2 (R137). -/
def execFlog2 (e : Fields) (s : State) : Result := s.seriesOp e log2Round
/-- FLOG2_X (R137). -/
def execFlog2X (e : Fields) (s : State) : Result := s.seriesOp e log2Round

/-! ## fround, fdot and fcvt -/

/-- `fround` (R138). -/
def State.froundOp (s : State) (e : Fields) : Result :=
  s.lanewise e { tys := tysFp, useB := false } fun ty x _ _ g =>
    let (rb, g) := drawBits (rndOf e.rnd) g
    (froundPat (floatFmt ty) (rndOf e.rnd) rb x, g)

/-- FROUND (R138). -/
def execFround (e : Fields) (s : State) : Result := s.froundOp e
/-- FROUND_X (R138). -/
def execFroundX (e : Fields) (s : State) : Result := s.froundOp e

/-- The result type of `fdot`: f32, or i32 for an integer type (R139). -/
def dotType (ty : Nat) : Nat := if fmtIsInt ty then 3 else 9

/-- The products of group `l` (R139). -/
def dotProducts (ty a b l : Nat) : List Val :=
  let w := fmtWidth ty
  let n := 32 / w
  (List.range n).map fun k => (elemVal ty (lane a w (l * n + k))).mul (elemVal ty (lane b w (l * n + k)))

/-- The exact integer sum of group `l`. -/
def dotInt (ty a b l : Nat) : Int :=
  let w := fmtWidth ty
  let n := 32 / w
  ((List.range n).map fun k => intVal ty (lane a w (l * n + k)) * intVal ty (lane b w (l * n + k))).sum

/-- One lane of `fdot` (R139, R97): each draws once under .sr, one of an integer type too. -/
def dotLane (e : Fields) (x : Sources) (l g : Nat) : Nat × Nat :=
  let c := lane x.c 32 l
  if fmtIsInt x.ty then
    let v := signed 32 c + dotInt x.ty x.a x.b l
    (wrap 32 (if e.sat then clampFmt 3 v else v), (drawBits (rndOf e.rnd) g).2)
  else
    roundEvent e 9 (sumVals (floatVal (floatFmt 9) c :: dotProducts x.ty x.a x.b l) (rndOf e.rnd == .rdn)) g

/-- `fdot` (R139). A base form whose fa gives no type is judged by 4-bit lanes (04 R67). -/
def State.fdotOp (s : State) (e : Fields) : Result :=
  s.withSources e { tys := tysFdot, useC := true, accTag := some dotType } (fun ty => if ty = 0 then 4 else 32) fun s t mask x =>
    let (v, gen) := lanesGen (t.active e.g 32) 32 (fun l g => dotLane e x l g) t.gen.toNat
    s.finishLanes { t with gen := BitVec.ofNat 64 gen } e mask v (dotType x.ty)

/-- FDOT (R139). -/
def execFdot (e : Fields) (s : State) : Result := s.fdotOp e
/-- FDOT_X (R139). -/
def execFdotX (e : Fields) (s : State) : Result := s.fdotOp e

/-- The number of elements of a format in a register (R118, R141). -/
def elemCount (ty : Nat) : Nat := if fmtWidth ty = 6 then 20 else 128 / fmtWidth ty

/-- The destination format of `fcvt` (R140). -/
def cvtDest (e : Fields) : Nat := if e.hasWord1 then e.ty.toNat else e.b.toNat

/-- Element `j` of a destination is governed by predicate bit ⌊W·j/4⌋ (R118). -/
def cvtActive (t : Thread) (e : Fields) (d j : Nat) : Bool := t.guardBit e.g (fmtWidth d * j / 4)

/-- Some element of the destination is active. -/
def cvtLive (t : Thread) (e : Fields) (d : Nat) : Bool := (List.range (elemCount d)).any (cvtActive t e d)

/-- Convert the elements of R141 in ascending order: the destination bits and the generator. -/
def cvtLoop (t : Thread) (e : Fields) (sf d part src : Nat) : Nat × Nat :=
  let ns := elemCount sf
  let nd := elemCount d
  let n := min ns nd
  let mode := rndOf e.rnd
  loopUp n (fun j acc =>
    let is := (if nd < ns then part * n else 0) + j
    let id := (if ns < nd then part * n else 0) + j
    if is < ns && id < nd && cvtActive t e d id then
      let (rb, g) := if exactPair sf d then (0, acc.2) else drawBits mode acc.2
      let v := roundTo d mode e.sat e.ftz rb (elemVal sf (lane src (fmtWidth sf) is))
      (setLane acc.1 (fmtWidth d) id v, g)
    else acc) ((t.reg e.d).bits.toNat, t.gen.toNat)

/-- `fcvt` (R140, R141). A live one that writes 6-bit elements writes zeros to bits 127:120 (R118). A one-word form whose fa gives
no type is judged by 4-bit lanes (04 R67). -/
def State.fcvtOp (s : State) (e : Fields) : Result :=
  s.onThread fun t =>
    let r := t.reg e.a
    let d := cvtDest e
    let sf := r.tag.toNat
    if !e.hasWord1 && (r.cap || sf = 0) then (if t.live e.g 4 then s.trap (.format false 0) else s.put (t.next e))
    else if !cvtLive t e d then s.put (t.next e)
    else if r.cap || sf = 0 || 17 < sf || (!e.hasWord1 && fmtIsInt sf != fmtIsInt d) then s.trap (.format false 0)
    else
      let (v, gen) := cvtLoop t e sf d (e.imm.toNat % 16) r.bits.toNat
      let v := if fmtWidth d = 6 then v % 2 ^ 120 else v
      s.finish { t with gen := BitVec.ofNat 64 gen } e ⟨BitVec.ofNat 128 v, false, BitVec.ofNat 5 d⟩

/-- FCVT (R140). -/
def execFcvt (e : Fields) (s : State) : Result := s.fcvtOp e
/-- FCVT_X (R140). -/
def execFcvtX (e : Fields) (s : State) : Result := s.fcvtOp e

end Sys2Proof.Machine
end

