-- ==== Sys2Proof/Machine/TileMath.lean ====
section
/-!
DEFINITION. The arithmetic of tile operations (spec/05 R91 to R96, spec/11 R220, R230 to R233): operands in the twenty
matrix formats, sums, and conversion into block-scaled formats.
-/
namespace Sys2Proof.Machine

/-! ## Matrix formats (R91 Table 5) -/

/-- The bits of one element in memory. -/
def elemBits (code : Nat) : Nat :=
  match code with
  | 18 => 4 | 19 => 8 | 20 => 8 | 21 => 6 | 22 => 6 | 23 => 4 | 24 => 8 | 25 => 4 | 26 => 4
  | c => fmtWidth c

/-- The format of the elements of a block-scaled format. -/
def elemCode (code : Nat) : Nat :=
  match code with
  | 19 => 13 | 20 => 12 | 21 => 14 | 22 => 15 | 23 => 16 | 25 => 16 | c => c

def isScaled (code : Nat) : Bool := 19 ≤ code && code ≤ 26
def isOx (code : Nat) : Bool := code == 18 || code == 26

/-- The bytes of `n` elements. -/
def rowBytes (code n : Nat) : Nat := n * elemBits code / 8

/-- The value of an element, before its scale (R91, R92). -/
def elemValue (code p : Nat) : Val :=
  if code = 24 then
    let v := signed 8 p
    .num (decide (v < 0)) v.natAbs (-6) false
  else elemVal (elemCode code) p

/-- An E8M0 scale (R92). -/
def e8m0 (x : Nat) : Val := if x = 255 then .nan else .num false 1 ((x : Int) - 127) false

/-- An sf4 block scale (R92). -/
def sf4Scale (x : Nat) : Val := if x = 0 then .zero false else .num false (16 + x % 16) ((x / 16 : Nat) - 12 : Int) false

def scaleVal (code x : Nat) : Val :=
  if code = 25 then sf4Scale x else if isScaled code then e8m0 x else .num false 1 0 false

/-- An output scale, or its refusal (R92): zero, negative, infinite or NaN. -/
def outScale (p : Nat) : Option Val :=
  match floatVal (floatFmt 9) p with
  | .num false m e st => if m = 0 then none else some (.num false m e st)
  | _ => none

/-- The slots of an ox4 block from slot `j` on, and the format-error bit (R93). -/
def oxDecode : List Nat → Nat → List Val × Bool
  | [], _ => ([], false)
  | k :: r, j =>
    if k ≠ 8 then
      let (l, e) := oxDecode r (j + 1)
      (.ofInt (signed 4 k) :: l, e)
    else
      match r with
      | a :: b :: r' =>
        if j ≤ 29 then
          let (l, e) := oxDecode r' (j + 3)
          (floatVal (floatFmt 13) (16 * a + b) :: .zero false :: .zero false :: l, e)
        else
          let (l, _) := oxDecode (a :: b :: r') (j + 1)
          (.zero false :: l, true)
      | r =>
        let (l, _) := oxDecode r (j + 1)
        (.zero false :: l, true)

/-- The values of one block of 32 elements with its scale byte. -/
def blockVals (code : Nat) (pats : List Nat) (scale : Nat) : List Val × Bool :=
  let (l, e) := if isOx code then oxDecode pats 0 else (pats.map (elemValue code), false)
  (l.map fun v => if isScaled code then v.mul (scaleVal code scale) else v, e)

/-! ## Sums (R95, R96, R220) -/

/-- What a tile multiplication computes with. -/
structure TileArgs where
  ty : Nat
  bf : Nat
  cf : Nat
  sat : Bool
  rnd : Rnd
deriving DecidableEq, Repr

/-- The format of C (R218 Table 4). -/
def TileArgs.cCode (t : TileArgs) : Nat := match t.cf with | 0 => 9 | 1 => 3 | 2 => 11 | _ => 10

def TileArgs.sf4 (t : TileArgs) : Bool := t.ty == 25 || t.bf == 25

/-- The products of a block. -/
def products (a b : List Val) : List Val := List.zipWith Val.mul a b

/-- One block into an f32 accumulator: one rounding of the exact sum. -/
def accF32 (acc : Nat) (ps : List Val) : Nat :=
  roundFloat (floatFmt 9) .rne false false 0 (sumVals (floatVal (floatFmt 9) acc :: ps) false)

/-- One block into an i32 accumulator. -/
def accI32 (sat : Bool) (acc : Nat) (ps : List Val) : Nat :=
  let v := signed 32 acc + (dyadicSum ps).m
  wrap 32 (if sat then clampFmt 3 v else v)

/-- One element of C from its old pattern, the blocks of A's row and B's column, and the output scales; the generator after
it. Where an sf4 output scale is refused, C is round(C + 0), so that −0 becomes +0 and a NaN the canonical one, though the text says
that C is left unchanged (05 R95, log 85). -/
def tileElem (t : TileArgs) (a b : List (List Val)) (ra rb : Option Val) (c g : Nat) : Nat × Nat :=
  let ps := List.zipWith products a b
  if t.cf = 1 then (ps.foldl (accI32 t.sat) c, g)
  else
    let old := floatVal (floatFmt t.cCode) c
    let start := if t.sf4 then 0 else roundFloat (floatFmt 9) .rne false false 0 old
    let acc := ps.foldl accF32 start
    let v :=
      if !t.sf4 then acc
      else
        let term : Val := match ra, rb with
          | some x, some y => ((floatVal (floatFmt 9) acc).mul x).mul y
          | _, _ => .zero false
        roundFloat (floatFmt 9) .rne false false 0 (sumVals [old, term] false)
    if t.cf = 0 then (v, g)
    else
      let (r, g) := drawBits t.rnd g
      (roundFloat (floatFmt t.cCode) t.rnd t.sat false r (floatVal (floatFmt 9) v), g)

/-- Pack patterns of a width, the first lowest. -/
def packPats (w : Nat) : List Nat → Nat
  | [] => 0
  | p :: r => p % 2 ^ w + 2 ^ w * packPats w r

/-- The patterns of a number. -/
def patsOf (w n v : Nat) : List Nat := (List.range n).map fun i => v / 2 ^ (w * i) % 2 ^ w

/-- A function on each column in ascending order, with the generator. -/
def eachCol (f : Nat → Nat → Nat × Nat) : List Nat → Nat → List Nat × Nat
  | [], g => ([], g)
  | j :: r, g =>
    let (x, g) := f j g
    let (l, g) := eachCol f r g
    (x :: l, g)

/-! ## Conversions into block-scaled formats (R232, R233, Table 7) -/

def Val.abs : Val → Val
  | .num _ m e st => .num false m e st
  | .inf _ => .inf false
  | .nan => .nan

/-- ⌊log₂ |x|⌋ of a value that is not zero. -/
def Val.log2Floor : Val → Int
  | .num _ m e _ => (Nat.log2 m : Int) + e
  | .inf _ => 4000
  | .nan => 0

/-- The quotient of two values, with a sticky bit below 72 bits. -/
def Val.div : Val → Val → Val
  | .nan, _ => .nan
  | _, .nan => .nan
  | .inf a, .inf _ => if a then .nan else .nan
  | .inf a, .num b _ _ _ => .inf (a != b)
  | .num a _ _ _, .inf b => .zero (a != b)
  | .num a m e _, .num b n f _ =>
    if n = 0 then (if m = 0 then .nan else .inf (a != b))
    else
      let k := Nat.log2 n + 96
      .num (a != b) (m * 2 ^ k / n) (e - f - k) (m * 2 ^ k % n != 0)

/-- The largest magnitude of a list. -/
def maxAbs (l : List Val) : Val :=
  l.foldl (fun x v => if x.compare v.abs < 0 then v.abs else x) (.zero false)

/-- The list without one occurrence of its largest magnitude. -/
def dropMax (l : List Val) : List Val :=
  let x := maxAbs l
  match l.findIdx? fun v => v.abs.compare x == 0 with
  | some i => l.eraseIdx i
  | none => l

/-- The block holds a NaN or an infinity. -/
def anySpecial (l : List Val) : Bool := l.any fun v => v.isNan || v.isInf false || v.isInf true

/-- emax of Table 7. -/
def emaxOf (code : Nat) : Int := match code with | 19 => 8 | 20 => 15 | 21 => 4 | 22 => 2 | 23 => 2 | _ => 0

/-- The scale byte of a block in an mx format. -/
def mxScale (code : Nat) (l : List Val) : Nat :=
  if anySpecial l then 255
  else
    let a := maxAbs l
    if a.isZero then 127 else (clampTo 0 254 (a.log2Floor - emaxOf code + 127)).toNat

/-- The scale byte of an ox4b block; `free` where the block holds a NaN, whose magnitude the table does not rank
(log 24). -/
def oxScale (l : List Val) (free : Nat) : Nat :=
  if l.any Val.isNan then free % 256
  else
    let a := maxAbs (dropMax l)
    if a.isZero then 127
    else
      let b := a.log2Floor
      let n := ([b - 3, b - 2, b - 1].find? fun n => (Val.num false 7 n false).compare a ≥ 0).getD b
      (clampTo 0 254 (n + 127)).toNat

/-- The output scale of an sf4 row, as an f32 pattern. -/
def sf4Row (l : List Val) : Nat :=
  if anySpecial l then 0x7FC00000
  else
    let a := maxAbs l
    if a.isZero then 0x3F800000
    else roundFloat (floatFmt 9) .rne false false 0 (a.div (.num false 1488 0 false))

/-- The block scale of an sf4 block against its row's output scale: the least byte whose value is at least a / (6r). -/
def sf4Block (l : List Val) (r : Nat) : Nat :=
  let a := maxAbs l
  if l.any Val.isNan then 255
  else if a.isZero then 0
  else
    let need := a.div ((Val.num false 6 0 false).mul (floatVal (floatFmt 9) r))
    if need.isNan then 255
    else ((List.range 256).find? fun x => x != 0 && decide ((sf4Scale x).compare need ≥ 0)).getD 255

/-- A value clamped to ±7. -/
def clampSlot (x : Val) : Nat := wrap 4 (if x.isNeg then -7 else 7)

/-- round(x) in −7 … +7 (R233); a NaN rounds to the integer 0 (R87). -/
def fitsSlot (rnd : Rnd) (rb : Nat) : Val → Option Nat
  | .num n m e st =>
    let v := roundInt rnd rb n m e st
    if -7 ≤ v && v ≤ 7 then some (wrap 4 v) else none
  | .nan => some 0
  | .inf _ => none

/-- Encode the slots of an ox4 block from slot `j` on, ascending (R233): at most `n` more. Under .sr each slot that is tested
draws once, one that becomes an escape too, and one that is given up does not (05 R90, log 85). -/
def oxEncode (rnd : Rnd) : Nat → List Val → Nat → Nat → List Nat × Nat
  | 0, _, _, g => ([], g)
  | _, [], _, g => ([], g)
  | n + 1, x :: r, j, g =>
    let (rb, g) := drawBits rnd g
    match fitsSlot rnd rb x with
    | some p =>
      let (l, g) := oxEncode rnd n r (j + 1) g
      (p :: l, g)
    | none =>
      if j ≤ 29 then
        let p := roundFloat (floatFmt 13) .rne true false 0 x
        let (l, g) := oxEncode rnd n (r.drop 2) (j + 3) g
        (8 :: p / 16 :: p % 16 :: l, g)
      else
        let (l, g) := oxEncode rnd n r (j + 1) g
        (clampSlot x :: l, g)

/-- Encode the elements of one block against a scale value. -/
def encodeBlock (code : Nat) (rnd : Rnd) (scale : Val) (l : List Val) (g : Nat) : List Nat × Nat :=
  if isOx code then oxEncode rnd 32 (l.map fun v => if code = 26 then v.div scale else v) 0 g
  else
    eachCol (fun j g =>
      let x := ((l[j]?).getD .nan).div scale
      let (rb, g) := drawBits rnd g
      (if code = 24 then roundToInt 1 rnd rb (x.mul (.num false 1 6 false))
       else roundFloat (floatFmt (elemCode code)) rnd true false rb x, g)) (List.range l.length) g

end Sys2Proof.Machine
end

