-- ==== Sys2Proof/Machine/Queue.lean ====
section
/-!
DEFINITION. The life of an engine queue (spec/15 R277 to R286, spec/11 R211 to R213, R223, R235, spec/09 R201): entries,
halts, freezes, and the ends of an operation.
-/
namespace Sys2Proof.Machine

/-! ## Names -/

/-- The context, grove and code of a queue's key. -/
def keyCtx (k : Nat) : Nat := k / 16 / 192
def keyGrove (k : Nat) : Nat := k / 16 % 192
def keyCode (k : Nat) : Nat := k % 16

/-- The queue identifier (R278 Table 2). -/
def queueId (k : Nat) : Nat := keyCtx k * 2 ^ 52 + keyGrove k * 2 ^ 44 + keyCode k

/-- The entries a queue holds (R211 Table 1). -/
def queueDepth (code : Nat) : Nat := if code ≤ 4 then 64 else 32

/-- No operation holds a unit of a grove, nor a migration's transfer (18 R330), nor the copy of a kernel (16 R293), no ballast slice
runs on it, and it is in service. -/
def State.unitFree (s : State) (g unit : Nat) : Bool :=
  !(s.queues.any fun e => keyGrove e.1 == g && e.2.unit == unit) &&
    !(s.migrations.any fun m => m.dest.isSome && m.core / 16 == g && m.skidder == unit) &&
    !((s.grove g).kernels.any fun r => !r.whole && r.skidder == unit) && !(s.grove g).ballast.contains unit && !(s.grove g).dead.contains unit

/-- An operation's context. -/
def EngineOp.ctx (op : EngineOp) : Nat := op.gtid.toNat / 2 ^ 52

/-- XOP of an entry. -/
def EngineOp.xop (op : EngineOp) : Nat :=
  match op.kind with | .tile x => x | .copy x => x | .join _ => 4

/-- The lanes of the control register (R215), or of a geometry. -/
def EngineOp.ctl (op : EngineOp) (i : Nat) : Nat := op.f.bits.toNat / 2 ^ (32 * i) % 2 ^ 32

/-! ## The issuer's counters (R201, R213) -/

/-- Change cp or tl of the thread with an identifier, wherever it stands: placed, or saved. -/
def State.countOp (s : State) (gtid : Word64) (tile : Bool) (f : Nat → Nat) : State :=
  let up (t : Thread) : Thread := if tile then { t with tl := f t.tl } else { t with cp := f t.cp }
  match s.slots.find? fun e => match e.2.thread with | some t => t.gtid == gtid | none => false with
  | some e => match e.2.thread with | some t => s.setThread e.1 (up t) | none => s
  | none =>
    let c := gtid.toNat / 2 ^ 52
    let x := s.ctx c
    s.setCtx c { x with saved := x.saved.map fun v =>
      if v.gtid = gtid then (if tile then { v with tl := f v.tl } else { v with cp := f v.cp }) else v }

/-- An entry ends: its issuer's counter falls by one. A tile task has no issuer. -/
def State.uncount (s : State) (op : EngineOp) (code : Nat) : State :=
  if op.isTask then s else s.countOp op.gtid (code ≤ 4) fun n => n - 1

/-! ## Entries -/

/-- A head that has begun to wait is stamped (R212). -/
def State.stampHead (s : State) (k : Nat) : State :=
  { s.setQueue k { s.queue k with since := s.stamp } with stamp := s.stamp + 1 }

/-- An entry becomes the head: no progress yet. -/
def State.newHead (s : State) (k : Nat) : State :=
  (s.setQueue k { s.queue k with prog := 0, restarts := 0, rrow := 0 }).stampHead k

/-- The entries ever appended to a queue before the present cycle of its grove (R284). -/
def State.appendedBefore (s : State) (k : Nat) : Nat :=
  let q := s.queue k
  if q.appendedAt = s.cycle (keyGrove k * 16) then q.before else q.appended

/-- Append an entry. -/
def State.appendOp (s : State) (k : Nat) (op : EngineOp) : State :=
  let q := s.queue k
  let s := s.setQueue k
    { q with ops := q.ops ++ [{ op with serial := q.appended, queue := k }], appended := q.appended + 1
             appendedAt := s.cycle (keyGrove k * 16), before := s.appendedBefore k }
  if q.ops.isEmpty then s.newHead k else s

/-- Whether every entry of queue `k` numbered below `point` has ended (R284). -/
def State.endedBefore (s : State) (k point : Nat) : Bool :=
  let q := s.queue k
  let live := if q.headEnded then q.ops.drop 1 else q.ops
  live.all fun o => decide (point ≤ o.serial)

/-- The head is a join with work outstanding before its join point. -/
def State.blocked (s : State) (k : Nat) : Bool :=
  match (s.queue k).ops with
  | { kind := .join ps, .. } :: _ => ps.any fun p => !s.endedBefore (queueKey (keyCtx k) (keyGrove k) p.1) p.2
  | _ => false

/-- The STATE of a queue (R279 Table 3). -/
def State.queueState (s : State) (k : Nat) : Nat :=
  let q := s.queue k
  match q.mode with
  | .frozen => 4
  | .halted => 3
  | .running => if q.ops.isEmpty then 0 else if s.blocked k then 2 else 1

/-- The task that an operation of the task tile queue performs: its graph and its index. -/
def State.taskOf (s : State) (op : EngineOp) : Option (Nat × Nat) :=
  if op.isTask then (s.graphOf op.gtid).map fun g => (g, op.gtid.toNat / 2 ^ 16 % 2 ^ 16) else none

/-- A tile task's operation ended in error or was discarded: its graph is abandoned with reason 4 (13 R259). -/
def State.failTask (s : State) (op : EngineOp) : State :=
  match s.taskOf op with
  | some (g, i) =>
    let x := s.graph g
    s.setGraph g { x with tasks := x.tasks.mapIdx fun j t => if j = i then { t with failed := true } else t }
  | none => s

/-- The head leaves the queue: the next entry begins to wait. -/
def State.popHead (s : State) (k : Nat) : State :=
  let q := s.queue k
  let s := s.setQueue k
    { q with ops := q.ops.drop 1, unit := 0, started := false, headEnded := false, recompute := false, rowBuf := []
             snap := none, ahead := [], loop := none, plan := [], planEnd := 0, planGens := [], whole := false, stopping := 0 }
  let s := s.setFar k []
  if 1 < q.ops.length then s.newHead k else s

/-- What `tstat` reports of an operation that has completed, once the queue is empty (R235). -/
def Queue.ended (q : Queue) (op : EngineOp) : Queue :=
  match op.kind with
  | .join _ => q
  | _ => { q with lastRows := q.prog, lastRestarts := q.restarts, lastRrow := q.rrow, lastXop := op.xop }

/-- The head ends whole (R201): the counter falls, DONE advances, it leaves. A resolved join counts in DONE too (log 101). -/
def State.endHead (s : State) (k : Nat) : State :=
  match (s.queue k).ops with
  | [] => s
  | op :: _ =>
    let q := s.queue k
    ((s.setQueue k { (q.ended op) with done := (q.done + 1) % 2 ^ 16 }).uncount op (keyCode k)).popHead k

/-- Remove an entry as discarded (R260, R282): no completion word, the counter falls, and its task is not done. -/
def State.discardOp (s : State) (k : Nat) (op : EngineOp) : State :=
  let q := s.queue k
  let isHead := q.ops.head? == some op
  let ended := isHead && q.headEnded
  let s := if ended then s else (s.uncount op (keyCode k)).failTask op
  if isHead then s.popHead k else s.setQueue k { q with ops := q.ops.erase op }

/-! ## Halts and freezes (R280, R223, R307) -/

/-- Hold a queue's message for its context's handler (R308). -/
def State.queueMessage (s : State) (k kind cause addr : Nat) : State :=
  s.postMessage (keyCtx k)
    { e0 := (lanes64 (queueId k) (causeWord kind cause 0 1 0) 0).bits
      e1 := (lanes64 ((s.queue k).prog) addr 0).bits }

/-- A translation fault of the head: it stays, with its progress. -/
def State.haltTranslation (s : State) (k addr : Nat) : State :=
  let q := s.queue k
  (s.setQueue k { q with mode := .halted, unit := 0, exlat := true }).queueMessage k 10 1 addr

/-- The head ends with its error bit set and stays until the queue is resumed or discarded. -/
def State.haltEnded (s : State) (k cause addr : Nat) : State :=
  let q := s.queue k
  match q.ops with
  | [] => s
  | op :: _ =>
    let q := q.ended op
    let s := s.setQueue k
      { q with mode := .halted, unit := 0, headEnded := true, done := (q.done + 1) % 2 ^ 16
               edata := q.edata || cause == 2, eres := q.eres || cause == 3 }
    ((s.uncount op (keyCode k)).failTask op).queueMessage k 10 cause addr

/-- A violation of the head freezes the queue. -/
def State.freezeQueue (s : State) (k kind addr : Nat) : State :=
  let q := s.queue k
  (s.setQueue k { q with mode := .frozen, unit := 0, ecap := true }).queueMessage k kind 0 addr

/-- What a stop of an engine does to its queue. -/
def State.engineStop (s : State) (k : Nat) : EngineStop → State
  | .translation _ a => s.haltTranslation k a
  | .data a => s.haltEnded k 2 a
  | .violation kind a => s.freezeQueue k kind a
  | .residue => s.haltEnded k 3 0
  | .pause => s

/-! ## Resume, discard and thaw (R282, R283) -/

/-- Resume a halted queue. -/
def State.resumeQueue (s : State) (k : Nat) : State :=
  let q := s.queue k
  if q.mode ≠ .halted then s
  else
    let s := s.setQueue k { q with mode := .running, exlat := false, edata := false, eres := false }
    if q.headEnded then s.popHead k else if q.ops.isEmpty then s else s.stampHead k

/-- Discard every entry of a halted queue. -/
def State.discardQueue (s : State) (k : Nat) : State :=
  let q := s.queue k
  if q.mode ≠ .halted then s
  else
    let s := q.ops.foldl (fun s op => s.discardOp k op) s
    s.setQueue k { s.queue k with mode := .running, exlat := false, edata := false, eres := false }

/-- Thaw a frozen queue: the head ends with its error bit set, and the queue is halted. -/
def State.thawQueue (s : State) (k : Nat) : State :=
  let q := match (s.queue k).ops with | op :: _ => (s.queue k).ended op | [] => s.queue k
  let s := s.setQueue k { q with mode := .halted, ecap := false, headEnded := !q.ops.isEmpty, unit := 0
                                 done := if q.ops.isEmpty then q.done else (q.done + 1) % 2 ^ 16 }
  match q.ops with
  | [] => s
  | op :: _ => (s.uncount op (keyCode k)).failTask op

/-- Every queue entry of a context is discarded, and its queues stand empty (17 R300). -/
def State.dropQueues (s : State) (c : Nat) : State :=
  { s with queues := s.queues.filter fun e => keyCtx e.1 != c }

/-- A stop of the running tile operation at the end of its current block is wanted (R224). -/
def Queue.stopAtBlock (q : Queue) (why : Nat) : Queue :=
  { q with stopping := max why q.stopping, stopRow := if q.stopping = 0 then max ((q.prog / 128 + 1) * 128) q.planEnd else q.stopRow }

/-- A limit of the work on a queue's head, which does not pass the end of a block at which it is to stop. -/
def Queue.limit (q : Queue) (l : Option Nat) : Option Nat :=
  if q.stopping = 0 then l else some (match l with | some n => min n q.stopRow | none => q.stopRow)

/-! ## Completion words (R201, R213) -/

/-- Translate a completion word for its increment: it must be storable where atomics are performed. -/
def EngineOp.wordKey (op : EngineOp) (w : QReg) : Eng Nat := do
  let k ← op.key w w.lo .store
  if keyHasAtomics k then pure k else throw (.translation 8 w.lo)

/-- The increment of the head's completion word, if it names one. -/
def EngineOp.increment (op : EngineOp) : Eng Unit := do
  match op.w with
  | none => pure ()
  | some w =>
    let k ← op.wordKey w
    let s ← get
    if !s.isLocal k then
      let _ ← op.askFar (engineAccess (.atom 0) k w.lo 8 0xFFFF 1) true
    else if s.poisoned k then do set (s.detect k); throw (.data w.lo)
    else set (s.writeAccess (unitStore k w.lo 8 0xFFFF) ((s.readNum k 8 + 1) % 2 ^ 64))

/-! ## Status (R235, R286) -/

/-- Bits 63:0 of `tstat` and `qstat` (R235 Table 8). XOP of an empty queue is that of the last operation that completed, as the
status word of 12 R241 shows it (DEDUCED, log 40). -/
def State.queueStatus (s : State) (k : Nat) : Nat :=
  let q := s.queue k
  let xop := match q.ops.head? with | some op => op.xop | none => q.lastXop
  q.done % 2 ^ 16 * 2 ^ 48 + q.ops.length % 256 * 2 ^ 40 + s.queueState k * 2 ^ 36 + q.unit % 16 * 2 ^ 32 + xop % 1024 * 2 ^ 22 +
    flag q.eres * 2 ^ 15 + flag q.edata * 2 ^ 14 + flag q.exlat * 2 ^ 13 + flag q.efmt * 2 ^ 12 + flag q.ecap * 2 ^ 11

/-- Bits 127:64 (R235 Table 9, R286 Table 4). -/
def State.queueProgress (s : State) (k : Nat) : Nat :=
  let q := s.queue k
  if 4 < keyCode k then q.prog % 2 ^ 64
  else if q.ops.isEmpty then q.lastRows % 2 ^ 32 * 2 ^ 32 + q.lastRestarts % 2 ^ 16 * 2 ^ 16 + q.lastRrow % 2 ^ 16
  else q.prog % 2 ^ 32 * 2 ^ 32 + q.restarts % 2 ^ 16 * 2 ^ 16 + q.rrow % 2 ^ 16

end Sys2Proof.Machine
end

