-- ==== Sys2Proof/Machine/Tile.lean ====
section
/-!
DEFINITION. Tile operations (spec/11 R213 to R235): the checks at issue, the work of an engine row by row, and the
instructions of escape 0x70.
-/
namespace Sys2Proof.Machine

/-! ## Operands (R214 to R219) -/

def EngineOp.srcStride (op : EngineOp) : Nat := op.imm % 2 ^ 16
def EngineOp.dstStride (op : EngineOp) : Nat := op.imm / 2 ^ 16 % 2 ^ 16
def EngineOp.rows (op : EngineOp) : Nat := op.ctl 0
/-- K, or N. -/
def EngineOp.cols (op : EngineOp) : Nat := op.ctl 1
/-- min(V, M) (R215). -/
def EngineOp.valid (op : EngineOp) : Nat := min (op.ctl 2) (op.ctl 0)
def EngineOp.flags (op : EngineOp) : Nat := op.ctl 3
/-- BFMT, and the DFMT of `tcvt`. -/
def EngineOp.fmtB (op : EngineOp) : Nat := bits op.mod 11 7
def EngineOp.fmtC (op : EngineOp) : Nat := bits op.mod 6 5
def EngineOp.sat (op : EngineOp) : Bool := bit op.mod 3
def EngineOp.rnd (op : EngineOp) : Rnd := rndOf (op.mod % 8)
/-- FN of `tsfx` and `tred`. -/
def EngineOp.fn (op : EngineOp) : Nat := bits op.mod 11 9
/-- The destination format of `tsfx` exp2: code 0 means the source format. -/
def EngineOp.fmtD (op : EngineOp) : Nat := if bits op.mod 8 4 = 0 then op.ty else bits op.mod 8 4

def EngineOp.args (op : EngineOp) : TileArgs :=
  { ty := op.ty, bf := op.fmtB, cf := op.fmtC, sat := op.sat, rnd := op.rnd }

/-- The bytes of a C row. -/
def EngineOp.rowC (op : EngineOp) : Nat := 128 * elemBits op.args.cCode / 8

/-- The offset of the scales of an operand of `m` rows in a block-scaled format, and that of its sf4 output scales; and
the bytes from its cursor to its end (R219 Table 6). -/
def scaleAt (stride m : Nat) : Nat := 64 * stride * m
def outScaleAt (stride m k : Nat) : Nat := (scaleAt stride m + m * (k / 32) + 15) / 16 * 16
def rowsEnd (code stride m k : Nat) : Nat :=
  let rows := if m = 0 then 0 else 64 * stride * (m - 1) + rowBytes code k
  if isScaled code then
    max rows (if code = 25 then outScaleAt stride m k + 4 * m else scaleAt stride m + m * (k / 32))
  else rows

/-- The same for the panel B of `k` rows of 128 elements. -/
def panelScaleAt (code k : Nat) : Nat := k * rowBytes code 128
def panelOutAt (code k : Nat) : Nat := (panelScaleAt code k + 128 * (k / 32) + 15) / 16 * 16
def panelEnd (code k : Nat) : Nat :=
  if code = 25 then panelOutAt code k + 512
  else if isScaled code then panelScaleAt code k + 128 * (k / 32)
  else panelScaleAt code k

/-- What one operand of an engine operation must satisfy: its alignment, whether SPACE 0 is admitted, the bytes checked
from the cursor (none: no range, as the gathered operands of R226), and its permissions. -/
structure OperandUse where
  reg : QReg
  align : Nat
  space0 : Bool
  len : Option Nat
  perm : Nat
deriving DecidableEq, Repr

/-- An operand passes its capability check (R73, R214). -/
def OperandUse.ok (u : OperandUse) : Bool :=
  let r := u.reg
  r.cap && capKind r.bits == kindMemory && decide (capSpace r.bits ≤ 3) && (u.space0 || capSpace r.bits != 0) &&
    match u.len with
    | some n => capcheck r r.lo n u.perm
    | none => (capPerms r.bits &&& u.perm) == u.perm

def permRead : Nat := permPL + permPENG
def permWrite : Nat := permPS + permPENG

def tileUse (reg : QReg) (align : Nat) (len : Option Nat) (perm : Nat) : OperandUse :=
  { reg, align, space0 := false, len, perm }

/-- The operands of a tile operation in the order of the instruction's fields. -/
def EngineOp.tileUses (op : EngineOp) : List OperandUse :=
  let m := op.rows
  let k := op.cols
  let word := match op.w with
    | some w => [{ reg := w, align := 8, space0 := true, len := some 8, perm := permPA }]
    | none => []
  (match op.xop with
  | 0 =>
    [tileUse op.d 64 (some (64 * op.dstStride * (m - 1) + op.rowC)) (permRead + permPS),
     tileUse op.a 64 (some (rowsEnd op.ty op.srcStride m k)) permRead,
     tileUse op.b 64 (some (panelEnd op.fmtB k)) permRead]
  | 1 =>
    [tileUse op.d 64 none (permRead + permPS), tileUse op.a 64 none permRead,
     tileUse op.b 64 (some (panelEnd op.fmtB k)) permRead,
     tileUse op.ia 4 (some (4 * m)) permRead, tileUse op.ic 4 (some (4 * m)) permRead]
  | 2 =>
    let v := tileUse op.b 4 (some (4 * m)) (if op.fn = 0 then permRead else permRead + permPS)
    let src := tileUse op.a 64 (some (rowsEnd op.ty op.srcStride m k)) permRead
    if op.fn = 0 then [tileUse op.d 64 (some (rowsEnd op.fmtD op.dstStride m k)) permWrite, src, v] else [src, v]
  | 3 =>
    [tileUse op.d 4 (some (4 * k)) (permRead + permPS), tileUse op.a 64 (some (rowsEnd op.ty op.srcStride m k)) permRead]
  | 4 =>
    [tileUse op.d 64 (some (rowsEnd op.fmtB op.dstStride m k)) permWrite,
     tileUse op.a 64 (some (rowsEnd op.ty op.srcStride m k)) permRead]
  | 5 => [tileUse op.d 64 (some op.b.lo) permWrite]
  | _ => [tileUse op.d 64 (some 256) permWrite]) ++ word

/-- A stride below its row bytes; 0 is admitted for a source (R219). -/
def badStride (stride bytes : Nat) (source : Bool) : Bool := decide (64 * stride < bytes) && !(source && stride == 0)

/-- The A range and the C range of `tmm` overlap, both named in one SPACE of 1 to 3 (R221). -/
def EngineOp.rangesMeet (op : EngineOp) : Bool :=
  let a := op.a
  let c := op.d
  let al := rowsEnd op.ty op.srcStride op.rows op.cols
  let cl := 64 * op.dstStride * (op.rows - 1) + op.rowC
  decide (1 ≤ capSpace a.bits ∧ capSpace a.bits ≤ 3) && capSpace a.bits == capSpace c.bits && decide (a.lo < c.lo + cl) && decide (c.lo < a.lo + al)

/-- The format checks of a tile operation beside kinds and alignment (R215, R219, R221, R230 to R234). M and K of `tgmm` have
the limits of `tmm` (log 84). -/
def EngineOp.tileFormat (op : EngineOp) : Bool :=
  let m := op.rows
  let k := op.cols
  op.flags &&& 0xFFFFF030 == 0 && !op.f.cap && (op.f.tag == 3 || op.f.tag == 0) &&
  match op.xop with
  | 0 =>
    decide (1 ≤ m ∧ m ≤ 65535) && k % 32 == 0 && decide (32 ≤ k ∧ k ≤ 65536) &&
      !badStride op.srcStride (rowBytes op.ty k) true && !badStride op.dstStride op.rowC false && !op.rangesMeet
  | 1 =>
    decide (1 ≤ m ∧ m ≤ 65535) && k % 32 == 0 && decide (32 ≤ k ∧ k ≤ 65536) &&
      !badStride op.srcStride (rowBytes op.ty k) true && !badStride op.dstStride op.rowC false
  | 2 =>
    k % 16 == 0 && decide (16 ≤ k ∧ k ≤ 65536) && !badStride op.srcStride (rowBytes op.ty k) true &&
      (op.fn != 0 || !badStride op.dstStride (rowBytes op.fmtD k) false)
  | 3 => k % 16 == 0 && decide (16 ≤ k ∧ k ≤ 65536) && !badStride op.srcStride (rowBytes op.ty k) true
  | 4 =>
    k % 32 == 0 && !badStride op.srcStride (rowBytes op.ty k) true &&
      !badStride op.dstStride (rowBytes op.fmtB k) false
  | 5 => op.ctl 0 == 0 && k == 0 && op.ctl 2 == 0 && op.b.lo % 64 == 0 && decide (op.b.lo ≤ 2 ^ 32 - 64)
  | _ => op.ctl 0 == 0 && k == 0 && op.ctl 2 == 0

/-- The checks of R213 on a list of operands: kinds, alignment, then capability checks. -/
def checkUses (us : List OperandUse) : Option Trap :=
  if us.any fun u => !u.reg.cap then some (.format false 0)
  else match us.find? fun u => u.reg.lo % u.align != 0 with
    | some u => some (.format true u.reg.lo)
    | none => (us.find? fun u => !u.ok).map fun u => .capability u.reg.lo

/-- Every check of a tile operation but the translation of its completion word. -/
def EngineOp.tileCheck (op : EngineOp) : Option Trap :=
  if op.tileUses.any fun u => !u.reg.cap then some (.format false 0)
  else if !op.tileFormat then some (.format false 0)
  else checkUses op.tileUses

/-! ## The work of an engine (R222) -/

/-- The queue that an engine works for. -/
def modQueue (k : Nat) (f : Queue → Queue) : Eng Unit := modify fun s => s.setQueue k (f (s.queue k))

/-- Pause where the rows asked for have been done. -/
def pauseAt (k : Nat) (limit : Option Nat) : Eng Unit := do
  let s ← get
  match limit with
  | some n => if n ≤ (s.queue k).prog then throw .pause else pure ()
  | none => pure ()

/-- A block of decoded elements met a format error (R92, R93). -/
def noteFormat (k : Nat) (bad : Bool) : Eng Unit :=
  if bad then modQueue k fun q => { q with efmt := true } else pure ()

/-- Decode the elements of a row of `n` elements with its scale bytes, block by block. -/
def decodeRow (code n v : Nat) (scales : List Nat) : List (List Val) × Bool :=
  let bl := (List.range (n / 32)).map fun b =>
    blockVals code (patsOf (elemBits code) 32 (v / 2 ^ (elemBits code * 32 * b))) ((scales[b]?).getD 0)
  (bl.map (·.1), bl.any (·.2))

/-- An output scale of a row or column: that of an sf4 operand, which may be refused, else 1. -/
def outOf (code p : Nat) : Option Val := if code = 25 then outScale p else some (.num false 1 0 false)

/-- Row `i` of A, with the address of its C row. -/
def EngineOp.readRow (op : EngineOp) (i addr c : Nat) : Eng LoopRow := do
  let (code, stride, m, k) := (op.ty, op.srcStride, op.rows, op.cols)
  let elems ← op.readNum op.a addr (rowBytes code k)
  let scales ← if isScaled code then op.readNum op.a (op.a.lo + scaleAt stride m + i * (k / 32)) (k / 32) else pure 0
  let out ← if code = 25 then op.readNum op.a (op.a.lo + outScaleAt stride m k + 4 * i) 4 else pure 0
  pure { row := i, addr := c, elems, scales, out }

/-- The blocks of a row of A and its output scale; and whether it holds a format error. -/
def EngineOp.rowVals (op : EngineOp) (r : LoopRow) : (List (List Val) × Option Val) × Bool :=
  let (bl, bad) := decodeRow op.ty op.cols r.elems (patsOf 8 (op.cols / 32) r.scales)
  ((bl, outOf op.ty r.out), bad || (outOf op.ty r.out).isNone)

/-- For each column of the panel B its blocks along K and its output scale; and whether it holds a format error. -/
def EngineOp.panelVals (op : EngineOp) (x : LoopData) : List ((List (List Val) × Option Val) × Bool) :=
  (List.range 128).map fun j =>
    let bl := (List.range (op.cols / 32)).map fun b =>
      blockVals op.fmtB ((List.range 32).map fun i => lane ((x.panel[32 * b + i]?).getD 0) (elemBits op.fmtB) j)
        (lane ((x.scales[b]?).getD 0) 8 j)
    let o := outOf op.fmtB (lane x.outs 32 j)
    ((bl.map (·.1), o), bl.any (·.2) || o.isNone)

/-- The keys of the granules of a range of an operand, as far as they can be reached. -/
def EngineOp.peek (op : EngineOp) (s : State) (r : QReg) (a n : Nat) (right : Right) : List Nat :=
  (List.range ((a % 16 + n + 15) / 16)).filterMap fun i =>
    match (s.form op.ctx op.core (capSpace r.bits) ((a / 16 + i) * 16) right).1 with
    | .key k => some k
    | _ => none

/-- A or B of `tmm` shares bytes with C (R221): the rows of A and their scales, and the panel. -/
def EngineOp.sharesC (op : EngineOp) (s : State) : Bool :=
  let m := op.rows
  let c := (List.range m).flatMap fun i => op.peek s op.d (op.d.lo + 64 * op.dstStride * i) op.rowC .store
  let rows := (List.range m).flatMap fun i =>
    op.peek s op.a (op.a.lo + 64 * op.srcStride * i) (rowBytes op.ty op.cols) .load
  let first := scaleAt op.srcStride m
  let scales := if isScaled op.ty then
      op.peek s op.a (op.a.lo + first) (rowsEnd op.ty op.srcStride m op.cols - first) .load
    else []
  let ab := rows ++ scales ++ op.peek s op.b op.b.lo (panelEnd op.fmtB op.cols) .load
  ab.any fun k => c.contains k

/-- The addresses of A's row and of C's row for row `i` (R219, R226). -/
def EngineOp.rowAddrs (op : EngineOp) (i : Nat) : Eng (Nat × Nat) := do
  if op.xop = 1 then
    let ia ← op.readNum op.ia (op.ia.lo + 4 * i) 4
    let ic ← op.readNum op.ic (op.ic.lo + 4 * i) 4
    pure (wrap 64 (op.a.lo + 64 * op.srcStride * ia), wrap 64 (op.d.lo + 64 * op.dstStride * ic))
  else pure (op.a.lo + 64 * op.srcStride * i, op.d.lo + 64 * op.dstStride * i)

/-- A granule of a destination that the operation accumulates into: as it stood before, where a row that is not whole has
written it already (R223). -/
def EngineOp.oldGranule (op : EngineOp) (qk : Nat) (r : QReg) (a : Nat) : Eng Nat := do
  let g ← op.readGranule r a
  let s ← get
  match (s.queue qk).rowBuf.find? fun e => e.2.1 == a with
  | some e => pure e.2.2
  | none => pure g.1

/-- `n` bytes of such a destination. -/
def EngineOp.oldNum (op : EngineOp) (qk : Nat) (r : QReg) (a n : Nat) : Eng Nat := do
  let v ← (List.range ((a % 16 + n + 15) / 16)).foldlM (fun v i => do
    let g ← op.oldGranule qk r ((a / 16 + i) * 16)
    pure (v + g * 2 ^ (128 * i))) 0
  pure (v / 2 ^ (8 * (a % 16)) % 2 ^ (8 * n))

/-- A row of C: every element, or free values where A or B shares bytes with C. -/
def EngineOp.computeRow (op : EngineOp) (x : LoopData) (r : LoopRow) (old g : Nat) : Eng (Nat × Nat) := do
  let w := elemBits op.args.cCode
  if x.mixed then
    let s ← get
    let (v, s) := s.takeFree
    set s
    pure (v % 2 ^ (128 * w), g)
  else
    let panel := op.panelVals x
    let a := (op.rowVals r).1
    let (l, g) := eachCol (fun j g =>
      let col := ((panel[j]?).map (·.1)).getD ([], none)
      tileElem op.args a.1 col.1 a.2 col.2 (lane old w j) g) (List.range 128) g
    pure (packPats w l, g)

/-! ### Rows computed and rows written (R222, R223; 09 R202)

Rows are computed in ascending order, each of a group of rows that share granules of the destination with the others. A computed
granule waits in the queue's plan until it is written, once. -/

/-- Rows up to `hi` have been computed: the granules they write, and the generator after each. -/
def planned (qk hi : Nat) (ws : List EngineWrite) (gens : List Nat) : Eng Unit :=
  modQueue qk fun q => { q with plan := q.plan ++ ws, planEnd := hi, planGens := q.planGens ++ gens }

/-- The generator after the last row computed. -/
def Queue.lastGen (q : Queue) : Nat := (q.planGens.getLast?).getD q.gen.toNat

/-- A block of `tmm` or `tgmm` whose accumulation meets a residue mismatch is recomputed, and at a second one the operation ends
(R225); how many it meets is an input. -/
def EngineOp.checkBlock (op : EngineOp) (qk b : Nat) : Eng Unit := do
  let s ← get
  let n := if bit op.flags 1 then min 2 (s.arg.resid.count b) else 0
  if n = 0 then pure ()
  else
    set (loopUp n (fun _ s => { s with ras := { s.ras with resid := satInc 8 s.ras.resid } }) s)
    modQueue qk fun q => { q with recompute := true }
    if n = 2 then throw .residue else pure ()

/-- The K loop of block `b` (R222): the panel and the rows of A are read whole. -/
def EngineOp.readLoop (op : EngineOp) (qk b : Nat) : Eng LoopData := do
  let s ← get
  let mixed := op.xop == 0 && op.sharesC s
  let (code, k) := (op.fmtB, op.cols)
  let panel ← (List.range k).mapM fun i => op.readNum op.b (op.b.lo + i * rowBytes code 128) (rowBytes code 128)
  let scales ← if isScaled code then
      (List.range (k / 32)).mapM fun i => op.readNum op.b (op.b.lo + panelScaleAt code k + 128 * i) 128
    else pure []
  let outs ← if code = 25 then op.readNum op.b (op.b.lo + panelOutAt code k) 512 else pure 0
  let rows ← (List.range (min (128 * b + 128) op.valid - 128 * b)).mapM fun j => do
    let i := 128 * b + j
    let (aa, ca) ← op.rowAddrs i
    if op.xop = 1 then needCap op.a aa (rowBytes op.ty op.cols) permRead
    op.readRow i aa ca
  let x : LoopData := { block := b, mixed, panel, scales, outs, rows }
  noteFormat qk ((op.panelVals x).any (·.2) || rows.any fun r => (op.rowVals r).2)
  op.checkBlock qk b
  modQueue qk fun q => { q with loop := some x }
  pure x

/-- The K loop of block `b`, read before any row of the block is computed. -/
def EngineOp.blockLoop (op : EngineOp) (qk b : Nat) : Eng LoopData := do
  let s ← get
  match (s.queue qk).loop with
  | some x => if x.block = b then pure x else op.readLoop qk b
  | none => op.readLoop qk b

/-- Row `i` of `tmm` or `tgmm` is computed. Of the rows of a block that name one C row only the highest is written, and so each
of them reads it as it stood before the block (R226); the others draw as well (log 85). -/
def EngineOp.mulRow (op : EngineOp) (qk i : Nat) : Eng Unit := do
  let x ← op.blockLoop qk (i / 128)
  let r := (x.rows[i % 128]?).getD { row := i, addr := 0, elems := 0, scales := 0, out := 0 }
  if op.xop = 1 then needCap op.d r.addr op.rowC (permRead + permPS)
  let old ← op.oldNum qk op.d r.addr op.rowC
  let s ← get
  let (v, g) ← op.computeRow x r old (s.queue qk).lastGen
  let lost := x.rows.any fun y => decide (i < y.row) && y.addr == r.addr
  planned qk (i + 1) (if lost then [] else granuleWrites i op.d r.addr op.rowC v (some old)) [g]

/-- The elements of row `i` of a source of N elements, as exact values. -/
def EngineOp.srcVals (op : EngineOp) (i : Nat) : Eng (List Val) := do
  let v ← op.readNum op.a (op.a.lo + 64 * op.srcStride * i) (rowBytes op.ty op.cols)
  pure ((patsOf (elemBits op.ty) op.cols v).map (elemVal op.ty))

/-- The f32 pattern of an exact value of f32, f16 or bf16. -/
def asF32 (v : Val) : Nat := roundFloat (floatFmt 9) .rne false false 0 v

/-- The rows of `tsfx` from row `i` on whose values V shares a granule. -/
def EngineOp.sfxEnd (op : EngineOp) (i : Nat) : Nat :=
  min op.valid (if op.fn = 0 then i + 1 else (((op.b.lo + 4 * i) / 16 + 1) * 16 - op.b.lo + 3) / 4)

/-- Row `i` of `tsfx` (R230), from the generator `g`: what it writes, and the generator after it. -/
def EngineOp.sfxRow (op : EngineOp) (qk i g : Nat) : Eng (List EngineWrite × Nat) := do
  let vals ← op.srcVals i
  let va := op.b.lo + 4 * i
  if op.fn = 0 then
    let v ← op.readNum op.b va 4
    let (l, g) := eachCol (fun j g =>
      let x := sumVals [(vals[j]?).getD .nan, (floatVal (floatFmt 9) v).neg] false
      let (rb, g) := drawBits op.rnd g
      (exp2Round (floatFmt op.fmtD) op.rnd false op.sat rb x, g)) (List.range op.cols) g
    pure (granuleWrites i op.d (op.d.lo + 64 * op.dstStride * i) (rowBytes op.fmtD op.cols) (packPats (elemBits op.fmtD) l) none, g)
  else
    let v ← op.oldNum qk op.b va 4
    let r := if op.fn = 1 then vals.foldl (fun x y => fminPat true (floatFmt 9) x (asF32 y)) v
      else asF32 (sumVals (floatVal (floatFmt 9) v :: vals) false)
    pure (granuleWrites i op.b va 4 r (some v), g)

/-- Row `i` of `tcvt` (R232), from the generator `g`: what it writes, and the generator after it. -/
def EngineOp.cvtRow (op : EngineOp) (i g : Nat) : Eng (List EngineWrite × Nat) := do
  let vals ← op.srcVals i
  let df := op.fmtB
  let n := op.cols
  let elems (l : List Nat) := granuleWrites i op.d (op.d.lo + 64 * op.dstStride * i) (rowBytes df n) (packPats (elemBits df) l) none
  if isScaled df || isOx df then
    let s ← get
    let blocks := (List.range (n / 32)).map fun b => (vals.drop (32 * b)).take 32
    let (v, s) := if df = 26 then s.takeFree else (0, s)
    set s
    let r := if df = 25 then sf4Row vals else 0
    let scale (l : List Val) (b : Nat) : Nat :=
      if df = 25 then sf4Block l r else if df = 26 then oxScale l (v / 256 ^ b) else if isScaled df then mxScale df l else 0
    let scales := blocks.mapIdx fun b l => scale l b
    let enc (acc : List Nat × Nat) (x : List Val × Nat) : List Nat × Nat :=
      let sv := if df = 25 then (sf4Scale x.2).mul (floatVal (floatFmt 9) r) else scaleVal df x.2
      let (l, g) := encodeBlock df op.rnd sv x.1 acc.2
      (acc.1 ++ l, g)
    let (l, g) := (blocks.zip scales).foldl enc ([], g)
    let sc := if isScaled df then
        granuleWrites i op.d (op.d.lo + scaleAt op.dstStride op.rows + i * (n / 32)) (n / 32) (packPats 8 scales) none else []
    let o := if df = 25 then granuleWrites i op.d (op.d.lo + outScaleAt op.dstStride op.rows n + 4 * i) 4 r none else []
    pure (elems l ++ sc ++ o, g)
  else
    let exact := exactPair op.ty df
    let (l, g) := eachCol (fun j g =>
      let (rb, g) := if exact then (0, g) else drawBits op.rnd g
      (roundTo df op.rnd op.sat false rb ((vals[j]?).getD .nan), g)) (List.range n) g
    pure (elems l, g)

/-- The end of the group of rows of which row `i` is the first: rows whose scales, or whose values of V, share granules are
computed together. -/
def EngineOp.groupEnd (op : EngineOp) (i : Nat) : Nat :=
  if op.xop = 2 then op.sfxEnd i
  else if isScaled op.fmtB then min op.valid ((i / 128 + 1) * 128) else min op.valid (i + 1)

/-- The rows from `lo` up to the end of their group are computed. -/
def EngineOp.rowGroup (op : EngineOp) (qk lo : Nat) : Eng Unit := do
  let s ← get
  let hi := op.groupEnd lo
  let (ws, gens) ← (List.range (hi - lo)).foldlM (fun acc j => do
    let g := (acc.2.getLast?).getD (s.queue qk).lastGen
    let (w, g) ← if op.xop = 2 then op.sfxRow qk (lo + j) g else op.cvtRow (lo + j) g
    pure (acc.1 ++ w, acc.2 ++ [g])) (([], []) : List EngineWrite × List Nat)
  planned qk hi (joinWrites ws) gens

/-- One column of `tred` (R231): D and the column's elements; D unchanged where there are none. -/
def EngineOp.redColumn (op : EngineOp) (d : Nat) (col : List Nat) : Nat :=
  if col.isEmpty then d
  else if op.ty = 9 then
    match op.fn with
    | 0 => asF32 (sumVals ((d :: col).map (floatVal (floatFmt 9))) false)
    | n => col.foldl (fminPat (n == 1) (floatFmt 9)) d
  else
    match op.fn with
    | 0 =>
      let v := (d :: col).foldl (fun x p => x + signed 32 p) 0
      wrap 32 (if op.sat then clampFmt 3 v else v)
    | 1 => col.foldl (fun x y => if signed 32 x ≤ signed 32 y then y else x) d
    | _ => col.foldl (fun x y => if signed 32 x ≤ signed 32 y then x else y) d

/-- `tred` is computed: every row is read first. -/
def EngineOp.planRed (op : EngineOp) (qk : Nat) : Eng Unit := do
  let n := op.cols
  let d ← op.oldNum qk op.d op.d.lo (4 * n)
  let rows ← (List.range op.valid).mapM fun i => op.readNum op.a (op.a.lo + 64 * op.srcStride * i) (4 * n)
  let l := (List.range n).map fun j => op.redColumn (lane d 32 j) (rows.map fun r => lane r 32 j)
  planned qk 1 (granuleWrites 0 op.d op.d.lo (4 * n) (packPats 32 l) (some d)) []

/-- Take the route counters and clear them, in one step, once (R228). -/
def takeRoutes (qk : Nat) : Eng Nat := do
  let s ← get
  match (s.queue qk).rowBuf with
  | e :: _ => pure e.2.2
  | [] =>
    let g := s.grove (keyGrove qk)
    let v := packPats 32 ((List.range 64).map fun i => Store.get 0 g.routes i)
    set (s.setGrove (keyGrove qk) { g with routes := [] })
    modQueue qk fun q => { q with rowBuf := [(0, 0, v)] }
    pure v

/-- `rcsnap` is computed: the counters are taken (R228). -/
def EngineOp.planSnap (op : EngineOp) (qk : Nat) : Eng Unit := do
  let v ← takeRoutes qk
  planned qk 1 (granuleWrites 0 op.d op.d.lo 256 v none) []

/-- An operation is worked row by row. -/
def EngineOp.hasRows (op : EngineOp) : Bool := op.xop ≤ 2 || op.xop == 4

/-- Compute the next rows, and forget what has been read of peer packages for them. -/
def EngineOp.planNext (op : EngineOp) (qk : Nat) : Eng Unit := do
  let s ← get
  let i := (s.queue qk).planEnd
  match op.xop with
  | 0 | 1 => op.mulRow qk i
  | 2 | 4 => op.rowGroup qk i
  | 3 => op.planRed qk
  | _ => op.planSnap qk
  op.dropFar fun p => !p.write

/-- Write a computed granule. One that the operation accumulates into is kept as it stood until its row is whole. -/
def EngineOp.writePlanned (op : EngineOp) (qk : Nat) (w : EngineWrite) : Eng Unit := do
  op.writeGranule w.reg w.addr w.v w.mask false
  modQueue qk fun q =>
    { q with plan := q.plan.filter (· != w)
             rowBuf := match w.old with
               | some g => (q.rowBuf.filter fun e => e.2.1 != w.addr) ++ [(w.row, w.addr, g)]
               | none => q.rowBuf }

/-- Row `i` is written whole, and counted. -/
def rowDone (qk i : Nat) : Eng Unit :=
  modQueue qk fun q =>
    { q with prog := i + 1, gen := BitVec.ofNat 64 ((q.planGens.head?).getD q.gen.toNat), planGens := q.planGens.drop 1
             planEnd := max q.planEnd (i + 1), rowBuf := q.rowBuf.filter fun e => i < e.1 }

/-- The granules of row `i` that are computed are written in ascending order. -/
def EngineOp.writeRow (op : EngineOp) (qk i : Nat) : Eng Unit := do
  let s ← get
  ((s.queue qk).plan.filter fun w => w.row == i).forM (op.writePlanned qk)

/-- Rows one after another, each counted when it is written; a row at or above V is counted when its turn passes (R222). -/
def EngineOp.runRows (op : EngineOp) (qk : Nat) (limit : Option Nat) : Eng Unit := do
  let s ← get
  let lo := (s.queue qk).prog
  (List.range (op.valid - lo)).forM fun j => do
    pauseAt qk limit
    let s ← get
    if (s.queue qk).planEnd ≤ lo + j then op.planNext qk
    op.writeRow qk (lo + j)
    rowDone qk (lo + j)
  pauseAt qk limit
  modQueue qk fun q => { q with prog := max q.prog (match limit with | some n => min n op.rows | none => op.rows) }
  let s ← get
  if (s.queue qk).prog < op.rows then throw .pause else pure ()

/-- An operation that is computed at once: its granules, and then it is whole. -/
def EngineOp.runOnce (op : EngineOp) (qk : Nat) (limit : Option Nat) : Eng Unit := do
  let s ← get
  if (s.queue qk).planEnd = 0 then op.planNext qk
  if limit.isSome then throw .pause
  op.writeRow qk 0
  if op.xop = 3 then modQueue qk fun q => { q with prog := op.rows } else pure ()

/-- Granule `p` bytes from the start of `tzero` is written; the progress point of `tzero` is `planEnd`, since it has no rows. -/
def EngineOp.zeroGranule (op : EngineOp) (p : Nat) : Eng Unit := op.writeGranule op.d (op.d.lo + p) 0 0xFFFFFFFF false

/-- `tzero` from its progress point on (R234): what stands written ahead of it is not written again. -/
def EngineOp.runZero (op : EngineOp) (qk : Nat) (limit : Option Nat) : Eng Unit := do
  let s ← get
  if limit.isSome then throw .pause
  let lo := (s.queue qk).planEnd
  (List.range ((op.b.lo - lo) / 16)).forM fun i => do
    let p := lo + 16 * i
    if (s.queue qk).ahead.contains p then pure () else op.zeroGranule p
    modQueue qk fun q => { q with planEnd := p + 16 }

/-- The work of a tile operation from its progress on, up to `limit` rows. -/
def EngineOp.runTile (op : EngineOp) (qk : Nat) (limit : Option Nat) : Eng Unit :=
  match op.xop with
  | 0 | 1 | 2 | 4 => op.runRows qk limit
  | 5 => op.runZero qk limit
  | _ => op.runOnce qk limit

/-- Compute up to `n` more rows of the block in work, until one of the granules to be written has key `key`. -/
def EngineOp.planTo (op : EngineOp) (qk key : Nat) : Nat → Eng (Option EngineWrite)
  | 0 => pure none
  | n + 1 => do
    let s ← get
    let q := s.queue qk
    match q.plan.find? fun w => op.keyAt s w.reg w.addr .store == some key with
    | some w => pure (some w)
    | none =>
      if op.hasRows && decide (min op.valid ((q.prog / 128 + 1) * 128) ≤ q.planEnd) || !op.hasRows && q.planEnd != 0 then pure none
      else
        op.planNext qk
        EngineOp.planTo op qk key n

/-- One granule of a tile operation is written ahead of the others, at the free choice of an input (09 R202). -/
def EngineOp.tileAhead (op : EngineOp) (qk key : Nat) : Eng Unit := do
  if op.xop = 5 then
    let s ← get
    match (List.range (op.b.lo / 16)).find? fun i => op.keyAt s op.d (op.d.lo + 16 * i) .store == some key with
    | some i =>
      if 16 * i < (s.queue qk).planEnd || (s.queue qk).ahead.contains (16 * i) then pure ()
      else
        op.zeroGranule (16 * i)
        modQueue qk fun q => { q with ahead := q.ahead ++ [16 * i] }
    | none => pure ()
  else
    match ← op.planTo qk key 130 with
    | some w => op.writePlanned qk w
    | none => pure ()

/-- The route add of a whole `tgmm.route` (R227). -/
def State.routeAdd (s : State) (qk : Nat) (op : EngineOp) : State :=
  if op.xop = 1 && bit op.mod 4 && (match op.kind with | .tile _ => true | _ => false) then
    let g := s.grove (keyGrove qk)
    let e := bits op.flags 11 6
    s.setGrove (keyGrove qk) { g with routes := Store.put 0 g.routes e (min 0xFFFFFFFF (Store.get 0 g.routes e + op.valid)) }
  else s

/-- The generator of a tile operation at its start (05 R90). -/
def State.opGen (s : State) (op : EngineOp) : Nat := mix ((s.ctx op.ctx).regs.seed ^^^ op.gtid.toNat)

/-! ## Issuing (R213) -/

/-- Translate the completion word of an operation at issue; one on a page that is being moved waits (22 R367). -/
def State.withWord (s : State) (t : Thread) (op : EngineOp) (go : State → State) : State :=
  match op.w with
  | none => go s
  | some w =>
    match (op.wordKey w).run.run s with
    | (.ok _, s) => go s
    | (.error (.translation c a), s) => s.trap (.translation c a)
    | (.error (.violation 9 a), s) => s.trap (.protection a)
    | (.error .pause, s) => s.retry t (if s.moving t.ctx w.lo then .pageMove w.lo else .walk (slotGrove s.cur) w.lo)
    | (.error _, s) => s.trap (.capability w.lo)

/-- Enqueue an operation of the issuing thread: a full queue or a counter at 255 forfeits the turn. -/
def State.enqueue (s : State) (t : Thread) (e : Fields) (code : Nat) (op : EngineOp) : State :=
  let k := queueKey t.ctx (slotGrove s.cur) code
  let n := if code ≤ 4 then t.tl else t.cp
  if queueDepth code ≤ (s.queue k).ops.length || 255 ≤ n then s.forfeit t false
  else
    let t := if code ≤ 4 then { t with tl := t.tl + 1 } else { t with cp := t.cp + 1 }
    (s.put (t.next e)).appendOp k op

/-- The register `n` places after fc in the control group (R216). -/
def Thread.group (t : Thread) (e : Fields) (n : Nat) : QReg := t.reg (BitVec.ofNat 5 ((e.c.toNat + n) % 32))

/-- Lane 0 of fb where it is data, or the literal, as data; a register of another tag or kind stays as it is. -/
def Thread.fbData (t : Thread) (e : Fields) : QReg := if e.hasLit then data64 e.lit.toNat 0 else t.reg e.b

/-- The operation a tile instruction issues. -/
def State.tileOp (s : State) (t : Thread) (e : Fields) : EngineOp :=
  let f := t.reg e.c
  { kind := .tile e.xop.toNat, gtid := t.gtid, isTask := false, ty := e.ty.toNat, mod := e.mod.toNat, imm := e.imm.toNat
    d := t.reg e.d, a := t.reg e.a, b := t.fbData e, f
    w := if bit (lane f.bits.toNat 32 3) 0 then some (t.group e 1) else none
    ia := t.group e 2, ic := t.group e 3, core := slotCore s.cur, serial := 0, queue := 0 }

/-- Issue a queued tile instruction. -/
def State.tileInstr (s : State) (e : Fields) : Result :=
  s.scalar e fun t =>
    let op := s.tileOp t e
    if op.xop = 5 && !op.b.isInt then s.trap (.format false 0)
    else match op.tileCheck with
      | some x => s.trap x
      | none => s.withWord t op fun s => s.enqueue t e (bits op.flags 3 2) op

/-- TMM (R220, R221). -/
def execTmm (e : Fields) (s : State) : Result := s.tileInstr e
/-- TGMM (R226). -/
def execTgmm (e : Fields) (s : State) : Result := s.tileInstr e
/-- TSFX (R230). -/
def execTsfx (e : Fields) (s : State) : Result := s.tileInstr e
/-- TRED (R231). -/
def execTred (e : Fields) (s : State) : Result := s.tileInstr e
/-- TCVT (R232). -/
def execTcvt (e : Fields) (s : State) : Result := s.tileInstr e
/-- TZERO (R234). -/
def execTzero (e : Fields) (s : State) : Result := s.tileInstr e
/-- RCSNAP (R228). -/
def execRcsnap (e : Fields) (s : State) : Result := s.tileInstr e

/-- RCREAD (R229). -/
def execRcread (e : Fields) (s : State) : Result :=
  s.scalar e fun t =>
    match t.intB e with
    | none => s.trap (.format false 0)
    | some n => s.finish t e (data64 (Store.get 0 (s.grove (slotGrove s.cur)).routes (n % 64)) 4)

/-- TSTAT (R235). -/
def execTstat (e : Fields) (s : State) : Result :=
  s.scalar e fun t =>
    match t.intB e with
    | none => s.trap (.format false 0)
    | some n =>
      if 4 < n then s.trap (.format false 0)
      else
        let k := queueKey t.ctx (slotGrove s.cur) n
        let v := lanes64 (s.queueStatus k) (s.queueProgress k) 0
        let s := if e.mod.getLsbD 0 then s.setQueue k { s.queue k with efmt := false } else s
        s.finish t e v

end Sys2Proof.Machine
end

