-- ==== Sys2Proof/Machine/Copy.lean ====
section
/-!
DEFINITION. Copies, joins and queue status (spec/11 R237 to R239, spec/09 R204 to R206, spec/15 R284, R286): escape 0x71.
-/
namespace Sys2Proof.Machine

/-! ## Operands (R237, R238) -/

/-- A geometry names the rows of the operation. -/
def EngineOp.hasGeometry (op : EngineOp) : Bool := op.xop == 1 || op.xop == 2

/-- The bytes of a row: the length, or lane 0 of the geometry. -/
def EngineOp.rowLen (op : EngineOp) : Nat := if op.hasGeometry then op.ctl 0 else op.b.lo
def EngineOp.rowCount (op : EngineOp) : Nat := if op.hasGeometry then op.ctl 1 else 1
def EngineOp.srcStep (op : EngineOp) : Nat := if op.hasGeometry then op.ctl 2 else 0
def EngineOp.dstStep (op : EngineOp) : Nat := if op.hasGeometry then op.ctl 3 else 0

/-- The bytes an operation copies. -/
def EngineOp.copyBytes (op : EngineOp) : Nat := op.rowLen * op.rowCount

/-- The bytes from a cursor to the end of the last row. -/
def EngineOp.copySpan (op : EngineOp) (step : Nat) : Nat :=
  if op.copyBytes = 0 then 0 else (op.rowCount - 1) * step + op.rowLen

/-- The length or the geometry is well formed. -/
def EngineOp.copyFormat (op : EngineOp) : Bool :=
  if op.hasGeometry then
    !op.f.cap && (op.f.tag == 3 || op.f.tag == 0) && op.rowLen != 0 && op.rowLen % 16 == 0 && op.srcStep % 16 == 0 &&
      op.dstStep % 16 == 0 && !(decide (1 < op.rowCount) && decide (op.dstStep < op.rowLen))
  else op.b.isInt && op.b.lo % 16 == 0 && decide (op.b.lo ≤ 2 ^ 32)

/-- The operands of a copy in the order of the instruction's fields. -/
def EngineOp.copyUses (op : EngineOp) : List OperandUse :=
  let use (reg : QReg) (align : Nat) (len : Option Nat) (perm : Nat) : OperandUse := { reg, align, space0 := true, len, perm }
  [use op.d 16 (some (op.copySpan op.dstStep)) permWrite] ++
    (match op.xop with
     | 3 => []
     | 2 => [use op.a 16 none permRead, use op.ic 4 (some (4 * op.rowCount)) permRead]
     | _ => [use op.a 16 (some (op.copySpan op.srcStep)) permRead]) ++
    (match op.w with | some w => [use w 8 (some 8) permPA] | none => [])

/-- A handle names a copy queue of the issuing context in the issuing grove (R237): its code. -/
def handleCode (r : QReg) (c g : Nat) : Option Nat :=
  let q := r.lo
  if capKind r.bits == kindQueue && q / 2 ^ 52 == c && bits q 51 44 == g && bits q 43 5 == 0 && bit q 3 && !bit q 4 then
    some (q % 32)
  else none

/-- Every check of a copy but the translation of its completion word; the code of its queue. -/
def EngineOp.copyCheck (op : EngineOp) (h : Option QReg) (c g : Nat) : Except Trap Nat :=
  if (op.copyUses.any fun u => !u.reg.cap) || (match h with | some r => !r.cap | none => false) ||
      (op.xop == 3 && op.a.cap) || !op.copyFormat then .error (.format false 0)
  else match op.copyUses.find? fun u => u.reg.lo % u.align != 0 with
    | some u => .error (.format true u.reg.lo)
    | none =>
      match checkUses op.copyUses, h with
      | some x, _ => .error x
      | none, none => .ok 8
      | none, some r => match handleCode r c g with
        | some k => .ok k
        | none => .error (.capability r.lo)

/-! ## The work of a skidder (R239) -/

/-- The row and the byte in it of progress point `p`. -/
def EngineOp.rowAt (op : EngineOp) (p : Nat) : Nat × Nat := (p / op.rowLen, p % op.rowLen)

/-- The address of the source row `i`; a gathered row is found by its index and checked when it is used. -/
def EngineOp.srcRow (op : EngineOp) (i : Nat) : Eng Nat := do
  if op.xop = 2 then
    let ix ← op.readNum op.ic (op.ic.lo + 4 * i) 4
    let a := wrap 64 (op.a.lo + ix * op.srcStep)
    needCap op.a a op.rowLen permRead
    pure a
  else pure (op.a.lo + i * op.srcStep)

/-- The source address of progress point `p`. -/
def EngineOp.srcAt (op : EngineOp) (p : Nat) : Eng Nat := do
  let (i, off) := op.rowAt p
  let a ← op.srcRow i
  pure (a + off)

/-- The destination address of progress point `p`. -/
def EngineOp.dstAt (op : EngineOp) (p : Nat) : Nat := op.d.lo + (op.rowAt p).1 * op.dstStep + (op.rowAt p).2

/-- Where a granule lies: its key where it can be reached, and its space and address. -/
abbrev Place := Option Nat × Nat × Nat

/-- The place of an address of an operand. -/
def EngineOp.place (op : EngineOp) (s : State) (r : QReg) (a : Nat) (right : Right) : Place :=
  (op.keyAt s r a right, capSpace r.bits, a)

/-- The places of the source granules, none where a row cannot be found, and of the destination granules. -/
def EngineOp.srcPlaces (op : EngineOp) (s : State) : List (Option Place) :=
  (List.range (op.copyBytes / 16)).map fun i =>
    match ((op.srcAt (16 * i)).run.run s).1 with
    | .ok a => some (op.place s op.a a .load)
    | .error _ => none
def EngineOp.dstPlaces (op : EngineOp) (s : State) : List Place :=
  (List.range (op.copyBytes / 16)).map fun i => op.place s op.d (op.dstAt (16 * i)) .store

/-- Two places are one granule: by their keys, or by their addresses. -/
def Place.same (a b : Place) : Bool := (a.1.isSome && a.1 == b.1) || a.2 == b.2

/-- A granule with its tag bit, and 0, or 1 or 2 where its first or its second word holds an uncorrectable error. -/
def State.granuleAt (s : State) (k : Nat) : Nat × Bool × Nat :=
  (s.readNum k 16, s.hasTag k, if s.poisoned k then 1 else if s.poisoned (k + 8) then 2 else 0)

/-- A copy whose source and destination share a granule keeps its source as it stood at the start, errors included (09 R205); a
granule that cannot be reached then is kept from when it can (R204). -/
def EngineOp.snapshot (op : EngineOp) (s : State) (old : Option (List (Option (Nat × Bool × Nat)))) :
    Option (List (Option (Nat × Bool × Nat))) :=
  if op.xop = 3 then none
  else
    let src := op.srcPlaces s
    let now := src.map fun p => ((p.bind (·.1)).filter s.isLocal).map s.granuleAt
    match old with
    | some l => some ((l.zip now).map fun x => x.1.or x.2)
    | none =>
      let d := op.dstPlaces s
      if src.any fun p => match p with | some p => d.any p.same | none => false then some now else none

/-- A kept granule of address `a`; an uncorrectable error in it is met now. -/
def takeKept (a : Nat) (x : Nat × Bool × Nat) : Eng Granule :=
  match x.2.2 with
  | 0 => pure (x.1, x.2.1)
  | w + 1 => throw (.data (a + 8 * w))

/-- The granule that a copy takes for progress point `p`. Where it overlaps itself within a scratchpad level it is the
source as it stood when the copy began; in HBM and the CXL tiers it is what some source granule held then or holds now,
a free choice (R204). -/
def EngineOp.sourceGranule (op : EngineOp) (qk p : Nat) : Eng Granule := do
  if op.xop = 3 then pure (op.a.bits.toNat, false)
  else
    let a ← op.srcAt p
    let s ← get
    match (s.queue qk).snap with
    | none => op.readGranule op.a a
    | some l =>
      let k ← op.key op.a a .load
      let kept (j b : Nat) : Eng Granule :=
        match (l[j]?).join with
        | some x => takeKept b x
        | none => op.readGranule op.a b
      if keyHasFull k then kept (p / 16) a
      else
        let (v, s) := (← get).takeFree
        set s
        let j := v / 2 % (op.copyBytes / 16)
        let b ← op.srcAt (16 * j)
        if v % 2 = 0 then kept j b else op.readGranule op.a b

/-- A granule's capability tag bit is carried (04 R74). -/
def EngineOp.carries (op : EngineOp) : Bool :=
  op.xop != 3 && (capPerms op.a.bits &&& permPLC) != 0 && (capPerms op.d.bits &&& permPSC) != 0

/-- The granule at offset `p` of a copy is taken and written. -/
def EngineOp.copyGranule (op : EngineOp) (qk p : Nat) : Eng Unit := do
  let g ← op.sourceGranule qk p
  op.writeGranule op.d (op.dstAt p) g.1 0xFFFFFFFF (g.2 && op.carries)
  op.dropFar fun _ => true

/-- The source of a copy that overlaps itself is kept. -/
def EngineOp.keepSource (op : EngineOp) (qk : Nat) : Eng Unit := do
  let s ← get
  modQueue qk fun q => { q with snap := op.snapshot s q.snap }

/-- A copy from its progress point on, up to `limit` bytes (R239). A granule that has been written ahead of the progress point is not
written again (09 R192). -/
def EngineOp.runCopy (op : EngineOp) (qk : Nat) (limit : Option Nat) : Eng Unit := do
  let s ← get
  let q := s.queue qk
  op.keepSource qk
  (List.range ((op.copyBytes - q.prog) / 16)).forM fun i => do
    let p := q.prog + 16 * i
    pauseAt qk limit
    if q.ahead.contains p then pure () else op.copyGranule qk p
    modQueue qk fun q => { q with prog := p + 16 }

/-- One granule of a copy is written ahead of the others, at the free choice of an input (09 R202). -/
def EngineOp.copyAhead (op : EngineOp) (qk key : Nat) : Eng Unit := do
  let s ← get
  let q := s.queue qk
  op.keepSource qk
  match (List.range (op.copyBytes / 16)).find? fun i => op.keyAt s op.d (op.dstAt (16 * i)) .store == some key with
  | some i =>
    if 16 * i < q.prog || q.ahead.contains (16 * i) then pure ()
    else
      op.copyGranule qk (16 * i)
      modQueue qk fun q => { q with ahead := q.ahead ++ [16 * i] }
  | none => pure ()

/-! ## Issuing -/

/-- The operation a copy instruction issues. -/
def State.copyOp (s : State) (t : Thread) (e : Fields) : EngineOp :=
  let x := e.xop.toNat
  { kind := .copy x, gtid := t.gtid, isTask := false, ty := 0, mod := e.mod.toNat, imm := e.imm.toNat, d := t.reg e.d
    a := t.reg e.a, b := t.fbData e, f := t.fbData e
    w := if e.mod.getLsbD 0 then some (t.reg (BitVec.ofNat 5 (e.imm.toNat % 32))) else none
    ia := QReg.zero, ic := t.reg e.c, core := slotCore s.cur, serial := 0, queue := 0 }

/-- Issue a copy instruction; a literal has no geometry. -/
def State.copyInstr (s : State) (e : Fields) : Result :=
  s.scalar e fun t =>
    let op := s.copyOp t e
    let h := if e.mod.getLsbD 1 then some (t.reg (BitVec.ofNat 5 (e.imm.toNat / 32 % 32))) else none
    if op.hasGeometry && e.hasLit then s.trap (.format false 0)
    else match op.copyCheck h t.ctx (slotGrove s.cur) with
      | .error x => s.trap x
      | .ok code => s.withWord t op fun s => s.enqueue t e code op

/-- CPY (R238). -/
def execCpy (e : Fields) (s : State) : Result := s.copyInstr e
/-- CPY2 (R238). -/
def execCpy2 (e : Fields) (s : State) : Result := s.copyInstr e
/-- CPYG (R238). -/
def execCpyg (e : Fields) (s : State) : Result := s.copyInstr e
/-- CFILL (R238). -/
def execCfill (e : Fields) (s : State) : Result := s.copyInstr e

/-- The join points of a mask (R284): for each named queue but `jq`, the entries ever appended to it before this cycle, so that of
two joins of one cycle neither waits for the other (R285). -/
def State.joinPoints (s : State) (c g jq mask : Nat) : List (Nat × Nat) :=
  ((List.range 16).filter fun i => bit mask i && i != jq).map fun i => (i, s.appendedBefore (queueKey c g i))

/-- QJOIN (R284). -/
def execQjoin (e : Fields) (s : State) : Result :=
  s.scalar e fun t =>
    let jq := bits e.imm.toNat 20 16
    let mask := bits e.imm.toNat 15 0
    if !(jq ≤ 3 || (8 ≤ jq && jq ≤ 15)) || bits mask 7 5 != 0 then s.trap (.format false 0)
    else
      let op : EngineOp :=
        { kind := .join (s.joinPoints t.ctx (slotGrove s.cur) jq mask), gtid := t.gtid, isTask := false, ty := 0, mod := 0
          imm := e.imm.toNat, d := QReg.zero, a := QReg.zero, b := QReg.zero, f := QReg.zero, w := none, ia := QReg.zero
          ic := QReg.zero, core := slotCore s.cur, serial := 0, queue := 0 }
      s.enqueue t e jq op

/-! ## Status and handles (R286) -/

/-- A selector of `qstat`. -/
def queueSelOk (n : Nat) : Bool := n ≤ 4 || (8 ≤ n && n ≤ 15)

/-- The thread's own scratch capability. -/
def QReg.ownScratch (r : QReg) : Bool :=
  r.cap && capKind r.bits == kindMemory && capSpace r.bits == 0 && bit r.lo 51

/-- A queue handle. -/
def queueHandle (k : Nat) : QReg := ⟨BitVec.ofNat 128 (0x0083000000000000 * 2 ^ 64 + queueId k), true, 27⟩

/-- `qstat` without HANDLE: the status of a queue of the context in the thread's grove. -/
def State.qstatPlain (s : State) (e : Fields) : Result :=
  s.scalar e fun t =>
    match t.intB e with
    | none => s.trap (.format false 0)
    | some n =>
      if !queueSelOk n then s.trap (.format false 0)
      else
        let k := queueKey t.ctx (slotGrove s.cur) n
        s.finish t e (lanes64 (s.queueStatus k) (s.queueProgress k) 0)

/-- `qstat.handle`. -/
def State.qstatHandle (s : State) (e : Fields) : Result :=
  s.scalar e fun t =>
    match t.intB e with
    | none => s.trap (.format false 0)
    | some n =>
      if !queueSelOk n then s.trap (.format false 0)
      else if !(t.reg e.a).ownScratch then s.trap (.capability (t.reg e.a).lo)
      else s.finish t e (queueHandle (queueKey t.ctx (slotGrove s.cur) n))

/-- QSTAT (R286): words with HANDLE give a queue handle. -/
def execQstat (e : Fields) (s : State) : Result := if e.mod.getLsbD 0 then s.qstatHandle e else s.qstatPlain e

/-- QSTAT_HANDLE (R286), with the fields of `arg` (log 16). -/
def execQstatHandle (s : State) : Result := s.qstatHandle s.arg.fields

end Sys2Proof.Machine
end

