-- ==== Sys2Proof/Machine/Preempt.lean ====
section
/-!
DEFINITION. Pre-emption (spec/17 R299, R314, R315, R317, R320): withdrawing a waiting access, saving a thread to a frame,
and how a request meets each state.
-/
namespace Sys2Proof.Machine

/-! ## Slots -/

/-- A slot is masked by the governor or for heat (26 R411). -/
def Slot.barred (x : Slot) : Bool := x.masked || x.thermal

/-- An occupied slot is withheld: masked, masked for heat, or its quota exhausted (26 R410, R411). -/
def Slot.withheld (x : Slot) : Bool := x.barred || decide (x.quota ≤ 0)

/-- The thread in slot `n` is one of a lockstep pair. -/
def State.isPair (s : State) (n : Nat) : Bool := match s.thread n with | some t => t.pair | none => false

/-- The odd core's slot of a lockstep pair (R321). -/
def State.slotReserved (s : State) (n : Nat) : Bool :=
  slotCore n % 2 == 1 && s.isPair (n - 16)

/-- A slot is withheld; for a lockstep pair, which issues on both cores, either of its slots (R321, log 59). An empty slot has no
quota to exhaust, and its turn may be lent (02 R29). -/
def State.withheldAt (s : State) (n : Nat) : Bool :=
  (if (s.thread n).isSome || s.slotReserved n then (s.slot n).withheld else (s.slot n).barred) ||
    s.isPair n && (s.slot (n + 16)).withheld

/-- A slot without its thread: its channel is discarded and a waiting `slotw` takes effect (R153, R325). -/
def Slot.emptied (x : Slot) : Slot :=
  let o := x.deferred.getD (x.owner, x.pin)
  { x with thread := none, chan := [], owner := o.1, pin := o.2, deferred := none }

/-- The save of the thread in slot `n` of a context no longer waits for a frame. -/
def State.unwaitFrame (s : State) (c n : Nat) : State :=
  let x := s.ctx c
  if x.noFrame.contains n then s.setCtx c { x with noFrame := x.noFrame.erase n } else s

/-- A slot empties, and with a lockstep pair the odd core's slot too (R321). -/
def State.emptySlot (s : State) (n : Nat) : State :=
  let pair := s.isPair n
  let s := match s.thread n with | some t => s.unwaitFrame t.ctx n | none => s
  let s := s.setSlot n (s.slot n).emptied
  if pair then s.setSlot (n + 16) (s.slot (n + 16)).emptied else s

/-- Withdraw the waiting full/empty access, `recv`, `nwait`, `send` or `wait` of the thread in a slot: its PC stays at
the instruction, which is issued anew (08 R170). The copy of its kernel is still waited for. -/
def State.withdraw (s : State) (n : Nat) : State :=
  match s.thread n with
  | none => s
  | some t =>
    let x := s.ctx t.ctx
    let s := { s with feWait := s.feWait.erase n, sendWait := s.sendWait.erase n }
    let s := if x.noticeWait.contains n then s.setCtx t.ctx { x with noticeWait := x.noticeWait.erase n } else s
    s.setThread n { t with wait := t.wait.kept, reissue := false, absent := none }

/-- The placed threads of a context that a stop waits for (R299): halted ones only drain. -/
def State.placedOf (s : State) (c : Nat) : List Nat :=
  s.slots.filterMap fun e =>
    match e.2.thread with
    | some t => if t.ctx = c && !t.halted then some e.1 else none
    | none => none

/-- A stop of a context ends when its last thread is saved (R299). -/
def State.endStop (s : State) (c : Nat) : State :=
  let x := s.ctx c
  match x.stopping with
  | none => s
  | some w =>
    if (s.placedOf c).isEmpty then
      s.setCtx c { x with stopping := none, mode := match w with | .suspend => .suspended | .freeze => .frozen }
    else s

/-! ## Spilling a channel (R317) -/

/-- The entries of a thread's channel move to the spill queue of its die, before those that an earlier save has left there. -/
def State.spillChannel (s : State) (n : Nat) (t : Thread) : State :=
  let x := s.slot n
  let c := s.ctx t.ctx
  let d := slotDie n
  let q := (x.chan.map fun v => { gtid := t.gtid, entry := v }) ++ Store.get [] c.spill d
  (s.setCtx t.ctx { c with spill := Store.put [] c.spill d q }).setSlot n { x with chan := [] }

/-! ## Saving (R315) -/

/-- Whether a wait is an arrival that is kept through a save (19 R349); a `cwait` is issued anew (20 R358). -/
def Wait.crewKept (w : Wait) : Option Wait :=
  match w with
  | .crew _ _ _ kind _ => if kind = 1 then Option.none else some w
  | .crewHeld .. => some w
  | _ => Option.none

/-- The save of the thread in slot `n` waits for a frame; the thread runs on (R315). -/
def State.waitFrame (s : State) (c n : Nat) : State :=
  let x := s.ctx c
  s.setCtx c { x with noFrame := if x.noFrame.contains n then x.noFrame else x.noFrame ++ [n] }

/-- A thread is saved once its access has returned: a request stands, and no step that must end first (27 R427). -/
def Thread.goesOnWaiting (t : Thread) : Bool := t.request.isSome && !t.halted && t.stepping == 0

/-- A request asks that the thread be saved. -/
def Thread.wantsSave (t : Thread) : Bool :=
  !t.halted && match t.request with | some .abandon => false | some .migrate => false | some _ => true | none => false

/-- The slots of a context whose saves wait for a frame, in order (R304, R315). -/
def State.frameWaiters (s : State) (c : Nat) : List Nat :=
  (s.ctx c).noFrame.filter fun n => match s.thread n with | some t => t.ctx == c && t.wantsSave | none => false

/-- The free frames of a context. -/
def Ctx.framesFree (x : Ctx) : Nat := x.regs.nframe - (x.frames.filter (· < x.regs.nframe)).length

/-- A frame has freed for the save that the thread in slot `n` waits to make. -/
def State.frameDue (s : State) (n : Nat) (t : Thread) : Bool :=
  ((s.frameWaiters t.ctx).take (s.ctx t.ctx).framesFree).contains n

/-- A request holds the thread at the boundary it stands at: its safe-point distance stands above 2,048 (R314), or the frame
that its save waits for has freed; it runs on while that is not free (R315). -/
def State.heldForSave (s : State) (n : Nat) (t : Thread) : Bool :=
  t.request.isSome && if (s.frameWaiters t.ctx).contains n then s.frameDue n t else decide (2048 < t.dist)

/-- Save the thread in slot `n` to the lowest free frame and empty its slot; with no frame free the thread runs on. -/
def State.saveThread (s : State) (n : Nat) (t : Thread) (qmask pmask : Nat) (hard : Bool) : State :=
  let c := t.ctx
  let x := s.ctx c
  match x.frames.leastFree x.regs.nframe 0 with
  | none => s.waitFrame c n
  | some i =>
    let cw := t.wait.crewKept
    let l := saveRegs t (slotNum n) qmask pmask hard cw.isSome ++ s.sliceGranules n t.slice
    let v : Saved :=
      { gtid := t.gtid, pc := t.pc, frame := i, lcore := t.lcore, slot := slotNum n, die := slotDie n, grove := slotGrove n
        core := slotCore n, cp := t.cp, tl := t.tl, frozen := t.frozen, stopped := t.stopped, crewWait := cw, pendErr := t.pendErr
        due := t.due, skipBp := t.skipBp
        stepping := if cw.isSome then t.stepping else min 1 t.stepping }
    let s := s.setCtx c { x with frames := x.frames.add i, saved := x.saved ++ [v] }
    let s := s.spillChannel n t
    let s := (s.putVa (slotGrove n) c (s.frameVa c i) l).chargeFrame (slotGrove n) c (s.frameVa c i) l.length
    (s.emptySlot n).endStop c

/-! ## Meeting a request (R314) -/

/-- A request of the thread in slot `n` is met now: an error pending is trapped first (08 R177); an abandoned thread is
discarded and departs its crews (13 R260); a migrating one keeps its slot and its live registers (R320); others are saved, or run on while no
frame is free (R315). -/
def State.meet (s : State) (n : Nat) (qmask pmask : Nat) (hard : Bool) : State :=
  match s.thread n with
  | none => s
  | some t =>
    match t.request with
    | none => s
    | some r =>
      let x := s.ctx t.ctx
      if r = .abandon then (((s.withdraw n).departAll (s.memberOf t) false).emptySlot n).endStop t.ctx
      else if r ≠ .migrate && (x.frames.leastFree x.regs.nframe 0).isNone then s.waitFrame t.ctx n
      else
        let keep := t.wait.crewKept.isSome
        let s := if keep then s else s.withdraw n
        let s := if t.debugStop then s.stopThread n 6 4 0 0 0 else s
        let s := match t.pendErr with | p :: _ => s.takePending n t p | [] => s
        match s.thread n with
        | none => s
        | some t =>
          if r = .migrate then
            (s.spillChannel n t).setThread n
              { t.liveOnly qmask pmask with
                migrating := true, liveQ := qmask, liveP := pmask, request := none, wait := if keep then t.wait else .none }
          else s.saveThread n t qmask pmask hard

/-- Save every register (R314). -/
def State.meetHard (s : State) (n : Nat) : State := s.meet n (2 ^ 32 - 1) 0xFF true

/-- A request is met at once in the state a thread is in: it waits for something that is withdrawn, recorded or already
performed, it is stopped, frozen or withheld, its safe-point distance stands above 2,048 (R314), or the frame it waits for is
`due`. Its relaxed accesses
are performed first, and what a stepped instruction has started (27 R427). -/
def Thread.meetsNow (t : Thread) (withheld due : Bool) : Bool :=
  t.request.isSome && !t.halted && !t.migrating && t.rx.isEmpty && !(t.stepping == 2 && (t.wait == .none || t.wait == .memory)) &&
    match t.wait with
    | .fullEmpty .. | .recv .. | .send .. | .notice .. | .counters .. | .crew .. | .crewHeld .. | .crewFull .. => true
    | .memory | .kernel => true
    | .none => t.stopped.isSome || t.frozen || withheld || 2048 < t.dist || due
    | _ => false

/-- Meet every request that is met at once. -/
def State.meetRequests (s : State) : State :=
  (s.slots.filterMap fun e => match e.2.thread with | some t => if t.meetsNow (s.withheldAt e.1) (s.frameDue e.1 t) then some e.1 else none | none => none).foldl
    State.meetHard s

/-- A live safe point, past it: a pending request is met with the masked registers (07 R154); a stepping thread meets it
when it has stopped (27 R427). -/
def State.honour (s : State) (n qmask pmask : Nat) : State :=
  match s.thread n with
  | some t => if t.request.isSome && t.stepping == 0 then s.meet n qmask pmask false else s
  | none => s

/-! ## Sending requests (R314, R317, 19 R347) -/

/-- A request that stands gives way to another: any to abandonment, and a migration's, which saves nothing, to every one that
does (R317). -/
def Request.yields (r : Option Request) (new : Request) : Bool :=
  match r with
  | none => true
  | some .migrate => new != .migrate
  | some _ => new == .abandon

/-- Request a pre-emption of the thread in a slot. -/
def State.request (s : State) (n : Nat) (r : Request) : State :=
  match s.thread n with
  | some t => if t.halted || !Request.yields t.request r then s else s.setThread n { t with request := some r }
  | none => s

/-- A thread of this package is a member of a gang crew: of an entry of this home, or of one of a peer package. -/
def State.inGang (s : State) (ci : Nat) (m : MemberId) : Bool :=
  if ci < crewEntries then (s.crew ci).used && (s.crew ci).gang && (s.crew ci).members.contains m
  else s.farCrews.any fun f => f.who == m && f.member && f.gang && peerCrew f.pkg f.ci == ci

/-- The gang crews of a thread of this package. -/
def State.gangsOf (s : State) (m : MemberId) : List Nat :=
  (s.crews.map (·.1) ++ s.farCrews.map fun f => peerCrew f.pkg f.ci).eraseDups.filter fun ci => s.inGang ci m

/-- The slots of the package that hold members of some gang crews. -/
def State.slotsOfGangs (s : State) (cs : List Nat) : List Nat :=
  s.slots.filterMap fun e =>
    match e.2.thread with
    | some t => if cs.any fun ci => s.inGang ci (s.memberOf t) then some e.1 else none
    | none => none

/-- The slots of the package that hold members of a gang crew of which a member is named. -/
def State.gangSlots (s : State) (m : MemberId) : List Nat := s.slotsOfGangs (s.gangsOf m)

/-- A pre-emption of a gang crew of this home goes to its members on peer packages. -/
def State.tellGang (s : State) (ci : Nat) : State :=
  ((s.crew ci).members.filter fun m => memberPkg m != s.pkg).foldl
    (fun s m => s.tell [memberPkg m] (.preempt (BitVec.ofNat 64 m))) s

/-- A pre-emption of a member goes to the other members of its gang crews: here, on peer packages, and by way of the home
(19 R347). -/
def State.spreadGang (s : State) (m : MemberId) : State :=
  let s := (s.gangSlots m).foldl (fun s n => s.request n .gang) s
  let s := ((s.gangsOf m).filter (· < crewEntries)).foldl State.tellGang s
  (s.farCrews.filter fun f => f.who == m && f.member && f.gang).foldl (fun s f => s.tell [f.pkg] (.gang f.ci m)) s

/-- A core pre-emption: every thread of the context on the core, a lockstep pair by either of its cores, and the gangs of those
threads (R317, R321, 19 R347). -/
def State.preemptCore (s : State) (c core : Nat) : State :=
  let ns := (s.placedOf c).filter fun n => slotCore n == core || (s.isPair n && slotCore n + 1 == core)
  let gang := ns.filterMap fun n => (s.thread n).map s.memberOf
  gang.foldl State.spreadGang (ns.foldl (fun s n => s.request n .preempt) s)

end Sys2Proof.Machine
end

