-- ==== Sys2Proof/Machine/Channel.lean ====
section
/-!
DEFINITION. Channels and order (spec/08 R175, R176, R188 to R190; spec/17 R309, R317): opcodes 0x4A, 0x4B, 0x4E and 0x4F,
the acceptance of a send and the delivery of a handler message.
-/
namespace Sys2Proof.Machine

/-! ## fence and wait -/

/-- Blocks that the thread in a slot has asked of peer packages are no longer for it. -/
def State.dropFetches (s : State) (n : Nat) : State :=
  { s with requests := s.requests.map fun r => match r.who with
      | .fetch m _ _ k => if m = n then { r with who := .message (.block k) } else r
      | _ => r }

/-- `fence` (R175): waits on memory until the relaxed accesses in scope are performed; refills the fetch buffer. -/
def State.fenceOp (s : State) (e : Fields) : Result :=
  s.scalar e fun t =>
    s.orElsePending t e.scope <|
      if t.rx.any fun r => s.inScope (slotCore s.cur) e.scope r.acc.key then s.retry t (.drain e.scope false)
      else (s.dropFetches s.cur).put { t.next e with fbuf := [] }

/-- FENCE (R175). -/
def execFence (e : Fields) (s : State) : Result := s.fenceOp e
/-- FENCE_X (R175). -/
def execFenceX (e : Fields) (s : State) : Result := s.fenceOp e

/-- Every counter is at or below its limit (R176). -/
def Thread.belowLimits (t : Thread) (l : Word32) : Bool :=
  let n := l.toNat
  decide (t.ld ≤ bits n 3 0) && decide (t.st ≤ bits n 7 4) && decide (t.cp ≤ bits n 15 8) && decide (t.tl ≤ bits n 23 16)

/-- A `wait` takes a pending error when its limit for the counter of the failed access is below 8 (R177). -/
def waitTakes (p : PendingError) (l : Word32) : Bool :=
  decide ((if p.inSt then bits l.toNat 7 4 else bits l.toNat 3 0) < 8)

/-- `wait` (R176). -/
def State.waitOp (s : State) (e : Fields) : Result :=
  s.scalar e fun t =>
    let go := if t.belowLimits e.imm then s.put (t.next e) else s.retry t (.counters e.imm)
    match t.pendErr.find? fun p => waitTakes p e.imm with
    | some p => s.takePending s.cur t p
    | none => go

/-- WAIT (R176). -/
def execWait (e : Fields) (s : State) : Result := s.waitOp e
/-- WAIT_X (R176). -/
def execWaitX (e : Fields) (s : State) : Result := s.waitOp e

/-- Implicit release over a scope: a pending error there is taken, relaxed accesses there are waited for, and with `all`
also copies and tile operations; then `k` (09 R196). -/
def State.release (s : State) (t : Thread) (scope : Nat) (all : Bool) (k : State) : State :=
  s.orElsePending t scope <|
    if (t.rx.any fun r => s.inScope (slotCore s.cur) scope r.acc.key) || (all && !(t.cp == 0 && t.tl == 0)) then
      s.retry t (.drain scope all)
    else k

/-! ## Delivering to a channel -/

/-- Spilled entries of the thread in a slot enter its channel, oldest first, up to 8 (R317). -/
def State.redeliver (s : State) (n : Nat) : Nat → State
  | 0 => s
  | f + 1 =>
    match s.thread n with
    | none => s
    | some t =>
      let x := s.slot n
      let c := s.ctx t.ctx
      let q := Store.get [] c.spill (slotDie n)
      match q.find? fun v => v.gtid == t.gtid with
      | some v =>
        if t.migrating || 8 ≤ x.chan.length then s
        else
          let s := s.setCtx t.ctx { c with spill := Store.put [] c.spill (slotDie n) (q.erase v) }
          State.redeliver (s.setSlot n { x with chan := x.chan ++ [v.entry] }) n f
      | none => s

/-- Take the oldest entry of a slot's channel: its thread gets it in `d`, and spilled entries move up. -/
def State.takeEntry (s : State) (n : Nat) (t : Thread) (d : BitVec 5) : Option (Thread × State) :=
  match (s.slot n).chan with
  | [] => none
  | v :: r => some (t.setReg d v, (s.setSlot n { s.slot n with chan := r }))

/-- A thread waiting in `recv` takes an entry that has arrived. -/
def State.wakeRecv (s : State) (n : Nat) : State :=
  match s.thread n with
  | none => s
  | some t =>
    match t.wait with
    | .recv e =>
      match s.takeEntry n t e.d with
      | some (t, s) => (s.setThread n { t.next e with wait := .none }).redeliver n 8
      | none => s
    | _ => s

/-- Where an accepted entry goes. -/
inductive Route where
  | channel (n : Nat)
  | spill (gtid : Word64) (die : Nat)
  | discard
  | full
deriving DecidableEq, Repr

/-- The slot a send names: its own core, or the core a logical number maps to. -/
def State.sendSlot (s : State) (n c : Nat) (lcore : Option Nat) (slot : Nat) : Nat :=
  match lcore with
  | none => slotCore n * 16 + slot
  | some l => (Store.get none (s.ctx c).remap l).getD 0 * 16 + slot

/-- The spilled entries of a thread on a die. -/
def State.hasSpill (s : State) (c die : Nat) (gtid : Word64) : Bool :=
  (Store.get [] (s.ctx c).spill die).any fun v => v.gtid == gtid

/-- A spill queue takes one more entry. -/
def State.spillRoom (s : State) (c die : Nat) : Bool := decide ((Store.get [] (s.ctx c).spill die).length < 4096)

/-- The route of an entry sent by the thread of context `c` in slot `n` (R189, R317). -/
def State.route (s : State) (n c senderCore : Nat) (lcore : Option Nat) (slot : Nat) : Route :=
  let m := s.sendSlot n c lcore slot
  let l := lcore.getD senderCore
  let toSpill (g : Word64) (d : Nat) : Route := if s.spillRoom c d then .spill g d else .full
  match (s.ctx c).saved.find? fun v => v.lcore == l && v.slot == slot with
  | some v => toSpill v.gtid v.die
  | none =>
    match s.thread m with
    | none => .discard
    | some t =>
      if t.halted || t.ctx ≠ c then .discard
      else if t.migrating || s.hasSpill c (slotDie m) t.gtid then toSpill t.gtid (slotDie m)
      else if 8 ≤ (s.slot m).chan.length || (s.isHandler m t && !(s.ctx c).messages.isEmpty) then .full
      else .channel m

/-- Accept the send that waits in slot `n`, if its route is open. -/
def State.acceptSend (s : State) (n : Nat) : State :=
  match s.thread n with
  | none => s
  | some t =>
    match t.wait with
    | .send v lcore slot e =>
      let done (s : State) : State :=
        ({ s with sendWait := s.sendWait.erase n }).setThread n { t.next e with wait := .none }
      match s.route n t.ctx t.lcore lcore slot with
      | .full => s
      | .discard => done s
      | .spill g d =>
        let s := done s
        let c := s.ctx t.ctx
        s.setCtx t.ctx { c with spill := Store.put [] c.spill d (Store.get [] c.spill d ++ [{ gtid := g, entry := v }]) }
      | .channel m =>
        let s := done s
        (s.setSlot m { s.slot m with chan := (s.slot m).chan ++ [v] }).wakeRecv m
    | _ => s

/-- The slot a waiting send names. -/
def State.sendTarget (s : State) (n : Nat) : Option Nat :=
  match s.thread n with
  | none => none
  | some t => match t.wait with
    | .send _ lcore slot _ => some (s.sendSlot n t.ctx lcore slot)
    | _ => none

/-- The send that waits in slot `n` names a slot that cannot receive it. -/
def State.sendDiscards (s : State) (n : Nat) : Bool :=
  match s.thread n with
  | none => false
  | some t => match t.wait with
    | .send _ lcore slot _ => s.route n t.ctx t.lcore lcore slot == .discard
    | _ => false

/-- SEND_ACCEPT (R189): the send in slot `arg.index` is discarded where its destination cannot receive it; else of the sends
that wait for its destination, the oldest is accepted when an entry is free. -/
def evSendAccept (s : State) : Result :=
  match s.sendTarget s.arg.index with
  | none => .next s
  | some m =>
    if s.sendDiscards s.arg.index then .next (s.acceptSend s.arg.index)
    else match s.sendWait.find? fun n => s.sendTarget n == some m && !s.sendDiscards n with
    | some n => .next (s.acceptSend n)
    | none => .next s

/-- Sends that were waiting, and whose destination can no longer receive them, are accepted and discarded at that instant
(R189). -/
def State.discardSends (before s : State) : State :=
  (s.sendWait.filter fun n => before.sendWait.contains n && s.sendDiscards n).foldl State.acceptSend s

/-! ## send and recv -/

/-- `send` (R188, R189). -/
def State.sendOp (s : State) (e : Fields) : Result :=
  s.scalar e fun t =>
    match t.intB e with
    | none => s.trap (.format false 0)
    | some w =>
      let self := bit w 16
      if w / 2 ^ 17 ≠ 0 then s.trap (.format false 0)
      else if !self && (Store.get none (s.ctx t.ctx).remap (w % 4096)).isNone then s.trap (.protection 0)
      else
        s.release t 5 false
          { s.put { t with wait := .send (t.reg e.a) (if self then none else some (w % 4096)) (bits w 15 12) e } with
            sendWait := s.sendWait ++ [s.cur] }

/-- SEND (R189). -/
def execSend (e : Fields) (s : State) : Result := s.sendOp e
/-- SEND_X (R189). -/
def execSendX (e : Fields) (s : State) : Result := s.sendOp e

/-- RECV (R190). -/
def execRecv (e : Fields) (s : State) : Result :=
  s.scalar e fun t =>
    match s.takeEntry s.cur t e.d with
    | some (t, s) => (s.put (t.next e)).redeliver s.cur 8
    | none => s.put { t with wait := .recv e }

/-- RECV_TRY (R190): the pair says whether an entry was taken. -/
def execRecvTry (e : Fields) (s : State) : Result :=
  s.scalar e fun t =>
    match s.takeEntry s.cur t e.d with
    | some (t, s) => (s.put ((t.setPair e.a.toNat 16 true).next e)).redeliver s.cur 8
    | none => s.put ((t.setPair e.a.toNat 16 false).next e)

/-! ## Handler messages (17 R309) -/

/-- The slot that HANDLER names, when it holds a thread of the context. -/
def State.handlerSlot (s : State) (c : Nat) : Option Nat :=
  let h := (s.ctx c).regs.handler
  if !bit h 31 then none
  else match Store.get none (s.ctx c).remap (h % 4096) with
    | none => none
    | some core =>
      let n := core * 16 + bits h 15 12
      match s.thread n with
      | some t => if t.ctx = c then some n else none
      | none => none

/-- HANDLER_MESSAGE_DELIVER (R309): the oldest held message of context `arg.index` enters its handler's channel, both
entries in one step, when two are free. -/
def evHandlerMessageDeliver (s : State) : Result :=
  let c := s.arg.index
  let x := s.ctx c
  match x.messages, s.handlerSlot c with
  | m :: r, some n =>
    let v := s.slot n
    let held := match v.thread with | some t => t.halted || t.migrating || s.hasSpill c (slotDie n) t.gtid | none => true
    if held || 6 < v.chan.length then .next s
    else
      let entries : List Entry := [⟨m.e0, false, 0⟩, ⟨m.e1, false, 0⟩]
      .next (((s.setCtx c { x with messages := r }).setSlot n { v with chan := v.chan ++ entries }).wakeRecv n)
  | _, _ => .next s

end Sys2Proof.Machine
end

