-- ==== Sys2Proof/Machine/Graphs.lean ====
section
/-!
DEFINITION. Admitted graphs (spec/13 R246, R248 to R263, R272; spec/02 R38, R39; spec/23 R384): projections, keys, culling,
completion, abandonment, credits and notices.
-/
namespace Sys2Proof.Machine

/-! ## Curves and track factors (R246, R252) -/

/-- V(t) (R246 Table 5). -/
def Curve.value (c : Curve) (t : Nat) : Nat :=
  if t ≤ c.t1 then c.v0
  else if t ≤ c.t2 then c.v0 - (c.v0 - c.v1) * (t - c.t1) / (c.t2 - c.t1)
  else if t ≤ c.t3 then c.v1 - c.v1 * (t - c.t2) / (c.t3 - c.t2)
  else 0

/-- A curve is valid (R246). -/
def Curve.ok (c : Curve) : Bool := decide (c.t1 ≤ c.t2) && decide (c.t2 ≤ c.t3) && decide (c.v1 ≤ c.v0)

/-- n_T / d_T and a_T / b_T (R252 Table 10). -/
def trackTime (t : Nat) : Nat × Nat := if t = 0 then (4, 5) else if t = 1 then (1, 1) else (10, 7)
def trackEnergy (t : Nat) : Nat × Nat := if t = 0 then (3, 2) else if t = 1 then (1, 1) else (5, 8)

/-- u_T for a cost in ns, rounded up. -/
def unitsOn (track cost : Nat) : Nat :=
  let (n, d) := trackTime track
  (cost * n + d * 1000 - 1) / (d * 1000)

/-- Eight times the energy on a track, which is an integer. -/
def energyOn8 (track e : Nat) : Nat :=
  let (a, b) := trackEnergy track
  e * a * (8 / b)

/-! ## The parts of a graph -/

/-- Graph time τ (R251). -/
def Graph.time (g : Graph) (now : Nat) : Nat := (now - g.admitted) / 1000

def GTask.none : GTask :=
  { tile := false, mstone := 0, cost := 0, energy := 0, launch := 0, fields := TileFields.none, state := .blocked
    preds := 0, track := 1, start := 0, width := 1, pair := false, entry := 0, next := 0, handed := 0, exited := 0
    released := false, crew := Option.none, failed := false, loss := 0, key := 0 }

def Graph.task (g : Graph) (i : Nat) : GTask := (g.tasks[i]?).getD GTask.none
def Graph.setTask (g : Graph) (i : Nat) (t : GTask) : Graph := { g with tasks := g.tasks.set i t }

/-- The successors and the predecessors of a task. -/
def Graph.succs (g : Graph) (i : Nat) : List Nat := (g.edges.filter fun e => e.1 == i).map (·.2)
def Graph.predsOf (g : Graph) (i : Nat) : List Nat := (g.edges.filter fun e => e.2 == i).map (·.1)

/-- Not done, culled or discarded. -/
def GTask.open (t : GTask) : Bool := t.state == .blocked || t.state == .ready || t.state == .placed

/-- Tasks done or culled. -/
def Graph.doneCount (g : Graph) : Nat := (g.tasks.filter fun t => t.state == .done || t.state == .culled).length

/-- Milestone m is live: not completed and not dead. -/
def Graph.isLive (g : Graph) (m : Nat) : Bool := decide (m < g.curves.length) && !bit g.mdone m && !bit g.mdead m
def Graph.liveMiles (g : Graph) : List Nat := (List.range g.curves.length).filter g.isLive

/-! ## Projections (R252, R253) -/

/-- w(x); a task that is done weighs nothing. -/
def Graph.weight (g : Graph) (τ i : Nat) : Nat :=
  let t := g.task i
  match t.state with
  | .placed => max 1 (unitsOn t.track t.cost - (τ - t.start))
  | .blocked | .ready => unitsOn 1 t.cost
  | _ => 0

/-- The larger of two values, absent ones apart. -/
def maxOpt : Option Nat → Option Nat → Option Nat
  | none, y => y
  | some x, none => some x
  | some x, some y => some (max x y)

/-- An entry of a list of hauls. -/
def haulAt (h : List (Option Nat)) (i : Nat) : Option Nat := (h[i]?).join

/-- The curve of milestone m. -/
def Graph.curve (g : Graph) (m : Nat) : Curve := (g.curves[m]?).getD ⟨0, 0, 0, 0, 0⟩

/-- One step of the hauls towards milestone m, from those already known. -/
def Graph.haulStep (g : Graph) (w : Nat → Nat) (m : Nat) (h : List (Option Nat)) : List (Option Nat) :=
  g.tasks.mapIdx fun i t =>
    if t.mstone = m + 1 then some (w i)
    else ((g.succs i).foldl (fun x y => maxOpt x (haulAt h y)) Option.none).map fun x => w i + x

/-- h_m of every task from which m is reachable. -/
def Graph.hauls (g : Graph) (w : Nat → Nat) (m : Nat) : List (Option Nat) :=
  loopUp (g.tasks.length + 1) (fun _ h => g.haulStep w m h) []

/-- m is reachable from task i. -/
def Graph.reaches (g : Graph) (i m : Nat) : Bool := (haulAt (g.hauls (fun _ => 0) m) i).isSome

/-- The projection P_m: τ and the greatest haul of an unfinished task. -/
def Graph.projection (g : Graph) (w : Nat → Nat) (τ m : Nat) : Nat :=
  let h := g.hauls w m
  τ + (loopUp g.tasks.length (fun i x => if (g.task i).open then maxOpt x (haulAt h i) else x) Option.none).getD 0

/-- The projection of a wake milestone (23 R384). -/
def WakeMile.projection (w : WakeMile) (τ : Nat) : Nat :=
  τ + match w.placed with
    | some (track, s) => max 1 (unitsOn track w.cost - (τ - s))
    | none => unitsOn 1 w.cost

/-- Its value at a graph time. -/
def WakeMile.value (w : WakeMile) (t : Nat) : Nat := w.curve.value (t - w.at_)

/-! ## Keys (R254, R255) and scores (R256) -/

/-- L(x) of a ready task. -/
def Graph.delayLoss (g : Graph) (τ i : Nat) : Nat :=
  let u := unitsOn 1 (g.task i).cost
  (g.liveMiles.map fun m =>
    match haulAt (g.hauls (g.weight τ) m) i with
    | .none => 0
    | some h =>
      let p := g.projection (g.weight τ) τ m
      let c := g.curve m
      c.value p - c.value (p + (u - ((p - τ) - h)))).sum

/-- K(x). -/
def keyOf (loss energy : Nat) : Nat := loss * 65536 / max 1 energy

/-- S(T) of a task on a track, with κ of its context. -/
def Graph.score (g : Graph) (kappa τ i track : Nat) : Int :=
  let t := g.task i
  let w (j : Nat) : Nat := if j = i then unitsOn track t.cost else g.weight τ j
  let v := (g.liveMiles.map fun m => (g.curve m).value (g.projection w τ m)).sum
  (v : Int) - (kappa * (energyOn8 track t.energy) / (8 * 65536000) : Nat)

/-! ## The status word (R249) -/

def GraphState.code : GraphState → Nat
  | .running => 1 | .suspended => 2 | .abandoning => 3

/-- The status word with a STATE and a REASON. -/
def Graph.statusWord (g : Graph) (code reason : Nat) : Nat :=
  g.doneCount * 2 ^ 32 + g.mdead * 2 ^ 24 + g.mdone * 2 ^ 16 + reason * 16 + code

/-- Translate an address of a context for the Landing, with a walk of its own. -/
def State.landingKey (s : State) (c va : Nat) (r : Right) : Option Nat × State :=
  if 2 ^ 57 ≤ va then (none, s)
  else
    let (m, s) := s.mapped c va
    (m.page?.bind fun t => if leafHas t.leaf r then some (t.key va) else none, s)

/-- Read `n` bytes that lie in one page of a context, with a right: none where the page refuses; bytes beyond the package are
free. -/
def State.readWith (s : State) (right : Right) (c va n : Nat) : Option Nat × State :=
  match s.landingKey c va right with
  | (none, s) => (none, s)
  | (some k, s) =>
    if s.isLocal k then (some (s.readNum k n), s)
    else (some (Config.free ((k + 1) * 2 ^ 64 + s.fresh) % 2 ^ (8 * n)), { s with fresh := s.fresh + 1 })

/-- Read `n` bytes of a context with the load right. -/
def State.landingRead (s : State) (c va n : Nat) : Option Nat × State := s.readWith .load c va n

/-- The capability tag bit of a granule of a context. -/
def State.landingTag (s : State) (c va : Nat) : Bool :=
  match (s.landingKey c va .load).1 with
  | some k => s.isLocal k && s.hasTag k
  | none => false

/-- Store 8 bytes of a context as an ordinary store does: at a home of the package, in host memory, or by a request to a
peer package. One whose page refuses is lost (log 26). -/
def State.landingWrite (s : State) (c va v : Nat) : State :=
  match s.landingKey c va .store with
  | (some k, s) =>
    let a := unitStore k va 8 0xFFFF
    if s.isLocal k || keyTgt k == 6 then s.storeAccess a v
    else s.ask (keyPkg k) 1 (.message (.access { a with data := data64 v 0 }))
  | (none, s) => s

/-- Write the status word of a graph in its present state. -/
def State.putStatus (s : State) (k : Nat) : State :=
  let g := s.graph k
  s.landingWrite g.ctx g.status (g.statusWord g.state.code 0)

/-! ## Notices (R263, R273) -/

/-- The oldest notice of a context is taken by a thread. -/
def Thread.takeNotice (t : Thread) (d : BitVec 5) (n : Notice) : Thread :=
  (t.setReg d ⟨n.lo, false, 0⟩).setReg (d + 1) ⟨n.hi, false, 0⟩

/-- The thread that has waited longest for a notice takes the oldest (R273). -/
def State.serveNotice (s : State) (c : Nat) : State :=
  let x := s.ctx c
  match x.notices, x.noticeWait with
  | n :: r, w :: ws =>
    match s.thread w with
    | some t => match t.wait with
      | .notice e =>
        (s.setCtx c { x with notices := r, noticeWait := ws }).setThread w { (t.takeNotice e.d n).next e with wait := .none }
      | _ => s
    | none => s
  | _, _ => s

/-- Enter a notice in a context's channel, or drop it (R263). -/
def State.enterNotice (s : State) (c : Nat) (lo hi : Nat) : State :=
  let x := s.ctx c
  if 256 ≤ x.notices.length then s.setCtx c { x with dropped := min 65535 (x.dropped + 1) }
  else
    let n : Notice := { lo := BitVec.ofNat 128 lo, hi := BitVec.ofNat 128 (hi + x.dropped * 2 ^ 112) }
    (s.setCtx c { x with notices := x.notices ++ [n], dropped := 0 }).serveNotice c

/-- The first notice due whose request has ended, with none of its context before it. -/
def State.noticeReady (s : State) : Option DueNotice :=
  s.noticesDue.find? fun d => (s.requests.all fun r => r.id != d.req) && (s.noticesDue.find? fun x => x.ctx == d.ctx) == some d

/-- Notices enter in the order their graphs ended, each after its status word has been written (R263). -/
def State.enterDue : Nat → State → State
  | 0, s => s
  | n + 1, s =>
    match s.noticeReady with
    | some d => State.enterDue n (({ s with noticesDue := s.noticesDue.erase d } : State).enterNotice d.ctx d.lo d.hi)
    | none => s

/-- A notice is due once the request `req` has ended. -/
def State.noticeAfter (s : State) (req c lo hi : Nat) : State :=
  let s := { s with noticesDue := s.noticesDue ++ [{ ctx := c, req, lo, hi }] }
  State.enterDue s.noticesDue.length s

/-- The notice of a graph (R263 Table 11), after the request `req`. -/
def State.noticeOf (s : State) (req : Nat) (g : Graph) (reason : Nat) : State :=
  let left := (2 ^ g.curves.length - 1) &&& (g.mdone ^^^ 0xFF)
  s.noticeAfter req g.ctx ((g.ctx * 2 ^ 52 + g.ser * 2 ^ 32) + g.tag % 2 ^ 64 * 2 ^ 64)
    (g.earned % 2 ^ 64 + min (2 ^ 32 - 1) (g.spent / 1000000) * 2 ^ 64 + reason * 2 ^ 96 + left * 2 ^ 104)

/-- A graph ends, completed (4) or abandoned (5): the status word is written, then any notice, and it is released. A status word
of a peer package is written when its request has ended. -/
def State.finishGraph (s : State) (k code reason : Nat) : State :=
  let g := s.graph k
  let before := s.nextReq
  let s := s.landingWrite g.ctx g.status (g.statusWord code reason)
  let s := if code = 5 || g.donenote then s.noticeOf (if s.nextReq = before then 0 else s.nextReq) g reason else s
  s.setGraph k Graph.none

/-! ## Credits (R262, R384) -/

/-- The Scaler credits value to a graph and its context. -/
def State.credited (s : State) (k v : Nat) : State :=
  let g := s.graph k
  let x := s.ctx g.ctx
  (s.setCtx g.ctx { x with value := (x.value + v) % 2 ^ 64 }).setGraph k { g with earned := g.earned + v }

/-- A resumed thread issues a live `park` or `exit`: its wake milestone is credited (23 R384). -/
def State.creditWake (s : State) (gtid : Word64) : State :=
  match s.graphOf gtid with
  | none => s
  | some k =>
    let g := s.graph k
    match g.wakes.find? fun w => w.gtid == gtid && w.placed.isSome with
    | none => s
    | some w =>
      let s := s.setGraph k { g with wakes := g.wakes.erase w }
      s.credited k (w.value (g.time s.now))

/-! ## Abandonment (R260) -/

/-- A thread, saved or placed, or an operation belongs to graph k. -/
def State.ofGraph (s : State) (k : Nat) (gtid : Word64) : Bool := s.graphOf gtid == some k

/-- Discard the saved threads of a graph: they depart their crews, their spilled entries go and their frames free. -/
def State.dropSaved (s : State) (c : Nat) (p : Word64 → Bool) : State :=
  let x := s.ctx c
  let gone := x.saved.filter fun v => p v.gtid
  let s := s.setCtx c { x with
    saved := x.saved.filter fun v => !p v.gtid
    frames := gone.foldl (fun f v => f.del v.frame) x.frames
    spill := (x.spill.map fun e => (e.1, e.2.filter fun v => !(gone.any fun w => w.gtid == v.gtid))).filter fun e => !e.2.isEmpty }
  gone.foldl (fun s v => s.departAll (s.pkg * 2 ^ 64 + v.gtid.toNat) false) s

/-- Discard the queue entries of a graph (R260): a running tile operation ends at its block, a copy in progress is
completed, the others are removed. -/
def State.dropGraphOps (s : State) (k : Nat) : State :=
  s.queues.foldl (fun s e =>
    let q := s.queue e.1
    let s := match q.ops with
      | op :: _ => if q.unit != 0 && keyCode e.1 ≤ 4 && s.ofGraph k op.gtid then s.setQueue e.1 (q.stopAtBlock 2) else s
      | [] => s
    let busy (op : EngineOp) : Bool := (q.unit != 0 || q.headEnded) && q.ops.head? == some op
    (q.ops.filter fun op => s.ofGraph k op.gtid && !busy op).foldl (fun s op => s.discardOp e.1 op) s) s

/-- Discard the continuations that satisfy `p` in every state before placement (23 R386): the word is disarmed, HELD
clears, the frame frees, the thread departs its crews (19 R341); blocks stay where they are. -/
def State.dropConts (s : State) (p : Continuation → Bool) : State :=
  let gone := s.conts.filter fun c => p c && c.state != .stage2
  let s := gone.foldl (fun s c =>
    let x := s.ctx c.ctx
    let s := s.setCtx c.ctx { x with frames := x.frames.del c.frame }
    match c.handle with
    | some h =>
      let v := Store.get Handle.free s.handles h
      { s with handles := Store.put Handle.free s.handles h { v with held := false } }
    | none => s) s
  let s := { s with conts := s.conts.filter fun c => !gone.contains c }
  gone.foldl (fun s c => s.departAll (s.pkg * 2 ^ 64 + c.gtid.toNat) false) s

/-- Abandon a graph with a reason (R259, R260, R272). On a suspended graph `gabort` takes effect at its resumption. -/
def State.abandonGraph (s : State) (k reason : Nat) : State :=
  let g := s.graph k
  match g.state with
  | .abandoning => s
  | .suspended => if reason = 3 then s.setGraph k { g with abort := true } else s
  | .running =>
    let crews := g.tasks.filterMap fun t => if t.open then t.crew else none
    let tasks := g.tasks.map fun t => if t.open then { t with state := .discarded, crew := none } else t
    let s := s.setGraph k { g with state := .abandoning, reason, tasks, wakes := [] }
    let s := s.putStatus k
    let s := crews.foldl (fun s ci => s.setCrew ci { Crew.free with gen := (s.crew ci).gen }) s
    let ns := s.slots.filterMap fun e => match e.2.thread with | some t => if s.ofGraph k t.gtid then some e.1 else none | none => none
    let s := ns.foldl (fun s n => s.request n .abandon) s
    let s := s.dropSaved g.ctx (s.ofGraph k)
    let s := s.dropConts fun c => s.ofGraph k c.gtid
    s.dropGraphOps k

/-- No thread, tile operation or copy of a graph remains. -/
def State.graphIdle (s : State) (k : Nat) : Bool :=
  !(s.slots.any fun e => match e.2.thread with | some t => s.ofGraph k t.gtid | none => false) &&
    !((s.ctx (s.graph k).ctx).saved.any fun v => s.ofGraph k v.gtid) &&
    !(s.queues.any fun e => (if e.2.headEnded then e.2.ops.drop 1 else e.2.ops).any fun op => s.ofGraph k op.gtid)

/-- GRAPH_ABANDONED (R260): when no work of the abandoning graph `arg.index` remains, its status word and its notice are
written and it is released. -/
def evGraphAbandoned (s : State) : Result :=
  let k := s.arg.index
  let g := s.graph k
  .next (if g.state = .abandoning && s.graphIdle k then s.finishGraph k 5 g.reason else s)

/-! ## Recomputation (R257 to R259, R261) -/

/-- Milestones that are dead at τ, and what was dead before. -/
def Graph.deadNow (g : Graph) (τ : Nat) : Nat :=
  g.liveMiles.foldl (fun d m =>
    if (g.curve m).value (g.projection (g.weight τ) τ m) = 0 then d + 2 ^ m else d) g.mdead

/-- Cull what reaches only dead milestones, and at least one. -/
def Graph.cull (g : Graph) : Graph :=
  { g with tasks := g.tasks.mapIdx fun i t =>
      let ms := (List.range g.curves.length).filter (g.reaches i)
      if (t.state == .blocked || t.state == .ready) && !ms.isEmpty && ms.all (bit g.mdead) then { t with state := .culled } else t }

/-- R(g): the values of the live milestones at their projections. -/
def Graph.remaining (g : Graph) (τ : Nat) : Nat :=
  (g.liveMiles.map fun m => (g.curve m).value (g.projection (g.weight τ) τ m)).sum +
    (g.wakes.map fun w => if w.dead then 0 else w.value (w.projection τ)).sum

/-- J(g) in µJ. -/
def Graph.remainingEnergy (g : Graph) : Nat :=
  let tasks := (g.tasks.map fun t => if t.state == .placed then energyOn8 t.track t.energy else if t.open then 8 * t.energy else 0).sum
  let wakes := (g.wakes.map fun w => match w.placed with | some (tr, _) => energyOn8 tr w.energy | .none => 8 * w.energy).sum
  (tasks + wakes + 7999) / 8000

/-- The largest T3 of the curves. -/
def Graph.lastT3 (g : Graph) : Nat := g.curves.foldl (fun x c => max x c.t3) 0

/-- Every milestone has completed and every task is done or culled (R261). -/
def Graph.complete (g : Graph) : Bool :=
  g.mdone == 2 ^ g.curves.length - 1 && g.tasks.all fun t => t.state == .done || t.state == .culled

/-- The reason for which the tests of R259 abandon a graph, 0 for none. -/
def Graph.abandonReason (g : Graph) (kappa τ : Nat) : Nat :=
  let unfinished := (List.range g.curves.length).any (fun m => !bit g.mdone m) || !g.wakes.isEmpty
  let live := !g.liveMiles.isEmpty || g.wakes.any fun w => !w.dead
  if unfinished && !live then 2
  else if live then if 65536 * g.rval < kappa * g.jrem then 1 else 0
  else if g.tasks.any GTask.open && decide (g.lastT3 < τ) then 2
  else 0

/-- The keys of the ready tasks. -/
def Graph.withKeys (g : Graph) (τ : Nat) : Graph :=
  { g with tasks := g.tasks.mapIdx fun i t =>
      if t.state == .ready then let l := g.delayLoss τ i; { t with loss := l, key := keyOf l t.energy } else t }

/-- The keys of the tasks that have become ready since `old`: the change is an issue opportunity (R255). -/
def Graph.keyNew (g old : Graph) (τ : Nat) : Graph :=
  if g.filler then g
  else { g with tasks := g.tasks.mapIdx fun i t =>
      if t.state == .ready && (old.task i).state != .ready then
        let l := g.delayLoss τ i; { t with loss := l, key := keyOf l t.energy }
      else t }

/-- The key of a ready continuation at graph time τ: its delay loss is that of its wake milestone (23 R384). -/
def Graph.contKey (g : Graph) (τ : Nat) (c : Continuation) : Nat :=
  let u := unitsOn 1 c.cost
  let loss := match g.wakes.find? fun w => w.gtid == c.gtid with
    | some w => if w.dead then 0 else w.value (w.projection τ) - w.value (w.projection τ + u)
    | .none => 0
  keyOf loss c.energy

/-- The keys of the ready continuations of a graph; a filler graph's have none (R264). -/
def State.keyConts (s : State) (k : Nat) : State :=
  let g := s.graph k
  { s with conts := s.conts.map fun c =>
      if c.state == .ready && s.graphOf c.gtid == some k then { c with key := if g.filler then 0 else g.contKey (g.time s.now) c } else c }

/-- The milestones of a graph that die at τ, and the wake milestones; but for a filler graph's (R264), what they leave nothing
for is culled (R258, 23 R384). -/
def Graph.withDead (g : Graph) (τ : Nat) : Graph :=
  let g := { g with mdead := g.deadNow τ
                    wakes := g.wakes.map fun w => { w with dead := w.dead || w.value (w.projection τ) == 0 } }
  if g.filler then g else g.cull

/-- Recompute one graph (R257): dead milestones and culling, the tests, the keys; a filler graph is neither culled, tested nor
keyed (R264). Where a failed tile task and another test both ask for abandonment, its reason is 4 (log 94). -/
def State.recompute (s : State) (k : Nat) : State :=
  let g := s.graph k
  if g.state ≠ .running then s
  else
    let τ := g.time s.now
    let g' := g.withDead τ
    let g' := { g' with rval := g'.remaining τ, jrem := g'.remainingEnergy }
    let s := s.setGraph k g'
    let s := if g'.mdead != g.mdead then s.putStatus k else s
    if g'.complete then s.finishGraph k 4 0
    else if g.filler then s
    else if g'.tasks.any (·.failed) then s.abandonGraph k 4
    else
      let r := g'.abandonReason (s.ctx g.ctx).regs.kappa τ
      if r ≠ 0 then s.abandonGraph k r else (s.setGraph k (g'.withKeys τ)).keyConts k

/-- A recomputation takes up KAPPA, SHARE and LIMIT of every context (17 R302). -/
def State.takeRegs (s : State) (die : Nat) : State :=
  { s with ctxs := s.ctxs.map fun e => (e.1, { e.2 with eff := Store.put EffRegs.zero e.2.eff die e.2.regs.eff }) }

/-- Recompute every graph of a die, in order of admission; a Landing out of service does nothing (26 R418). -/
def State.recomputeDie (s : State) (die : Nat) : State :=
  let s := if s.deadLandings.contains die then s else s.takeRegs die
  if s.deadLandings.contains die then s
  else (s.graphs.filterMap fun e => if e.2.die = die then some e.1 else none).foldl State.recompute s

/-- LANDING_TICK (R257): every graph of die `arg.index` is recomputed, once in each 10 µs of the waymark clock. -/
def evLandingTick (s : State) : Result :=
  let d := s.arg.index
  .next (if s.tickDue d then ({ s with ticked := Store.put 0 s.ticked d (s.now / 10000) } : State).recomputeDie d else s)

/-! ## Triggers and completion (02 R38, R39) -/

/-- A task counts for its successors: it is done, or its threads have all triggered or exited; and its own predecessors
are done (R39). -/
def Graph.mayRelease (g : Graph) (i : Nat) : Bool :=
  let t := g.task i
  !t.released && (t.state == .done || (!t.tile && t.state == .placed && decide (t.width ≤ t.handed))) &&
    (g.predsOf i).all fun j => (g.task j).state == .done || (g.task j).state == .culled

/-- Lower the predecessor counts of the successors of a task, once. -/
def Graph.release (g : Graph) (i : Nat) : Graph :=
  if g.mayRelease i then
    (g.succs i).foldl (fun g j =>
      let t := g.task j
      let n := t.preds - 1
      g.setTask j { t with preds := n, state := if n == 0 && t.state == .blocked then .ready else t.state })
      (g.setTask i { g.task i with released := true })
  else g

/-- A thread of a task hands on: its first trigger, or its exit without one. -/
def State.handOn (s : State) (gtid : Word64) : State :=
  match s.graphOf gtid with
  | none => s
  | some k =>
    let g := s.graph k
    let i := gtid.toNat / 2 ^ 16 % 2 ^ 16
    let t := g.task i
    if t.state == .placed && g.state != .abandoning then
      s.setGraph k (((g.setTask i { t with handed := t.handed + 1 }).release i).keyNew g (g.time s.now))
    else s

/-- A placed task is done (R38, R257, R262): credit, status word, successors, then a recomputation of the die. -/
def State.taskDone (s : State) (k i : Nat) : State :=
  let g := s.graph k
  let t := g.task i
  if t.state ≠ .placed || g.state = .abandoning then s
  else
    let s := match t.crew with
      | some ci => s.setCrew ci { Crew.free with gen := (s.crew ci).gen }
      | none => s
    let g := g.setTask i { t with state := .done, crew := none }
    let s := s.setGraph k g
    let s := if t.mstone = 0 then s
      else
        let m := t.mstone - 1
        let s := s.credited k ((g.curve m).value (g.time s.now))
        let g := s.graph k
        (s.setGraph k { g with mdone := g.mdone ||| 2 ^ m }).putStatus k
    let g := (s.graph k).release i
    (s.setGraph k ((g.succs i).foldl Graph.release g)).recomputeDie g.die

/-- The slot of an exited thread has emptied: when it was the last of its task, the task is done. -/
def State.threadGone (s : State) (gtid : Word64) : State :=
  match s.graphOf gtid with
  | none => s
  | some k =>
    let g := s.graph k
    let i := gtid.toNat / 2 ^ 16 % 2 ^ 16
    let t := g.task i
    let t := { t with exited := t.exited + 1 }
    let s := s.setGraph k (g.setTask i t)
    if t.width ≤ t.exited then s.taskDone k i else s

/-! ## Suspension of a context (R248, 17 R299) -/

/-- The graphs of a context become suspended. -/
def State.suspendGraphs (s : State) (c : Nat) : State :=
  (s.graphs.filterMap fun e => if e.2.ctx = c && e.2.state == .running then some e.1 else none).foldl
    (fun s k => (s.setGraph k { s.graph k with state := .suspended }).putStatus k) s

/-- They run again; a `gabort` made meanwhile takes effect (R272). -/
def State.resumeGraphs (s : State) (c : Nat) : State :=
  let ks := s.graphs.filterMap fun e => if e.2.ctx = c && e.2.state == .suspended then some e.1 else none
  let s := ks.foldl (fun s k =>
    let s := (s.setGraph k { s.graph k with state := .running }).putStatus k
    if (s.graph k).abort then s.abandonGraph k 3 else s) s
  (List.range 4).foldl State.recomputeDie s

/-- The threads of task `i` of graph `k` that are parked: each is, or is to become, a ready task of its own (23 R382). -/
def State.parkedOf (s : State) (k i : Nat) : Nat :=
  (s.conts.filter fun c => c.state != .stage2 && s.graphOf c.gtid == some k && c.gtid.toNat / 2 ^ 16 % 2 ^ 16 == i).length

/-- The placed tasks of a context (14 R274); one whose threads are all parked stands nowhere (log 56). -/
def State.placedTasks (s : State) (c : Nat) : Nat :=
  (s.graphs.map fun e =>
    if e.2.ctx = c then
      ((List.range e.2.tasks.length).filter fun i =>
        let t := e.2.task i
        t.state == .placed && (t.tile || decide (s.parkedOf e.1 i < t.width - t.exited))).length
    else 0).sum

end Sys2Proof.Machine
end

