-- ==== Sys2Proof/Machine/EngineEvents.lean ====
section
/-!
DEFINITION. The engines at work (spec/11 R211, R212, R222 to R227, R235, R239; spec/15 R279 to R285; spec/09 R201, R205;
spec/26 R407, R410): units, their operations, and how these end.
-/
namespace Sys2Proof.Machine

/-! ## Units: 1 and 2 engines A and B, 3 the special-function array, 4 and 5 the skidders -/

/-- A unit serves the operations of a queue code with an xop (R211). -/
def unitServes (unit code xop : Nat) : Bool :=
  if code ≤ 4 then (if xop = 2 then unit == 3 else unit == 1 || unit == 2) else if code % 2 = 0 then unit == 4 else unit == 5

/-- An entry is a join, which no unit serves. -/
def EngineOp.isJoin (op : EngineOp) : Bool := match op.kind with | .join _ => true | _ => false

/-- The head of a queue waits for a unit: the queue is active, and its context runs (15 R281). -/
def State.headWaits (s : State) (k : Nat) : Bool :=
  let q := s.queue k
  let x := s.ctx (keyCtx k)
  q.mode == .running && q.unit == 0 && x.mode == .active && x.stopping.isNone &&
    match q.ops with
    | { kind := .join _, .. } :: _ => false
    | [] => false
    | _ => true

/-- The xop of a queue's head. -/
def Queue.headXop (q : Queue) : Nat := match q.ops with | op :: _ => op.xop | [] => 0

/-- The queue whose head has waited longest for a unit. -/
def State.longestWaiting (s : State) (g unit : Nat) : Option Nat :=
  (s.queues.foldl (fun (b : Option (Nat × Nat)) e =>
    if keyGrove e.1 == g && unitServes unit (keyCode e.1) e.2.headXop && s.headWaits e.1 then
      match b with
      | some x => if e.2.since < x.2 then some (e.1, e.2.since) else b
      | none => some (e.1, e.2.since)
    else b) none).map (·.1)

/-- A unit takes the head of a queue; one that has started before restarts from its progress (R223): its generator stands as it
did there, where drawing again from the start of the block would bring it (05 R90). -/
def State.startHead (s : State) (k unit : Nat) : State :=
  let q := s.queue k
  match q.ops with
  | [] => s
  | op :: _ =>
    let tile := keyCode k ≤ 4
    let q := if q.started && tile then { q with restarts := q.restarts + 1, rrow := q.prog } else q
    s.setQueue k
      { q with unit, started := true, recompute := false, gen := if q.started then q.gen else BitVec.ofNat 64 (s.opGen op)
               loop := none, plan := [], planGens := [], planEnd := if tile && op.xop == 5 then q.planEnd else q.prog }

/-! ## Charges (26 R407) -/

/-- pJ for a tile row per 32 elements of K, by the wider of two formats. -/
def rowRate (a b : Nat) : Nat :=
  let w := max (elemBits a) (elemBits b)
  if w ≤ 4 then 640 else if w ≤ 8 then 1024 else if w ≤ 16 then 2048 else 8192

/-- The charge of the level of an address of an operand. -/
def State.levelAt (s : State) (op : EngineOp) (r : QReg) (a : Nat) (right : Right) : Nat :=
  ((op.keyAt s r a right).map (s.levelCharge false)).getD 0

/-- The charge of the 64 bytes at offset `p` of a copy, fill, `tzero` or route snapshot: that of the farther level. -/
def State.unitCharge (s : State) (op : EngineOp) (copy : Bool) (p : Nat) : Nat :=
  if copy then
    let src := if op.xop = 3 then 0
      else match ((op.srcAt p).run.run s).1 with | .ok a => s.levelAt op op.a a .load | .error _ => 0
    max src (s.levelAt op op.d (op.dstAt p) .store)
  else s.levelAt op op.d (op.d.lo + p) .store

/-- The charge of bytes `a` to `b` of such an operation, for each 64 bytes begun. -/
def State.bytesCharge (s : State) (op : EngineOp) (copy : Bool) (a b : Nat) : Nat :=
  (List.range ((b + 63) / 64 - (a + 63) / 64)).foldl (fun v i => v + s.unitCharge op copy (64 * ((a + 63) / 64 + i))) 0

/-- The charge of a tile operation that has gone from row `a` to row `b`. -/
def EngineOp.rowsCharge (op : EngineOp) (a b : Nat) : Nat :=
  let rows := min b op.valid - min a op.valid
  if op.xop ≤ 1 then rows * (op.cols / 32) * rowRate op.ty op.fmtB else rows * ((op.cols + 127) / 128) * 600

/-- Charge and count what an operation has done since its queue stood as `q`; `whole` says that it is done. -/
def State.chargeWork (s : State) (k unit : Nat) (op : EngineOp) (q : Queue) (whole : Bool) : State :=
  let now := s.queue k
  if 4 < keyCode k then
    (s.chargeUnit (keyGrove k) unit op.gtid (s.bytesCharge op true q.prog now.prog)).countEvent op.ctx 8 (now.prog - q.prog)
  else if op.xop = 5 then s.chargeUnit (keyGrove k) unit op.gtid (s.bytesCharge op false q.planEnd now.planEnd)
  else if op.xop = 6 then s.chargeUnit (keyGrove k) unit op.gtid (if whole then s.bytesCharge op false 0 256 else 0)
  else
    (s.chargeUnit (keyGrove k) unit op.gtid (op.rowsCharge q.prog now.prog)).countEvent op.ctx 7
      (min now.prog op.valid - min q.prog op.valid)

/-! ## Work -/

/-- Work on a queue's head, with its charge: the outcome and the machine. -/
def State.worked (s : State) (k : Nat) (op : EngineOp) (act : Eng Unit) : Except EngineStop Unit × State :=
  let q := s.queue k
  match act.run.run ({ s with opts := { s.opts with walk := s.arg.walk } } : State) with
  | (r, s') => (r, s'.chargeWork k q.unit op q (match r with | .ok _ => true | .error _ => false))

/-- The unit of a queue works on, up to a limit: the outcome and the machine. -/
def State.workOn (s : State) (k : Nat) (op : EngineOp) (limit : Option Nat) : Except EngineStop Unit × State :=
  if (s.queue k).whole then (.ok (), s)
  else s.worked k op (if keyCode k ≤ 4 then op.runTile k limit else op.runCopy k limit)

/-- The unit of a queue writes the granule of a key ahead of the others (09 R202). -/
def State.workAhead (s : State) (k : Nat) (op : EngineOp) (key : Nat) : Except EngineStop Unit × State :=
  if (s.queue k).whole then (.ok (), s)
  else s.worked k op (if keyCode k ≤ 4 then op.tileAhead k key else op.copyAhead k key)

/-- The head of a queue and the operation are in progress on a unit. -/
def State.inProgress (s : State) (k : Nat) : Option EngineOp :=
  let q := s.queue k
  if q.unit = 0 || q.mode != .running then none else q.ops.head?

/-- All of an operation but its completion word is done: the increment, with it the route add, which an operation that ends in
error does not make, and the end (R201, R227). -/
def State.finishOp (s : State) (k : Nat) (op : EngineOp) : State :=
  let s := s.setQueue k { s.queue k with whole := true }
  match op.increment.run.run s with
  | (.error .pause, s) => s
  | (.error x, s) => s.engineStop k x
  | (.ok _, s) =>
    let task := s.taskOf op
    let s := (s.routeAdd k op).endHead k
    match task with
    | some (g, i) => s.taskDone g i
    | none => s

/-- UNIT_DISPATCH (R212): unit `arg.index2` of grove `arg.index` is free and takes the head that has waited longest. A unit
that holds an operation works on it, to row or byte `arg.value`; where `arg.addr` is not 0, it writes the granule of key
`arg.addr` − 1 alone (09 R202). -/
def evUnitDispatch (s : State) : Result :=
  let g := s.arg.index
  let u := s.arg.index2
  match s.queues.find? fun e => keyGrove e.1 == g && e.2.unit == u && u != 0 with
  | some e =>
    match s.inProgress e.1 with
    | none => .next s
    | some op =>
      match (if s.arg.addr ≠ 0 then s.workAhead e.1 op (s.arg.addr - 1)
             else s.workOn e.1 op ((s.queue e.1).limit (some s.arg.value))) with
      | (.error .pause, s) => .next s
      | (.error .residue, s) => .next (s.engineStop e.1 .residue)
      | (.ok _, s') => .next (if s.arg.addr ≠ 0 then s' else s)
      | _ => .next s
  | none =>
    if !s.unitFree g u || (s.grove g).budget ≤ 0 || (u == 2 && s.unitFree g 1) then .next s
    else match s.longestWaiting g u with
      | none => .next s
      | some k => .next (s.startHead k u)

/-- TILE_OP_COMPLETE (R222, R225): the operation at the head of queue `arg.index` is whole; one that is to stop at its block is
not. `arg.resid` names the blocks that meet a residue mismatch: one named twice ends the operation with ERES. -/
def evTileOpComplete (s : State) : Result :=
  let k := s.arg.index
  match s.inProgress k with
  | none => .next s
  | some op =>
    if 4 < keyCode k || (s.queue k).stopping != 0 then .next s
    else match s.workOn k op none with
      | (.ok _, s') => .next (s'.finishOp k op)
      | (.error .residue, s') => .next (s'.engineStop k .residue)
      | (.error .pause, s') => .next s'
      | _ => .next s

/-- COPY_COMPLETE (R239): the copy at the head of queue `arg.index` is whole. -/
def evCopyComplete (s : State) : Result :=
  let k := s.arg.index
  match s.inProgress k with
  | none => .next s
  | some op =>
    if keyCode k ≤ 4 then .next s
    else match s.workOn k op none with
      | (.ok _, s') => .next (s'.finishOp k op)
      | (.error .pause, s') => .next s'
      | _ => .next s

/-- An engine's work in queue `arg.index` ends in a stop of a kind: where `ahead` and `arg.addr` is not 0, at the granule of key
`arg.addr` − 1, of which those before it may stand unwritten (log 88). -/
def State.engineTrouble (s : State) (ahead : Bool) (p : EngineStop → Bool) : Result :=
  let k := s.arg.index
  match s.inProgress k with
  | none => .next s
  | some op =>
    match (if ahead && s.arg.addr != 0 then s.workAhead k op (s.arg.addr - 1)
           else s.workOn k op (if op.hasRows || 4 < keyCode k then (s.queue k).limit none else none)) with
    | (.error x, s') => if p x then .next (s'.engineStop k x) else .next s
    | _ => .next s

/-- ENGINE_TRANSLATION_FAULT (R223, R239). -/
def evEngineTranslationFault (s : State) : Result := s.engineTrouble false fun x => match x with | .translation .. => true | _ => false
/-- An error in the entry of a queue's store that stands at its head (26 R417, log 102): a single-bit error is corrected and counted, a
double-bit error ends the operation with EDATA. -/
def State.queueStoreError (s : State) (k : Nat) (double : Bool) : State :=
  let q := s.queue k
  if q.ops.isEmpty || q.mode != .running then s
  else if double then ({ s with ras := { s.ras with ue := satInc 8 s.ras.ue } } : State).haltEnded k 2 0
  else { s with ras := { s.ras with cesram := satInc 16 s.ras.cesram } }

/-- ENGINE_DATA_ERROR (09 R205): poison, or with `arg.ok` false a request beyond the package that ends in error; with
`arg.index2` 1 or 2 an error of one bit or of two in the store of queue `arg.index`. -/
def evEngineDataError (s : State) : Result :=
  match s.arg.index2 with
  | 0 => s.engineTrouble true fun x => match x with | .data _ => true | _ => false
  | b => .next (s.queueStoreError s.arg.index (b != 1))
/-- ENGINE_CAPABILITY_VIOLATION (R226, R238). -/
def evEngineCapabilityViolation (s : State) : Result := s.engineTrouble false fun x => match x with | .violation .. => true | _ => false

/-- JOIN_RESOLVE (15 R284): the join at the head of queue `arg.index` finds its named work ended. -/
def evJoinResolve (s : State) : Result :=
  let k := s.arg.index
  match (s.queue k).ops with
  | { kind := .join _, .. } :: _ => .next (if (s.queue k).mode == .running && !s.blocked k then s.endHead k else s)
  | _ => .next s

/-- CURRENT_BLOCK_END (R224): the tile operation of queue `arg.index` that abandonment or suspension stops comes to the end
of its block: it is discarded, or stays at the head to be restarted. -/
def evCurrentBlockEnd (s : State) : Result :=
  let k := s.arg.index
  match s.inProgress k with
  | none => .next s
  | some op =>
    let q := s.queue k
    if q.stopping = 0 then .next s
    else match s.workOn k op (if op.hasRows && decide (q.stopRow < op.rows) then some q.stopRow else none) with
      | (.error .pause, s) =>
        let q' := s.queue k
        if q'.prog < min q.stopRow op.rows || !op.hasRows then .next s
        else if q.stopping = 2 then .next (s.discardOp k op)
        else .next (s.setQueue k { q' with unit := 0, started := true, stopping := 0 })
      | (.error x, s) => .next (s.engineStop k x)
      | (.ok _, s) => .next (if q.stopping = 2 then s.discardOp k op else s.finishOp k op)

end Sys2Proof.Machine
end

