-- ==== Sys2Proof/Machine/CrewOps.lean ====
section
/-!
DEFINITION. Crew and barrier instructions (spec/19 R331 to R349, spec/20 R352 to R358): opcodes 0x58 to 0x5F and escape
0x73, and what a home performs for members on peer packages.
-/
namespace Sys2Proof.Machine

/-! ## Handles (R332, R333) -/

/-- The high half of a crew handle. -/
def crewHigh : Nat := 0x0002000000000000

/-- The handle of entry `ci` of this package's crew table. -/
def State.crewHandle (s : State) (ci : Nat) : QReg :=
  let c := s.crew ci
  ⟨BitVec.ofNat 128 (crewHigh * 2 ^ 64 + s.pkg * 2 ^ 52 + c.ctx * 2 ^ 40 + c.gen * 2 ^ 24 + flag c.dom * 2 ^ 17 +
    flag c.gang * 2 ^ 16 + ci), true, 27⟩

/-- The check of R333: the home package and the entry. The generation of an entry of a peer package is checked there. -/
def State.crewCheck (s : State) (t : Thread) (r : QReg) : Except Trap (Nat × Nat) :=
  if !r.cap then .error (.format false 0)
  else
    let h := r.lo
    let pkg := bits h 63 52
    let ci := bits h 13 0
    let bad := capHigh r.bits != crewHigh || bits h 23 18 != 0 || bits h 15 14 != 0 || bits h 51 40 != t.ctx ||
      (!bit h 17 && pkg != s.pkg) ||
      (pkg == s.pkg && (!(s.crew ci).used || (s.crew ci).gen != bits h 39 24 || (s.crew ci).ctx != t.ctx))
    if bad then .error (.capability h) else .ok (pkg, ci)

/-- A live instruction on a crew: its other operand is `sound`, then `here` for a crew of this package, else the operation is
asked of its home. -/
def State.onCrew (s : State) (kind : Nat) (e : Fields) (sound : Thread → Bool) (here : Thread → Nat → State) : Result :=
  s.scalar e fun t =>
    match s.crewCheck t (t.reg e.a) with
    | .error x => s.trap x
    | .ok (pkg, ci) =>
      if !sound t then s.trap (.format false 0)
      else if pkg = s.pkg then here t ci
      else (s.put { t with wait := .peer kind e }).ask pkg (if kind = 5 ∨ kind = 9 then 0 else 1) (.thread s.cur)

/-! ## Creating, finding and freeing (R335 to R338) -/

/-- The entries of the crew table that are taken. -/
def State.crewTaken (s : State) : NatSet := s.crews.filterMap fun e => if e.2.used then some e.1 else none

/-- A crew of a name in a context and a scope. -/
def State.crewNamed (s : State) (c : Nat) (dom : Bool) (name : Nat) : Option Nat :=
  (s.crews.find? fun e => e.2.used && e.2.ctx == c && e.2.dom == dom &&
    (e.2.origin == .named (BitVec.ofNat 64 name))).map (·.1)

/-- Take the lowest free entry for a crew. -/
def State.takeCrew (s : State) (c : Crew) : Option (Nat × State) :=
  (s.crewTaken.leastFree crewEntries 0).map fun ci =>
    (ci, s.setCrew ci { c with used := true, gen := ((s.crew ci).gen + 1) % 2 ^ 16 })

/-- Free an entry; its generation stays. -/
def State.freeCrew (s : State) (ci : Nat) : State := s.setCrew ci { Crew.free with gen := (s.crew ci).gen }

/-- What `cmake` and `cfind` write: the handle, or a code; and the pair. -/
def Thread.crewResult (t : Thread) (e : Fields) (pk : Nat) (r : Except Int QReg) : Thread :=
  match r with
  | .ok h => (t.setReg e.d h).setPair pk 16 true
  | .error k => (t.setReg e.d (dataInt k)).setPair pk 16 false

/-- Pass and wait on memory for the crew unit's answer. -/
def State.crewDone (s : State) (t : Thread) (e : Fields) : State := s.put { t.next e with wait := .memory }

/-- CMAKE (R335). -/
def execCmake (e : Fields) (s : State) : Result :=
  s.scalar e fun t =>
    let name := e.lit.toNat
    let dom := e.imm.getLsbD 1
    let fail (k : Int) : State := s.crewDone (t.crewResult e e.a.toNat (.error k)) e
    if dom && name / 2 ^ 52 != s.pkg then fail (-3)
    else if (s.crewNamed t.ctx dom name).isSome then fail (-2)
    else match s.takeCrew { Crew.free with ctx := t.ctx, dom, gang := e.imm.getLsbD 0, origin := .named e.lit } with
      | none => fail (-1)
      | some (ci, s) => s.crewDone (t.crewResult e e.a.toNat (.ok (s.crewHandle ci))) e

/-- CFIND (R336). -/
def execCfind (e : Fields) (s : State) : Result :=
  s.scalar e fun t =>
    match t.intB e with
    | none => s.trap (.format false 0)
    | some name =>
      let dom := e.imm.getLsbD 1
      if dom && name / 2 ^ 52 != s.pkg then (s.put { t with wait := .peer 8 e }).ask (name / 2 ^ 52) 1 (.thread s.cur)
      else
        let r := match s.crewNamed t.ctx dom name with | some ci => .ok (s.crewHandle ci) | none => .error (-1)
        s.crewDone (t.crewResult e e.c.toNat r) e

/-- A thread waits on a barrier of a crew: one of the package, placed or saved, or one of a peer package. -/
def State.crewWaited (s : State) (ci : Nat) : Bool :=
  !(s.crewWaiters ci).isEmpty ||
    ((List.range 4).any fun b => ((s.crew ci).bar b).waiters.any fun m => memberPkg m != s.pkg) ||
    s.ctxs.any fun e => e.2.saved.any fun x => match x.crewWait with
      | some (.crew c _ _ _ _) => c == ci
      | some (.crewHeld c _ _ _) => c == ci
      | _ => false

/-- The result of freeing a crew (R337), and the machine after it. -/
def State.tryFree (s : State) (ci : Nat) : Int × State :=
  let c := s.crew ci
  match c.origin with
  | .implicit _ => (-2, s)
  | .named _ => if !c.members.isEmpty || !c.joins.isEmpty || s.crewWaited ci then (-1, s) else (0, s.freeCrew ci)

/-- CFREE (R337). -/
def execCfree (e : Fields) (s : State) : Result :=
  s.onCrew 6 e (fun _ => true) fun t ci => let (k, s) := s.tryFree ci; s.crewDone (t.setReg e.d (dataInt k)) e

/-- The status of R345 for a member. -/
def State.crewStatus (s : State) (ci : Nat) (m : MemberId) : Nat × Nat :=
  let c := s.crew ci
  let rank := if c.members.contains m then (c.ranks.idxOf m : Int) else -1
  (wrap 64 rank, c.bar0.phase * 2 ^ 32 + c.members.length % 2 ^ 17 * 2 ^ 15 + c.faults % 2 ^ 11 * 2 ^ 4 + flag c.dom * 8 +
    flag c.gang * 4 + flag (!c.joins.isEmpty || !c.leaves.isEmpty) * 2 + flag c.broken)

/-- CSTAT (R345). -/
def execCstat (e : Fields) (s : State) : Result :=
  s.onCrew 7 e (fun _ => true) fun t ci =>
    let (lo, hi) := s.crewStatus ci (s.memberOf t)
    s.crewDone (t.setReg e.d (lanes64 lo hi 4)) e

/-! ## Joining and leaving (R339) -/

/-- A `cjoin` of a member at the home. -/
def State.joinCrew (s : State) (ci : Nat) (m : MemberId) : Bool × State :=
  let c := s.crew ci
  if c.members.contains m then
    if c.leaves.contains m then (true, s.setCrew ci { c with leaves := c.leaves.erase m }) else (false, s)
  else if c.joins.contains m || 65536 ≤ c.members.length + c.joins.length then (false, s)
  else
    let late := if c.lateAt = s.tick + 1 then c.late else []
    (true, (s.setCrew ci ({ c with joins := insertJoin late m c.joins }.addLate s.tick m)).settle ci settleFuel)

/-- A `cleave` of a member at the home. -/
def State.leaveCrew (s : State) (ci : Nat) (m : MemberId) : Bool × State :=
  let c := s.crew ci
  if c.members.contains m then
    if c.leaves.contains m then (false, s) else (true, s.setCrew ci ({ c with leaves := c.leaves ++ [m] }.addLate s.tick m))
  else if c.joins.contains m then
    (true, (s.setCrew ci { c with joins := c.joins.erase m }).tell [memberPkg m] (.left ci m))
  else (false, s)

/-- `cjoin` and `cleave`, `kind` 5 and 9. -/
def State.memberOp (s : State) (kind : Nat) (e : Fields) (f : State → Nat → MemberId → Bool × State) : Result :=
  s.onCrew kind e (fun _ => true) fun t ci =>
    let t := { t.next e with wait := .memory }
    let (k, s) := f (s.put t) ci (s.memberOf t)
    match s.thread s.cur with
    | some t => s.put (t.setPair e.d.toNat 16 k)
    | none => s

/-- CJOIN (R339). -/
def execCjoin (e : Fields) (s : State) : Result := s.memberOp 5 e State.joinCrew
/-- CJOIN_X (R339). -/
def execCjoinX (e : Fields) (s : State) : Result := s.memberOp 5 e State.joinCrew
/-- CLEAVE (R339). -/
def execCleave (e : Fields) (s : State) : Result := s.memberOp 9 e State.leaveCrew
/-- CLEAVE_X (R339). -/
def execCleaveX (e : Fields) (s : State) : Result := s.memberOp 9 e State.leaveCrew

/-! ## Arrivals (R342, R352, R356, R357) -/

/-- Meet an arrival at the home: a phase that counts nobody is released first (R351). -/
def State.meetArrival (s : State) (ci b : Nat) (a : Arrival) : ArriveResult × State :=
  let c := s.crew ci
  if !c.members.contains a.who then (.broken 3, s)
  else if c.gang && c.broken then (.broken 1, s)
  else
    let s := s.openEmpty ci b
    let r := (s.crew ci).arriveResult b a
    (r, s.setCrew ci ((s.crew ci).record b a r))

/-- What an arrival carries. -/
structure Collective where
  /-- 0 `cbar`, 2 `cvote`, 3 `cred`; 4 `carr`, which does not wait. -/
  kind : Nat
  phase : PhaseKind
  value : Word128
deriving DecidableEq, Repr

/-- An arrival of the issuing thread, after its release over domain scope (R354). -/
def State.arrive (s : State) (t : Thread) (e : Fields) (ci : Nat) (v : Collective) : State :=
  let b := e.imm.toNat % 4
  let a : Arrival := { who := s.memberOf t, kind := v.phase, value := v.value, waits := v.kind != 4 }
  let (r, s) := s.meetArrival ci b a
  match r with
  | .broken c => s.trap (.crewBroken c)
  | .full => s.retry t (.crewFull ci b)
  | .held k =>
    if v.kind = 4 then s.crewDone (t.setReg e.d (lanes64 k 0 4)) e else s.put { t with wait := .crewHeld ci b v.kind e }
  | .taken k =>
    let s := if v.kind = 4 then s.crewDone (t.setReg e.d (lanes64 k 0 4)) e else s.put { t with wait := .crew ci b k v.kind e }
    s.settle ci settleFuel

/-- A collective: the handle, the contribution, the release, the arrival. -/
def State.collective (s : State) (e : Fields) (f : Thread → Except Trap Collective) : Result :=
  s.scalar e fun t =>
    match s.crewCheck t (t.reg e.a) with
    | .error x => s.trap x
    | .ok (pkg, ci) =>
      match f t with
      | .error x => s.trap x
      | .ok v =>
        s.release t 4 false <|
          if pkg = s.pkg then s.arrive t e ci v else (s.put { t with wait := .peer v.kind e }).ask pkg 0 (.thread s.cur)

/-- A plain arrival. -/
def plainArrival (kind : Nat) : Collective := { kind, phase := .plain, value := 0 }

/-- CBAR (R356). -/
def execCbar (e : Fields) (s : State) : Result := s.collective e fun _ => .ok (plainArrival 0)
/-- CBAR_X (R356). -/
def execCbarX (e : Fields) (s : State) : Result := s.collective e fun _ => .ok (plainArrival 0)
/-- CARR (R357). -/
def execCarr (e : Fields) (s : State) : Result := s.collective e fun _ => .ok (plainArrival 4)
/-- CARR_X (R357). -/
def execCarrX (e : Fields) (s : State) : Result := s.collective e fun _ => .ok (plainArrival 4)

/-- A vote: bit 0 of the predicate that fb names (R343). -/
def Thread.vote (t : Thread) (e : Fields) : Collective :=
  { kind := 2, phase := .vote e.xop.toNat, value := BitVec.ofNat 128 ((t.pred e.b.toNat).toNat % 2) }

/-- CVOTE (R343). -/
def execCvote (e : Fields) (s : State) : Result := s.collective e fun t => .ok (t.vote e)
/-- CVOTE_X (R343). -/
def execCvoteX (e : Fields) (s : State) : Result := s.collective e fun t => .ok (t.vote e)

/-- The type of a reduction: ty, or the tag of fb (R344). -/
def Thread.credType (t : Thread) (e : Fields) : Nat :=
  if e.ty != 0 then e.ty.toNat else if (t.reg e.b).cap then 0 else (t.reg e.b).tag.toNat

/-- A contribution to a reduction (R344): a source that gives no type is a format fault (04 R67). -/
def Thread.contribution (t : Thread) (e : Fields) : Except Trap Collective :=
  let ty := t.credType e
  let op := e.xop.toNat
  if ty = 0 || !(credTys op).getLsbD ty || !srcOk e ty (t.reg e.b) then .error (.format false 0)
  else
    let w := fmtWidth ty
    let own (l : Nat) : Nat :=
      if !e.mod.getLsbD 0 && t.active e.g w l then lane (t.reg e.b).bits.toNat w l else redIdentity op ty
    .ok { kind := 3, phase := .red op ty, value := BitVec.ofNat 128 (mapLanes w own) }

/-- CRED (R344). -/
def execCred (e : Fields) (s : State) : Result := s.collective e fun t => t.contribution e
/-- CRED_X (R344). -/
def execCredX (e : Fields) (s : State) : Result := s.collective e fun t => t.contribution e

/-! ## cwait (R358) -/

/-- The flags of a `cwait` on a released phase. -/
def Barrier.waitFlags (b : Barrier) (k : Nat) : Nat :=
  if k = (b.phase + 2 ^ 32 - 1) % 2 ^ 32 then flag b.lastDamaged else 2

/-- A member may wait on a barrier, and a pending joiner on barrier 0; else the trap's cause (R346, R358). -/
def Crew.waitRefused (c : Crew) (b : Nat) (m : MemberId) : Option Nat :=
  if !(c.members.contains m || (b == 0 && c.joins.contains m)) then some 3
  else if c.gang && c.broken then some 1
  else none

/-- `cwait`, for a phase or for the open one. -/
def State.cwaitOp (s : State) (e : Fields) : Result :=
  s.onCrew 1 e (fun t => !e.mod.getLsbD 0 || (t.reg e.b).isInt) fun t ci =>
    let b := e.imm.toNat % 4
    match (s.crew ci).waitRefused b (s.memberOf t) with
      | some c => s.trap (.crewBroken c)
      | none =>
        let bar := (s.crew ci).bar b
        let k := if e.mod.getLsbD 0 then (t.reg e.b).lo % 2 ^ 32 else bar.phase
        if phaseReleased bar.phase k then s.crewDone (t.setReg e.d (lanes64 k (bar.waitFlags k) 4)) e
        else s.put { t with wait := .crew ci b k 1 e }

/-- CWAIT (R358). -/
def execCwait (e : Fields) (s : State) : Result := s.cwaitOp e
/-- CWAIT_PH (R358), with PH or without. -/
def execCwaitPh (e : Fields) (s : State) : Result := s.cwaitOp e

/-! ## At the home, for a member on a peer package -/

/-- What a home answers: nothing yet, or whether it was performed, with a status and a value. Status 0 is done or taken, 1
held or waiting, 2 a crew-broken trap with its cause, 3 a handle that is not current. -/
inductive HomeReply where
  | later
  | reply (ok : Bool) (status value : Nat)
deriving DecidableEq, Repr

/-- An arrival from a peer package. -/
def State.peerArrive (s : State) (ci b : Nat) (a : Arrival) : HomeReply × State :=
  let (r, s) := s.meetArrival ci b a
  match r with
  | .broken c => (.reply true 2 c, s)
  | .full => (.later, s)
  | .held k => (.reply true 1 k, s)
  | .taken k => (.reply true 0 k, s.settle ci settleFuel)

/-- A `cwait` from a peer package: the flags of a phase that is released stand above its number. -/
def State.peerAwait (s : State) (ci b : Nat) (k : Option Nat) (m : MemberId) : HomeReply × State :=
  match (s.crew ci).waitRefused b m with
  | some c => (.reply true 2 c, s)
  | none =>
    let c := s.crew ci
    let bar := c.bar b
    let k := k.getD bar.phase
    if phaseReleased bar.phase k then (.reply true 0 (k + 2 ^ 32 * bar.waitFlags k), s)
    else (.reply true 1 k, s.setCrew ci (c.setBar b { bar with awaits := bar.awaits ++ [(m, k)] }))

/-! ## A crew of a peer package: at its members -/

/-- The members saved on this package that wait for a phase of a crew. -/
def State.savedWaiting (s : State) (ci b k : Nat) : List MemberId :=
  s.ctxs.flatMap fun e => e.2.saved.filterMap fun v => match v.crewWait with
    | some (.crew c b' k' _ _) => if c = ci ∧ b' = b ∧ k' = k then some (s.pkg * 2 ^ 64 + v.gtid.toNat) else none
    | _ => none

/-- The crew entry, as `peerCrew`, and the barrier that a collective asked of a peer package is about. -/
def Thread.askedBarrier (t : Thread) : Option (Nat × Nat) :=
  match t.wait with
  | .peer kind e =>
    let h := (t.reg e.a).lo
    if kind ≤ 3 then some (peerCrew (bits h 63 52) (bits h 13 0), e.imm.toNat % 4) else none
  | _ => none

/-- The members whose collective on a barrier of a crew has not been answered: the release may come before the answer. -/
def State.askedWaiting (s : State) (ci b : Nat) : List MemberId :=
  s.slots.filterMap fun e => e.2.thread.bind fun t => if t.askedBarrier = some (ci, b) then some (s.memberOf t) else none

/-- The result of a phase is kept for its saved members until they are restored (19 R349), and for those whose collective has
not been answered. -/
def State.keepRelease (s : State) (ci b : Nat) (r : PhaseResult) : State :=
  match s.savedWaiting ci b r.phase ++ s.askedWaiting ci b with
  | [] => s
  | l =>
    let c := s.crew ci
    s.setCrew ci (c.setBar b { c.bar b with results := { r with takers := l } :: (c.bar b).results })

/-- The threads of this package take the result of a phase of a crew of a peer package. -/
def State.takeRelease (s : State) (pkg ci b : Nat) (r : PhaseResult) : State :=
  let s := s.keepRelease (peerCrew pkg ci) b r
  { s with slots := s.slots.map fun e =>
      match e.2.thread with
      | some t =>
        match t.wait with
        | .crew c b' k kind f =>
          if c = peerCrew pkg ci ∧ b' = b ∧ k = r.phase then
            (e.1, { e.2 with thread := some (t.takeResult r false kind f) })
          else e
        | _ => e
      | none => e }

/-- The result of the phase that a member waits for is held for it (19 R342, R349). -/
def State.resultHeld (s : State) (m : MemberId) : Wait → Bool
  | .crew ci b k _ _ => ((s.crew ci).bar b).results.any fun r => r.phase == k && r.takers.contains m
  | _ => false

/-- A thread of this package is an admitted member of a crew of a peer package. -/
def State.farMember (s : State) (m : MemberId) (pkg ci : Nat) : Bool :=
  s.farCrews.any fun f => f.who == m && f.pkg == pkg && f.ci == ci && f.member

/-- A gang crew of a peer package is broken: its members of this package that wait on its barriers stop (19 R346), but for saved
ones whose phase has been released. -/
def State.takeBroken (s : State) (pkg ci : Nat) : State :=
  let k := peerCrew pkg ci
  let hit (w : Wait) : Bool := [0, 1, 2, 3].any fun b => w.onBarrier k b
  let ctxs := s.ctxs.map fun e =>
    (e.1, { e.2 with saved := e.2.saved.map fun v =>
      { v with crewWait := v.crewWait.filter fun w => !hit w || s.resultHeld (s.pkg * 2 ^ 64 + v.gtid.toNat) w } })
  let ws := (s.crewWaiters k).filter fun n => (s.thread n).any fun t => s.farMember (s.memberOf t) pkg ci
  ws.foldl (fun s n => s.stopThread n 5 1 0 0 0)
    { s with ctxs, farCrews := s.farCrews.map fun f => if f.pkg = pkg ∧ f.ci = ci then { f with broken := true } else f }

/-- A boundary of a crew of a peer package has admitted a member of this package; the answer of its `cjoin` may come later. -/
def State.takeJoined (s : State) (pkg ci : Nat) (who : MemberId) (gang : Bool) : State :=
  if s.farCrews.any fun f => f.who == who && f.pkg == pkg && f.ci == ci then
    { s with farCrews := s.farCrews.map fun f => if f.who = who ∧ f.pkg = pkg ∧ f.ci = ci then { f with member := true } else f }
  else { s with farCrews := s.farCrews ++ [{ who, pkg, ci, gang, member := true, broken := false, waits := false }] }

/-- The `cjoin` of a thread of this package has been performed at a peer package. -/
def State.joinedFar (s : State) (who : MemberId) (pkg ci : Nat) (gang : Bool) : State :=
  if s.farCrews.any fun f => f.who == who && f.pkg == pkg && f.ci == ci then s
  else { s with farCrews := s.farCrews ++ [{ who, pkg, ci, gang, member := false, broken := false, waits := false }] }

/-- Members of other packages wait on the barriers of a crew of a peer package, or no longer do (19 R348). -/
def State.takeWaits (s : State) (pkg ci : Nat) (now : Bool) : State :=
  { s with farCrews := s.farCrews.map fun f => if f.pkg = pkg ∧ f.ci = ci then { f with waits := now } else f }

/-- A member of this package is no longer one of a crew of a peer package. -/
def State.takeLeft (s : State) (pkg ci : Nat) (who : MemberId) : State :=
  { s with farCrews := s.farCrews.filter fun f => !(f.who == who && f.pkg == pkg && f.ci == ci) }

/-- A member on a peer package of a gang crew of this home has been pre-empted: the others are (19 R347). -/
def State.takeGang (s : State) (ci : Nat) (who : MemberId) : State :=
  if s.inGang ci who then ((s.slotsOfGangs [ci]).foldl (fun s n => s.request n .gang) s).tellGang ci else s

/-- A member of a crew of this home that stands beyond a package waits on one of its barriers. -/
def State.waitsBeyond (s : State) (ci pkg : Nat) : Bool :=
  let c := s.crew ci
  (List.range 4).any fun b => (c.bar b).waiters.any fun m => c.members.contains m && memberPkg m != pkg

/-- The packages of the members of crews without GANG are told when a member elsewhere comes to wait on a barrier, or none does any
more (19 R348). -/
def State.tellWaits (s : State) : State :=
  s.crews.foldl (fun s e =>
    if !e.2.used || e.2.gang then s
    else ((e.2.members.map memberPkg).filter (· != s.pkg)).eraseDups.foldl (fun s p =>
      let c := s.crew e.1
      let now := s.waitsBeyond e.1 p
      if now = c.told.mem p then s
      else (s.setCrew e.1 { c with told := if now then c.told.add p else c.told.del p }).tell [p] (.waits e.1 now)) s) s

end Sys2Proof.Machine
end

