-- ==== Sys2Proof/Decode.lean ====
section
/-!
DEFINITION. Decoding (spec/06_encoding.md R99 to R112) on any list of bytes, and the encoder of the same tables.
-/
namespace Sys2Proof

/-- Why bytes are no instruction: the causes of R111 Table 9, or fewer bytes than the length code asks for. -/
inductive Reject where
  | cause (n : Nat)
  | short
deriving DecidableEq, Repr

/-- The 32-bit word of four bytes, the first the least significant. -/
def word32 (b0 b1 b2 b3 : Byte) : Word32 := b3 ++ b2 ++ b1 ++ b0

/-- The 32-bit words of a list of bytes. -/
def wordsOfBytes : List Byte → List Word32
  | b0 :: b1 :: b2 :: b3 :: r => word32 b0 b1 b2 b3 :: wordsOfBytes r
  | _ => []

/-- The four bytes of a 32-bit word, the least significant first. -/
def bytesOfWord (w : Word32) : List Byte :=
  [w.extractLsb' 0 8, w.extractLsb' 8 8, w.extractLsb' 16 8, w.extractLsb' 24 8]

/-- The form of a length code (R100 Table 2). -/
def formOfLen (w0 : Word32) : Form :=
  if w0.getLsbD 31 then (if w0.getLsbD 30 then .extLit else .lit) else (if w0.getLsbD 30 then .ext else .one)

/-- The primary opcode, bits 21:15 of word 0. -/
def opOfWord (w0 : Word32) : Nat := (w0.extractLsb' 15 7).toNat

/-- The fields of the words of one instruction (R99, R101, R102). -/
def fieldsOfWords (f : Form) (w0 w1 w2 l0 l1 : Word32) : Fields :=
  { form := f, g := w0.extractLsb' 22 8, d := w0.extractLsb' 10 5, a := w0.extractLsb' 5 5, b := w0.extractLsb' 0 5
    c := w1.extractLsb' 17 5, xop := w1.extractLsb' 22 10, ty := w1.extractLsb' 12 5, mod := w1.extractLsb' 0 12
    imm := w2, lit := l1 ++ l0 }

/-- Opcode and fields of the first instruction of a list of words; none when words are missing. -/
def parse : List Word32 → Option (Nat × Fields)
  | [] => none
  | w0 :: r =>
    match formOfLen w0, r with
    | .one, _ => some (opOfWord w0, fieldsOfWords .one w0 0 0 0 0)
    | .ext, w1 :: w2 :: _ => some (opOfWord w0, fieldsOfWords .ext w0 w1 w2 0 0)
    | .lit, l0 :: l1 :: _ => some (opOfWord w0, fieldsOfWords .lit w0 0 0 l0 l1)
    | .extLit, w1 :: w2 :: l0 :: l1 :: _ => some (opOfWord w0, fieldsOfWords .extLit w0 w1 w2 l0 l1)
    | _, _ => none

/-- The form classes of R108 Table 7 and R109; none for the reserved opcodes of R110. -/
def opForms (op : Nat) : Option (List Form) :=
  if op ≥ 0x78 || op == 0x76 || (0x60 ≤ op && op ≤ 0x67) then none
  else if op ≥ 0x70 then some [.ext, .extLit]
  else if [0x36, 0x3B, 0x3C, 0x3D, 0x69, 0x6E].contains op then some [.one]
  else if op == 0x32 || op == 0x3E then some [.ext]
  else if op == 0x30 || op == 0x31 then some [.ext, .extLit]
  else if op == 0x5F then some [.lit, .extLit]
  else if op ≤ 0x11 || (0x17 ≤ op && op ≤ 0x1C) || op == 0x1E || op == 0x1F || (0x20 ≤ op && op ≤ 0x25) || op == 0x2D ||
      op == 0x48 || op == 0x49 || op == 0x4E || (0x50 ≤ op && op ≤ 0x52) then some [.one, .ext, .lit, .extLit]
  else some [.one, .ext]

/-- The row that an opcode, a subfunction and a form select (step 6 of R111): none when the subfunction is not
assigned. -/
def select (op : Nat) (e : Fields) : Option Instr :=
  match op with
  | 0x0 => if e.form == .one then some (.add e) else if e.xop == 0 then some (.addX e) else none
  | 0x1 => if e.form == .one then some (.sub e) else if e.xop == 0 then some (.subX e) else none
  | 0x2 => if e.form == .one then some (.mul e) else if e.xop == 0 then some (.mulX e) else none
  | 0x3 => if e.form == .one then some (.mulhi e) else if e.xop == 0 then some (.mulhiX e) else none
  | 0x4 => if e.form == .one then some (.div e) else if e.xop == 0 then some (.divX e) else none
  | 0x5 => if e.form == .one then some (.rem e) else if e.xop == 0 then some (.remX e) else none
  | 0x6 => if e.form == .one then some (.min e) else if e.xop == 0 then some (.minX e) else none
  | 0x7 => if e.form == .one then some (.max e) else if e.xop == 0 then some (.maxX e) else none
  | 0x8 => if e.form == .one then some (.and e) else if e.xop == 0 then some (.andX e) else none
  | 0x9 => if e.form == .one then some (.or e) else if e.xop == 0 then some (.orX e) else none
  | 0xa => if e.form == .one then some (.xor e) else if e.xop == 0 then some (.xorX e) else none
  | 0xb => if e.form == .one then some (.andn e) else if e.xop == 0 then some (.andnX e) else none
  | 0xc => if e.form == .one then some (.shl e) else if e.xop == 0 then some (.shlX e) else none
  | 0xd => if e.form == .one then some (.shr e) else if e.xop == 0 then some (.shrX e) else none
  | 0xe => if e.form == .one then some (.sar e) else if e.xop == 0 then some (.sarX e) else none
  | 0xf => if e.form == .one then some (.rot e) else if e.xop == 0 then some (.rotX e) else none
  | 0x10 => if e.form == .one then some (.addsat e) else if e.xop == 0 then some (.addsatX e) else none
  | 0x11 => if e.form == .one then some (.subsat e) else if e.xop == 0 then some (.subsatX e) else none
  | 0x12 => if e.form == .one then some (.abs e) else if e.xop == 0 then some (.absX e) else none
  | 0x13 => if e.form == .one then some (.neg e) else if e.xop == 0 then some (.negX e) else none
  | 0x14 => if e.form == .one then some (.clz e) else if e.xop == 0 then some (.clzX e) else none
  | 0x15 => if e.form == .one then some (.ctz e) else if e.xop == 0 then some (.ctzX e) else none
  | 0x16 => if e.form == .one then some (.popc e) else if e.xop == 0 then some (.popcX e) else none
  | 0x17 => if e.form == .one then some (.mov e) else if e.xop == 0 then some (.movX e) else if e.xop == 1 then some (.movTag e) else if e.xop == 2 then some (.movRaw e) else none
  | 0x18 => if e.form == .one then some (.sel e) else if e.xop == 0 then some (.selX e) else none
  | 0x19 => if e.form == .one then some (.shuf e) else if e.xop == 0 then some (.shufX e) else none
  | 0x1a => if e.form == .one then some (.bcast e) else if e.xop == 0 then some (.bcastX e) else none
  | 0x1b => if e.form == .one then some (.ext e) else if e.xop == 0 then some (.extX e) else none
  | 0x1c => if e.form == .one then some (.pack e) else if e.xop == 0 then some (.packX e) else none
  | 0x1d => if e.form == .one then some (.unpack e) else if e.xop ≤ 1 then some (.unpackX e) else none
  | 0x1e => if e.form == .one then some (.mad e) else if e.xop == 0 then some (.madX e) else none
  | 0x1f => if e.form == .one then some (.ins e) else if e.xop == 0 then some (.insX e) else none
  | 0x20 => if e.form == .one then some (.fadd e) else if e.xop == 0 then some (.faddX e) else none
  | 0x21 => if e.form == .one then some (.fsub e) else if e.xop == 0 then some (.fsubX e) else none
  | 0x22 => if e.form == .one then some (.fmul e) else if e.xop == 0 then some (.fmulX e) else none
  | 0x23 => if e.form == .one then some (.fma e) else if e.xop == 0 then some (.fmaX e) else none
  | 0x24 => if e.form == .one then some (.fmin e) else if e.xop == 0 then some (.fminX e) else none
  | 0x25 => if e.form == .one then some (.fmax e) else if e.xop == 0 then some (.fmaxX e) else none
  | 0x26 => if e.form == .one then some (.fabs e) else if e.xop == 0 then some (.fabsX e) else none
  | 0x27 => if e.form == .one then some (.fneg e) else if e.xop == 0 then some (.fnegX e) else none
  | 0x28 => if e.form == .one then some (.frcp e) else if e.xop == 0 then some (.frcpX e) else none
  | 0x29 => if e.form == .one then some (.frsq e) else if e.xop == 0 then some (.frsqX e) else none
  | 0x2a => if e.form == .one then some (.fsqrt e) else if e.xop == 0 then some (.fsqrtX e) else none
  | 0x2b => if e.form == .one then some (.fexp2 e) else if e.xop == 0 then some (.fexp2X e) else none
  | 0x2c => if e.form == .one then some (.flog2 e) else if e.xop == 0 then some (.flog2X e) else none
  | 0x2d => if e.form == .one then some (.fdot e) else if e.xop == 0 then some (.fdotX e) else none
  | 0x2e => if e.form == .one then some (.fcvt e) else if e.xop == 0 then some (.fcvtX e) else none
  | 0x2f => if e.form == .one then some (.fround e) else if e.xop == 0 then some (.froundX e) else none
  | 0x30 => some (.cmp e)
  | 0x31 => some (.fcmp e)
  | 0x32 => if e.xop == 0 then some (.plop e) else none
  | 0x33 => if e.xop == 0 then some (.pmov e) else if e.xop == 1 then some (.pmovNz e) else none
  | 0x34 => if e.xop == 0 then some (.pget e) else if e.xop == 1 then some (.pgetMask e) else none
  | 0x35 => if e.form == .one then some (.pcnt e) else if e.xop == 0 then some (.pcntX e) else none
  | 0x36 => some (.setgf e)
  | 0x37 => if e.form == .one then some (.pfirst e) else if e.xop == 0 then some (.pfirstX e) else none
  | 0x38 => if e.form == .one then some (.br e) else if e.xop == 0 then some (.brX e) else none
  | 0x39 => if e.form == .one then some (.jmp e) else if e.xop == 0 then some (.jmpTable e) else none
  | 0x3a => if e.form == .one then some (.call e) else if e.xop == 0 then some (.callX e) else none
  | 0x3b => some (.callr e)
  | 0x3c => some (.ret e)
  | 0x3d => some (.exit e)
  | 0x3e => if e.xop == 0 then some (.safe e) else none
  | 0x3f => if e.form == .one then some (.brk e) else some (.brkX e)
  | 0x40 => if e.form == .one then some (.ld e) else if e.xop == 0 then some (.ldX e) else none
  | 0x41 => if e.form == .one then some (.st e) else if e.xop == 0 then some (.stX e) else none
  | 0x42 => if e.form == .one then some (.lds e) else if e.xop == 0 then some (.ldsX e) else none
  | 0x43 => if e.form == .one then some (.sts e) else if e.xop == 0 then some (.stsX e) else none
  | 0x44 => if e.form == .one then some (.ldfe e) else if e.xop == 0 then some (.ldfeX e) else none
  | 0x45 => if e.form == .one then some (.stef e) else if e.xop == 0 then some (.stefX e) else none
  | 0x46 => if e.form == .one then some (.ldff e) else if e.xop == 0 then some (.ldffX e) else none
  | 0x47 => if e.form == .one then some (.fefill e) else if e.xop ≤ 1 then some (.fefillX e) else none
  | 0x48 => if e.form == .one then some (.atom e) else if e.xop ≤ 7 then some (.atomX e) else none
  | 0x49 => if e.form == .one then some (.cas e) else if e.xop == 0 then some (.casX e) else none
  | 0x4a => if e.form == .one then some (.fence e) else if e.xop == 0 then some (.fenceX e) else none
  | 0x4b => if e.form == .one then some (.wait e) else if e.xop == 0 then some (.waitX e) else none
  | 0x4c => if e.form == .one then some (.ldcap e) else if e.xop == 0 then some (.ldcapX e) else none
  | 0x4d => if e.form == .one then some (.stcap e) else if e.xop == 0 then some (.stcapX e) else none
  | 0x4e => if e.form == .one then some (.send e) else if e.xop == 0 then some (.sendX e) else none
  | 0x4f => if e.xop == 0 then some (.recv e) else if e.xop == 1 then some (.recvTry e) else none
  | 0x50 => if e.form == .one then some (.cset e) else if e.xop ≤ 1 then some (.csetX e) else none
  | 0x51 => if e.form == .one then some (.cperm e) else if e.xop == 0 then some (.cpermX e) else none
  | 0x52 => if e.form == .one then some (.cinc e) else if e.xop == 0 then some (.cincX e) else none
  | 0x53 => if e.form == .one then some (.cget e) else if e.xop ≤ 8 then some (.cgetX e) else none
  | 0x54 => if e.xop == 0 then some (.ctest e) else if e.xop == 1 then some (.ctestFit e) else none
  | 0x55 => if e.form == .one then some (.cseal e) else if e.xop == 0 then some (.csealX e) else none
  | 0x56 => if e.form == .one then some (.cunseal e) else if e.xop == 0 then some (.cunsealX e) else none
  | 0x57 => if e.form == .one then some (.cclr e) else if e.xop == 0 then some (.cclrX e) else none
  | 0x58 => if e.form == .one then some (.cjoin e) else if e.xop == 0 then some (.cjoinX e) else none
  | 0x59 => if e.form == .one then some (.cleave e) else if e.xop == 0 then some (.cleaveX e) else none
  | 0x5a => if e.form == .one then some (.cbar e) else if e.xop == 0 then some (.cbarX e) else none
  | 0x5b => if e.form == .one then some (.carr e) else if e.xop == 0 then some (.carrX e) else none
  | 0x5c => if e.form == .one then some (.cwait e) else if e.xop == 0 then some (.cwaitPh e) else none
  | 0x5d => if e.form == .one then some (.cvote e) else if e.xop ≤ 2 then some (.cvoteX e) else none
  | 0x5e => if e.form == .one then some (.cred e) else if e.xop ≤ 6 then some (.credX e) else none
  | 0x5f => if e.xop == 0 then some (.cmake e) else none
  | 0x68 => if e.form == .one then some (.trap e) else if e.xop == 0 then some (.trapX e) else none
  | 0x69 => some (.tres e)
  | 0x6a => if e.form == .one then some (.gets e) else if e.xop == 0 then some (.getsX e) else none
  | 0x6b => if e.form == .one then some (.puts e) else if e.xop == 0 then some (.putsX e) else none
  | 0x6c => if e.form == .one then some (.migr e) else if e.xop == 0 then some (.migrX e) else none
  | 0x6d => if e.xop == 0 then some (.tlbi e) else if e.xop == 1 then some (.tlbiCtx e) else if e.xop == 2 then some (.tlbiVa e) else none
  | 0x6e => some (.yield e)
  | 0x6f => if e.form == .one then some (.ctrRead e) else if e.xop == 0 then some (.ctrReadX e) else if e.xop == 1 then some (.ctrStart e) else if e.xop == 2 then some (.ctrStop e) else if e.xop == 3 then some (.ctrSel e) else none
  | 0x70 => if e.xop == 0 then some (.tmm e) else if e.xop == 1 then some (.tgmm e) else if e.xop == 2 then some (.tsfx e) else if e.xop == 3 then some (.tred e) else if e.xop == 4 then some (.tcvt e) else if e.xop == 5 then some (.tzero e) else if e.xop == 6 then some (.rcsnap e) else if e.xop == 7 then some (.rcread e) else if e.xop == 8 then some (.tstat e) else none
  | 0x71 => if e.xop == 0 then some (.cpy e) else if e.xop == 1 then some (.cpy2 e) else if e.xop == 2 then some (.cpyg e)
    else if e.xop == 3 then some (.cfill e) else if e.xop == 4 then some (.qjoin e)
    else if e.xop == 5 then some (.qstat e) else none
  | 0x72 => if e.xop == 0 then some (.gsub e) else if e.xop == 1 then some (.tpost e) else if e.xop == 2 then some (.trig e)
    else if e.xop == 3 then some (.vread e) else if e.xop == 4 then some (.gstat e) else if e.xop == 5 then some (.gabort e)
    else if e.xop == 6 then some (if e.mod.getLsbD 0 then .nwaitTry e else .nwait e) else none
  | 0x73 => if e.xop == 0 then some (.cfind e) else if e.xop == 1 then some (.cfree e) else if e.xop == 2 then some (.cstat e) else none
  | 0x74 => if e.xop == 0 then some (.hnew e) else if e.xop == 1 then some (.hext e) else if e.xop == 2 then some (.hxl e) else if e.xop == 3 then some (.hfork e) else if e.xop == 4 then some (.hrel e) else if e.xop == 5 then some (.hcow e) else if e.xop == 6 then some (.hstat e) else none
  | 0x75 => if e.xop == 0 then some (.park e) else if e.xop == 1 then some (.wake e) else if e.xop == 2 then some (.lpro e) else if e.xop == 3 then some (.lstat e) else none
  | 0x77 => if e.xop == 0 then some (.thaw e) else if e.xop == 1 then some (.cxswCreate e)
    else if e.xop == 2 then some (.slotw e) else if e.xop == 3 then some (.govset e) else none
  | _ => none

/-- Steps 4 to 8 of R111 on an opcode and its fields. -/
def classify (op : Nat) (e : Fields) : Except Reject Instr :=
  match opForms op with
  | none => .error (.cause 1)
  | some fs =>
    if !fs.contains e.form then .error (.cause 2)
    else match select op e with
      | none => .error (.cause 3)
      | some i =>
        match i.row with
        | none => .error (.cause 3)
        | some (r, _) =>
          if !r.forms.contains e.form then .error (.cause r.formCause)
          else match r.violation e with
            | some n => .error (.cause n)
            | none => .ok i

/-- Decode the first instruction of a list of words: the instruction, or why there is none. -/
def decodeWords (ws : List Word32) : Except Reject Instr :=
  match parse ws with
  | none => .error .short
  | some (op, e) => classify op e

/-- Decode the first instruction of a list of bytes. -/
def decode (bs : List Byte) : Except Reject Instr := decodeWords (wordsOfBytes bs)

/-- The length code of a form (R100 Table 2). -/
def Form.len : Form → BitVec 2
  | .one => 0 | .ext => 1 | .lit => 2 | .extLit => 3

/-- Word 0 (R99 Table 1), word 1 (R101 Table 3) and the words that follow. -/
def encodeFields (op : Nat) (e : Fields) : List Word32 :=
  let w0 : Word32 := e.form.len ++ e.g ++ BitVec.ofNat 7 op ++ e.d ++ e.a ++ e.b
  let w1 : Word32 := e.xop ++ e.c ++ e.ty ++ e.mod
  let l : List Word32 := [e.lit.extractLsb' 0 32, e.lit.extractLsb' 32 32]
  match e.form with
  | .one => [w0]
  | .ext => [w0, w1, e.imm]
  | .lit => w0 :: l
  | .extLit => w0 :: w1 :: e.imm :: l

/-- The words of an instruction; an event has none. -/
def encode (i : Instr) : List Word32 :=
  match i.row with
  | none => []
  | some (r, e) => encodeFields r.op e

/-- The bytes of an instruction as memory holds them. -/
def encodeBytes (i : Instr) : List Byte := (encode i).flatMap bytesOfWord

/-- The bytes that an instruction whose low bits are `w` has in memory: five 32-bit words, the bits above `w` zero. -/
def tableBytes (w : Nat) : List Byte :=
  (List.range 20).map fun k => BitVec.ofNat 8 (w >>> (8 * k))

/-- The instruction the decoder reads from an instruction whose bits are `w`, numbered as spec/opcode_table.json numbers
them; every bit from `nbits` on is zero. -/
def decodeTableWord (nbits w : Nat) : Option Instr :=
  match decode (tableBytes (w % 2 ^ nbits)) with
  | .ok i => some i
  | .error _ => none

end Sys2Proof
end

