-- ==== Sys2Proof/Machine/Kernels.lean ====
section
/-!
DEFINITION. Kernels (spec/16 R287 to R294): the image, registration and its checks, eviction, residency in the kernel areas
of the groves, and copies.
-/
namespace Sys2Proof.Machine

/-! ## The image (R287, R288) -/

/-- Where the parts of an image stand. -/
structure Image where
  addr : Nat
  nentry : Nat
  nsafe : Nat
  size : Nat
deriving DecidableEq, Repr

/-- The next multiple of 64. -/
def align64 (n : Nat) : Nat := (n + 63) / 64 * 64

def Image.entries (i : Image) : Nat := i.addr + 64
def Image.safes (i : Image) : Nat := i.addr + align64 (64 + 8 * i.nentry)
def Image.code (i : Image) : Nat := i.addr + align64 (align64 (64 + 8 * i.nentry) + 16 * i.nsafe)

/-- The header of an image, when it obeys Table 1. -/
def imageOf (addr h : Nat) : Option Image :=
  let n := bits h 63 48
  let safes := bits h 95 64
  let size := bits h 127 96
  if bits h 31 0 = 0x314B4C49 && bits h 47 32 == 1 && decide (1 ≤ n ∧ n ≤ 1024) && decide (safes ≤ 65536) &&
      decide (4 ≤ size ∧ size ≤ 524288) && size % 4 == 0 && bits h 511 224 == 0 then
    some { addr, nentry := n, nsafe := safes, size }
  else none

/-! ## The kernels of a context -/

/-- The registered kernels of a context. -/
def State.kernelsOf (s : State) (c : Nat) : List Kernel := (s.ctx c).kernels.filterMap (·.2)

/-- An address lies in a kernel's code. -/
def Kernel.holds (k : Kernel) (pc : Nat) : Bool := decide (k.code ≤ pc) && decide (pc < k.code + k.size)

/-- The kernel whose code holds an address. -/
def State.kernelAt (s : State) (c pc : Nat) : Option Kernel := (s.kernelsOf c).find? fun k => k.holds pc

/-- The kernel registered with an image. -/
def State.kernelOf (s : State) (c image : Nat) : Option Kernel := Store.get none (s.ctx c).kernels image

def State.setKernel (s : State) (c image : Nat) (k : Option Kernel) : State :=
  let x := s.ctx c
  s.setCtx c { x with kernels := Store.put none x.kernels image k }

/-- A kernel admits placements: it has not been evicted before the present cycle (R294). -/
def State.admitsKernel (s : State) (k : Kernel) : Bool := !k.evicted || k.evictedAt == s.tick

/-- An address is an entry of a kernel that admits placements (R244, R294). -/
def State.entryKernel (s : State) (c entry : Nat) : Option Kernel :=
  (s.kernelsOf c).find? fun k => s.admitsKernel k && k.entries.any fun o => k.code + o == entry

/-- A grove holds a copy of a kernel. -/
def Grove.resident (g : Grove) (c image : Nat) : Option Resident := g.kernels.find? fun r => r.ctx == c && r.kernel == image

/-- KSTATE of a kernel (R292). -/
def State.kernelState (s : State) (c image : Nat) : Nat :=
  match s.kernelOf c image with
  | none => 0
  | some k => if k.evicted then 3 else if s.groves.any fun e => (e.2.resident c image).isSome then 2 else 1

/-! ## Registration (R290) -/

/-- The word of code at an address of a context, as the check reads it. -/
def State.codeBytes (s : State) (c a : Nat) : List Byte :=
  (List.range 5).flatMap fun i =>
    match (s.readWith .execute c (a + 4 * i) 4).1 with
    | some w => (List.range 4).map fun j => BitVec.ofNat 8 (w / 256 ^ j)
    | none => []

/-- A code offset holds the `safe` or `park` that a safe-point record gives. -/
def State.safePointOk (s : State) (c code off qmask pmask kind : Nat) : Bool :=
  match decode (s.codeBytes c (code + off)) with
  | .ok (.safe e) => kind == 0 && e.imm.toNat == qmask && e.mod.toNat == pmask
  | .ok (.park e) => kind == 1 && e.imm.toNat == qmask && e.mod.toNat == pmask
  | _ => false

/-- The safe-point records are in order and true, from record `i` on; `last` is the offset before. -/
def State.safesOk (s : State) (c : Nat) (im : Image) : Nat → Nat → Option Nat → Bool
  | 0, _, _ => true
  | n + 1, i, last =>
    match (s.landingRead c (im.safes + 16 * i) 16).1 with
    | none => false
    | some r =>
      let off := bits r 31 0
      (match last with | some l => decide (l < off) | none => true) && decide (off < im.size) && off % 4 == 0 &&
        s.safePointOk c im.code off (bits r 63 32) (bits r 71 64) (bits r 79 72) && State.safesOk s c im n (i + 1) (some off)

/-- The entry offsets; an entry that cannot be read is none. -/
def State.entryOffsets (s : State) (c : Nat) (im : Image) : List (Option Nat) :=
  (List.range im.nentry).map fun i => (s.landingRead c (im.entries + 8 * i) 8).1.map fun r => bits r 31 0

/-- Every page of the code is executable, not writable, and maps grove memory (R290 code 4). -/
def State.codePagesOk (s : State) (c : Nat) (im : Image) : Bool :=
  (List.range ((im.code + im.size - 1) / 4096 + 1 - im.code / 4096)).all fun i =>
    match (s.mapped c ((im.code / 4096 + i) * 4096)).1 with
    | .page t => pteX t.leaf && !pteS t.leaf && pteTgt t.leaf == 2
    | _ => false

/-- The result of registering an image, with the kernel that it makes (R290 Table 4). -/
def State.registration (s : State) (c addr : Nat) : Nat × Option Kernel :=
  let ks := s.kernelsOf c
  if 256 ≤ ks.length then (1, none)
  else match (s.landingRead c addr 64).1.bind (imageOf addr) with
    | none => (2, none)
    | some im =>
      if ks.any fun k => decide (k.code < im.code + im.size) && decide (im.code < k.code + k.size) then (3, none)
      else if !s.codePagesOk c im then (4, none)
      else if !s.safesOk c im im.nsafe 0 none then (5, none)
      else
        let es := s.entryOffsets c im
        if !es.all fun o => match o with | some o => decide (o < im.size) && o % 4 == 0 | none => false then (6, none)
        else (0, some { image := addr, code := im.code, size := im.size, entries := es.filterMap id, evicted := false, evictedAt := 0 })

/-- A write of the kernel register with ACT 1. -/
def State.registerKernel (s : State) (c addr : Nat) : State :=
  let (r, k) := s.registration c addr
  let s := match k with | some k => s.setKernel c addr (some k) | none => s
  s.setCtx c { s.ctx c with kresult := r, knamed := addr }

/-- A write of the kernel register with ACT 2 (R292, R294); a kernel that is evicted already stays so. -/
def State.evictKernel (s : State) (c addr : Nat) : State :=
  match s.kernelOf c addr with
  | some k =>
    let s := if k.evicted then s else s.setKernel c addr (some { k with evicted := true, evictedAt := s.tick })
    s.setCtx c { s.ctx c with kresult := 0, knamed := addr }
  | none => s.setCtx c { s.ctx c with kresult := 7, knamed := addr }

/-! ## Use and unregistration (R292, R293) -/

/-- The PC of a saved thread or of a continuation: that of its frame, or the one it was saved with where the frame cannot be read in
this package. -/
def State.framePc (s : State) (c frame kept : Nat) : Nat :=
  match (s.landingKey c (s.frameVa c frame) .load).1 with
  | some k => if s.isLocal k then s.readNum k 8 else kept
  | none => kept

/-- A task of the context has threads that are not placed yet and begin in a kernel's code (R294). -/
def State.wavesLeft (s : State) (c : Nat) (k : Kernel) : Bool :=
  s.graphs.any fun e => e.2.ctx == c && e.2.tasks.any fun t =>
    t.state == .placed && !t.tile && decide (t.next < t.width) && k.holds t.entry

/-- A thread of the context, placed, saved or parked, in any state holds a PC in a kernel's code, or is to be placed there
by a later wave. -/
def State.kernelHeld (s : State) (c : Nat) (k : Kernel) : Bool :=
  (s.slots.any fun e => match e.2.thread with | some t => t.ctx == c && k.holds t.pc.toNat | none => false) ||
    s.wavesLeft c k ||
    ((s.ctx c).saved.any fun v => k.holds (s.framePc c v.frame v.pc.toNat)) ||
    (s.conts.any fun v => v.ctx == c && v.state != .stage2 && k.holds (s.framePc c v.frame v.pc.toNat))

/-- Drop every copy of a kernel. -/
def State.dropCopies (s : State) (c image : Nat) : State :=
  { s with groves := s.groves.filterMap fun e =>
      let g : Grove := { e.2 with kernels := e.2.kernels.filter fun r => !(r.ctx == c && r.kernel == image) }
      if g = Grove.empty then none else some (e.1, g) }

/-- KERNEL_UNREGISTER (R292): an evicted kernel, the image at `arg.addr` of context `arg.index`, in whose code no thread
holds a PC is unregistered; not in the cycle of the evict, in which a placement is still made (R294). -/
def evKernelUnregister (s : State) : Result :=
  let c := s.arg.index
  match s.kernelOf c s.arg.addr with
  | some k => .next (if k.evicted && k.evictedAt != s.tick && !s.kernelHeld c k then (s.setKernel c s.arg.addr none).dropCopies c s.arg.addr else s)
  | none => .next s

/-! ## Copies (R291, R293) -/

/-- The bytes of a grove's kernel area. -/
def kernelArea : Nat := 524288

/-- A slot of a grove, or one whose thread is being transferred to it. -/
def State.bound (s : State) (g n : Nat) : Bool :=
  slotGrove n == g || s.migrations.any fun m =>
    m.core == slotCore n && m.slots.contains (slotNum n) && match m.dest with | some d => d / 16 == g | none => false

/-- A thread on a grove, or on the way there, in whatever state holds a PC in the code of a resident kernel. -/
def State.copyUsed (s : State) (g : Nat) (r : Resident) : Bool :=
  match s.kernelOf r.ctx r.kernel with
  | none => false
  | some k => s.slots.any fun e => s.bound g e.1 && match e.2.thread with
    | some t => t.ctx == r.ctx && k.holds t.pc.toNat
    | none => false

/-- Drop unused copies, least recently placed first, until `size` more bytes fit. -/
def dropUntil (used : Resident → Bool) (size : Nat) : Nat → List Resident → Option (List Resident)
  | 0, _ => none
  | n + 1, l =>
    if (l.map (·.size)).sum + size ≤ kernelArea then some l
    else match l.foldl (fun (b : Option Resident) r =>
        if used r then b else match b with | some x => if r.used < x.used then some r else b | none => some r) none with
      | none => none
      | some r => dropUntil used size n (l.erase r)

/-- Whether a grove has the copy of a kernel or room for it; the copies that then stay. -/
def State.copyRoom (s : State) (g c : Nat) (k : Kernel) : Option (List Resident) :=
  let l := (s.grove g).kernels
  if ((s.grove g).resident c k.image).isSome then some l
  else dropUntil (s.copyUsed g) k.size (l.length + 1) l

/-- A grove has room for the copies of several kernels of a context at once: what is dropped for one is no copy of
another. -/
def State.copiesRoom (s : State) (g c : Nat) (ks : List Kernel) : Bool :=
  let ks := ks.eraseDups
  let used (r : Resident) : Bool := s.copyUsed g r || (r.ctx == c && ks.any fun k => k.image == r.kernel)
  let need := ks.filter fun k => ((s.grove g).resident c k.image).isNone
  let l := (s.grove g).kernels
  (dropUntil used (need.map (·.size)).sum (l.length + 1) l).isSome

/-- The kernels in whose code the PCs of threads of a context lie. -/
def State.kernelsAt (s : State) (c : Nat) (pcs : List Nat) : List Kernel := pcs.filterMap (s.kernelAt c)

/-- `n` 8-byte words of a context's code, as a copy takes them. A word that the package cannot read is free (log 64). -/
def State.codeWords (s : State) (c : Nat) : Nat → Nat → List (Nat × Bool) × State
  | 0, _ => ([], s)
  | n + 1, va =>
    let (w, s) := match (s.landingKey c va .execute).1 with
      | some k => if s.isLocal k then ((s.readNum k 8, s.poisoned k), s) else let (v, s) := s.takeFree; ((v % 2 ^ 64, false), s)
      | none => let (v, s) := s.takeFree; ((v % 2 ^ 64, false), s)
    let (r, s) := State.codeWords s c n (va + 8)
    (w :: r, s)

/-- The charge of copying `n` bytes between two levels, 64 bytes at a time (26 R407). -/
def State.copyCharge (s : State) (a b n : Nat) : Nat := (n + 63) / 64 * max (s.levelCharge false a) (s.levelCharge false b)

/-- The skidder of a grove that makes a copy or a transfer: the first that is free (18 R330, log 30); 0 while none is. -/
def State.freeSkidder (s : State) (g : Nat) : Nat := if s.unitFree g 4 then 4 else if s.unitFree g 5 then 5 else 0

/-- A task of a kernel is placed on a grove: its copy is begun where the grove lacks it, by a skidder of the grove once one is free,
charged to the context; the answer is whether threads wait for it. Without room there is no copy, and fetches read the code
itself. -/
def State.needCopy (s : State) (g c : Nat) (k : Kernel) : Bool × State :=
  let gr := s.grove g
  match gr.resident c k.image with
  | some r =>
    (!r.whole, s.setGrove g { gr with kernels := gr.kernels.map fun x => if x = r then { r with used := s.now } else x })
  | none =>
    match s.copyRoom g c k with
    | none => (false, s)
    | some l =>
    let (code, s) := s.codeWords c (align64 k.size / 8) k.code
    let s := s.setGrove g { s.grove g with
      kernels := l ++ [{ ctx := c, kernel := k.image, size := k.size, code, whole := false, skidder := s.freeSkidder g, used := s.now }] }
    let far := (s.landingKey c k.code .execute).1.getD (memKey s.pkg 2 0)
    (true, s.credit (groveDie g) c none (s.copyCharge far (memKey s.pkg 2 (g * 2 ^ 32)) k.size))

/-- KERNEL_COPY_COMPLETE (R293): the copy of the image at `arg.addr` of context `arg.index2` in grove `arg.index` is whole
and the threads that wait for it are ready; one that still waits for a skidder takes one that is free. -/
def evKernelCopyComplete (s : State) : Result :=
  let g := s.arg.index
  let gr := s.grove g
  match gr.resident s.arg.index2 s.arg.addr, s.kernelOf s.arg.index2 s.arg.addr with
  | some r, some k =>
    let set (r' : Resident) : State := s.setGrove g { gr with kernels := gr.kernels.map fun x => if x = r then r' else x }
    if r.whole then .next s
    else if r.skidder = 0 then .next (set { r with skidder := s.freeSkidder g })
    else
    let s := set { r with whole := true, skidder := 0 }
    .next { s with slots := s.slots.map fun e =>
      match e.2.thread with
      | some t =>
        if slotGrove e.1 = g && t.ctx == r.ctx && k.holds t.pc.toNat then
          (e.1, { e.2 with thread := some { t with wait := if t.wait = .kernel then .none else t.wait, copying := false } })
        else e
      | none => e }
  | _, _ => .next s

end Sys2Proof.Machine
end

