-- ==== Sys2Proof/Machine/Admit.lean ====
section
/-!
DEFINITION. Admission (spec/13 R242 to R247, spec/17 R327): the records of a graph, the checks of Table 6 and what an
admitted graph is.
-/
namespace Sys2Proof.Machine

/-! ## Reading records through a context's page tables -/

/-- Every page of `n` bytes has a right. -/
def State.spanOk (s : State) (c va n : Nat) (r : Right) : Bool :=
  (List.range ((va + n + 4095) / 4096 - va / 4096)).all fun i => (s.landingKey c ((va / 4096 + i) * 4096) r).1.isSome

/-- `n` bytes of a context, at most 4,096, that may lie in two pages. -/
def State.landingNum (s : State) (c va n : Nat) : Nat :=
  let m := min n (4096 - va % 4096)
  let lo := (s.landingRead c va m).1.getD 0
  if m = n then lo else lo + (s.landingRead c (va + m) (n - m)).1.getD 0 * 256 ^ m

/-- Bytes of a number: `n` from offset `off`. -/
def field (v off n : Nat) : Nat := v / 256 ^ off % 256 ^ n

/-! ## The graph record and its curves (R242, R246) -/

structure GraphRec where
  tasks : Nat
  edges : Nat
  curves : Nat
  status : Nat
  ntask : Nat
  nedge : Nat
  nmile : Nat
  flags : Nat
  die : Nat
  rest : Nat
deriving DecidableEq, Repr

def graphRec (v : Nat) : GraphRec :=
  { tasks := field v 0 8, edges := field v 8 8, curves := field v 16 8, status := field v 24 8, ntask := field v 32 4
    nedge := field v 36 4, nmile := field v 40 1, flags := field v 41 1, die := field v 42 1, rest := field v 43 21 }

/-- The counts of a record are in range (R247 code 3). -/
def GraphRec.counts (r : GraphRec) : Bool :=
  decide (1 ≤ r.ntask ∧ r.ntask ≤ 65536) && decide (r.nedge ≤ 1048576) && decide (r.nmile ≤ 8)

/-- Its addresses are aligned. -/
def GraphRec.aligned (r : GraphRec) : Bool :=
  r.tasks % 64 == 0 && (r.nedge == 0 || r.edges % 8 == 0) && r.curves % 32 == 0 && r.status % 8 == 0

/-- A curve and the bytes after it. -/
def curveRec (v : Nat) : Curve × Nat :=
  (⟨field v 0 4, field v 4 4, field v 8 4, field v 12 4, field v 16 4⟩, field v 20 12)

/-! ## Task records and launch blocks (R243 to R245) -/

/-- A launch block (R244 Table 3). -/
structure Launch where
  arg : Word128
  entry : Nat
  width : Nat
  slice : Nat
  pair : Bool
deriving DecidableEq, Repr

/-- A launch block of a context, or the code that refuses it. At admission the entry's kernel must not be
evicted; a placement asks for itself (16 R294). -/
def State.launchAt (s : State) (c va : Nat) (placed : Bool) : Except Nat Launch :=
  if !s.spanOk c va 32 .load then .error 2
  else
    let v := s.landingNum c va 32
    let entry := field v 16 8
    let width := field v 24 4
    let slice := if field v 28 2 = 0 then 384 else field v 28 2
    let pair := field v 30 1
    let known := if placed then (s.kernelAt c entry).isSome else match s.entryKernel c entry with | some k => !k.evicted | none => false
    if va % 32 ≠ 0 then .error 3
    else if width = 0 || 65536 < width || 384 < slice || 1 < pair || field v 31 1 != 0 || (pair == 1 && decide (346 < slice)) ||
        !s.landingTag c va || capKind (BitVec.ofNat 128 (field v 0 16)) != kindMemory || !known then .error 8
    else .ok { arg := BitVec.ofNat 128 (field v 0 16), entry, width, slice, pair := pair == 1 }

/-- Bytes 16 to 63 of a tile task. -/
def tileFields (v : Nat) : TileFields :=
  { ops := field v 16 8, xop := field v 24 2, mod := field v 26 2, ty := field v 28 1, imm := field v 32 4
    ctrl := field v 40 16, fb := field v 56 8 }

/-- A tile task's bytes hold no reserved value. -/
def tileFieldsOk (v : Nat) : Bool :=
  let t := tileFields v
  decide (t.xop ≤ 6) && decide (t.mod < 4096) && decide (t.ty < 32) && field v 29 3 == 0 && field v 36 4 == 0 &&
    (t.fb == 0 || t.xop == 5)

/-- A task from its record: where several codes apply, the least. -/
def State.taskAt (s : State) (c v : Nat) : Except Nat GTask :=
  let common : GTask := { GTask.none with mstone := field v 1 1, cost := field v 8 4, energy := field v 12 4 }
  match field v 0 1 with
  | 0 =>
    match s.launchAt c (field v 16 8) false with
    | .error 8 => .error 8
    | .error k => .error k
    | .ok l =>
      if field v 2 6 != 0 || field v 24 40 != 0 then .error 8
      else .ok { common with launch := field v 16 8, width := l.width }
  | 1 =>
    if field v 16 8 % 16 ≠ 0 then .error 3
    else if field v 2 6 != 0 || !tileFieldsOk v then .error 8
    else .ok { common with tile := true, fields := tileFields v }
  | _ => .error 8

/-! ## The checks of Table 6 (R247) -/

/-- An edge list is a set of edges between distinct tasks. -/
def edgesOk (n : Nat) (l : List (Nat × Nat)) : Bool :=
  (l.all fun e => decide (e.1 < n) && decide (e.2 < n) && e.1 != e.2) && decide l.Nodup

/-- The edges form no cycle: taking away the tasks without a predecessor, time after time, takes all of them. -/
def acyclic (n : Nat) (l : List (Nat × Nat)) : Bool :=
  (loopUp n (fun _ left => left.filter fun i => l.any fun e => e.2 == i && left.contains e.1) (List.range n)).isEmpty

/-- A result is the refusal `k`. -/
def refusedWith (k : Nat) (r : Except Nat GTask) : Bool := match r with | .error j => j == k | .ok _ => false

/-- The graph of a record of a context, or the first refusal of Table 6. `v` is the record, none where it cannot be read;
`die` is the die that 0xFF names. -/
def State.admission (s : State) (c va : Nat) (v : Option Nat) (die tag : Nat) : Except Nat Graph :=
  if 8192 ≤ s.graphs.length then .error 1
  else match v with
  | none => .error 2
  | some v =>
    let r := graphRec v
    let spans := s.spanOk c r.tasks (64 * r.ntask) .load && (r.nedge == 0 || s.spanOk c r.edges (8 * r.nedge) .load) &&
      (r.nmile == 0 || s.spanOk c r.curves (32 * r.nmile) .load)
    if !s.spanOk c r.status 8 .load || !s.spanOk c r.status 8 .store || !spans then .error 2
    else
      let recs := (List.range r.ntask).map fun i => s.landingNum c (r.tasks + 64 * i) 64
      let tasks := recs.map (s.taskAt c)
      if tasks.any (refusedWith 2) then .error 2
      else if !r.counts || va % 64 != 0 || !r.aligned || tasks.any (refusedWith 3) then .error 3
      else if !bit r.flags 0 && r.nmile == 0 then .error 4
      else
        let curves := (List.range r.nmile).map fun m => curveRec (s.landingNum c (r.curves + 32 * m) 32)
        let carried (m : Nat) : Bool := (recs.filter fun v => field v 1 1 == m + 1).length == 1
        if !(curves.all fun x => x.1.ok && x.2 == 0) || !(List.range r.nmile).all carried then .error 5
        else
          let edges := (List.range r.nedge).map fun j =>
            let e := s.landingNum c (r.edges + 8 * j) 8
            (e % 2 ^ 32, e / 2 ^ 32)
          if !edgesOk r.ntask edges then .error 6
          else if !acyclic r.ntask edges then .error 7
          else if tasks.any (refusedWith 8) || recs.any (fun v => decide (r.nmile < field v 1 1)) then .error 8
          else if r.rest != 0 || decide (4 ≤ r.flags) || (decide (4 ≤ r.die) && r.die != 0xFF) then .error 9
          else
            let ts := tasks.mapIdx fun i t =>
              let t := match t with | .ok t => t | .error _ => GTask.none
              let n := (edges.filter fun e => e.2 == i).length
              { t with preds := n, state := if n = 0 then .ready else .blocked }
            .ok { Graph.none with
              ctx := c, ser := (s.ctx c).serial, die := if r.die = 0xFF then die else r.die, filler := bit r.flags 0
              donenote := bit r.flags 1, tag, admitted := s.now, tasks := ts, edges, curves := curves.map (·.1)
              status := r.status }

/-- Admit a graph (R247): its serial, its instant, its status word, a recomputation. -/
def State.enterGraph (s : State) (g : Graph) : State :=
  let k := s.nextGraph
  let x := s.ctx g.ctx
  let s := s.setCtx g.ctx { x with serial := (x.serial + 1) % 2 ^ 20 }
  let s := { (s.setGraph k g) with nextGraph := k + 1 }
  (s.putStatus k).recomputeDie g.die

/-- GSUBMIT (17 R327): submit the record at an address of a context. -/
def State.submit (s : State) (c v : Nat) : State :=
  let x := s.ctx c
  let put (s : State) (r : Nat) : State := s.setCtx c { s.ctx c with gresult := r }
  if !((x.mode == .active || x.mode == .suspended) && v % 64 == 0 && decide (v < 2 ^ 57)) then put s (c * 2 ^ 52 + 10)
  else
    let rec_ := if s.spanOk c v 64 .load then some (s.landingNum c v 64) else none
    match s.admission c v rec_ 0 x.gtag with
    | .error k => put s (c * 2 ^ 52 + k)
    | .ok g => put (s.enterGraph g) (c * 2 ^ 52 + g.ser * 2 ^ 32)

end Sys2Proof.Machine
end

