-- ==== Sys2Proof/Machine/Restore.lean ====
section
/-!
DEFINITION. Restores (spec/17 R315 to R317, R320; spec/19 R347 to R349; spec/04 R77): the slots that may be filled, logical
core numbers, and bringing a saved thread back.
-/
namespace Sys2Proof.Machine

/-! ## Free slots (02 R33) -/

/-- A migration's transfer has taken a slot: for a lockstep pair the slot of the odd core too. -/
def State.slotTaken (s : State) (m : Migration) (n : Nat) : Bool :=
  m.slots.contains (slotNum n) && match m.dest with
    | some d => d == slotCore n || (d + 1 == slotCore n && s.isPair (m.core * 16 + slotNum n))
    | none => false

/-- A migration holds a slot: it has been taken for the transfer, or the core is being left (R320, log 30). -/
def State.slotHeld (s : State) (c n : Nat) : Bool :=
  s.migrations.any fun m => s.slotTaken m n || (m.ctx == c && m.core == slotCore n)

/-- A slot is empty, owned by a context, and on a core in service. -/
def State.slotFree (s : State) (c n : Nat) : Bool :=
  (s.thread n).isNone && (s.slot n).owner == c && !(s.core (slotCore n)).dead && !s.slotReserved n && !s.slotHeld c n

/-- A slot, and for a lockstep pair the slot of the odd core with it, can take a thread of a context. -/
def State.slotTakes (s : State) (c : Nat) (pair : Bool) (n : Nat) : Bool :=
  s.slotFree c n && (!pair || (slotCore n % 2 == 0 && s.slotFree c (n + 16)))

/-! ## Logical core numbers (02 R35) -/

/-- The lowest logical number of a context that maps to a core. -/
def State.lcoreOf (s : State) (c core : Nat) : Option Nat :=
  ((s.ctx c).remap.find? fun e => e.2 == some core).map (·.1)

/-- The number of a core for a new thread: its lowest, or the lowest free one, which it then holds. -/
def State.takeLcore (s : State) (c core : Nat) : Nat × State :=
  match s.lcoreOf c core with
  | some l => (l, s)
  | none =>
    let x := s.ctx c
    match NatSet.leastFree (x.remap.map (·.1)) 4096 0 with
    | some l => (l, s.setCtx c { x with remap := Store.put none x.remap l (some core) })
    | none => (0, s)

/-- Of an ordered list of slots, those that can be given a logical number when `free` numbers are left. -/
def State.numbered (s : State) (c : Nat) : Nat → List Nat → List Nat → List Nat
  | _, _, [] => []
  | free, seen, n :: r =>
    if (s.lcoreOf c (slotCore n)).isSome || seen.contains (slotCore n) then n :: s.numbered c free seen r
    else match free with
      | 0 => s.numbered c 0 seen r
      | f + 1 => n :: s.numbered c f (slotCore n :: seen) r

/-! ## Order of groves and cores (R33, R316) -/

/-- The rows of a column, from one on: row, row+1, row−1, and so on. -/
def rowOrder (row : Nat) : List Nat :=
  row :: (List.range 6).flatMap fun k =>
    (if row + k + 1 < 6 then [row + k + 1] else []) ++ (if k + 1 ≤ row then [row - (k + 1)] else [])

/-- The groves of a column of a die, from a grove on. -/
def columnFrom (g : Nat) : List Nat := (rowOrder (groveRow g)).map fun r => groveDie g * 48 + 8 * r + groveColumn g

/-- The physical cores of a grove. -/
def coresOf (g : Nat) : List Nat := (List.range 16).map fun i => 16 * g + i

/-- A context allows the track of a grove, since its die's last recomputation (R302). -/
def State.allowsGrove (s : State) (c g : Nat) : Bool := bit (s.eff c (groveDie g)).tracks (groveTrack g)

/-- The cores to which a logical core may move, in order (R316). -/
def State.coresAround (s : State) (c core : Nat) : List Nat :=
  let g := core / 16
  ((coresOf g).filter (· != core)) ++ ((columnFrom g).drop 1).flatMap coresOf ++
    (((List.range 48).map fun i => groveDie g * 48 + i).filter fun h =>
      groveColumn h != groveColumn g && s.allowsGrove c h).flatMap coresOf

/-! ## Remapping (R320 step 3) -/

/-- An access through the number `l` of a core that has moved is performed at the new core `d`. -/
def State.rekey (s : State) (l d : Nat) (a : Access) : Access :=
  if logicalCore a.space a.va.toNat = some l then { a with key := s.scratchKey d (a.va.toNat % 2 ^ 17) } else a

/-- Every outstanding access of a context through the number goes to the new core. -/
def State.rekeyAll (s : State) (c l d : Nat) : State :=
  { s with slots := s.slots.map fun e => match e.2.thread with
      | some t => if t.ctx = c then (e.1, { e.2 with thread := some (t.mapAccess (s.rekey l d)) }) else e
      | none => e }

/-- A logical number of a context maps to a core: what is outstanding through it goes there. -/
def State.remapCore (s : State) (c l d : Nat) : State :=
  let x := s.ctx c
  let moved := Store.get none x.remap l != some d
  let s := s.setCtx c { x with remap := Store.put none x.remap l (some d) }
  if moved then s.rekeyAll c l d else s

/-! ## Restoring a frame -/

/-- What a frame holds: the thread, FLAGS, its slice, and the length of both in granules. -/
structure FrameThread where
  thread : Thread
  flags : Nat
  slice : List Granule
  len : Nat
deriving DecidableEq, Repr

/-- Read a frame of a context through the page tables; a header that no save wrote is taken within its bounds (log 21). -/
def State.readFrame (s : State) (g c i : Nat) : FrameThread × State :=
  let va := s.frameVa c i
  let (h, s) := s.getVa g c 4 va
  let h := packNum 4 128 fun i => ((h[i]?).getD (0, false)).1
  let n := saveLength h
  let (l, s) := s.getVa g c n va
  let t := restoreRegs Thread.blank l
  let t := { t with slice := min 384 t.slice }
  let (sl, s) := s.getVa g c t.slice (va + 16 * n)
  ({ thread := t, flags := bits h 303 296, slice := sl, len := n + t.slice }, s)

/-- The kernel's copy at a restore is made first (16 R293): the thread waits for it, after the crew where it waits for one. -/
def State.restoreCopy (s : State) (n : Nat) (t : Thread) : Thread × State :=
  match s.kernelAt t.ctx t.pc.toNat with
  | none => (t, s)
  | some k =>
    let (wait, s) := s.needCopy (slotGrove n) t.ctx k
    (if !wait then t else if t.wait = .none then { t with wait := .kernel } else { t with copying := true }, s)

/-- Put a restored thread into a slot: its slice, its kernel's copy, its spilled entries; the frame frees. -/
def State.fillSlot (s : State) (n : Nat) (t : Thread) (f : FrameThread) (frame : Nat) : State :=
  let c := t.ctx
  let s := s.putGranules (s.regionKey n) f.slice
  let s := s.chargeFrame (slotGrove n) c (s.frameVa c frame) f.len
  let (t, s) := s.restoreCopy n t
  let s := (s.setThread n t).redeliver n 8
  if t.pair then s.checkpoint n t else s

/-! ## Saved threads (R316, 19 R349) -/

/-- What a restored member's wait becomes: its phase has been released and its result is taken, or its gang crew has been broken and
it meets that at the collective, or the arrival still stands. -/
def State.resumeWait (s : State) (t : Thread) (w : Option Wait) : Thread × State :=
  match w with
  | some (.crew ci b k kind e) =>
    let c := s.crew ci
    let bar := c.bar b
    let m := s.memberOf t
    if (if ci < crewEntries then phaseReleased bar.phase k else bar.results.any fun r => r.phase == k && r.takers.contains m) then
      match bar.results.find? fun r => r.phase == k with
      | some r => (t.takeResult r false kind e, s.dropTaker ci b m)
      | none =>
        (t.takeResult { phase := k, damaged := bar.lastDamaged, kind := .plain, value := 0, arrived := 0, takers := [] }
          false kind e, s)
    else if ci < crewEntries && c.gang && c.broken then (t, s)
    else ({ t with wait := .crew ci b k kind e }, s)
  | some (.crewHeld ci b kind e) =>
    if ci < crewEntries && (s.crew ci).gang && (s.crew ci).broken then (t, s) else ({ t with wait := .crewHeld ci b kind e }, s)
  | some w => ({ t with wait := w }, s)
  | none => (t, s)

/-- The stop of a restored thread: FLAGS say whether it is stopped (R315); what a stop that no save made was is free (log 21). -/
def State.frameStop (s : State) (flags : Nat) (v : Saved) : Option Stop × State :=
  if !bit flags 3 then (none, s)
  else match v.stopped with
    | some x => (some x, s)
    | none => let (k, s) := s.takeFree; (some ⟨k % 2 ^ 8, k / 2 ^ 8 % 2 ^ 8, 0, 0⟩, s)

/-- Restore a saved thread on a core; FLAGS of its frame decide the state that it enters (R315). -/
def State.restoreSaved (s : State) (c core : Nat) (v : Saved) : State :=
  let n := core * 16 + v.slot
  let (f, s) := s.readFrame (core / 16) c v.frame
  let x := s.ctx c
  let s := (s.setCtx c { x with saved := x.saved.erase v, frames := x.frames.del v.frame }).remapCore c v.lcore core
  let (stopped, s) := s.frameStop f.flags v
  let t := { f.thread with gtid := v.gtid, lcore := v.lcore, cp := v.cp, tl := v.tl, stopped, pendErr := v.pendErr
                           frozen := bit f.flags 4, stepping := v.stepping, due := v.due, skipBp := v.skipBp }
  let (t, s) := s.resumeWait t (if bit f.flags 5 then v.crewWait else none)
  s.fillSlot n t f v.frame

/-! ## Which threads resume (R316, R347, R348) -/

/-- The saved threads of one logical core of a context on a die. -/
structure ResumeGroup where
  ctx : Nat
  lcore : Nat
  threads : List Saved
deriving DecidableEq, Repr

/-- The logical cores of a context that have saved threads on a die, in the order of their oldest save. -/
def State.groupsOf (s : State) (c die : Nat) : List ResumeGroup :=
  let l := (s.ctx c).saved.filter fun v => v.die == die
  (l.map (·.lcore)).eraseDups.map fun k => { ctx := c, lcore := k, threads := l.filter fun v => v.lcore == k }

/-- Two groups hold members of one gang crew. -/
def State.sameGang (s : State) (a b : ResumeGroup) : Bool :=
  let ms (g : ResumeGroup) : List MemberId := g.threads.map fun v => s.pkg * 2 ^ 64 + v.gtid.toNat
  (ms a).any fun m => (s.gangsOf m).any fun ci => (ms b).any (s.inGang ci)

/-- The groups that resume in one step with a group: those joined to it through gangs. -/
def State.unitOf (s : State) (all : List ResumeGroup) (g : ResumeGroup) : List ResumeGroup :=
  loopUp all.length (fun _ u => all.filter fun h => u.contains h || u.any (s.sameGang h)) [g]

/-- A thread is a member of a crew: of an entry of this home, or of one of a peer package. -/
def State.isMember (s : State) (ci : Nat) (m : MemberId) : Bool :=
  if ci < crewEntries then (s.crew ci).members.contains m
  else s.farCrews.any fun f => f.who == m && f.member && peerCrew f.pkg f.ci == ci

/-- A member on this package other than `m`, placed or saved, waits on a barrier of a crew. -/
def State.waitsBeside (s : State) (ci : Nat) (m : MemberId) : Bool :=
  let other (x : MemberId) : Bool := x != m && s.isMember ci x
  (s.crewWaiters ci).any (fun n => match s.thread n with | some t => other (s.memberOf t) | none => false) ||
    s.ctxs.any fun e => e.2.saved.any fun v => other (s.pkg * 2 ^ 64 + v.gtid.toNat) && match v.crewWait with
      | some (.crew c _ _ _ _) => c == ci
      | some (.crewHeld c _ _ _) => c == ci
      | _ => false

/-- Another member waits on a barrier of a crew without GANG of which a saved thread is a member (R348). The home of a crew of a peer
package tells of the waits elsewhere. -/
def State.awaited (s : State) (m : MemberId) : Bool :=
  (s.crews.any fun e => e.2.used && !e.2.gang && e.2.members.contains m && (s.waitsBeside e.1 m ||
    (List.range 4).any fun b => (e.2.bar b).waiters.any fun w => memberPkg w != s.pkg && e.2.members.contains w)) ||
  s.farCrews.any fun f => f.who == m && f.member && !f.gang && (f.waits || s.waitsBeside (peerCrew f.pkg f.ci) m)

/-- A unit holds a thread that is awaited. -/
def State.unitAwaited (s : State) (u : List ResumeGroup) : Bool :=
  u.any fun g => g.threads.any fun v => s.awaited (s.pkg * 2 ^ 64 + v.gtid.toNat)

/-- A saved thread is of a lockstep pair, by its frame. -/
def State.savedPair (s : State) (c : Nat) (v : Saved) : Bool :=
  bit ((s.landingRead c (s.frameVa c v.frame + 32) 8).1.getD 0) 41

/-- The slots that a group takes on a core, each with the PC that comes there. -/
def State.groupSlots (s : State) (g : ResumeGroup) (core : Nat) : List (Nat × Nat) :=
  g.threads.map fun v => (core * 16 + v.slot, s.framePc g.ctx v.frame v.pc.toNat)

/-- A core can take a group, beside slots already promised; the grove has room for the copies of all their kernels. -/
def State.coreTakes (s : State) (taken : List (Nat × Nat)) (g : ResumeGroup) (core : Nat) : Bool :=
  (g.threads.all fun v =>
    let n := core * 16 + v.slot
    s.slotTakes g.ctx (s.savedPair g.ctx v) n && !taken.any fun x => x.1 == n) &&
    s.copiesRoom (core / 16) g.ctx (s.kernelsAt g.ctx (((taken.filter fun x => slotGrove x.1 == core / 16) ++
      s.groupSlots g core).map (·.2)))

/-- A placed thread of a context stands on a logical core. -/
def State.lcorePlaced (s : State) (c l : Nat) : Bool :=
  s.slots.any fun e => match e.2.thread with | some t => t.ctx == c && t.lcore == l | none => false

/-- The core on which a group resumes: its own, or the first that takes it. -/
def State.resumeCore (s : State) (taken : List (Nat × Nat)) (g : ResumeGroup) : Option Nat :=
  match Store.get none (s.ctx g.ctx).remap g.lcore with
  | none => none
  | some core =>
    if s.coreTakes taken g core then some core
    else if s.lcorePlaced g.ctx g.lcore then none
    else (s.coresAround g.ctx core).find? (s.coreTakes taken g)

/-- The cores of a whole unit, or none when one of its groups finds none. -/
def State.unitCores (s : State) : List (Nat × Nat) → List ResumeGroup → Option (List (ResumeGroup × Nat))
  | _, [] => some []
  | taken, g :: r =>
    match s.resumeCore taken g with
    | none => none
    | some core => (s.unitCores (s.groupSlots g core ++ taken) r).map fun l => (g, core) :: l

/-- The units of a die in the order in which they are to resume: those with an awaited thread first, then by age. -/
def State.resumeUnits (s : State) (die : Nat) : List (List ResumeGroup) :=
  let us := s.ctxs.flatMap fun e =>
    if !s.deadLandings.contains die && e.2.mode == .active && e.2.stopping.isNone then
      let all := s.groupsOf e.1 die
      all.map (s.unitOf all)
    else []
  us.filter s.unitAwaited ++ us.filter fun u => !s.unitAwaited u

/-- THREAD_RESUME (R316, R317): on die `arg.index`, the first unit of saved threads that can be placed resumes. -/
def evThreadResume (s : State) : Result :=
  match (s.resumeUnits s.arg.index).findSome? (s.unitCores []) with
  | none => .next s
  | some l => .next (l.foldl (fun s p => p.1.threads.foldl (fun s v => s.restoreSaved p.1.ctx p.2 v) s) s)

end Sys2Proof.Machine
end

