-- ==== Sys2Proof/Machine/Migrate.lean ====
section
/-!
DEFINITION. Migration (spec/17 R318 to R320, spec/26 R411): the instruction, the D4's own migrations, the transfer and the
remap.
-/
namespace Sys2Proof.Machine

/-! ## What moves -/

/-- The threads of logical core `l` of a context, on the core it is mapped to: their slots; halted ones only drain. -/
def State.lcoreSlots (s : State) (c l core : Nat) : List Nat :=
  s.slots.filterMap fun e => match e.2.thread with
    | some t => if t.ctx == c && t.lcore == l && slotCore e.1 == core && !t.halted then some e.1 else none
    | none => none

/-- A core can hold the slots of a logical core. -/
def State.coreHolds (s : State) (c : Nat) (from_ : List Nat) (old core : Nat) : Bool :=
  core != old && s.copiesRoom (core / 16) c (s.kernelsAt c (from_.filterMap fun n => (s.thread n).map (·.pc.toNat))) && from_.all fun n =>
    let pair := match s.thread n with | some t => t.pair | none => false
    s.slotTakes c pair (core * 16 + slotNum n)

/-- 95 °C and 85 °C in units of 1/16 °C. -/
def hotTemp : Nat := 1520
def coolTemp : Nat := 1360

/-- A core placed before the first that reads warmer. -/
def State.insertCooler (s : State) (x : Nat) : List Nat → List Nat
  | [] => [x]
  | y :: r => if (s.core x).temp < (s.core y).temp then x :: y :: r else y :: s.insertCooler x r

/-- The cores of a grove that read below a temperature, coolest first. -/
def State.coolest (s : State) (g limit : Nat) : List Nat :=
  ((coresOf g).filter fun x => decide ((s.core x).temp < limit)).foldl (fun l x => s.insertCooler x l) []

/-- The cores that a goal names, in order (R319): a cooler core is one of the grove below 85 °C, else any of the next groves of
the column (the order within a track, and within a next grove, is log 30). -/
def State.goalCores (s : State) (core : Nat) (goal : MigrationGoal) : List Nat :=
  match goal with
  | .core n => [n]
  | .track t => (((List.range 48).map fun i => groveDie (core / 16) * 48 + i).filter fun g => groveTrack g == t).flatMap coresOf
  | .cooler => s.coolest (core / 16) coolTemp ++ ((columnFrom (core / 16)).drop 1).flatMap fun g => s.coolest g (2 ^ 16)

/-! ## Requesting -/

/-- Request the migration of logical core `l` of a context towards a goal: the code of R318 Table (0, −2, −3). -/
def State.requestMigration (s : State) (c l : Nat) (goal : MigrationGoal) : Int × State :=
  match Store.get none (s.ctx c).remap l with
  | none => (-1, s)
  | some core =>
    let ns := s.lcoreSlots c l core
    if s.migrations.any fun m => m.ctx == c && m.lcore == l then (-3, s)
    else if !(s.goalCores core goal).any (s.coreHolds c ns core) then (-2, s)
    else
      let s := { s with migrations := s.migrations ++ [{ ctx := c, lcore := l, core, goal, dest := none, slots := [], left := [], skidder := 0 }] }
      (0, ns.foldl (fun s n => s.request n .migrate) s)

/-- The goal of a target word (R318): none where a value is reserved, and then none where the target is not allowed. -/
def State.migrGoal (s : State) (t : Thread) (w : Nat) : Option (Option MigrationGoal) :=
  let body := w % 2 ^ 62
  let onDie (n : Nat) : Option MigrationGoal :=
    if slotDie (n * 16) == slotDie s.cur && s.allowsGrove t.ctx (n / 16) then some (.core n) else none
  match w / 2 ^ 62 with
  | 1 => if 3 ≤ body then none else some (if bit (s.eff t.ctx (slotDie s.cur)).tracks body then some (.track body) else none)
  | 2 => if 4096 ≤ body then none else some ((Store.get none (s.ctx t.ctx).remap body).bind onDie)
  | 3 =>
    let g := bits body 15 8
    if body / 2 ^ 16 != 0 || bits body 7 4 != 0 then none
    else some (if g < 192 then onDie (g * 16 + body % 16) else none)
  | _ => none

/-- `migr` (R318). -/
def State.migrOp (s : State) (e : Fields) : Result :=
  s.scalar e fun t =>
    if !(t.reg e.a).isInt then s.trap (.format false 0)
    else match s.migrGoal t (t.reg e.a).lo with
      | none => s.trap (.format false 0)
      | some none => s.finish t e (dataInt (-1))
      | some (some goal) =>
        let (k, s) := s.requestMigration t.ctx t.lcore goal
        match s.thread s.cur with
        | some t => s.finish t e (dataInt k)
        | none => s

/-- MIGR (R318). -/
def execMigr (e : Fields) (s : State) : Result := s.migrOp e
/-- MIGR_X (R318). -/
def execMigrX (e : Fields) (s : State) : Result := s.migrOp e

/-! ## The D4's own migrations (R319) -/

/-- The logical cores mapped to a core: context and number. -/
def State.lcoresOn (s : State) (core : Nat) : List (Nat × Nat) :=
  s.ctxs.flatMap fun e => e.2.remap.filterMap fun r => if r.2 == some core then some (e.1, r.1) else none

/-- CORE_OVERHEAT (R319): the sensor of core `arg.index` reads `arg.value`. When it passes 95 °C, every logical core
on it migrates to a cooler one; when one cannot, the core's slots are masked. -/
def evCoreOverheat (s : State) : Result :=
  let core := s.arg.index
  let was := (s.core core).temp
  let s := s.setCore core { s.core core with temp := s.arg.value }
  if was ≤ hotTemp && hotTemp < s.arg.value then
    let (bad, s) := (s.lcoresOn core).foldl (fun (b : Bool × State) x =>
      let (k, s) := b.2.requestMigration x.1 x.2 .cooler
      (b.1 || (k != 0 && k != -3), s)) (false, s)
    .next (if bad then
      ((List.range 16).map fun i => core * 16 + i).foldl (fun s n => s.setSlot n { s.slot n with thermal := true }) s
    else s)
  else .next s

/-- The allowed track nearest to a track; the faster of two. -/
def nearestTrack (allowed track : Nat) : Option Nat :=
  let try_ (t : Nat) : Option Nat := if bit allowed t then some t else none
  match track with
  | 0 => (try_ 1).or (try_ 2)
  | 1 => (try_ 0).or (try_ 2)
  | _ => (try_ 1).or (try_ 0)

/-- The logical cores of a context that stand on a track which it does not allow: each with the nearest that it does. -/
def State.strayCores (s : State) (c : Nat) : List (Nat × Nat) :=
  (s.ctx c).remap.filterMap fun e => e.2.bind fun core =>
    let t := groveTrack (core / 16)
    let allowed := (s.eff c (groveDie (core / 16))).tracks
    if bit allowed t then none else (nearestTrack allowed t).map fun u => (e.1, u)

/-- Logical cores on a track that their context has lost migrate, as soon as they can, to the nearest allowed one (R302,
R319). -/
def State.leaveTracks (s : State) : State :=
  s.ctxs.foldl (fun s e => (s.strayCores e.1).foldl (fun s x => (s.requestMigration e.1 x.1 (.track x.2)).2) s) s

/-! ## The transfer and the remap (R320) -/

/-- A copy of the logical core's slices through cursor bit 51 is still to be completed (step 1). -/
def State.copiesBlock (s : State) (m : Migration) : Bool :=
  let own (r : QReg) : Bool := r.cap && capSpace r.bits == 0 && bit r.lo 51
  s.queues.any fun e => keyCtx e.1 == m.ctx && e.2.ops.any fun op => match op.kind with
    | .copy x => op.core == m.core && (own op.d || (x != 3 && own op.a))
    | _ => false

/-- An access through the number of the migrating core has had one half performed (R320 step 3). -/
def State.halfDone (s : State) (m : Migration) : Bool :=
  let own (a : Access) : Bool := logicalCore a.space a.va.toNat == some m.lcore
  s.slots.any fun e => match e.2.thread with
    | some t => t.ctx == m.ctx && ((t.rx.any fun r => r.low.isSome && own r.acc) ||
        match t.wait with | .upperHalf a _ _ => own a | _ => false)
    | none => false

/-- The migration of a logical core. -/
def State.migrationOf (s : State) (c l : Nat) : Option Migration := s.migrations.find? fun m => m.ctx == c && m.lcore == l

/-- Threads of a lapsed or ended migration go on in the slots they stand in, with D at 0 also where it has lapsed (log 87). -/
def State.endMigrating (s : State) (n : Nat) : State :=
  match s.thread n with
  | some t =>
    (s.setThread n { t with migrating := false, liveQ := 0, liveP := 0, dist := 0, prio := false, held := 0, marked := false, fbuf := [] }).redeliver n 8
  | none => s

/-- A migration's record changes. -/
def State.setMigration (s : State) (m m' : Migration) : State :=
  { s with migrations := s.migrations.map fun x => if x = m then m' else x }

/-- The transfer to a core begins on a skidder: the destination's slots are taken, and the copies of the threads' kernels are
made there first (16 R293). -/
def State.beginTransfer (s : State) (m : Migration) (ns : List Nat) (d u : Nat) : State :=
  let s := s.setMigration m { m with dest := some d, slots := ns.map slotNum, left := ns.map slotNum, skidder := u }
  (s.kernelsAt m.ctx (ns.filterMap fun n => (s.thread n).map (·.pc.toNat))).foldl (fun s k => (s.needCopy (d / 16) m.ctx k).2) s

/-- Copy granules with their tag bits and their errors from key to key. -/
def State.moveGranules (s : State) (a b : Nat) : Nat → State
  | 0 => s
  | n + 1 =>
    let s := s.putGranule b (s.granule a)
    let s := (s.setPoison b (s.poisoned a)).setPoison (b + 8) (s.poisoned (a + 8))
    let s := (s.setFull b (s.isFull a)).setFull (b + 8) (s.isFull (a + 8))
    State.moveGranules s (a + 16) (b + 16) n

/-- The bytes that the transfer of a thread moves: its live state and its region (18 R330). -/
def Thread.transferBytes (t : Thread) : Nat := 16 * stateLength t.liveQ t.liveP + 6144

/-- The transfer of slot number `i` to core `d` ends: its region stands there, and the context is charged (18 R330). -/
def State.transferSlot (s : State) (m : Migration) (d i : Nat) : State :=
  let n := m.core * 16 + i
  match s.thread n with
  | none => s
  | some t =>
    let s := s.moveGranules (s.regionKey n) (s.regionKey (d * 16 + i)) 384
    s.credit (slotDie n) m.ctx none (s.copyCharge (s.scratchKey m.core 0) (s.scratchKey d 0) t.transferBytes)

/-- MIGRATION_TRANSFER (R320 step 2, 18 R330): once every thread of logical core `arg.index2` of context `arg.index` is
migrating and its copies are complete, the transfer begins on a free skidder of the grove, and each further event is the end of
the transfer of the next slot. When no core can take the slots, the threads resume in place. -/
def evMigrationTransfer (s : State) : Result :=
  match s.migrationOf s.arg.index s.arg.index2 with
  | none => .next s
  | some m =>
    match m.dest, m.left with
    | some d, i :: r => .next ((s.setMigration m { m with left := r }).transferSlot m d i)
    | some _, [] => .next s
    | none, _ =>
      let ns := s.lcoreSlots m.ctx m.lcore m.core
      let waits := ns.any fun n => match s.thread n with | some t => !t.migrating | none => false
      if waits || s.copiesBlock m || s.halfDone m then .next s
      else
        let rest := { s with migrations := s.migrations.erase m }
        match (s.goalCores m.core m.goal ++ s.goalCores m.core .cooler).find? (rest.coreHolds m.ctx ns m.core) with
        | none => .next (ns.foldl State.endMigrating rest)
        | some d =>
          let u := s.freeSkidder (m.core / 16)
          .next (if u = 0 then s else s.beginTransfer m ns d u)

/-- Move the thread of slot `n`, whose region has been transferred, to slot `d`. -/
def State.moveThread (s : State) (n d : Nat) : State :=
  match s.thread n with
  | none => s
  | some t =>
    let s := s.emptySlot n
    let (t, s) := s.restoreCopy d t
    let s := (s.setThread d t).endMigrating d
    if t.pair then s.checkpoint d t else s

/-- The copies of the kernels of a migration's threads are whole on the destination grove. -/
def State.copiesWhole (s : State) (m : Migration) (d : Nat) : Bool :=
  (s.kernelsAt m.ctx (m.slots.filterMap fun i => (s.thread (m.core * 16 + i)).map (·.pc.toNat))).all fun k =>
    match (s.grove (d / 16)).resident m.ctx k.image with | some r => r.whole | none => true

/-- MIGRATION_REMAP (R320 steps 3 and 4): the transfer of logical core `arg.index2` of context `arg.index` has ended; the
number maps to the new core and the threads are ready there. -/
def evMigrationRemap (s : State) : Result :=
  match s.migrationOf s.arg.index s.arg.index2 with
  | none => .next s
  | some m =>
    match m.dest, m.left with
    | some d, [] =>
      if !s.copiesWhole m d then .next s
      else
        let s := { s with migrations := s.migrations.erase m }
        let s := s.remapCore m.ctx m.lcore d
        .next (m.slots.foldl (fun s i => s.moveThread (m.core * 16 + i) (d * 16 + i)) s)
    | _, _ => .next s

end Sys2Proof.Machine
end

