-- ==== Sys2Proof/Machine/Handles.lean ====
section
/-!
DEFINITION. Cache handles and the key-value pool (spec/22 R370 to R373): escape 0x74.
-/
namespace Sys2Proof.Machine

/-! ## Handles (R370) -/

def handleTenant (h : Nat) : Nat := bits h 63 52
def handleGen (h : Nat) : Nat := bits h 51 40
def handleIndex (h : Nat) : Nat := bits h 39 16
def handleBound (h : Nat) : Nat := bits h 15 0

def mkHandle (tenant gen index bound : Nat) : Nat :=
  tenant % 2 ^ 12 * 2 ^ 52 + gen % 2 ^ 12 * 2 ^ 40 + index % 2 ^ 24 * 2 ^ 16 + bound % 2 ^ 16

/-- The entries of the handle table. -/
def handleEntries : Nat := 16777216

/-- The lowest free entry. -/
def State.freeHandle (s : State) : Option Nat :=
  let live := s.handles.filterMap fun e => if e.2.live then some e.1 else none
  (NatSet.leastFree live (live.length + 1) 0).bind fun i => if i < handleEntries then some i else none

/-- Checks 1 and 2 of Table 7: the code of the first that fails. -/
def State.handleBad (s : State) (c h : Nat) : Option Nat :=
  let v := s.handle (handleIndex h)
  if handleTenant h ≠ c then some 1
  else if !v.live || v.gen != handleGen h then some 2
  else none

/-- Check 3: a block of the chain that the handle may address. -/
def State.blockBad (s : State) (h blk : Nat) : Bool :=
  decide (handleBound h ≤ blk) || decide ((s.handle (handleIndex h)).blocks.length ≤ blk)

/-! ## Pool pages (R371) -/

/-- The free pages of a pool, lowest first. -/
def State.poolFree (s : State) (c : Nat) : List Nat :=
  (List.range (s.ctx c).poolCount).filter fun p => (s.poolPage c p).count == 0

/-- Take the `n` lowest free pages, each with count 1. -/
def State.takePages (s : State) (c n : Nat) : List Nat × State :=
  let l := (s.poolFree c).take n
  (l, l.foldl (fun s p => s.setPoolPage c p { count := 1, sticky := false }) s)

/-- A fork raises the count of a page; above 4,095 the page becomes sticky. -/
def State.raisePage (s : State) (c p : Nat) : State :=
  let v := s.poolPage c p
  if v.sticky then s
  else if 4095 ≤ v.count then
    let s := s.setPoolPage c p { v with sticky := true }
    s.setCtx c { s.ctx c with stickyEvents := min 65535 ((s.ctx c).stickyEvents + 1) }
  else s.setPoolPage c p { v with count := v.count + 1 }

/-- A release lowers the count of a page that is not sticky. -/
def State.lowerPage (s : State) (c p : Nat) : State :=
  let v := s.poolPage c p
  if v.sticky then s else s.setPoolPage c p { v with count := v.count - 1 }

/-- A page is shared: its count is above 1, or it is sticky. -/
def PoolPage.shared (v : PoolPage) : Bool := v.sticky || decide (1 < v.count)

/-- Copy `n` granules from key to key, with their capability tag bits and their errors. -/
def State.copyGranules (s : State) (a b : Nat) : Nat → State
  | 0 => s
  | n + 1 =>
    let s := ((s.correct a).correct (a + 8)).detect a |>.detect (a + 8)
    let s := s.putGranule b (s.granule a)
    let s := (s.setPoison b (s.poisoned a)).setPoison (b + 8) (s.poisoned (a + 8))
    State.copyGranules s (a + 16) (b + 16) n

/-- Copy a pool page to another, at the charge of the farther level for each 64 bytes (26 R407). -/
def State.copyPage (s : State) (c p q : Nat) : State :=
  (List.range 16).foldl (fun s i =>
    match s.landingKey c (s.poolVa c p + 4096 * i) .load with
    | (some a, s) => match s.landingKey c (s.poolVa c q + 4096 * i) .store with
      | (some b, s) =>
        ({ s with spent := s.spent + 64 * max (s.levelCharge false a) (s.levelCharge false b) } : State).copyGranules a b 256
      | (none, s) => s
    | (none, s) => s) s

/-! ## The instructions (R372, R373) -/

/-- The capability of `hxl` and `hcow` to a page. -/
def State.pageCap (s : State) (c p : Nat) : QReg :=
  let b := s.poolVa c p
  let v := s.poolPage c p
  let perms := permPL + permPENG + (if v.count == 1 && !v.sticky then permPS else 0)
  ⟨mkCap perms 3 kindMemory 0 (b % 2 ^ 21) ((b + 65536) % 2 ^ 21) b, true, 27⟩

/-- The outcome of a handle instruction: a result, or a failure code. -/
abbrev HandleResult := Except Nat QReg × State

/-- `hnew`. -/
def State.hnew (s : State) (c n : Nat) : HandleResult :=
  match s.freeHandle with
  | none => (.error 4, s)
  | some i =>
    if (s.poolFree c).length < n then (.error 4, s)
    else if n = 0 || 65535 < n then (.error 5, s)
    else
      let (l, s) := s.takePages c n
      let g := ((s.handle i).gen + 1) % 2 ^ 12
      (.ok (data64 (mkHandle c g i n) 8), s.setHandle i { gen := g, live := true, held := false, tenant := c, blocks := l })

/-- `hext`. -/
def State.hext (s : State) (c h n : Nat) : HandleResult :=
  match s.handleBad c h with
  | some r => (.error r, s)
  | none =>
    let i := handleIndex h
    let v := s.handle i
    if (s.poolFree c).length < n then (.error 4, s)
    else if n = 0 || 65535 < n || 65535 < v.blocks.length + n then (.error 5, s)
    else
      let (l, s) := s.takePages c n
      let bs := v.blocks ++ l
      (.ok (data64 (mkHandle c v.gen i bs.length) 8), s.setHandle i { v with blocks := bs })

/-- `hxl`. -/
def State.hxl (s : State) (c h blk : Nat) : HandleResult :=
  match s.handleBad c h with
  | some r => (.error r, s)
  | none =>
    if s.blockBad h blk then (.error 3, s)
    else (.ok (s.pageCap c (((s.handle (handleIndex h)).blocks[blk]?).getD 0)), s)

/-- `hfork`. -/
def State.hfork (s : State) (c h : Nat) : HandleResult :=
  match s.handleBad c h with
  | some r => (.error r, s)
  | none =>
    match s.freeHandle with
    | none => (.error 4, s)
    | some i =>
      let v := s.handle (handleIndex h)
      let g := ((s.handle i).gen + 1) % 2 ^ 12
      let s := v.blocks.foldl (fun s p => s.raisePage c p) s
      (.ok (data64 (mkHandle c g i (handleBound h)) 8),
       s.setHandle i { gen := g, live := true, held := false, tenant := c, blocks := v.blocks })

/-- `hrel`: the result is the number of pages that return to the pool. -/
def State.hrel (s : State) (c h : Nat) : HandleResult :=
  match s.handleBad c h with
  | some r => (.error r, s)
  | none =>
    let i := handleIndex h
    let v := s.handle i
    if v.held then (.error 6, s)
    else
      let before := (s.poolFree c).length
      let s := v.blocks.foldl (fun s p => s.lowerPage c p) s
      (.ok (data64 ((s.poolFree c).length - before) 4), s.setHandle i { Handle.free with gen := (v.gen + 1) % 2 ^ 12 })

/-- `hcow`: a shared page is copied to a page of the chain's own. -/
def State.hcow (s : State) (c h blk : Nat) : HandleResult :=
  match s.handleBad c h with
  | some r => (.error r, s)
  | none =>
    if s.blockBad h blk then (.error 3, s)
    else
      let i := handleIndex h
      let v := s.handle i
      let p := (v.blocks[blk]?).getD 0
      if !(s.poolPage c p).shared then (.ok (s.pageCap c p), s)
      else
        let (l, s') := s.takePages c 1
        match l with
        | [] => (.error 4, s)
        | q :: _ =>
          let s := ((s'.copyPage c p q).lowerPage c p).setHandle i { v with blocks := v.blocks.set blk q }
          (.ok (s.pageCap c q), s)

/-- What a handle instruction writes: fd and the pair. -/
def Thread.handleResult (t : Thread) (e : Fields) (r : Except Nat QReg) : Thread :=
  match r with
  | .ok v => (t.setReg e.d v).setPair e.c.toNat 16 true
  | .error k => (t.setReg e.d (dataInt (-(k : Int)))).setPair e.c.toNat 16 false

/-- The step at the table's home, after which the thread waits on memory. -/
def State.handleStep (s : State) (t : Thread) (e : Fields) (f : State → HandleResult) : State :=
  let (r, s) := f s
  s.put { (t.handleResult e r).next e with wait := .memory }

/-- A handle instruction: the checks of its operands, then its step. -/
def State.handleOp (s : State) (e : Fields) (useA useB order : Bool) (f : State → Nat → Nat → Nat → HandleResult) : Result :=
  s.scalar e fun t =>
    let b := if useB then t.intB e else some 0
    match b with
    | none => s.trap (.format false 0)
    | some n =>
      if useA && !(t.reg e.a).isInt then s.trap (.format false 0)
      else
        let go := s.handleStep t e fun s => f s t.ctx (t.reg e.a).lo n
        if order then s.release t 5 false go else go

/-- HNEW (R373). -/
def execHnew (e : Fields) (s : State) : Result := s.handleOp e false true false fun s c _ n => s.hnew c n
/-- HEXT (R373). -/
def execHext (e : Fields) (s : State) : Result := s.handleOp e true true false State.hext
/-- HXL (R373). -/
def execHxl (e : Fields) (s : State) : Result := s.handleOp e true true false State.hxl
/-- HFORK (R373). -/
def execHfork (e : Fields) (s : State) : Result := s.handleOp e true false false fun s c h _ => s.hfork c h
/-- HREL (R373). -/
def execHrel (e : Fields) (s : State) : Result := s.handleOp e true false true fun s c h _ => s.hrel c h
/-- HCOW (R373). -/
def execHcow (e : Fields) (s : State) : Result := s.handleOp e true true true State.hcow

/-- The status of a handle (R373 Table 8), or the code of the check that fails. -/
def State.handleStatus (s : State) (c h : Nat) : QReg :=
  match s.handleBad c h with
  | some r => dataInt (-(r : Int))
  | none =>
    let v := s.handle (handleIndex h)
    let l := v.blocks
    lanes64
      (l.length % 2 ^ 16 * 2 ^ 48 + (l.filter fun p => (s.poolPage c p).shared).length % 2 ^ 16 * 2 ^ 32 +
        s.blocksAt c l 0 % 2 ^ 16 * 2 ^ 16 + s.blocksAt c l 4 % 2 ^ 16)
      (s.blocksAt c l 5 % 2 ^ 16 * 2 ^ 48 + (if v.held then 2 else 1) * 2 ^ 40) 0

/-- HSTAT (R372, R373). -/
def execHstat (e : Fields) (s : State) : Result :=
  s.scalar e fun t =>
    if !(t.reg e.a).isInt then s.trap (.format false 0)
    else s.finishMem t e (s.handleStatus t.ctx (t.reg e.a).lo)

/-! ## The pool registers (R371) -/

/-- A page of a pool is mapped as a 64 KiB group with L, S, M and TGT 0. -/
def State.poolPageOk (s : State) (c va : Nat) : Bool :=
  match (s.mapped c va).1 with
  | .page t => t.size == 65536 && pteL t.leaf && pteS t.leaf && pteM t.leaf && pteTgt t.leaf == 0 && s.reaches t (va + 65535)
  | _ => false

/-- A write of KVPOOL for a context. -/
def State.writePool (s : State) (c v : Nat) : State :=
  let base := bits v 56 16 * 65536
  let n := bits v 15 0
  if (s.handles.any fun e => e.2.live && e.2.tenant == c) || decide (2 ^ 57 < base + 65536 * n) ||
      !((List.range n).all fun p => s.poolPageOk c (base + 65536 * p)) then s
  else s.setCtx c { s.ctx c with poolBase := base, poolCount := n }

/-- KVPOOL and KVSTAT of a context. -/
def State.readPool (s : State) (c : Nat) : Nat := (s.ctx c).poolBase + (s.ctx c).poolCount
def State.readPoolStat (s : State) (c : Nat) : Nat :=
  (s.poolFree c).length % 2 ^ 16 * 2 ^ 48 + (s.ctx c).stickyEvents * 2 ^ 32

end Sys2Proof.Machine
end

