-- ==== Sys2Proof/Machine/LayBy.lean ====
section
/-!
DEFINITION. Parked continuations (spec/23 R374 to R390, spec/22 R367, R368): escape 0x75, the aging timers and the moves of
blocks.
-/
namespace Sys2Proof.Machine

/-! ## park (R375 to R377) -/

/-- The continuations that the lay-by holds. -/
def layByEntries : Nat := 65536

/-- A park block's fields. -/
structure ParkBlock where
  handle : Nat
  wakeVa : Nat
  armVal : Nat
  thbm : Nat
  tcxl : Nat
  w : Nat
  flags : Nat
  zero : Nat
  curve : Curve
  cost : Nat
  energy : Nat
deriving DecidableEq, Repr

/-- The fields of the 64 bytes (R375 Table 1). -/
def parkBlock (v : Nat) : ParkBlock :=
  let at_ (off n : Nat) : Nat := v / 2 ^ (8 * off) % 2 ^ (8 * n)
  { handle := at_ 0 8, wakeVa := at_ 8 8, armVal := at_ 16 8, thbm := at_ 24 4, tcxl := at_ 28 4, w := at_ 32 2
    flags := at_ 34 1, zero := at_ 35 1, curve := ⟨at_ 36 4, at_ 40 4, at_ 44 4, at_ 48 4, at_ 52 4⟩, cost := at_ 56 4
    energy := at_ 60 4 }

/-- The fields that must be zero are, and a curve in use is valid. -/
def ParkBlock.ok (b : ParkBlock) : Bool := decide (b.flags ≤ 1) && b.zero == 0 && (b.flags == 0 || b.curve.ok)

/-- A timer of `d` µs for the code 0, none for never. -/
def timerOf (d v : Nat) : Option Nat := if v = 0 then some d else if v = 0xFFFFFFFF then none else some v

/-- The code of the first refusal of R377. -/
def State.parkRefused (s : State) (c : Nat) (b : ParkBlock) (word : Nat) : Option Nat :=
  if layByEntries ≤ s.conts.length then some 1
  else if s.wakeArmed word then some 2
  else if b.handle ≠ 0 && (s.handleBad c b.handle).isSome then some 3
  else if b.handle ≠ 0 && (s.handle (handleIndex b.handle)).held then some 4
  else if ((s.ctx c).frames.leastFree (s.ctx c).regs.nframe 0).isNone then some 5
  else none

/-- An access touches a byte of `n` bytes from a key. -/
def Access.touches (a : Access) (k n : Nat) : Bool := a.words.any fun w => decide (w.1 < k + n) && decide (k < w.1 + 8)

/-- Read a block of `n` bytes of the issuing thread, once its own relaxed accesses to them have been performed (08 R161). Bytes
beyond the package are free values (log 9). -/
def State.withBlock (s : State) (t : Thread) (r : QReg) (va n : Nat) (go : State → Nat → State) : State :=
  s.withKey t (capSpace r.bits) va [.load] fun s k =>
    if t.rx.any fun x => x.acc.touches k n then s.retry t (.drain 5 false)
    else if !s.isLocal k then let (v, s) := s.takeFree; go s (v % 2 ^ (8 * n))
    else match (List.range ((n + 7) / 8)).find? fun i => s.poisoned (k + 8 * i) with
      | some i => (s.detect (k + 8 * i)).trap (.data 0 (va + 8 * i) (s.inCore (slotCore s.cur) k))
      | none => go ((List.range ((n + 7) / 8)).foldl (fun s i => s.correct (k + 8 * i)) s) (s.readNum k n)

/-- The leaf in use of an address of the issuing thread's context. -/
def State.leafOf (s : State) (t : Thread) (va : Nat) : Nat :=
  match (s.translate (slotGrove s.cur) t.ctx va).1 with | .page x => x.leaf | _ => 0

/-- Park the thread: arm the word, hold the chain, write the save, empty the slot; a word that does not hold ARMVAL wakes
the continuation at once (R376). A stepped thread is saved as stopped (27 R427). -/
def State.parkNow (s : State) (t : Thread) (e : Fields) (b : ParkBlock) (word : Nat) : State :=
  let n := s.cur
  let c := t.ctx
  let x := s.ctx c
  let i := (x.frames.leastFree x.regs.nframe 0).getD 0
  let v := s.readNum word 8
  let h := if b.handle = 0 then none else some (handleIndex b.handle)
  let thbm := timerOf 20000 b.thbm
  let cont : Continuation :=
    { word, ctx := c, gtid := t.gtid, frame := i, handle := h, thbm, tcxl := timerOf 2000000 b.tcxl, w := b.w
      curve := if b.flags = 1 then some b.curve else none, cost := b.cost, energy := b.energy, state := .parking
      armed := v == b.armVal, value := if v = b.armVal then none else some v, since := s.now
      dueHbm := thbm.map fun d => s.now + 1000 * d, dueCxl := none, tier := 0, up := [], down := [], downTgt := 4
      pro := false, turn := 0, die := slotDie n, core := slotCore n, lcore := t.lcore, slot := slotNum n, d := e.d
      pk := e.c.toNat, stepped := t.stepping != 0, key := 0, pc := t.nextPc e, due := none }
  let s := match h with | some j => s.setHandle j { s.handle j with held := true } | none => s
  let u := if t.stepping ≠ 0 then { t.next e with stopped := some ⟨6, 3, 0, 0⟩ } else t.next e
  let l := saveRegs u (slotNum n) e.imm.toNat (e.mod.toNat % 256) false false ++ s.sliceGranules n t.slice
  let s := s.setCtx c { s.ctx c with frames := x.frames.add i }
  let va := s.frameVa c i
  let s := (s.putVa (slotGrove n) c va l).chargeFrame (slotGrove n) c va l.length
  let s := ({ s.emptySlot n with conts := s.conts ++ [cont] }).endStop c
  if cont.armed then s else s.wakeMile cont

/-- A refused park goes on past it as from a safe point: a pending request is honoured with the instruction's masks (R376). -/
def State.parkRefusal (s : State) (t : Thread) (e : Fields) (k : Nat) : State :=
  let u := ((t.setReg e.d (dataInt (-(k : Int)))).setPair e.c.toNat 16 false).next e
  if u.request.isSome then (s.put u).honour s.cur e.imm.toNat (e.mod.toNat % 256)
  else s.put { u with wait := .memory }

/-- PARK (R376). Its issue credits the wake milestone of a resumed thread (R384); an abandoned thread stops at it (13
R260). -/
def execPark (e : Fields) (s : State) : Result :=
  s.scalar e fun t =>
    let s := s.creditWake t.gtid
    let r := t.reg e.a
    if !(r.isMem && checkBytes r r.lo 64 (2 ^ 128 - 1) permPL) then s.trap (.capability r.lo)
    else if r.lo % 64 ≠ 0 then s.trap (.format true r.lo)
    else s.withBlock t r r.lo 64 fun s v =>
      let b := parkBlock v
      if !b.ok then s.trap (.format false 0)
      else if b.wakeVa % 8 ≠ 0 then s.trap (.format true b.wakeVa)
      else s.withKey t 3 b.wakeVa [.store] fun s word =>
        if !(keyTgt word ≤ 1 && keyPkg word == s.pkg) || pteM (s.leafOf t b.wakeVa) then s.trap (.format false 0)
        else s.release t 5 true <|
          if t.request = some .abandon then s.meet s.cur 0 0 false
          else match s.parkRefused t.ctx b word with
          | some k => s.parkRefusal t e k
          | none => if s.poisoned word then (s.detect word).trap (.data 0 b.wakeVa false) else s.parkNow t e b word

/-- A move is one of a continuation. -/
def PageMove.serves (m : PageMove) (c : Continuation) : Bool := m.ctx == c.ctx && m.frame == c.frame

/-- A continuation is ready: it is a ready task of its graph, keyed as its graph's tasks are (R382, R384). -/
def State.contReady (s : State) (c : Continuation) : State :=
  let s := s.setCont { c with state := .ready }
  match s.graphOf c.gtid with | some k => s.keyConts k | none => s

/-- The continuation of a frame whose moves have ended goes on: stage 1 to ready, `lpro` to its timers, a demotion to the
next timer; stage 2 to its end once every block stands at TGT 0 (R378, R381, R389). -/
def State.movesEnded (s : State) (ctx frame : Nat) : State :=
  match s.contAt ctx frame with
  | none => s
  | some c =>
    if s.moves.any (fun m => m.serves c) || !c.up.isEmpty || !c.down.isEmpty then s
    else match c.state with
      | .stage1 => s.contReady c
      | .stage2 =>
        let left := s.toPromote c (s.chain c).length
        if !left.isEmpty then s.setCont { c with up := left }
        else
        let s := { s with conts := s.conts.filter fun x => !x.stands ctx frame }
        let s := match c.handle with | some h => s.setHandle h { s.handle h with held := false } | none => s
        s.setCtx c.ctx { s.ctx c.ctx with frames := (s.ctx c.ctx).frames.del c.frame }
      | .parked =>
        if c.pro then
          s.setCont { c with pro := false, since := s.now, dueHbm := c.thbm.map fun d => s.now + 1000 * d }
        else s
      | _ => s

/-- The continuation of an event: of those of word `arg.addr`, in the order in which they parked, the one at `arg.index`. -/
def State.contArg (s : State) : Option Continuation := (s.conts.filter fun c => c.word == s.arg.addr)[s.arg.index]?

/-- PARK_SAVE_WRITTEN (R378): a continuation of word `arg.addr` is parked, or in stage 1 when its wake write came first. -/
def evParkSaveWritten (s : State) : Result :=
  match s.contArg with
  | some c =>
    if c.state ≠ .parking then .next s
    else if c.value.isSome then .next ((s.startStage1 c).movesEnded c.ctx c.frame)
    else .next (s.setCont { c with state := .parked })
  | none => .next s

/-! ## Aging (R381) -/

/-- The end of the first demotion starts the second timer. -/
def State.demotionDone (s : State) (c : Continuation) : State :=
  s.setCont { c with dueCxl := if c.downTgt = 4 then c.tcxl.map fun d => s.now + 1000 * d else none }

/-- The blocks of a chain at a level whose pages have count 1 and are not sticky. -/
def State.toDemote (s : State) (c : Continuation) (tgt : Nat) : List Nat :=
  (s.chain c).filter fun p => !(s.poolPage c.ctx p).shared && s.pageLevel c.ctx p == some tgt

/-- A demotion instant: blocks at `src` are to move to `dst`. -/
def State.startDemotion (s : State) (c : Continuation) (src dst : Nat) : State :=
  let room := if dst = 4 then !s.dramFree.isEmpty else !s.flashFree.isEmpty
  let l := if room then s.toDemote c src else []
  let c := { c with down := l, downTgt := dst, dueHbm := none, dueCxl := none }
  if l.isEmpty then s.demotionDone c else s.setCont c

/-- THBM_EXPIRY (R381): the timer of a continuation of word `arg.addr` is due. -/
def evThbmExpiry (s : State) : Result :=
  match s.contArg with
  | some c =>
    let due := match c.dueHbm with | some t => decide (t ≤ s.now) | none => false
    .next (if due && (c.state == .parking || c.state == .parked) then s.startDemotion c 0 4 else s)
  | none => .next s

/-- TCXL_EXPIRY (R381). -/
def evTcxlExpiry (s : State) : Result :=
  match s.contArg with
  | some c =>
    let due := match c.dueCxl with | some t => decide (t ≤ s.now) | none => false
    .next (if due && (c.state == .parking || c.state == .parked) then s.startDemotion c 4 5 else s)
  | none => .next s

/-! ## Moves (22 R367, R382) -/

/-- The HBM stack of a page number. -/
def pageStack (p : Nat) : Nat := p * 65536 / 2 ^ 36

/-- The free HBM page that a promotion takes: of the stack due, of the other stack of the die, of another die. -/
def State.promotionPage (s : State) (die turn : Nat) : Option Nat :=
  let stack (k : Nat) : Option Nat := s.hbmFree.find? fun p => pageStack p == k
  (stack (2 * die + turn % 2)).or ((stack (2 * die + (turn + 1) % 2)).or
    ((List.range 4).findSome? fun d => s.hbmFree.find? fun p => pageStack p / 2 == d))

/-- The key of a 64 KiB page of a level. -/
def State.levelPage (s : State) (tgt p : Nat) : Nat := memKey s.pkg tgt (p * 65536)

/-- Start the move of a block: every translation of its page is dropped, as by `tlbi.va`. -/
def State.startMove (s : State) (c : Continuation) (p src dst : Nat) : State :=
  let va := s.poolVa c.ctx p
  let leaf := match s.walk c.ctx va with | .leaf _ _ key => key / 128 * 128 | _ => 0
  let die := match s.graphOf c.gtid with | some k => (s.graph k).die | none => c.die
  let m : PageMove := { ctx := c.ctx, va, src, dst, word := c.word, frame := c.frame, gtid := c.gtid, die, leaf
                        entry := s.readNum leaf 8, obeyed := false }
  let s := s.dropNamed 2 c.ctx va 65536
  { s with moves := s.moves ++ [m] }

/-- The page of a block as it stands. -/
def State.blockKey (s : State) (c p : Nat) : Option Nat :=
  match (s.mapped c (s.poolVa c p)).1 with
  | .page t => if t.size = 65536 && pteM t.leaf then some (leafKey t.leaf 0) else none
  | _ => none

/-- Take a tier page for a demotion. -/
def State.takeTier (s : State) (dst : Nat) : Option Nat × State :=
  if dst = 4 then
    match s.dramFree with | p :: r => (some (s.levelPage 4 p), { s with dramFree := r }) | [] => (none, s)
  else match s.flashFree with | p :: r => (some (s.levelPage 5 p), { s with flashFree := r }) | [] => (none, s)

/-- The next promotion of a continuation: blocks already at TGT 0 are passed; with no free page the move waits. -/
def State.nextUp (s : State) (c : Continuation) : State :=
  match c.up with
  | [] => s
  | p :: r =>
    let rest := { c with up := r }
    match s.blockKey c.ctx p with
    | none => (s.setCont rest).movesEnded c.ctx c.frame
    | some src =>
      if s.blockMoving c p then s
      else if keyTgt src = 0 then (s.setCont rest).movesEnded c.ctx c.frame
      else match s.promotionPage ((s.graphOf c.gtid).map (fun k => (s.graph k).die) |>.getD c.die) c.turn with
        | none => s
        | some q =>
          let s := { s with hbmFree := s.hbmFree.erase q }
          (s.setCont { rest with turn := c.turn + 1 }).startMove c p src (s.levelPage 0 q)

/-- The next demotion: a block for which no page is free stays where it is. -/
def State.nextDown (s : State) (c : Continuation) : State :=
  match c.down with
  | [] => s
  | p :: r =>
    let rest := { c with down := r }
    let skip (s : State) : State := if r.isEmpty then s.demotionDone rest else s.setCont rest
    match s.blockKey c.ctx p with
    | none => skip s
    | some src =>
      if s.blockMoving c p then s
      else if (s.poolPage c.ctx p).shared || keyTgt src != (if c.downTgt = 4 then 0 else 4) then skip s
      else match s.takeTier c.downTgt with
        | (none, s) => skip s
        | (some dst, s) => (s.setCont { rest with tier := if c.downTgt = 4 then 1 else 2 }).startMove c p src dst

/-- PAGE_MOVE_START (22 R367): the next block of a continuation of word `arg.addr` begins to move. A page's moves, and a
continuation's, follow one another. -/
def evPageMoveStart (s : State) : Result :=
  match s.contArg with
  | none => .next s
  | some c =>
    if s.moves.any fun m => m.serves c then .next s
    else if !c.up.isEmpty then .next (s.nextUp c)
    else .next (s.nextDown c)

/-- Give back the page that a move has left: from HBM to the promotion area of its stack's die, else to its tier. -/
def State.freePage (s : State) (key : Nat) : State :=
  let p := keyPa key / 65536
  match keyTgt key with
  | 0 => { s with hbmFree := s.hbmFree ++ [p] }
  | 4 => { s with dramFree := s.dramFree ++ [p] }
  | _ => { s with flashFree := s.flashFree ++ [p] }


/-- Rewrite TGT and PA of the sixteen entries of a group, each by one 8-byte store (R367). -/
def State.rewriteLeaf (s : State) (m : PageMove) : State :=
  let base := m.entry % 2 ^ 12 + m.entry / 2 ^ 56 * 2 ^ 56 + keyTgt m.dst * 2 ^ 52
  (List.range 16).foldl (fun s i =>
    s.storeAccess (unitStore (m.leaf + 8 * i) (m.leaf + 8 * i) 8 0xFFFF) (base + keyPa m.dst + 4096 * i)) s

/-- The leaf of a page that has moved: the lay-by's; M stays cleared where software has cleared it, and then dropped the page's
translations, and has changed no more. Where it has rewritten the leaf meanwhile otherwise, software's entries or the lay-by's, a free
choice (R368, log 20). -/
def State.settleLeaf (s : State) (m : PageMove) : State :=
  if s.leafKept m then s.rewriteLeaf m
  else if m.obeyed && s.leafCleared m then s.rewriteLeaf { m with entry := clearM m.entry }
  else
    let (v, s) := s.takeFree
    if v % 2 = 0 then s.rewriteLeaf m else s

/-- BLOCK_MOVE_COMPLETE (22 R367): the page whose move, of those for word `arg.addr`, stands at `arg.index` is at the new level
once every access through its dropped translations has been performed: its bytes and tag bits are copied and its leaf is
rewritten; the accesses that waited are translated again. The copy is charged to the continuation's context and graph
(R385). -/
def evBlockMoveComplete (s : State) : Result :=
  match (s.moves.filter fun m => m.word == s.arg.addr)[s.arg.index]? with
  | none => .next s
  | some m =>
    if s.staleLeft 2 m.ctx m.va 65536 then .next s
    else
      let s := s.copyGranules m.src m.dst 4096
      let s := ((s.settleLeaf m).freePage m.src).dropNamed 2 m.ctx m.va 65536
      let s := { s with moves := s.moves.erase m }
      let s := s.credit m.die m.ctx (s.graphOf m.gtid) (1024 * max (s.levelCharge false m.src) (s.levelCharge false m.dst))
      match s.contAt m.ctx m.frame with
      | none => .next s
      | some c =>
        if c.down.isEmpty && (c.state == .parking || c.state == .parked) && !c.pro && keyTgt m.dst != 0 then
          .next (s.demotionDone c)
        else .next (s.movesEnded c.ctx c.frame)

/-! ## wake, lpro and lstat (R387 to R390) -/

/-- The wake-word operand of an instruction. -/
def State.wordOperand (s : State) (t : Thread) (e : Fields) (perm : Nat) (rights : List Right) (go : State → Nat → Nat → State) :
    State :=
  let r := t.reg e.a
  if r.lo % 8 ≠ 0 then s.trap (.format true r.lo)
  else if !(r.cap && capKind r.bits == kindMemory && checkBytes r r.lo 8 0xFFFF perm) then s.trap (.capability r.lo)
  else s.withKey t (capSpace r.bits) r.lo rights fun s k => go s k r.lo

/-- WAKE (R388). -/
def execWake (e : Fields) (s : State) : Result :=
  s.scalar e fun t =>
    match t.intB e with
    | none => s.trap (.format false 0)
    | some v =>
      s.wordOperand t e permPS [.store] fun s k va =>
        s.release t 5 false <|
          s.issueOrdinary t e (mkAccess t (.wake e.c.toNat) k va 8 0xFFFF (data64 v 0) none 8)

/-- `lpro` on a parked continuation: its newest blocks are to be promoted. -/
def State.lproNow (s : State) (c : Continuation) (n : Nat) : State :=
  let n := if n = 0 then s.stage1Count c else n
  (s.setCont { c with up := s.toPromote c n, down := [], pro := true, turn := 0, dueHbm := none, dueCxl := none }).movesEnded
    c.ctx c.frame

/-- LPRO (R389). -/
def execLpro (e : Fields) (s : State) : Result :=
  s.scalar e fun t =>
    match t.intB e with
    | none => s.trap (.format false 0)
    | some n =>
      s.wordOperand t e permPL [.load] fun s k _ =>
        let done (s : State) (ok : Bool) : State := s.put { (t.setPair e.c.toNat 16 ok).next e with wait := .memory }
        match s.contOf k with
        | some c => if c.state = .parked && c.armed then done (s.lproNow c n) true else done s false
        | none => done s false

/-- The state codes of `lstat` (R378). -/
def ContState.code : ContState → Nat
  | .parking => 1 | .parked => 2 | .stage1 => 3 | .ready => 4 | .stage2 => 5

/-- The result of `lstat` (R390 Table 4); the blocks still to promote in stage 1 or 2 are those of both (24 Table 5). -/
def State.contStatus (s : State) (k : Nat) : QReg :=
  match s.contOf k with
  | none => lanes64 0 0 0
  | some c =>
    let l := s.chain c
    let idle := min (2 ^ 32 - 1) ((s.now - c.since) / 1000)
    let moving := s.moves.any fun m => m.serves c
    let pending := if c.state = .stage1 || c.state = .ready || c.state = .stage2 then (s.toPromote c l.length).length else 0
    lanes64 (c.state.code * 2 ^ 60 + c.tier * 2 ^ 58 + flag moving * 2 ^ 57 + idle)
      (s.blocksAt c.ctx l 0 % 2 ^ 16 * 2 ^ 48 + s.blocksAt c.ctx l 4 % 2 ^ 16 * 2 ^ 32 +
        s.blocksAt c.ctx l 5 % 2 ^ 16 * 2 ^ 16 + pending % 2 ^ 16) 0

/-- LSTAT (R390). -/
def execLstat (e : Fields) (s : State) : Result :=
  s.scalar e fun t => s.wordOperand t e permPL [.load] fun s k _ => s.finishMem t e (s.contStatus k)

end Sys2Proof.Machine
end

