-- ==== Sys2Proof/Machine/Placement.lean ====
section
/-!
DEFINITION. Placement (spec/02 R33 to R36, spec/13 R245, R255, R256, R264, R267, spec/14 R274, spec/23 R383): which ready
task or continuation a Landing places next, on which track, and what a placed thread and a placed tile task begin with.
-/
namespace Sys2Proof.Machine

/-! ## Slots for a thread task (R33 to R35) -/

/-- The slots of a grove that can take threads of a task of a context with a kernel, in order: those of wholly free cores,
then the others. -/
def State.groveSlots (s : State) (c : Nat) (pair : Bool) (k : Kernel) (g : Nat) : List Nat :=
  if (s.copyRoom g c k).isNone then []
  else
    let free (core : Nat) : List Nat := ((List.range 16).map fun i => core * 16 + i).filter (s.slotTakes c pair)
    let vacant (n : Nat) : Bool := (s.thread n).isNone && !s.slotReserved n && !s.slotHeld c n
    let empty (core : Nat) : Bool :=
      (List.range 16).all fun i => vacant (core * 16 + i) && (!pair || vacant (core * 16 + 16 + i))
    ((coresOf g).filter empty).flatMap free ++ ((coresOf g).filter fun x => !empty x).flatMap free

/-- The slots that `n` threads take when a grove is chosen, or fewer when its column holds fewer. -/
def State.columnSlots (s : State) (c : Nat) (pair : Bool) (k : Kernel) (n g : Nat) : List Nat :=
  if (s.groveSlots c pair k g).isEmpty then []
  else
    let all := (columnFrom g).flatMap (s.groveSlots c pair k)
    (s.numbered c (4096 - (s.ctx c).remap.length) [] all).take n

/-- The groves of a die on a track. -/
def trackGroves (die track : Nat) : List Nat :=
  ((List.range 48).map fun i => die * 48 + i).filter fun g => groveTrack g == track

/-- An element of a list, chosen by a number. -/
def choose {α : Type} (l : List α) (i : Nat) : Option α := l[i % l.length]?

/-- The slots for the threads of a task that a track has room for: all of them, or for a wide task a wave. Which grove is
chosen is an input (log 27). -/
def State.trackSlots (s : State) (c die track : Nat) (pair : Bool) (k : Kernel) (width left pick : Nat) : Option (List Nat) :=
  let ls := (trackGroves die track).map (s.columnSlots c pair k left)
  choose (ls.filter fun l => l.length == left || (decide (1536 < width) && !l.isEmpty)) pick

/-! ## Launching (04 R78) -/

/-- The argument capability of what the block holds: SPACE 3, PL and PLC of its permissions, its bounds, with the cursor at
their base (R78 Table 9; log 81). -/
def argCap (arg : Word128) : QReg :=
  ⟨mkCap (capPerms arg &&& (permPL + permPLC)) 3 kindMemory (capE arg) (capBF arg) (capTF arg) (capBase arg), true, 27⟩

/-- The scratch capability of a slot. -/
def scratchCap (slot slice : Nat) : QReg :=
  let b := slot * 6144
  ⟨mkCap (permPL + permPS + permPLC + permPSC + permPA) 0 kindMemory 0 b (b + 16 * slice) (2 ^ 51 + b), true, 27⟩

/-- A thread at launch. -/
def launched (gtid : Word64) (l : Launch) (slot lcore idx width : Nat) (crew : QReg) (seed : Nat) : Thread :=
  let t : Thread :=
    { Thread.blank with gtid, pc := BitVec.ofNat 64 l.entry, lcore, slice := l.slice, pair := l.pair
                        gen := BitVec.ofNat 64 (mix (seed ^^^ lcore * 2 ^ 16 ^^^ slot)) }
  ((((((t.setReg 0 (argCap l.arg)).setReg 1 (scratchCap slot l.slice)).setReg 2 (data64 idx 4)).setReg 3 (data64 width 4)).setReg
    4 crew).setPred 0 0xFFFFFFFF)

/-- Place thread `idx` of task `i` of graph `k` in slot `n`. -/
def State.launchIn (s : State) (k i : Nat) (l : Launch) (crew : Nat) (n idx : Nat) : State :=
  let g := s.graph k
  let (lc, s) := s.takeLcore g.ctx (slotCore n)
  let gtid := BitVec.ofNat 64 (g.ctx * 2 ^ 52 + g.ser * 2 ^ 32 + i * 2 ^ 16 + idx)
  let t := launched gtid l (slotNum n) lc idx (g.task i).width (s.crewHandle crew) (s.ctx g.ctx).regs.seed
  let (t, s) := s.restoreCopy n t
  let s := s.setThread n t
  if t.pair then s.checkpoint n t else s

/-- Place threads `idx` on in slots. -/
def State.launchAll (s : State) (k i : Nat) (l : Launch) (crew : Nat) : Nat → List Nat → State
  | _, [] => s
  | idx, n :: r => State.launchAll (s.launchIn k i l crew n idx) k i l crew (idx + 1) r

/-- The implicit crew of a task (19 R338): every thread is a member from the start. -/
def implicitCrew (pkg c ser i width : Nat) : Crew :=
  let ms : List MemberId := (List.range width).map fun j => pkg * 2 ^ 64 + c * 2 ^ 52 + ser * 2 ^ 32 + i * 2 ^ 16 + j
  let b : Barrier := { Barrier.idle with counted := ms, ranks := ms }
  { Crew.free with ctx := c, origin := .implicit (ser * 2 ^ 16 + i), members := ms, ranks := ms, bar0 := b, bar1 := b
                   bar2 := b, bar3 := b }

/-- Place a ready thread task on a track, or not. -/
def State.placeThreads (s : State) (k i track pick : Nat) : Option State :=
  let g := s.graph k
  let t := g.task i
  match s.launchAt g.ctx t.launch true with
  | .error _ => none
  | .ok l =>
    match s.entryKernel g.ctx l.entry with
    | none => none
    | some kern =>
      match s.trackSlots g.ctx g.die track l.pair kern l.width l.width pick with
      | none => none
      | some ns =>
        match s.takeCrew (implicitCrew s.pkg g.ctx g.ser i l.width) with
        | none => none
        | some (ci, s) =>
          let t := { t with state := .placed, track, start := g.time s.now, width := l.width, pair := l.pair, entry := l.entry
                            next := ns.length, handed := 0, exited := 0, crew := some ci }
          some ((s.setGraph k (g.setTask i t)).launchAll k i l ci 0 ns)

/-- The next wave of a wide task (R34): on the track of its first wave, and on no other (log 93). -/
def State.placeWave (s : State) (k i pick : Nat) : Option State :=
  let g := s.graph k
  let t := g.task i
  match s.launchAt g.ctx t.launch true, t.crew with
  | .ok l, some ci =>
    match s.kernelAt g.ctx l.entry with
    | none => none
    | some kern =>
      match s.trackSlots g.ctx g.die t.track l.pair kern t.width (t.width - t.next) pick with
      | none => none
      | some ns => some ((s.setGraph k (g.setTask i { t with next := t.next + ns.length })).launchAll k i l ci t.next ns)
  | _, _ => none

/-! ## Tile tasks (R245) -/

/-- The instruction that a tile task carries. -/
def tileInstrOf (t : TileFields) : Instr :=
  let e : Fields :=
    { form := .ext, g := 0xFF, d := 0, a := 0, b := 0, c := 0, xop := BitVec.ofNat 10 t.xop, ty := BitVec.ofNat 5 t.ty
      mod := BitVec.ofNat 12 t.mod, imm := BitVec.ofNat 32 t.imm, lit := 0 }
  match t.xop with
  | 0 => .tmm e | 1 => .tgmm e | 2 => .tsfx e | 3 => .tred e | 4 => .tcvt e | 5 => .tzero e | _ => .rcsnap e

/-- Granule `j` of an operand block; one that cannot be read is data. -/
def State.operandGranule (s : State) (c ops j : Nat) : QReg :=
  let va := ops + 16 * j
  match (s.landingRead c va 16).1 with
  | some v => if s.landingTag c va then ⟨BitVec.ofNat 128 v, true, 27⟩ else ⟨BitVec.ofNat 128 v, false, 0⟩
  | none => QReg.zero

/-- The operation of a tile task on a grove. -/
def State.taskOp (s : State) (k i grove : Nat) : EngineOp :=
  let g := s.graph k
  let t := (g.task i).fields
  let at_ := s.operandGranule g.ctx t.ops
  { kind := .tile t.xop, gtid := BitVec.ofNat 64 (g.ctx * 2 ^ 52 + g.ser * 2 ^ 32 + i * 2 ^ 16), isTask := true, ty := t.ty
    mod := t.mod, imm := t.imm, d := at_ 0, a := at_ 1, b := if t.xop = 5 then data64 t.fb 8 else at_ 2
    f := ⟨BitVec.ofNat 128 t.ctrl, false, 3⟩, w := if bit t.ctrl 96 then some (at_ 3) else none, ia := at_ 4, ic := at_ 5
    core := grove * 16, serial := 0, queue := 0 }

/-- An operation that a capability violation refuses stands as the head of its frozen queue. -/
def State.refuseHead (s : State) (qk : Nat) (op : EngineOp) (kind addr : Nat) : State :=
  let q := s.queue qk
  let s := s.setQueue qk { q with ops := { op with serial := q.appended } :: q.ops, appended := q.appended + 1 }
  (s.newHead qk).freezeQueue qk kind addr

/-- Place a tile task on a grove. One whose checks would be a format fault is discarded, and its graph abandoned; a filler
graph goes on without it (R264). -/
def State.placeTileOn (s : State) (k i track grove : Nat) : Option State :=
  let g := s.graph k
  let t := g.task i
  let qk := queueKey g.ctx grove 4
  let op := s.taskOp k i grove
  let s := s.setGraph k (g.setTask i { t with state := .placed, track, start := g.time s.now })
  let bad (s : State) : Option State :=
    some (if g.filler then s.setGraph k (g.setTask i { t with state := .discarded }) else s.abandonGraph k 4)
  let freeze (s : State) (kind a : Nat) : Option State :=
    if (s.queue qk).unit ≠ 0 || (s.queue qk).started || (s.queue qk).mode != .running then none
    else some (s.refuseHead qk op kind a)
  if !(tileInstrOf t.fields).wf || bits op.flags 3 2 != 0 || (op.xop == 5 && !op.b.isInt) then bad s
  else match op.tileCheck with
    | some (.capability a) => freeze s 8 a
    | some _ => bad s
    | none =>
      match (match op.w with | none => (.ok 0, s) | some w => (op.wordKey w).run.run s : Except EngineStop Nat × State) with
      | (.error (.violation kind a), s) => freeze s kind a
      | (.error (.translation _ _), s) => bad s
      | (.error .pause, _) => none
      | (_, s) => some (s.appendOp qk op)

/-- Place a tile task on a track: a grove with space in the task tile queue, which one is an input (log 27). -/
def State.placeTile (s : State) (k i track pick : Nat) : Option State :=
  let g := s.graph k
  let room := (trackGroves g.die track).filter fun h => decide ((s.queue (queueKey g.ctx h 4)).ops.length < queueDepth 4)
  (choose room pick).bind (s.placeTileOn k i track)

/-! ## Tracks (R256, R264) -/

/-- The allowed tracks of a context on a die, fastest first. -/
def State.tracksOf (s : State) (c die : Nat) : List Nat := (List.range 3).filter (bit (s.eff c die).tracks)

/-- The tracks to try: the one of the best score, ties to the slower, then the faster ones in turn. -/
def pacing (tracks : List Nat) (score : Nat → Int) : List Nat :=
  match tracks.foldl (fun (b : Option Nat) t => match b with
      | some x => if score x ≤ score t then some t else b
      | none => some t) none with
  | none => []
  | some best => (tracks.filter (· ≤ best)).reverse

/-- The estimate of the present window so far, mW (26 R412). -/
def State.estimateNow (s : State) : Nat := s.power.window * s.power.k / 4096 / 1000000 + s.power.fixed.foldl (· + ·) 0

/-- The governor asks for load, and the estimate has not reached the target (26 R413). -/
def State.loadWanted (s : State) : Bool := s.power.asked && decide (s.estimateNow < s.power.target)

/-- The tracks that a ready task tries in turn. -/
def State.taskTracks (s : State) (k i : Nat) : List Nat :=
  let g := s.graph k
  let l := s.tracksOf g.ctx g.die
  if g.filler then (if s.power.filler && s.loadWanted then l else l.reverse)
  else pacing l (g.score (s.eff g.ctx g.die).kappa (g.time s.now) i)

/-- Place a ready task on the first of its tracks that has room. -/
def State.placeTask (s : State) (k i pick : Nat) : Option State :=
  (s.taskTracks k i).findSome? fun t =>
    if ((s.graph k).task i).tile then s.placeTile k i t pick else s.placeThreads k i t pick

/-! ## Continuations (23 R383, R384) -/

/-- The score of a continuation on a track: its wake milestone and its energy. -/
def State.contScore (s : State) (c : Continuation) (k track : Nat) : Int :=
  let g := s.graph k
  let v := match g.wakes.find? fun w => w.gtid == c.gtid with
    | some w => if w.dead then 0 else w.value (g.time s.now + unitsOn track c.cost)
    | none => 0
  (v : Int) - ((s.eff c.ctx g.die).kappa * energyOn8 track c.energy / (8 * 65536000) : Nat)

/-- A core can take a continuation in its slot. -/
def State.contTakes (s : State) (c : Continuation) (core : Nat) : Bool :=
  s.coreTakes [] { ctx := c.ctx, lcore := c.lcore
                   threads := [{ gtid := c.gtid, pc := c.pc, frame := c.frame, lcore := c.lcore, slot := c.slot, die := c.die, grove := 0
                                 core := c.core, cp := 0, tl := 0, stepping := 0, frozen := false, stopped := none
                                 pendErr := [], crewWait := none, due := none, skipBp := false }] } core

/-- A thread of a context stands on a core, in whatever state (23 R383). -/
def State.holdsThread (s : State) (c core : Nat) : Bool :=
  s.slots.any fun e => slotCore e.1 == core && match e.2.thread with | some t => t.ctx == c | none => false

/-- The core on which a continuation is placed. -/
def State.contCore (s : State) (c : Continuation) (k : Nat) : Option Nat :=
  match Store.get none (s.ctx c.ctx).remap c.lcore with
  | none => none
  | some core =>
    if s.contTakes c core then some core
    else if s.holdsThread c.ctx core then none
    else (pacing (s.tracksOf c.ctx (slotDie (core * 16))) (s.contScore c k)).findSome? fun t =>
      ((trackGroves (slotDie (core * 16)) t).flatMap coresOf).find? (s.contTakes c)

/-- Place a continuation: its thread is restored with the wake value in its register and its pair set, a step that
parked stops, and stage 2 begins. -/
def State.placeCont (s : State) (k frame : Nat) : Option State :=
  match s.contAt (s.graph k).ctx frame with
  | none => none
  | some c =>
    (s.contCore c k).map fun core =>
      let n := core * 16 + c.slot
      let (f, s) := s.readFrame (core / 16) c.ctx c.frame
      let s := s.remapCore c.ctx c.lcore core
      let t := { f.thread with gtid := c.gtid, lcore := c.lcore, cp := 0, tl := 0, due := c.due }
      let t := (t.setReg c.d (lanes64 (c.value.getD 0) 0 8)).setPair c.pk 16 true
      let t := if c.stepped then { t with stopped := some ⟨6, 3, 0, 0⟩ } else t
      let g := s.graph k
      let s := s.setGraph k { g with wakes := g.wakes.map fun w =>
        if w.gtid = c.gtid then { w with placed := some (groveTrack (core / 16), g.time s.now) } else w }
      let s := s.fillSlot n t f c.frame
      let s := if c.stepped then s.report n t 6 3 0 0 0 else s
      let s := s.setCont { c with state := .stage2, up := s.toPromote c (s.chain c).length, turn := 0, core }
      s.movesEnded c.ctx frame

/-! ## Choosing (R255, R264, R316) -/

/-- The Landing may place new work of a context on a die: the boot has come to stage 5 (28 R433), the context runs and no
saved thread of it waits there. -/
def State.mayPlace (s : State) (c die : Nat) : Bool :=
  let x := s.ctx c
  5 ≤ s.boot.stage && !s.deadLandings.contains die && x.mode == .active && x.stopping.isNone && !(x.saved.any fun v => v.die == die)

/-- A candidate: a ready task, or a ready continuation by its frame. -/
inductive Candidate where
  | task (k i : Nat)
  | cont (k frame : Nat)
deriving DecidableEq, Repr

/-- A candidate with its key, its graph and its place within the graph. -/
abbrev Ranked := (Nat × Nat × Nat) × Candidate

/-- The dearer comes first; ties go to the earlier graph, then to the lower index. -/
def Ranked.before (a b : Ranked) : Bool :=
  decide (b.1.1 < a.1.1) || (a.1.1 == b.1.1 && (decide (a.1.2.1 < b.1.2.1) || (a.1.2.1 == b.1.2.1 && decide (a.1.2.2 < b.1.2.2))))

def insertRanked (x : Ranked) : List Ranked → List Ranked
  | [] => [x]
  | y :: r => if Ranked.before x y then x :: y :: r else y :: insertRanked x r

def sortRanked (l : List Ranked) : List Ranked := l.foldl (fun r x => insertRanked x r) []

/-- The graphs of a die that may place work. -/
def State.placingGraphs (s : State) (die : Nat) (filler : Bool) : List (Nat × Graph) :=
  s.graphs.filter fun e => e.2.die == die && e.2.filler == filler && e.2.state == .running && s.mayPlace e.2.ctx die

/-- A context has as many placed tasks as its limit: none of its ready tasks, of which a ready continuation is one (23 R382), is
placeable (14 R274). -/
def State.atLimit (s : State) (c die : Nat) : Bool :=
  let x := (s.eff c die).limit
  x != 0 && decide (x ≤ s.placedTasks c)

/-- The ready tasks of a graph, keyed; a filler graph's have no key (R264). -/
def readyTasks (k : Nat) (g : Graph) : List Ranked :=
  ((List.range g.tasks.length).filter fun i => (g.task i).state == .ready).map fun i =>
    ((if g.filler then 0 else (g.task i).key, k, i + 1), .task k i)

/-- The ready continuations of a graph, keyed. -/
def State.readyConts (s : State) (k : Nat) : List Ranked :=
  (s.conts.filter fun c => c.state == .ready && s.graphOf c.gtid == some k).map fun c => ((c.key, k, 0), .cont k c.frame)

/-- The candidates of a die among the filler graphs, or among the others, in order. -/
def State.candidatesOf (s : State) (die : Nat) (filler : Bool) : List Ranked :=
  sortRanked ((s.placingGraphs die filler).flatMap fun e =>
    if s.atLimit e.2.ctx die then [] else readyTasks e.1 e.2 ++ s.readyConts e.1)

/-- The candidates of a die in order: those of non-filler graphs by key, then those of filler graphs. -/
def State.candidates (s : State) (die : Nat) : List Ranked := s.candidatesOf die false ++ s.candidatesOf die true

/-- Place a candidate, if it is placeable. -/
def State.placeCandidate (s : State) (pick : Nat) : Candidate → Option State
  | .task k i => s.placeTask k i pick
  | .cont k frame => s.placeCont k frame

/-- The first placeable candidate of a die, and the machine that has placed it. -/
def State.nextPlacement (s : State) (die pick : Nat) : Option (Candidate × State) :=
  (s.candidates die).findSome? fun x => (s.placeCandidate pick x.2).map fun s' => (x.2, s')

/-! ## Slot shares (17 R301) -/

/-- The slots of a die with PIN clear that a context owns. -/
def State.ownedOf (s : State) (die c : Nat) : Nat :=
  let l := s.slots.filter fun e => slotDie e.1 == die
  let listed := (l.filter fun e => !e.2.pin && e.2.owner == c).length
  if c = 0 then listed + (12288 - l.length) else listed

/-- The contexts that are runnable or running. -/
def State.sharing (s : State) : List Nat :=
  s.ctxs.filterMap fun e => if e.2.mode == .active then some e.1 else none

/-- The target of a context on a die. -/
def State.shareTarget (s : State) (die c : Nat) : Nat :=
  let u := 12288 - (s.slots.filter fun e => slotDie e.1 == die && e.2.pin).length
  let total := (s.sharing.map fun c => (s.eff c die).weight).sum
  if total = 0 || (s.ctx c).mode != .active then 0 else u * (s.eff c die).weight / total

/-- The context furthest below its target, ties to the lower number. -/
def State.neediest (s : State) (die : Nat) : Option Nat :=
  (s.sharing.foldl (fun (b : Option (Nat × Nat)) c =>
    let d := s.shareTarget die c - s.ownedOf die c
    if d = 0 then b else match b with | some x => if x.2 < d then some (c, d) else b | none => some (c, d)) none).map (·.1)

/-- An empty unpinned slot of an owner at its target passes to the neediest context. -/
def State.shareSlot (s : State) (n : Nat) : State :=
  let x := s.slot n
  let die := slotDie n
  if x.pin || x.thread.isSome || s.slotReserved n || decide (s.ownedOf die x.owner < s.shareTarget die x.owner) then s
  else match s.neediest die with
    | some c => s.setSlot n { x with owner := c }
    | none => s

/-- A slot of a core passes to another owner at a rotation boundary. -/
def State.givesSlot (s : State) (core : Nat) : Bool :=
  (List.range 16).any fun i =>
    let n := core * 16 + i
    let x := s.slot n
    !x.pin && x.thread.isNone && !s.slotReserved n && decide (s.shareTarget (slotDie n) x.owner ≤ s.ownedOf (slotDie n) x.owner)

/-- The cores of a die, where a context of it stands below its target, whose slots pass to another owner at a boundary. -/
def State.givers (s : State) (die : Nat) : List Nat :=
  if (s.neediest die).isSome then ((List.range 768).map fun i => 768 * die + i).filter s.givesSlot else []

/-- A core stands at a rotation boundary that it has not passed. -/
def State.atBoundary (s : State) (core : Nat) : Bool :=
  s.osc % (16 * corePeriod core) == 0 && decide ((s.core core).shared ≤ s.cycle core / 16)

/-- The core whose rotation boundary of this instant comes next (R301). -/
def State.dueShare (s : State) : Option Nat := (List.range 4).findSome? fun d => (s.givers d).find? s.atBoundary

/-- Units of 1/35 ns, of `r`, that may pass before a boundary at which a slot passes to another owner; none while one is due. -/
def State.shareRoom (s : State) (r : Nat) : Nat :=
  if s.dueShare.isSome then 0
  else (List.range 4).foldl (fun r d => (s.givers d).foldl (fun r core =>
    min r (16 * corePeriod core - s.osc % (16 * corePeriod core))) r) r

/-! ## Placement -/

/-- TASK_PLACEMENT (R255, R256): on die `arg.index` the placeable task that comes first is placed; `arg.index2` chooses
among groves with room. Where a continuation comes first, CONTINUATION_PLACEMENT places it. A placement follows every passing of
slots due at its instant (17 R301). -/
def evTaskPlacement (s : State) : Result :=
  if s.dueShare.isSome then .next s
  else match s.nextPlacement s.arg.index s.arg.index2 with
  | some (.task .., s) => .next s
  | _ => .next s

/-- CONTINUATION_PLACEMENT (23 R383): on die `arg.index` the continuation that comes first is placed. -/
def evContinuationPlacement (s : State) : Result :=
  if s.dueShare.isSome then .next s
  else match s.nextPlacement s.arg.index s.arg.index2 with
  | some (.cont .., s) => .next s
  | _ => .next s

/-- WAVE_PLACEMENT (02 R34): free slots receive the next threads of task `arg.index2` of graph `arg.index`; `arg.value`
chooses the grove. -/
def evWavePlacement (s : State) : Result :=
  let k := s.arg.index
  let i := s.arg.index2
  let g := s.graph k
  let t := g.task i
  if s.dueShare.isNone && g.state == .running && t.state == .placed && !t.tile && decide (t.next < t.width) && s.mayPlace g.ctx g.die then
    .next ((s.placeWave k i s.arg.value).getD s)
  else .next s

/-- SLOT_REASSIGN (R301): the rotation boundary of core `arg.index`, when it is the next that is due. -/
def evSlotReassign (s : State) : Result :=
  let core := s.arg.index
  .next (if s.dueShare = some core then
    let x := s.core core
    ((List.range 16).map fun i => core * 16 + i).foldl State.shareSlot
      (s.setCore core { x with shared := s.cycle core / 16 + 1 })
  else s)

end Sys2Proof.Machine
end

