-- ==== Sys2Proof/Machine/Ready.lean ====
section
/-!
DEFINITION. Which thread takes a turn (spec/02 R27, R29 to R31; spec/26 R410, R411): readiness, withheld slots and
lending.
-/
namespace Sys2Proof.Machine

/-- The condition a thread waits for holds, so that its instruction is issued again (R30); an access to its own core's scratch
completes before its next turn (R28). -/
def State.waitOver (s : State) (n : Nat) (t : Thread) : Bool :=
  match t.wait with
  | .none => true
  | .behind a rel scope => !(t.rx.any fun r => s.precedes (slotCore n) r a rel scope)
  | .drain scope all =>
    !(t.rx.any fun r => s.inScope (slotCore n) scope r.acc.key) && (!all || (t.cp == 0 && t.tl == 0))
  | .counters l => t.belowLimits l
  | .crewFull ci b => !(((s.crew ci).bar b).held.any fun a => a.who == s.memberOf t)
  | .pageMove va => !s.moving t.ctx va
  | .remap l => !s.transfers t.ctx l
  | .walk g va => s.walkOver g t.ctx va
  | .upperHalf a .. => s.inCore (slotCore n) a.key
  | _ => false

/-- The thread in slot `n` is in rotation (R30, R31). -/
def State.ready (s : State) (n : Nat) : Bool :=
  match s.thread n with
  | none => false
  | some t =>
    !(s.core (slotCore n)).dead && !(t.pair && (s.core (slotCore n + 1)).dead) && !t.frozen && t.stopped.isNone && !t.migrating &&
      !t.halted && !t.copying && !s.heldForSave n t && decide (t.held ≤ s.cycle (slotCore n)) && t.stepping != 2 && s.waitOver n t && !s.withheldAt n

/-- Opcodes of special-function, `div` and `rem` instructions (07 R122). -/
def isLong : Instr → Bool
  | .div _ | .divX _ | .rem _ | .remX _ | .frcp _ | .frcpX _ | .frsq _ | .frsqX _ | .fsqrt _ | .fsqrtX _
  | .fexp2 _ | .fexp2X _ | .flog2 _ | .flog2X _ => true
  | _ => false

/-- The slots that a machine lists, with the odd cores' slots of its lockstep pairs. -/
def State.listed (s : State) : List Nat :=
  s.slots.flatMap fun e => match e.2.thread with | some t => if t.pair then [e.1, e.1 + 16] else [e.1] | none => [e.1]

/-- The slot that may borrow a turn of slot `n`. -/
def lender (n : Nat) : Nat := n / 16 * 16 + (n % 16 ^^^ 8)

/-- The turn of slot `n` is one that a thread of context `c` may take: that of another thread of the context, or of an empty slot
that it owns, and not of one that is withheld, reserved, or halted (R29, R31). -/
def State.lendsTo (s : State) (n c : Nat) : Bool :=
  (match s.thread n with
    | some o => o.ctx == c && !o.halted
    | none => c == (s.slot n).owner) && !s.withheldAt n && !s.slotReserved n

/-- Conditions 1, 2, 3 and 5 of lending the turn of slot `n` to `lender n` (R29): a thread whose condition is met may take a lent turn before its
first own one (log 96). A lockstep pair takes the turns of both its cores, of which neither is used (17 R321, log 59). -/
def State.mayBorrow (s : State) (n : Nat) : Bool :=
  let b := lender n
  match s.thread b with
  | none => false
  | some t =>
    s.ready b && s.lendsTo n t.ctx && !t.lastSfu &&
      (!t.pair || (s.lendsTo (n + 16) t.ctx && !s.ready (n + 16) &&
        decide ((s.core (slotCore n + 1)).taken ≤ s.cycle (slotCore n + 1))))

/-! ## Cycles and time (R27, R37) -/

/-- A turn of slot `n` would be issued in, by its own thread or by one that borrows it. -/
def State.offers (s : State) (n : Nat) : Bool := s.ready n || s.mayBorrow n

/-- The first cycle of its core, from the present one on, whose turn is slot `n`'s and has not been taken. -/
def State.nextTurn (s : State) (n : Nat) : Nat :=
  let c := max (s.cycle (slotCore n)) (s.core (slotCore n)).taken
  c + (n + 15 * c) % 16

/-- The slots whose turns may be taken: those of threads, and those that lend to them. -/
def State.turnSlots (s : State) : List Nat :=
  (s.slots.filter fun e => e.2.thread.isSome).flatMap fun e => [e.1, lender e.1]

/-- The core whose present turn is to be taken, if there is one. -/
def State.dueCore (s : State) : Option Nat :=
  (s.turnSlots.find? fun n => s.nextTurn n == s.cycle (slotCore n) && s.offers n).map slotCore

/-- The budgets of a die have not been refilled since the microsecond of the waymark clock began (26 R409). -/
def State.refillDue (s : State) (die : Nat) : Bool := decide (die < 4) && decide (Store.get 0 s.refilled die < s.now / 1000)

/-- The first die whose budgets of the present microsecond have not been refilled (26 R409). -/
def State.dueRefill (s : State) : Option Nat := [0, 1, 2, 3].find? s.refillDue

/-- A window of the governor has to be ended (26 R412). -/
def State.dueWindow (s : State) : Bool := decide (5 ≤ s.boot.stage) && decide (s.windowed < s.now / 1000000)

/-- The first die whose Landing has to recompute. -/
def State.dueTick (s : State) : Option Nat := [0, 1, 2, 3].find? s.tickDue

/-- Nanoseconds of the waymark clock that may pass: to the next whole microsecond, or none while a refill, a window's end or a
tick is due. -/
def State.clockRoom (s : State) : Nat :=
  if s.dueRefill.isSome || s.dueWindow || s.dueTick.isSome then 0 else 1000 - s.now % 1000

/-! ## Sampling (27 R430) -/

/-- EN of LOGCTL and SMPCTL. -/
def ctlEn (v : Nat) : Bool := bit v 0

/-- INTERVAL of SMPCTL. -/
def smpInterval (v : Nat) : Nat := v / 2 ^ 32 % 2 ^ 32

/-- Cycles of a core since sampling was enabled. -/
def State.sampleCycle (s : State) (core : Nat) : Nat := s.cycle core - s.dbg.since / corePeriod core

/-- A core is at a multiple of INTERVAL that it has not sampled. -/
def State.sampleDue (s : State) (core : Nat) : Bool :=
  let i := smpInterval s.dbg.smpctl
  s.sampleCycle core % i == 0 && decide ((s.core core).sampled ≤ s.sampleCycle core / i)

/-- The present turn of a core is still to be taken by a thread. -/
def State.turnOpen (s : State) (core : Nat) : Bool :=
  decide ((s.core core).taken ≤ s.cycle core) && s.offers (16 * core + s.cycle core % 16)

/-- A core can sample its present cycle: what issues in it has issued, and the even core of its pair has taken its turn. -/
def State.sampleNow (s : State) (core : Nat) : Bool :=
  s.sampleDue core && !s.turnOpen core && !s.turnOpen (core / 2 * 2)

/-- The first core that has to sample its present cycle. -/
def State.dueSample (s : State) : Option Nat :=
  if ctlEn s.dbg.smpctl then (List.range 3072).find? s.sampleNow else none

/-- Units of 1/35 ns, of `r`, that may pass with no core's sample passed over. -/
def State.sampleRoom (s : State) (r : Nat) : Nat :=
  let i := smpInterval s.dbg.smpctl
  if !ctlEn s.dbg.smpctl || i == 0 then r
  else (List.range 3072).foldl (fun r core =>
    let p := corePeriod core
    let k := max (s.core core).sampled ((s.sampleCycle core + i - 1) / i)
    min r ((s.dbg.since / p + k * i + 1) * p - 1 - s.osc)) r

/-- Units of 1/35 ns after which the first thread that a checkpoint holds is in rotation again (17 R321). -/
def State.heldRoom (s : State) (r : Nat) : Nat :=
  s.slots.foldl (fun r e => match e.2.thread with
    | some t =>
      if s.cycle (slotCore e.1) < t.held then min r (t.held * corePeriod (slotCore e.1) - s.osc) else r
    | none => r) r

/-- Units of 1/35 ns that may pass: no turn that would be issued in is passed over, nor a refill, a window's end or a tick of a
Landing. -/
def State.room (s : State) : Nat :=
  s.heldRoom (s.turnSlots.foldl
    (fun r n => if s.offers n then min r ((s.nextTurn n + 1) * corePeriod (slotCore n) - 1 - s.osc) else r)
    (35 * (s.clockRoom + s.osc / 35) + 34 - s.osc))

end Sys2Proof.Machine
end

