-- ==== Sys2Proof/Machine/Governor.lean ====
section
/-!
DEFINITION. The governor (spec/26 R408 to R416, R440): refills of the budgets each microsecond, the end of each window of 1 ms
with its target and its power record, and ballast.
-/
namespace Sys2Proof.Machine

/-! ## Budgets (R409, R411) -/

def sumOf (l : List Nat) : Nat := l.foldl (· + ·) 0

/-- A slot is occupied: by a thread, or as the odd core's of a lockstep pair. -/
def State.slotUsed (s : State) (n : Nat) : Bool := (s.thread n).isSome || s.slotReserved n

/-- The occupied slots of a core. -/
def State.occupied (s : State) (core : Nat) : List Nat :=
  (List.range 16).filterMap fun i => if s.slotUsed (core * 16 + i) then some (core * 16 + i) else none

/-- The cores of a die that hold an occupied slot. -/
def State.busyCores (s : State) (die : Nat) : List Nat :=
  ((s.listed.filter fun n => s.slotUsed n && slotDie n == die).map slotCore).eraseDups

/-- An operation is queued for a unit of a grove. -/
def State.queuedFor (s : State) (g unit : Nat) : Bool :=
  s.queues.any fun e => keyGrove e.1 == g && e.2.ops.any fun op => match op.kind with
    | .tile xop => unitServes unit (keyCode e.1) xop
    | .copy xop => unitServes unit (keyCode e.1) xop
    | .join _ => false

/-- The units of a die that have an operation queued for them. -/
def State.busyUnits (s : State) (die : Nat) : List (Nat × Nat) :=
  let gs := (s.queues.filterMap fun e => if groveDie (keyGrove e.1) = die then some (keyGrove e.1) else none).eraseDups
  gs.flatMap fun g => ([1, 2, 3, 4, 5].filter fun u => s.queuedFor g u).map fun u => (g, u)

/-- The charges of the last 1 ms of a core, and of a unit. -/
def State.coreMs (s : State) (core : Nat) : Nat := (s.core core).charged + sumOf ((s.core core).recent.take 999)
def State.unitMs (s : State) (g u : Nat) : Nat :=
  Store.get 0 (s.grove g).charged u + sumOf ((Store.get [] (s.grove g).recent u).take 999)

/-- The budget of a die for a microsecond, pJ (R412, R440): 1,000 for each mW of its part over k, less its static power. -/
def Power.dieBudget (p : Power) (die : Nat) : Nat := 1000 * p.parts.getD die 0 * 4096 / p.k - 1000 * p.fixed.getD die 0

/-- The share of one of `n` parties that made charges of `c` of `sum`: an equal part of an eighth, and of the rest by charge,
or equally where none made a charge. -/
def budgetShare (budget n c sum : Nat) : Nat :=
  let rest := budget - budget / 8
  budget / 8 / n + if sum = 0 then rest / n else rest * c / sum

/-- A refill of a slot with share `q` (R409): what its quota ended below zero by joins the deficit, which the share absorbs. -/
def Slot.refill (x : Slot) (q : Nat) : Slot :=
  let d := x.deficit + (-x.quota).toNat
  if d < q then { x with quota := (q : Int) - d, deficit := 0 } else { x with quota := 1, deficit := d - (q - 1) }

/-- A slot without a thread gets no quota. -/
def Slot.drained (x : Slot) : Slot := { x with quota := 0, deficit := x.deficit + (-x.quota).toNat }

/-- Refill the slots of a core with its budget. -/
def State.refillCore (s : State) (core budget : Nat) : State :=
  let l := s.occupied core
  l.foldl (fun s n => s.setSlot n ((s.slot n).refill (budget / l.length))) s

/-- The charges of the microsecond join those before it. -/
def pushCharge (now : Nat) (l : List Nat) : List Nat := (now :: l).take 1000

def CoreState.tick (k : CoreState) : CoreState :=
  if k.charged = 0 && k.recent.isEmpty then k else { k with charged := 0, recent := pushCharge k.charged k.recent }

/-- The histories of a grove's units, and its engines' budget for the next microsecond. -/
def Grove.tick (g : Grove) (budget : Nat) : Grove :=
  let us := [1, 2, 3, 4, 5].filter fun u => Store.get 0 g.charged u != 0 || !(Store.get [] g.recent u).isEmpty
  { g with budget, charged := []
           recent := us.foldl (fun r u => Store.put [] r u (pushCharge (Store.get 0 g.charged u) (Store.get [] g.recent u))) g.recent }

/-- Static power of a microsecond is credited to its die and to context 0 (R408). -/
def State.creditStatic (s : State) (die : Nat) : State :=
  let p := s.power
  let pj := 1000 * p.fixed.getD die 0
  let s := { s with power := { p with die := addAt p.die die pj, pkg := p.pkg + pj } }
  s.setCtx 0 { s.ctx 0 with energy := (s.ctx 0).energy + pj }

/-- Thermal masks of a die's slots end where the sensor of their core reads below 85 °C (R411). -/
def State.unmaskCool (s : State) (die : Nat) : State :=
  (s.slots.filterMap fun e => if e.2.thermal && slotDie e.1 == die && decide ((s.core (slotCore e.1)).temp < coolTemp)
    then some e.1 else none).foldl (fun s n => s.setSlot n { s.slot n with thermal := false }) s

/-- Refill the budgets of a die. -/
def State.refillDie (s : State) (die : Nat) : State :=
  let cores := s.busyCores die
  let units := s.busyUnits die
  let budget := s.power.dieBudget die
  let n := cores.length + units.length
  let sum := sumOf (cores.map s.coreMs) + sumOf (units.map fun u => s.unitMs u.1 u.2)
  let coreShares := cores.map fun c => (c, budgetShare budget n (s.coreMs c) sum)
  let unitShares := units.map fun u => (u.1, budgetShare budget n (s.unitMs u.1 u.2) sum)
  let idle := s.slots.filterMap fun e => if !s.slotUsed e.1 && slotDie e.1 == die then some e.1 else none
  let s := idle.foldl (fun s n => s.setSlot n (s.slot n).drained) s
  let s := coreShares.foldl (fun s c => s.refillCore c.1 c.2) s
  let s := (s.cores.filterMap fun e => if e.1 / 768 = die then some e.1 else none).foldl (fun s c => s.setCore c (s.core c).tick) s
  let gs := ((s.groves.map (·.1) ++ units.map (·.1)).filter fun g => groveDie g == die).eraseDups
  let s := gs.foldl (fun s g =>
    s.setGrove g ((s.grove g).tick (sumOf ((unitShares.filter fun u => u.1 == g).map (·.2))))) s
  (s.creditStatic die).unmaskCool die

/-- BUDGET_REFILL (R409, R411): a whole microsecond has begun, and die `arg.index` refills its budgets, once. -/
def evBudgetRefill (s : State) : Result :=
  let d := s.arg.index
  .next (if s.refillDue d then ({ s with refilled := Store.put 0 s.refilled d (s.now / 1000) } : State).refillDie d else s)

/-! ## Windows (R412, R413, R440) -/

/-- The target of the next window from the estimate of the closing one and the demand. -/
def Power.nextTarget (p : Power) (est demand : Nat) : Nat :=
  if est ≤ demand then min demand (min (est + p.ramp) (92 * p.limit / 100)) else max demand (est - p.ramp)

/-- The target divided among the dies by their demands. -/
def divideTarget (t : Nat) (demands : List Nat) : List Nat :=
  let d := sumOf demands
  if d ≤ t then demands.map fun x => x + (t - d) / 4 else demands.map fun x => t * x / d

/-- The demands of the four dies, mW, 32 bits each. -/
def demandsOf (v : Nat) : List Nat := [0, 1, 2, 3].map fun i => v / 2 ^ (32 * i) % 2 ^ 32

/-- A target takes effect: its parts, what is asked for, and whether the demand is held back. -/
def Power.withTarget (p : Power) (t : Nat) (demands : List Nat) : Power :=
  let d := sumOf demands
  { p with
    target := t
    parts := divideTarget t demands
    asked := decide (d < t)
    held := decide (t < d)
    filler := decide (d < t) && p.fillerOk
    ballast := decide (d < t) && p.ballastOk }

/-- The correction of a window: measured over charged energy, clamped to 0.5 … 2.0; free where nothing was charged (log 36). -/
def State.correction (s : State) (meas : Nat) : Nat × State :=
  let charged := s.power.pkg - s.power.windowStart
  if charged = 0 then
    let (v, s) := s.takeFree
    (0x800 + v % 0x1801, s)
  else (min 0x2000 (max 0x800 (meas * 1000000 * 4096 / charged)), s)

/-- A slot is masked. -/
def State.anyMasked (s : State) : Bool := s.slots.any fun e => e.2.masked || e.2.thermal

/-- The record of a window (R416 Table 6), as a number of 64 bytes. -/
def State.powerRecord (s : State) (meas est : Nat) (miss : Bool) : Nat :=
  let p := s.power
  let flags := flag s.ptpSync + 2 * flag miss + 4 * flag p.held + 8 * flag s.anyMasked
  s.now / 1000000 * 1000000 % 2 ^ 64 + p.seq % 2 ^ 64 * 2 ^ 64 + (p.pkg / 1000000 - p.windowStart / 1000000) % 2 ^ 64 * 2 ^ 128 +
    meas % 2 ^ 32 * 2 ^ 192 + est % 2 ^ 32 * 2 ^ 224 + p.target % 2 ^ 32 * 2 ^ 256 +
    p.windowBallast / 1000000 % 2 ^ 32 * 2 ^ 288 + p.windowFiller / 1000000 % 2 ^ 32 * 2 ^ 320 + p.limit % 2 ^ 32 * 2 ^ 352 +
    flags * 2 ^ 384

/-- The pair by which the records go to a remote ring can send: it is context 0's, on the port of die 0, and in RTS (25 R403). -/
def State.ringPair (s : State) : Bool :=
  decide (0x1000 ≤ s.power.ringQpn ∧ s.power.ringQpn ≤ 0x1FFF) && match s.qp (qpKey 0 s.power.ringQpn) with
    | some q => q.owner == 0 && q.state == 3
    | none => false

/-- The ring takes a record, unless it cannot be delivered in time, or the ring is in host memory and full. -/
def State.takesRecord (s : State) (consumed : Nat) (lost : Bool) : Bool :=
  let p := s.power
  !lost && ((p.ringKind == 1 && p.produced != consumed + 2 ^ p.ringLog) || (p.ringKind == 2 && s.ringPair))

/-- Number a record, which the ring takes or which is dropped. -/
def Power.emit (p : Power) (record : Nat) (taken : Bool) : Power :=
  if taken then { p with seq := p.seq + 1, produced := p.seq + 1, records := record :: p.records } else { p with seq := p.seq + 1 }

/-- Where the ring in host memory stands, at an offset. -/
def State.ringKey (s : State) (off : Nat) : Nat := memKey s.pkg 6 (s.power.ringBase + off)

/-- A record is written to its place in a ring in host memory, and PRODUCED after it. -/
def State.writeRecord (s : State) (record : Nat) : State :=
  let p := s.power
  (s.writeNum (s.ringKey (64 + 64 * (p.seq % 2 ^ p.ringLog))) 64 record).writeNum (s.ringKey 0) 8 (p.seq + 1)

/-- GOVERNOR_WINDOW_END: a window whose end is due ends with board power `arg.value`, the demands of the dies in `arg.addr`, CONSUMED of a host
ring in `arg.index`, and a record that cannot be delivered with `arg.index2` 1. The governor runs from boot stage 5, and each window ends once, at a whole millisecond. -/
def evGovernorWindowEnd (s : State) : Result :=
  if !s.dueWindow then .next s
  else
    let meas := s.arg.value
    let demands := demandsOf s.arg.addr
    let (k, s) := s.correction meas
    let p := s.power
    let est := p.window * k / 4096 / 1000000 + sumOf p.fixed
    let miss := p.asked && decide (est < p.target)
    let record := s.powerRecord meas est miss
    let taken := s.takesRecord s.arg.index (s.arg.index2 == 1)
    let s := if taken && p.ringKind == 1 then s.writeRecord record else s
    let p := p.emit record taken
    let p := { p with k, estimate := est, misses := if miss then satInc 16 p.misses else p.misses, window := 0, windowFiller := 0
                      windowBallast := 0, windowStart := p.pkg }
    .next { s with power := p.withTarget (p.nextTarget est (sumOf demands)) demands, windowed := s.now / 1000000 }

/-! ## Ballast (R413, R414) -/

/-- A queued operation, be it behind others, needs a unit of a grove. -/
def State.unitWanted (s : State) (g unit : Nat) : Bool :=
  s.queues.any fun e => keyGrove e.1 == g && e.2.ops.any fun op => !op.isJoin && unitServes unit (keyCode e.1) op.xop

/-- The charge of a slice of 128 cycles at the 8-bit full rate. -/
def sliceCharge (unit : Nat) : Nat := if unit = 3 then 128 * 600 else 128 * 128 / 32 * 1024

/-- A filler task can be placed on some die (13 R264). -/
def State.fillerLeft (s : State) : Bool :=
  [0, 1, 2, 3].any fun d => (s.candidatesOf d true).any fun x => (s.placeCandidate 0 x.2).isSome

/-- Ballast is to run: load is wanted, and no placeable filler work that may close the gap is left (R413). -/
def State.ballastWanted (s : State) : Bool := s.power.ballast && s.loadWanted && !(s.power.filler && s.fillerLeft)

/-- BALLAST_SLICE_END (26 R414): a slice on unit `arg.index2` of grove `arg.index` ends; while ballast is to run and no operation
is queued for the unit, the next begins. On an idle unit the first begins. -/
def evBallastSliceEnd (s : State) : Result :=
  let g := s.arg.index
  let u := s.arg.index2
  let x := s.grove g
  let more (s : State) : Bool := s.ballastWanted && !s.unitWanted g u && decide (1 ≤ u ∧ u ≤ 3) && !x.dead.contains u
  if x.ballast.contains u then
    let s := s.credit (groveDie g) 0 none (sliceCharge u)
    let p := s.power
    let s := { s with power := { p with ballastPj := p.ballastPj + sliceCharge u, windowBallast := p.windowBallast + sliceCharge u } }
    .next (if more s then s else s.setGrove g { s.grove g with ballast := x.ballast.erase u })
  else .next (if more s && s.unitFree g u then s.setGrove g { x with ballast := u :: x.ballast } else s)

end Sys2Proof.Machine
end

