-- ==== Sys2Proof/Machine/Fetch.lean ====
section
/-!
DEFINITION. Instruction fetch (spec/06 R113 to R117, spec/01 R17, spec/16 R291): the fetch buffer of a slot, its refills and the fetch
faults.
-/
namespace Sys2Proof.Machine

/-- What a fetch of the next instruction gives. -/
inductive Fetched where
  /-- the instruction's bytes, with the buffer that holds them. -/
  | bytes (l : List Byte) (buf : List CodeBlock)
  /-- a translation fault with its cause, detail and address. -/
  | fault (cause detail addr : Nat)
  /-- an uncorrectable error at a word. -/
  | bad (addr : Nat)
  /-- a needed block has not returned: the thread is not ready for its turn. -/
  | pending
  /-- the page of a needed block is being walked. -/
  | walking (va : Nat)
deriving DecidableEq, Repr

/-- A block read from its home, as eight words (R117). -/
def State.readBlock (s : State) (va key : Nat) : CodeBlock :=
  { va, bytes := s.readBytes key 64, bad := (List.range 8).filter fun i => s.poisoned (key + 8 * i) }

/-- The copy in a grove from which the block at an address of a context is served (16 R291), with the block's place in it. -/
def State.servedBy (s : State) (g c va : Nat) : Option (Resident × Nat) :=
  (s.kernelAt c va).bind fun k =>
    ((s.grove g).resident c k.image).bind fun r => if r.whole then some (r, (va - k.code) / 8) else none

/-- The block at `va` from a copy, whose words begin at place `i`; `key` is its home. A word that a store has changed at
home since is the old or the new one (16 R291). -/
def State.copyBlock (s : State) (r : Resident) (i va key : Nat) : CodeBlock × State :=
  let word (j : Nat) : Nat × Bool :=
    let old := (r.code[i + j]?).getD (0, false)
    let new := (s.readNum (key + 8 * j) 8, s.poisoned (key + 8 * j))
    if s.isLocal key && old.1 != new.1 && bit (Config.free s.fresh) j then new else old
  let ws := (List.range 8).map word
  ({ va, bytes := ws.flatMap fun w => (List.range 8).map fun j => BitVec.ofNat 8 (lane w.1 8 j)
     bad := (List.range 8).filter fun j => ((ws[j]?).getD (0, false)).2 }, { s with fresh := s.fresh + 1 })

/-- The outcome of a refill with one block. -/
inductive Refill where
  | block (b : CodeBlock)
  | absent
  | noExecute
  | pending
  | walking
  /-- the walk has met an uncorrectable error (22 R362). -/
  | bad
deriving DecidableEq, Repr

/-- The block at `va` lies in the page of the block before it, as the grove's translation unit or else the page table maps
it; where neither does, pages are of 4 KiB (R115). -/
def State.samePage (s : State) (g c va : Nat) : Bool :=
  match (tlbFind (s.grove g).tlb c (va - 64)).or (s.translationOf c (va - 64) (s.walk c (va - 64))).1.page? with
  | some t => decide (va < t.base + t.size)
  | none => va % 4096 != 0

/-- A page maps core scratch or grove memory and is executable (R17, R113). -/
def fetchable (leaf : Nat) : Bool := pteX leaf && (pteTgt leaf == 2 || pteTgt leaf == 3)

/-- Ask a peer package for a block that the thread in a slot needs, once, as traffic of class 1 (25 R398, R400). -/
def State.askBlock (s : State) (n : Nat) (t : Thread) (va k : Nat) : State :=
  if s.requests.any fun r => r.who == .fetch n t.gtid va k then s else s.ask (keyPkg k) 1 (.fetch n t.gtid va k)

/-- Refill with the block at `va` for the thread in slot `n`: from the grove's copy of a kernel, else from its home. A block of a
peer package, or one whose request has lost arbitration (R114), has not returned: PACKET_REPLY or FETCH_BLOCK_RETURN brings it. -/
def State.refill (s : State) (n : Nat) (t : Thread) (va : Nat) : Refill × State :=
  let (g, c, gone) := (slotGrove n, t.ctx, t.absent)
  if 2 ^ 57 ≤ va then (.noExecute, s)
  else if gone = some (va / 4096) then (.absent, s)
  else if s.mustWalk g c va then (.walking, s.beginWalk g c va)
  else
    let (x, s) := s.translate g c va
    match x with
    | .absent => (.absent, s)
    | .bad _ => (.bad, s)
    | .page x =>
      if !fetchable x.leaf then (.noExecute, s)
      else if s.opts.late then (.pending, s)
      else
        let k := x.key va
        match s.servedBy g c va with
        | some (r, i) => let (b, s) := s.copyBlock r i va k; (.block b, s)
        | none =>
          if !s.isLocal k then (.pending, s.askBlock n t va k)
          else ((.block (s.readBlock va k)), (List.range 8).foldl (fun s i => (s.correct (k + 8 * i)).detect (k + 8 * i)) s)

/-- The block of a buffer at an address. -/
def findBlock (buf : List CodeBlock) (va : Nat) : Option CodeBlock := buf.find? fun b => b.va == va

/-- `n` bytes of a block from an offset; none where one of its words met an error. -/
def CodeBlock.slice (b : CodeBlock) (off n : Nat) : List Byte := (b.bytes.drop off).take n

/-- The first word of a block with an error among the bytes from `off` to `off + n`: an error in a word of the block that
holds no part of the instruction does not trap it (log 82). -/
def CodeBlock.badIn (b : CodeBlock) (off n : Nat) : Option Nat :=
  (b.bad.find? fun w => decide (8 * w < off + n) && decide (off < 8 * w + 8)).map fun w => b.va + 8 * w

/-- The number of bytes of an instruction, from the length code in byte 3 of word 0 (R100). -/
def lengthOf (b3 : Byte) : Nat :=
  match b3.toNat / 64 with
  | 0 => 4 | 1 => 12 | 2 => 12 | _ => 20

/-- The block at `va`, from the buffer or by a refill. -/
def State.getBlock (s : State) (n : Nat) (t : Thread) (va : Nat) : Refill × State :=
  match findBlock t.fbuf va with
  | some b => (.block b, s)
  | none => s.refill n t va

/-- Fetch the instruction at the PC of the thread in slot `m` (R111 steps 2 and 3). An uncorrectable error in word 0 comes before
a fault of the block that holds the rest of the instruction, and that fault before an error in a later word (log 92). -/
def State.fetch (s : State) (m : Nat) (t : Thread) : Fetched × State :=
  let g := slotGrove m
  let pc := t.pc.toNat
  if pc % 4 ≠ 0 then (.fault 1 0 pc, s)
  else
    let va := pc / 64 * 64
    let off := pc % 64
    match s.getBlock m t va with
    | (.absent, s) => (.fault 2 0 pc, s)
    | (.noExecute, s) => (.fault 3 0 pc, s)
    | (.pending, s) => (.pending, s)
    | (.walking, s) => (.walking va, s)
    | (.bad, s) => (.bad va, s)
    | (.block b, s) =>
      match b.badIn off 4 with
      | some k => (.bad k, s)
      | none =>
        let n := lengthOf ((b.bytes.drop (off + 3)).headD 0)
        if off + n ≤ 64 then
          match b.badIn off n with
          | some k => (.bad k, s)
          | none =>
            let next := (findBlock t.fbuf (va + 64)).toList
            (.bytes (b.slice off n) (b :: next), s)
        else
          let va' := va + 64
          match s.getBlock m t va' with
          | (.absent, s) => (if s.samePage g t.ctx va' then .fault 2 0 pc else .fault 4 1 va', s)
          | (.noExecute, s) => (if s.samePage g t.ctx va' then .fault 3 0 pc else .fault 4 0 va', s)
          | (.pending, s) => (.pending, s)
          | (.walking, s) => (.walking va', s)
          | (.bad, s) => (.bad va', s)
          | (.block b', s) =>
            match b.badIn off (64 - off), b'.badIn 0 (off + n - 64) with
            | some k, _ => (.bad k, s)
            | _, some k => (.bad k, s)
            | none, none => (.bytes (b.slice off (64 - off) ++ b'.slice 0 (off + n - 64)) [b, b'], s)

end Sys2Proof.Machine
end

