-- ==== Sys2Proof/Machine/System.lean ====
section
/-!
DEFINITION. Ends, safe points, traps and their return, and `tlbi` (spec/07 R153 to R156, spec/17 R310 to R313, spec/22 R366,
spec/27 R425).
-/
namespace Sys2Proof.Machine

/-! ## exit, safe and yield (07 R153 to R155, 17 R313) -/

/-- EXIT (R153): the thread is halted, departs its crews and hands on (02 R39); its wake milestone is credited. -/
def execExit (e : Fields) (s : State) : Result :=
  s.scalar e fun t =>
    s.orElsePending t 5 <|
      let s := s.put { t.next e with halted := true, request := none }
      let s := (s.creditWake t.gtid).departAll (s.memberOf t) false
      let s := if t.trig then s else s.handOn t.gtid
      s.endStop t.ctx

/-- The registers and predicates outside the masks of a `safe`: each keeps its value or becomes zero, a free choice
(R154, log 17). -/
def Thread.maskRegs (t : Thread) (qmask pmask v : Nat) : Thread :=
  let t := (List.range 32).foldl (fun (t : Thread) i =>
    if !bit qmask i && bit v i then t.setReg (BitVec.ofNat 5 i) QReg.zero else t) t
  (List.range 8).foldl (fun (t : Thread) i => if !bit pmask i && bit v (32 + i) then t.setPred i 0 else t) t

/-- A live safe point of the issuing thread with live masks: relaxed accesses are waited for, the safe-point distance is
reset, a lockstep pair takes a checkpoint of the live registers (17 R321), and a pending request is honoured past the
instruction. -/
def State.safePoint (s : State) (t : Thread) (e : Fields) (qmask pmask : Nat) : State :=
  s.release t 5 false <|
    let (v, s) := s.takeFree
    let t := { (t.maskRegs qmask pmask v).next e with dist := 0 }
    let s :=
      if t.pair then (s.put (t.heldFrom (s.cycle (slotCore s.cur)))).checkpointOf s.cur t qmask pmask else s.put t
    s.honour s.cur qmask pmask

/-- SAFE (R154). -/
def execSafe (e : Fields) (s : State) : Result :=
  s.scalar e fun t => s.safePoint t e e.imm.toNat (e.mod.toNat % 256)

/-- YIELD (17 R313): every register and predicate is live. -/
def execYield (e : Fields) (s : State) : Result :=
  s.scalar e fun t => s.release t 5 false ((s.put { t.next e with dist := 0 }).honour s.cur (2 ^ 32 - 1) 0xFF)

/-! ## trap and brk (17 R311, 27 R425) -/

/-- The code of `trap` and `brk`. -/
def trapCode (e : Fields) : Word32 := if e.hasWord1 then e.imm else e.imm15.zeroExtend 32

/-- A live instruction that stops its thread with the PC after it. -/
def State.stopAfter (s : State) (e : Fields) (kind cause : Nat) : Result :=
  s.scalar e fun t => (s.put (t.next e)).stopThread s.cur kind cause 0 (trapCode e) 0

/-- TRAP (R311). -/
def execTrap (e : Fields) (s : State) : Result := s.stopAfter e 7 0
/-- TRAP_X (R311). -/
def execTrapX (e : Fields) (s : State) : Result := s.stopAfter e 7 0
/-- BRK (27 R425). -/
def execBrk (e : Fields) (s : State) : Result := s.stopAfter e 6 1
/-- BRK_X (27 R425). -/
def execBrkX (e : Fields) (s : State) : Result := s.stopAfter e 6 1

/-! ## tres (17 R312) -/

/-- The slot of a placed thread by its global task identifier. -/
def State.slotOf (s : State) (gtid : Nat) : Option Nat :=
  (s.slots.find? fun e => match e.2.thread with | some t => t.gtid.toNat == gtid | none => false).map (·.1)

/-- What a skip reads of word 0 at a target's PC: its length in bytes, nothing readable, or a walk to be waited for. -/
inductive SkipRead where
  | len (n : Nat)
  | unreadable
  | walking (grove va : Nat)
deriving DecidableEq, Repr

/-- Read the length of the instruction at the PC of the thread in slot `n`, with the checks of a fetch. Code of a peer
package has a free length (log 9). -/
def State.skipLength (s : State) (n : Nat) (t : Thread) : SkipRead × State :=
  let pc := t.pc.toNat
  if pc % 4 ≠ 0 then (.unreadable, s)
  else match ({ s with opts := { s.opts with late := false } } : State).refill n { t with absent := (s.thread s.cur).bind (·.absent) } (pc / 64 * 64) with
    | (.block b, s) =>
      if (b.badIn (pc % 64) 4).isSome then (.unreadable, s)
      else (.len (lengthOf ((b.bytes.drop (pc % 64 + 3)).headD 0)), s)
    | (.pending, s) => let (v, s) := s.takeFree; (.len (lengthOf (BitVec.ofNat 8 v)), s)
    | (.walking, s) => (.walking (slotGrove n) (pc / 64 * 64), s)
    | (_, s) => (.unreadable, s)

/-- A thread past the instruction at its PC, by its length. -/
def Thread.skipBy (t : Thread) (n : Nat) : Thread := { t with pc := t.pc + BitVec.ofNat 64 n, reissue := false, fbuf := [] }

/-- Let the thread in slot `n` go on, at its PC or past its instruction, with `f` done to it and its fetch buffer to be
refilled (06 R114); the result's code, or a walk to be waited for. -/
def State.goOn (s : State) (n : Nat) (t : Thread) (skip : Bool) (f : Thread → Thread) : Except Wait Int × State :=
  if skip then
    match s.skipLength n t with
    | (.len k, s) => (.ok 0, s.setThread n (f (t.skipBy k)))
    | (.unreadable, s) => (.ok (-2), s)
    | (.walking g va, s) => (.error (.walk g va), s)
  else (.ok 0, s.setThread n (f { t with fbuf := [] }))

/-- A saved thread of a context by its identifier. -/
def State.savedOf (s : State) (c gtid : Nat) : Option Saved := (s.ctx c).saved.find? fun v => v.gtid.toNat == gtid

/-- Clear a bit of FLAGS in a frame of a context (R315). -/
def State.clearFlag (s : State) (c frame i : Nat) : State :=
  let va := s.frameVa c frame + 32
  match s.landingRead c va 8 with
  | (some w, s) => if bit w (40 + i) then s.landingWrite c va (w - 2 ^ (40 + i)) else s
  | (none, s) => s

/-- Let a saved thread go on when it is restored, at its PC or past its instruction, with `f` done to it and bit `i` of its
FLAGS cleared; the result's code, or a walk to be waited for. -/
def State.goOnSaved (s : State) (c : Nat) (v : Saved) (skip : Bool) (i : Nat) (f : Saved → Saved) : Except Wait Int × State :=
  let put (s : State) (pc : Word64) : State :=
    let x := s.ctx c
    (s.setCtx c { x with saved := x.saved.map fun w => if w = v then { f w with pc } else w }).clearFlag c v.frame i
  if skip then
    let pc := s.framePc c v.frame v.pc.toNat
    match s.skipLength (v.core * 16 + v.slot) { Thread.blank with gtid := v.gtid, pc := BitVec.ofNat 64 pc } with
    | (.len n, s) => (.ok 0, (put s (BitVec.ofNat 64 (pc + n))).landingWrite c (s.frameVa c v.frame) (wrap 64 (pc + n)))
    | (.unreadable, s) => (.ok (-2), s)
    | (.walking g va, s) => (.error (.walk g va), s)
  else (.ok 0, put s v.pc)

/-- Write the result of an instruction that lets a thread go on. -/
def State.goOnResult (t : Thread) (e : Fields) (r : Except Wait Int × State) : State :=
  match r with
  | (.ok k, s) => s.finish t e (dataInt k)
  | (.error w, s) => s.retry t w

/-- TRES (R312). -/
def execTres (e : Fields) (s : State) : Result :=
  s.scalar e fun t =>
    let r := t.reg e.a
    if !r.isInt || 1 < r.hi then s.trap (.format false 0)
    else match s.slotOf r.lo with
      | none =>
        match s.savedOf t.ctx r.lo with
        | some v =>
          if v.stopped.isNone then s.finish t e (dataInt (-1))
          else State.goOnResult t e (s.goOnSaved t.ctx v (r.hi == 1) 3 fun w =>
            { w with stopped := none, skipBp := r.hi == 0 && match w.stopped with | some x => x.kind == 6 | none => false })
        | none => s.finish t e (dataInt (-1))
      | some n =>
        match s.thread n with
        | none => s.finish t e (dataInt (-1))
        | some u =>
          if u.stopped.isNone || u.ctx != t.ctx || n == s.cur then s.finish t e (dataInt (-1))
          else State.goOnResult t e
            (s.goOn n u (r.hi == 1) fun u => if r.hi = 1 then { u.unstop with skipBp := false } else u.unstop)

/-! ## tlbi (22 R366) -/

/-- Drop the translations that match, in every translation unit; then the accesses made through them are waited for. -/
def State.tlbiOp (s : State) (e : Fields) (kind : Nat) (f : Thread → Option (Nat × Nat × Nat)) : Result :=
  s.scalar e fun t =>
    if !s.privileged t then s.trap (.protection 0)
    else match f t with
      | none => s.trap (.format false 0)
      | some (c, va, size) =>
        s.release t 5 false <|
          let s := ((s.put t).noteObeyed kind c va size).dropNamed kind c va size
          if s.staleLeft kind c va size then s.put { t with wait := .tlb kind c va size e } else s.put (t.next e)

/-- The sizes of `tlbi.va`. -/
def tlbiSize (code : Nat) : Nat := match code with | 0 => 2 ^ 12 | 1 => 2 ^ 16 | 2 => 2 ^ 21 | _ => 2 ^ 30

/-- TLBI (R366): `.all`. -/
def execTlbi (e : Fields) (s : State) : Result := s.tlbiOp e 0 fun _ => some (0, 0, 1)
/-- TLBI_CTX (R366). -/
def execTlbiCtx (e : Fields) (s : State) : Result :=
  s.tlbiOp e 1 fun t => if (t.reg e.a).isInt then some ((t.reg e.a).hi % 4096, 0, 1) else none
/-- TLBI_VA (R366). -/
def execTlbiVa (e : Fields) (s : State) : Result :=
  s.tlbiOp e 2 fun t =>
    if (t.reg e.a).isInt then some ((t.reg e.a).hi % 4096, (t.reg e.a).lo % 2 ^ 57, tlbiSize (e.mod.toNat % 4)) else none

/-! ## The end of a halted thread (07 R153, 02 R30) -/

/-- A halted thread's asynchronous work has drained. -/
def Thread.drained (t : Thread) : Bool := t.halted && t.rx.isEmpty && t.cp == 0 && t.tl == 0 && t.wait == .none

/-- The halted thread in slot `n` leaves its slot. -/
def State.drainEnd (s : State) (n : Nat) (t : Thread) : State := ((s.emptySlot n).threadGone t.gtid).endStop t.ctx

/-- THREAD_DRAIN_END (R30): the halted thread in slot `arg.index`, whose asynchronous work has drained, leaves its slot. -/
def evThreadDrainEnd (s : State) : Result :=
  let n := s.arg.index
  match s.thread n with
  | some t => .next (if t.drained then s.drainEnd n t else s)
  | none => .next s

/-- Threads that have halted since a machine `before` and have nothing to drain leave their slots in the same step (07 R153,
24 R392). -/
def State.drainHalted (before s : State) : State :=
  (s.slots.filterMap fun e => match e.2.thread with
    | some t => if t.drained && !((before.thread e.1).any (·.halted)) then some (e.1, t) else none
    | none => none).foldl (fun s x => s.drainEnd x.1 x.2) s

end Sys2Proof.Machine
end

