-- ==== Sys2Proof/Machine/Debug.lean ====
section
/-!
DEFINITION. Debug, trace and profiling (spec/27 R422 to R430): breakpoints, resume, step and stop, the state-change log and PC
sampling.
-/
namespace Sys2Proof.Machine

/-! ## Breakpoints (R423, R424) -/

/-- The least breakpoint that a thread matches. -/
def State.breakAt (s : State) (t : Thread) : Option Nat :=
  if t.skipBp then none
  else (List.range 8).find? fun i =>
    let ctl := (s.dbg.ctls[i]?).getD 0
    let key := ((s.dbg.keys[i]?).getD 0).toNat
    bit ctl 0 && bits t.pc.toNat 56 2 == bits ctl 56 2 &&
      if bit ctl 1 then t.gtid.toNat / 2 ^ 16 == key / 2 ^ 16 else t.gtid.toNat == key

/-- A thread waits on memory for an access that has not been made, or for what must be performed before it goes on. -/
def Wait.onMemory : Wait → Bool
  | .behind .. | .drain .. | .walk .. | .pageMove _ | .remap _ | .tlb .. => true
  | _ => false

/-- What stops the thread in slot `n` as its turn is offered, before anything of an instruction: a wanted stop, then a
breakpoint (log 33). An access that waits to be made is made first (R426). -/
def State.debugTurn (s : State) (n : Nat) : Option State :=
  match s.thread n with
  | none => none
  | some t =>
    if t.debugStop && !(t.reissue && t.wait.onMemory) then some (s.stopThread n 6 4 0 0 0)
    else (s.breakAt t).map fun i => s.stopThread n 6 2 0 (BitVec.ofNat 32 i) 0

/-- BREAKPOINT_MATCH (R423): the thread in slot `arg.index` is offered a turn and matches. -/
def evBreakpointMatch (s : State) : Result :=
  let n := s.arg.index
  match s.thread n with
  | some t =>
    if s.ready n && !t.debugStop && (s.breakAt t).isSome then .next ((s.debugTurn n).getD s) else .next s
  | none => .next s

/-! ## Resume, step and stop (R426, R427) -/

/-- A saved thread bears an identifier. -/
def State.savedHas (s : State) (gtid : Nat) : Bool := s.ctxs.any fun e => e.2.saved.any fun v => v.gtid.toNat == gtid

/-- Stop the thread in slot `n`: one that runs at its next offered turn, one that waits as a pre-emption takes it, keeping a
counted arrival; an access that has issued is performed first. -/
def State.stopNow (s : State) (n : Nat) (t : Thread) : State :=
  match t.wait with
  | .crew .. | .crewHeld .. =>
    let u := { t with stopped := some ⟨6, 4, 0, 0⟩, stepping := 0 }
    (s.setThread n u).report n u 6 4 0 0 0
  | .memory => s.stopThread n 6 4 0 0 0
  | .upperHalf .. | .remote .. | .peer .. | .behind .. | .drain .. | .walk .. | .pageMove _ | .remap _ | .tlb .. =>
    s.setThread n { t with debugStop := true }
  | .none =>
    if t.stepping = 2 then s.stopThread n 6 4 0 0 0 else s.setThread n { t with debugStop := true }
  | _ => if s.waitOver n t then s.setThread n { t with debugStop := true } else (s.withdraw n).stopThread n 6 4 0 0 0

/-- A wait in which a thread is taken at once for a debug stop, as a pre-emption takes it (R426). -/
def Wait.stopsNow : Wait → Bool
  | .memory | .fullEmpty .. | .recv .. | .send .. | .notice .. | .counters .. | .crew .. | .crewHeld .. | .crewFull .. | .kernel => true
  | _ => false

/-- Threads of which a debug stop is wanted, and which have come to wait for what it does not wait for, are stopped (R426). -/
def State.takeStops (s : State) : State :=
  (s.slots.filterMap fun e => match e.2.thread with
    | some t =>
      if t.debugStop && t.wait.stopsNow && !s.waitOver e.1 t && t.stopped.isNone && !t.frozen && !t.halted && !t.migrating then
        some (e.1, t) else none
    | none => none).foldl (fun s x => (s.setThread x.1 { x.2 with debugStop := false }).stopNow x.1 { x.2 with debugStop := false }) s

/-- The thread is stopped by KIND 6. -/
def Thread.inDebugStop (t : Thread) : Bool := match t.stopped with | some x => x.kind == 6 | none => false

/-- A write of DBGCMD with ACT 1 to 3: the RESULT, and what it does. -/
def State.debugAct (s : State) (act : Nat) : Nat × State :=
  let g := s.dbg.target.toNat
  match s.slotOf g with
  | none => (if s.savedHas g then 3 else 1, s)
  | some n =>
    match s.thread n with
    | none => (1, s)
    | some t =>
      match act with
      | 1 => if t.inDebugStop then (0, s.setThread n t.unstop) else (2, s)
      | 2 => if t.inDebugStop then (0, s.setThread n { t.unstop with stepping := 1 }) else (2, s)
      | _ => if t.stopped.isSome || t.frozen || t.halted then (2, s) else (0, s.stopNow n t)

/-- A write of DBGCMD; other values of ACT are ignored. -/
def State.debugCommand (s : State) (v : Nat) : State :=
  let act := v % 16
  if act = 0 || 3 < act then s
  else
    let (r, s) := s.debugAct act
    { s with dbg := { s.dbg with result := r } }

/-- Who may write privileged registers: the host port from boot stage 5 on, and a privileged thread. -/
def State.mayWrite (s : State) : Writer → Bool
  | .host => decide (5 ≤ s.boot.stage)
  | .thread n => match s.thread n with | some t => s.privileged t | none => false

/-- DEBUG_RESUME (R426). -/
def evDebugResume (s : State) : Result := .next (if s.mayWrite s.arg.writer then s.debugCommand 1 else s)
/-- DEBUG_STEP (R426). -/
def evDebugStep (s : State) : Result := .next (if s.mayWrite s.arg.writer then s.debugCommand 2 else s)
/-- DEBUG_STOP (R426). -/
def evDebugStop (s : State) : Result := .next (if s.mayWrite s.arg.writer then s.debugCommand 3 else s)

/-- The queue to which an operation was appended between two machines, with its number. -/
def appendedOp (a b : State) : Option (Nat × Nat) :=
  (b.queues.find? fun e => (a.queue e.1).appended != e.2.appended).map fun e => (e.1, (a.queue e.1).appended)

/-- The thread in slot `n` has issued while stepping: an instruction that is to be issued again keeps it so; otherwise what
it started is noted. -/
def State.stepped (before s : State) (n : Nat) : State :=
  match before.thread n, s.thread n with
  | some t0, some t =>
    if t0.stepping ≠ 1 || t.stepping ≠ 1 then s
    else if t.reissue || t.lost then s
    else if t.halted then s.setThread n { t with stepping := 0 }
    else s.setThread n { t with stepping := 2, stepOp := appendedOp before s
                                stepAcc := if t0.rx.length < t.rx.length then t.rx.getLast? else none }
  | _, _ => s

/-- What a stepped instruction started has been performed, or is whole. -/
def State.stepDone (s : State) (t : Thread) : Bool :=
  (match t.stepAcc with | some r => !t.rx.any fun x => x.acc == r.acc | none => true) &&
    match t.stepOp with
    | some (k, i) =>
      let q := s.queue k
      !((if q.headEnded then q.ops.drop 1 else q.ops).any fun o => o.serial == i)
    | none => true

/-- STEP_STOP (R426): the work of the stepped instruction of slot `arg.index` has drained. -/
def evStepStop (s : State) : Result :=
  let n := s.arg.index
  match s.thread n with
  | some t =>
    if t.stepping == 2 && t.wait == .none && !t.frozen && s.stepDone t then
      .next ((s.setThread n { t with stepAcc := none, stepOp := none }).stopThread n 6 3 0 0 0)
    else .next s
  | none => .next s

/-! ## The state of a slot (02 R30, R31) as the log reports it (R428) -/

/-- The waiting state of a thread: 2 memory, 3 full/empty, 4 message, 5 counters, 6 crew. -/
def Wait.reason : Wait → Nat
  | .none => 1
  | .fullEmpty .. => 3
  | .recv .. | .send .. | .notice .. => 4
  | .counters .. => 5
  | .crew .. | .crewFull .. | .crewHeld .. => 6
  | .peer kind _ => if kind ≤ 3 then 6 else 2
  | _ => 2

/-- The state of slot `n`, by the REASON codes of R428; that of the odd core's slot of a lockstep pair is its thread's. -/
def State.reasonOf (s : State) (n : Nat) : Nat :=
  match s.thread (if s.slotReserved n then n - 16 else n) with
  | none => 0
  | some t =>
    if t.frozen then 11
    else if t.stopped.isSome then 10
    else if t.halted then 12
    else if t.migrating then 9
    else if !s.waitOver (if s.slotReserved n then n - 16 else n) t then t.wait.reason
    else if t.stepping = 2 then 5
    else if t.copying || s.heldForSave (if s.slotReserved n then n - 16 else n) t || decide (s.cycle (slotCore n) < t.held) then 2
    else if s.withheldAt (if s.slotReserved n then n - 16 else n) then 7
    else 1

/-- The class of a state. -/
def reasonClass (r : Nat) : Nat :=
  match r with
  | 1 => 0
  | 4 => 1
  | 2 | 3 | 5 | 6 => 2
  | _ => 3

/-! ## Writes of the package itself -/

/-- Store up to 16 bytes at a key, as an ordinary store does. -/
def State.storeNum (s : State) (k n v : Nat) : State :=
  s.storeAccess (unitStore k k n (2 ^ (2 * n) - 1)) v

/-- A key of a die's memory. -/
def State.dieKey (s : State) (die off : Nat) : Nat := memKey s.pkg 1 (die * 2 ^ 32 + off)

/-! ## The log (R428, R429) -/

/-- BASE and ORDER of LOGCTL and SMPCTL. -/
def ctlBase (v : Nat) : Nat := bits v 26 12 * 4096
def ctlOrder (v : Nat) : Nat := bits v 11 8

/-- Where a core's ring begins. -/
def State.logRing (s : State) (core : Nat) : Nat :=
  let v := s.dbg.logctl
  s.dieKey (core / 768) (ctlBase v + 2 ^ ctlOrder v * (16 * (core / 16 % 48) + core % 16))

/-- Write a log record, and then the count that includes it; both are charged to context 0. -/
def State.logPut (s : State) (core w : Nat) : State :=
  let x := s.core core
  let ring := s.logRing core
  let c := (2 ^ ctlOrder s.dbg.logctl - 16) / 4
  let s := s.storeNum (ring + 16 + 4 * (x.logCount % c)) 4 w
  let s := s.storeNum ring 8 (x.logCount + 1)
  (s.setCore core { s.core core with logCount := x.logCount + 1 }).credit (core / 768) 0 none (2 * s.levelCharge false ring)

/-- The records that a core, or a die for samples, holds until die memory takes them (R429, R430). -/
def heldRecords : Nat := 64

/-- Die memory takes the records that a core holds, unless it is busy. -/
def State.logDrain (s : State) (core : Nat) : State :=
  if s.busy then s
  else (s.core core).logHeld.foldl (fun s w => s.logPut core w) (s.setCore core { s.core core with logHeld := [] })

/-- A record that says the core's cycle `upto`: beyond 64 that die memory has not taken it is dropped, and its DELTA stands in the
next one; the first after that follows a filler that says so. -/
def State.logWord (s : State) (core w upto : Nat) : State :=
  let x := s.core core
  let l := x.logHeld ++ (if x.logLost then [15 * 2 ^ 12 + 1] else []) ++ [w]
  if heldRecords < l.length then s.setCore core { x with logLost := true }
  else (s.setCore core { x with logHeld := l, logCycle := upto, logLost := false }).logDrain core

/-- A filler of 65,535 cycles. -/
def State.logFiller (s : State) (core : Nat) : State :=
  s.logWord core (65535 * 2 ^ 16 + 15 * 2 ^ 12) ((s.core core).logCycle + 65535)

/-- Put a change behind those of its slot and of lower ones. -/
def insertChange (n w : Nat) : List (Nat × Nat) → List (Nat × Nat)
  | [] => [(n, w)]
  | x :: r => if x.1 ≤ n then x :: insertChange n w r else (n, w) :: x :: r

/-- A change of slot `n` to a class in the present cycle, with its reason. -/
def State.noteChange (s : State) (n cls reason : Nat) : State :=
  let x := s.core (slotCore n)
  s.setCore (slotCore n)
    { x with logNow := insertChange (slotNum n) (cls * 2 ^ 12 + slotNum n * 2 ^ 8 + reason) x.logNow }

/-- Write the record of a change in a cycle of a core; fillers stand for what DELTA cannot hold. -/
def State.logChange (s : State) (core now w : Nat) : State :=
  let s := loopUp ((now - (s.core core).logCycle) / 65535) (fun _ s => s.logFiller core) s
  s.logWord core ((now - (s.core core).logCycle) * 2 ^ 16 + w) now

/-- A cycle of a core has ended: its changes are recorded in ascending slot order (R428). -/
def State.closeCycle (s : State) (core now : Nat) : State :=
  (s.core core).logNow.foldl (fun s x => s.logChange core now x.2) (s.setCore core { s.core core with logNow := [] })

/-- The cycles that have ended between two machines. -/
def State.closeCycles (before s : State) : State :=
  (before.cores.filter fun e => !e.2.logNow.isEmpty && before.cycle e.1 != s.cycle e.1).foldl
    (fun s e => s.closeCycle e.1 (before.cycle e.1)) s

/-- The slots that one of two machines lists, in ascending order. -/
def slotsOf (a b : State) : List Nat := (a.listed ++ b.listed).foldl NatSet.add []

/-- A thread has parked: its continuation is held. -/
def State.hasParked (s : State) (t : Option Thread) : Bool :=
  match t with | some t => s.conts.any fun c => c.gtid == t.gtid | none => false

/-- Every slot whose class has changed is to be logged. -/
def State.logChanges (before s : State) : State :=
  if ctlEn s.dbg.logctl && ctlEn before.dbg.logctl then
    (slotsOf before s).foldl (fun x n =>
      let r0 := before.reasonOf n
      let r := s.reasonOf n
      let r' := if r == 0 && s.hasParked (before.thread n) then 8 else r
      if reasonClass r0 = reasonClass r then x else x.noteChange n (reasonClass r) r') s
  else s

/-- A write of LOGCTL. -/
def State.writeLogctl (s : State) (v : Nat) : State :=
  let order := ctlOrder v
  if ctlEn v && (order < 12 || 16 < order || 2 ^ 27 < ctlBase v + 768 * 2 ^ order) then s
  else
    let s := if ctlEn s.dbg.logctl then s.cores.foldl (fun s e => s.closeCycle e.1 (s.cycle e.1)) s else s
    let s := { s with dbg := { s.dbg with logctl := v % 2 ^ 27 - v % 256 + flag (ctlEn v) } }
    if ctlEn v then
      (List.range 3072).foldl (fun s core =>
        let ring := s.logRing core
        (s.storeNum ring 16 (s.now * 2 ^ 64)).setCore core
          { s.core core with logCycle := s.cycle core, logCount := 0, logLost := false, logNow := [], logHeld := [] }) s
    else s

/-- LOG_ENABLE (R429): a write of LOGCTL. -/
def evLogEnable (s : State) : Result := .next (if s.mayWrite s.arg.writer then s.writeLogctl s.arg.value else s)

/-- LOG_DELTA_OVERFLOW (R428): core `arg.index` has passed 65,535 cycles without a record. -/
def evLogDeltaOverflow (s : State) : Result :=
  let core := s.arg.index
  .next (if ctlEn s.dbg.logctl && (s.core core).logNow.isEmpty && decide ((s.core core).logCycle + 65535 ≤ s.cycle core) then s.logFiller core else s)

/-! ## Sampling (R430) -/

/-- A write of SMPCTL. -/
def State.writeSmpctl (s : State) (v : Nat) : State :=
  if v / 2 ^ 32 % 2 ^ 32 < 256 || 12 < ctlOrder v then s
  else
    let ctl := v / 2 ^ 32 % 2 ^ 32 * 2 ^ 32 + (v % 2 ^ 27 - v % 256 + flag (ctlEn v))
    let s := { s with dbg := { s.dbg with smpctl := ctl } }
    if ctlEn v then
      let s := s.cores.foldl (fun s e => s.setCore e.1 { e.2 with sampled := 0 })
        { s with dbg := { s.dbg with samples := [0, 0, 0, 0], samplesLost := [0, 0, 0, 0], since := s.osc, held := [] } }
      (List.range 4).foldl (fun s d => s.storeNum (s.dieKey d (ctlBase v)) 16 0) s
    else s

/-- SAMPLE_ENABLE (R430): a write of SMPCTL. -/
def evSampleEnable (s : State) : Result := .next (if s.mayWrite s.arg.writer then s.writeSmpctl s.arg.value else s)

/-- What the present cycle of a core shows the sampler: a bubble where its turn has not been taken. -/
def State.cycleNote (s : State) (core : Nat) : IssueNote :=
  if (s.core core).taken = s.cycle core + 1 then (s.core core).note else ⟨s.cycle core % 16, 0, 0, 1⟩

/-- The 32 bytes of a sample of a core (Table 7). -/
def State.sampleNum (s : State) (core : Nat) : Nat :=
  let x := s.core core
  let n := s.cycleNote core
  let bubble := bit n.flags 0
  let pc := if bubble then 0 else n.pc.toNat
  (if bubble then 0 else n.gtid.toNat) + pc * 2 ^ 64 + s.now % 2 ^ 64 * 2 ^ 128 + (x.recent.headD 0) / 1000 % 2 ^ 32 * 2 ^ 192 +
    core / 16 % 256 * 2 ^ 224 + (core % 16 * 16 + n.slot) * 2 ^ 232 + n.flags % 16 * 2 ^ 240

/-- A sample is dropped, and counted in bytes 8 to 15 of its die's ring. -/
def State.dropSample (s : State) (die ring : Nat) : State :=
  let k := (s.dbg.samplesLost[die]?).getD 0 + 1
  { s.storeNum (ring + 8) 8 k with dbg := { s.dbg with samplesLost := s.dbg.samplesLost.set die k } }

/-- Write a sample to a die's ring, and then the count that includes it; both are charged to context 0. -/
def State.putSample (s : State) (die w : Nat) : State :=
  let ring := s.dieKey die (ctlBase s.dbg.smpctl)
  let k := (s.dbg.samples[die]?).getD 0
  let at_ := ring + 32 + 32 * (k % (2 ^ (ctlOrder s.dbg.smpctl + 7) - 1))
  let s := ((s.storeNum at_ 16 (w % 2 ^ 128)).storeNum (at_ + 16) 16 (w / 2 ^ 128)).storeNum ring 8 (k + 1)
  let s := { s with dbg := { s.dbg with samples := s.dbg.samples.set die (k + 1) } }
  s.credit die 0 none (2 * s.levelCharge false ring)

/-- The samples that a die holds. -/
def State.heldSamples (s : State) (die : Nat) : List Nat := Store.get [] s.dbg.held die

/-- A die holds these samples. -/
def State.setHeld (s : State) (die : Nat) (l : List Nat) : State :=
  { s with dbg := { s.dbg with held := Store.put [] s.dbg.held die l } }

/-- Die memory takes the samples that a die holds, unless it is busy. -/
def State.sampleDrain (s : State) (die : Nat) : State :=
  if s.busy then s else (s.heldSamples die).foldl (fun s w => s.putSample die w) (s.setHeld die [])

/-- PC_SAMPLE (R430): core `arg.index` samples its issue cycle at a multiple of INTERVAL, once what issues in it has issued. A die
holds 64 samples that its memory has not taken; those beyond are dropped. -/
def evPcSample (s : State) : Result :=
  let core := s.arg.index
  let v := s.dbg.smpctl
  if !ctlEn v || decide (3072 ≤ core) || !s.sampleNow core then .next s
  else
    let die := core / 768
    let s := s.setCore core { s.core core with sampled := s.sampleCycle core / smpInterval v + 1 }
    let l := s.heldSamples die
    .next (if heldRecords ≤ l.length then s.dropSample die (s.dieKey die (ctlBase v))
      else (s.setHeld die (l ++ [s.sampleNum core])).sampleDrain die)

/-- Die memory takes the records and samples that are held for it, unless it is busy (R429, R430). -/
def State.takeRecords (s : State) : State :=
  let s := (s.cores.filter fun e => !e.2.logHeld.isEmpty).foldl (fun s e => s.logDrain e.1) s
  s.dbg.held.foldl (fun s e => s.sampleDrain e.1) s

end Sys2Proof.Machine
end

