-- ==== Sys2Proof/Machine/QueuePairs.lean ====
section
/-!
DEFINITION. RoCEv2 queue pairs (spec/25 R402, R403): commands, doorbells, work requests and incoming requests.
-/
namespace Sys2Proof.Machine

/-! ## Pairs -/

def qpnOf (k : Nat) : Nat := 0x1000 + k % 4096
def qpPort (k : Nat) : Nat := k / 4096

/-- A pair in Reset. -/
def QueuePair.new (owner phase : Nat) : QueuePair :=
  { owner, state := 0, access := 0, mtu := 0, dqpn := 0, rkey := 0, dgid := 0, sq := 0, rq := 0, cq := 0, rings := 0, psn := 0
    sendProd := 0, sendCons := 0, recvProd := 0, recvCons := 0, completions := 0, busy := false, wr := 0, fail := 0
    phase0 := phase, retries := 0 }

/-- Log₂ of the entries of the send, receive and completion rings. -/
def QueuePair.sLog (q : QueuePair) : Nat := bits q.rings 3 0
def QueuePair.rLog (q : QueuePair) : Nat := bits q.rings 7 4
def QueuePair.cLog (q : QueuePair) : Nat := bits q.rings 11 8

/-! ## Accesses of a port through the owner's translation -/

/-- A capability to all of SPACE 3, and an operation of the port of pair `k` for a context, with which its accesses are made. -/
def portReach : QReg := ⟨mkCap 0x3FF 3 kindMemory 46 0 0x1FFFFF 0, true, 27⟩
def portOp (c k : Nat) : EngineOp :=
  { kind := .copy 0, gtid := BitVec.ofNat 64 (c * 2 ^ 52), isTask := true, ty := 0, mod := 0, imm := 0, d := portReach
    a := portReach, b := QReg.zero, f := QReg.zero, w := none, ia := QReg.zero, ic := QReg.zero, core := qpPort k * 768, serial := 0
    queue := 2 ^ 40 + k }

/-- The work in hand of a pair has ended: what it asked of peer packages has served its purpose. -/
def State.portDone (s : State) (k : Nat) : State := s.setFar (2 ^ 40 + k) []

/-- Every page of `n` bytes exists for a context, has a right, and is not being moved. -/
def State.portOk (s : State) (c va n : Nat) (r : Right) : Bool :=
  decide (va + n ≤ 2 ^ 57) && s.spanOk c va n r

/-- A page of the span is being moved (22 R367): the access waits. -/
def State.portWaits (s : State) (c va n : Nat) : Bool :=
  s.moves.any fun m => m.ctx == c && decide (va < m.va + 65536) && decide (m.va < va + n)

/-- A ring of a pair, or its local buffer of `n` bytes, stands on a page that is being moved: its work waits. -/
def State.pairWaits (s : State) (q : QueuePair) (va n : Nat) : Bool :=
  s.portWaits q.owner va n || s.portWaits q.owner q.sq (64 * 2 ^ q.sLog) || s.portWaits q.owner q.rq (16 * 2 ^ q.rLog) ||
    s.portWaits q.owner q.cq (32 * 2 ^ q.cLog)

/-- What a port's accesses come to: a value, a refusal, or a wait for a page walk or for a peer package's reply (22 R365, R398). -/
inductive PortEnd where
  | done (v : Nat)
  | fails
  | waits
deriving DecidableEq, Repr

/-- Run accesses of a port; the event says whether a walk outlasts the step. -/
def State.portRun (s : State) (act : Eng Nat) : PortEnd × State :=
  match act.run.run ({ s with opts := { s.opts with walk := s.arg.walk } } : State) with
  | (.ok v, s) => (.done v, s)
  | (.error .pause, s) => (.waits, s)
  | (.error _, s) => (.fails, s)

/-- Read `n` bytes for pair `k` of a context; it fails where a page refuses or a word has an uncorrectable error. -/
def State.portRead (s : State) (c k va n : Nat) : PortEnd × State :=
  if n = 0 then (.done 0, s)
  else if !s.portOk c va n .load then (.fails, s)
  else s.portRun ((portOp c k).readNum portReach va n)

/-- The parts of a write at peer packages are asked of them, each as one request (25 R398). -/
def EngineOp.askParts (op : EngineOp) (va v : Nat) (l : List (Nat × Nat)) : Eng Unit :=
  l.forM fun p => do
    let k ← op.key portReach p.1 .store
    let s ← get
    if !s.isLocal k && keyTgt k ≤ 5 then
      let _ ← op.askFar (engineAccess .store k p.1 p.2 (2 ^ (2 * p.2) - 1) (v / 256 ^ (p.1 - va) % 256 ^ p.2)) true

/-- The parts of a write at homes of this package and in host memory are performed. -/
def EngineOp.writeParts (op : EngineOp) (va v : Nat) (l : List (Nat × Nat)) : Eng Unit :=
  l.forM fun p => do
    let k ← op.key portReach p.1 .store
    let s ← get
    if s.isLocal k then
      let x := unitStore k p.1 p.2 (2 ^ (2 * p.2) - 1)
      match s.badWord x true with
      | some w => do set (s.detect w); throw (.data (x.wordVa w))
      | none => set (s.storeAccess x (v / 256 ^ (p.1 - va) % 256 ^ p.2))
    else if keyTgt k = 6 then farAccess p.1

/-- Write `n` bytes for pair `k`, one access for each aligned 8-byte part, which may be a wake write where it is whole (09 R207,
23 R379); nothing where a page refuses, and nothing here before every peer package has answered. -/
def State.portWrite (s : State) (c k va n v : Nat) : PortEnd × State :=
  if n = 0 then (.done 0, s)
  else if !s.portOk c va n .store then (.fails, s)
  else
    let l := hostParts (n + 1) va n
    match s.portRun (do (portOp c k).askParts va v l; pure 0) with
    | (.done _, s) => s.portRun (do (portOp c k).writeParts va v l; pure 0)
    | r => r

/-- A completion is written; its parts at a peer package are asked of it. -/
def State.portPost (s : State) (c k va n v : Nat) : State :=
  if !s.portOk c va n .store then s
  else (hostParts (n + 1) va n).foldl (fun s p =>
    match s.form c (qpPort k * 768) 3 p.1 .store with
    | (.key key, s) =>
      let x := unitStore key p.1 p.2 (2 ^ (2 * p.2) - 1)
      let w := v / 256 ^ (p.1 - va) % 256 ^ p.2
      if s.isLocal key || keyTgt key == 6 then s.storeAccess x w
      else s.ask (keyPkg key) 2 (.message (.access { x with data := ⟨BitVec.ofNat 128 w, false, 0⟩ }))
    | (_, s) => s) s

/-! ## Completions (Table 10) -/

/-- Write a completion of a pair; one whose page refuses is lost (log 34). -/
def State.complete (s : State) (k index op status len value : Nat) : State :=
  match s.qp k with
  | none => s
  | some q =>
    let phase := (q.phase0 + q.completions / 2 ^ q.cLog) % 2
    let v := index % 2 ^ 16 + op * 2 ^ 16 + status * 2 ^ 24 + len % 2 ^ 32 * 2 ^ 32 + value % 2 ^ 64 * 2 ^ 64 + phase * 2 ^ 128
    let s := s.portPost q.owner k (q.cq + 32 * (q.completions % 2 ^ q.cLog)) 32 v
    s.setQp k (some { q with completions := q.completions + 1 })

/-- The work request at an index of a pair's send ring. -/
def State.workAt (s : State) (k : Nat) (q : QueuePair) (i : Nat) : PortEnd × State :=
  s.portRead q.owner k (q.sq + 64 * (i % 2 ^ q.sLog)) 64

/-- Outstanding work requests of a pair. -/
def QueuePair.left (q : QueuePair) : Nat := (q.sendProd + 2 ^ 16 - q.sendCons) % 2 ^ 16

/-- The OP of a work request that is flushed: 0 where its entry cannot be read, a free value where it stands at a peer package. -/
def State.flushedOp (s : State) : PortEnd → Nat × State
  | .done w => (field w 0 1, s)
  | .fails => (0, s)
  | .waits => let (v, s) := s.takeFree; (v % 256, s)

/-- Complete the outstanding work requests with status 4. -/
def State.flushQp (s : State) (k : Nat) : Nat → State
  | 0 => s
  | n + 1 =>
    match s.qp k with
    | none => s
    | some q =>
      if q.left = 0 then s.setQp k (some { q with busy := false })
      else
        let (w, s) := s.workAt k q q.sendCons
        let (op, s) := s.flushedOp w
        let s := s.complete k q.sendCons op 4 0 0
        match s.qp k with
        | none => s
        | some q => State.flushQp (s.setQp k (some { q with sendCons := (q.sendCons + 1) % 2 ^ 16, busy := false })) k n

/-- A pair enters Error, and its work is flushed. -/
def State.errorQp (s : State) (k : Nat) : State :=
  match s.qp k with
  | none => s
  | some q => (s.setQp k (some { q with state := 4 })).flushQp k (q.left + 1)

/-! ## Commands -/

/-- Transitions of R403. -/
def qpMoves (from_ dst : Nat) : Bool := dst == 0 || dst == 4 || (from_ == 0 && dst == 1) || (from_ == 1 && dst == 2) || (from_ == 2 && dst == 3)

/-- The fields that the transition from Init to RTR takes are as Table 8 admits. -/
def qpFieldsOk (v : Nat) : Bool :=
  let rings := field v 56 2
  let inRange (x : Nat) : Bool := decide (4 ≤ x ∧ x ≤ 12)
  decide (field v 6 1 < 8) && decide (field v 7 1 ≤ 2) && field v 11 1 == 0 && field v 32 8 % 64 == 0 && field v 40 8 % 16 == 0 &&
    field v 48 8 % 32 == 0 && inRange (bits rings 3 0) && inRange (bits rings 7 4) && inRange (bits rings 11 8) &&
    bits rings 15 12 == 0 && field v 61 3 == 0

/-- A pair with the fields of a record. -/
def QueuePair.take (q : QueuePair) (v : Nat) : QueuePair :=
  { q with access := field v 6 1, mtu := field v 7 1, dqpn := field v 8 3, rkey := field v 12 4, dgid := field v 16 16
           sq := field v 32 8, rq := field v 40 8, cq := field v 48 8, rings := field v 56 2, psn := field v 58 3 }

/-- Move a pair to a state, with the record that asks for it. -/
def State.moveQp (s : State) (k dst v : Nat) : State :=
  match s.qp k with
  | none => s
  | some q =>
    match dst with
    | 0 => s.setQp k (some (QueuePair.new q.owner q.phase0))
    | 4 => s.errorQp k
    | _ => s.setQp k (some { (if dst = 2 then q.take v else q) with state := dst })

/-- The lowest free pair of a port. -/
def State.freeQp (s : State) (port : Nat) : Option Nat :=
  ((List.range 4096).find? fun i => (s.qp (4096 * port + i)).isNone).map fun i => 4096 * port + i

/-- Report a command: the QPN and the result. -/
def State.qpResult (s : State) (qpn r : Nat) : State := { s with qpres := qpn % 2 ^ 24 * 2 ^ 40 + r }

/-- Create (log 34: fields of the record are checked when they are taken). -/
def State.qpCreate (s : State) (c v : Nat) : State :=
  let port := field v 4 1
  let dst := field v 5 1
  if 4 ≤ port || 5 ≤ dst then s.qpResult 0 2
  else if !qpMoves 0 dst then s.qpResult 0 3
  else match s.freeQp port with
    | none => s.qpResult 0 1
    | some k =>
      let (phase, s) := s.takeFree
      ((s.setQp k (some (QueuePair.new c (phase % 2)))).moveQp k dst v).qpResult (qpnOf k) 0

/-- The pair of a record, when a context owns it. -/
def State.ownedQp (s : State) (c v : Nat) : Option (Nat × QueuePair) :=
  let qpn := field v 0 3
  if qpn < 0x1000 || 0x1FFF < qpn then none
  else match s.qp (qpKey (field v 4 1) qpn) with
    | some q => if q.owner = c then some (qpKey (field v 4 1) qpn, q) else none
    | none => none

/-- Modify. -/
def State.qpModify (s : State) (c v : Nat) : State :=
  let qpn := field v 0 3
  let dst := field v 5 1
  if 4 ≤ field v 4 1 || 5 ≤ dst then s.qpResult qpn 2
  else match s.ownedQp c v with
    | none => s.qpResult qpn 4
    | some (k, q) =>
      if !qpMoves q.state dst then s.qpResult qpn 3
      else if dst = 2 && !qpFieldsOk v then s.qpResult qpn 2
      else (s.moveQp k dst v).qpResult qpn 0

/-- Destroy. -/
def State.qpDestroy (s : State) (c v : Nat) : State :=
  let qpn := field v 0 3
  if 4 ≤ field v 4 1 then s.qpResult qpn 2
  else match s.ownedQp c v with
    | none => s.qpResult qpn 4
    | some (k, q) => ((s.flushQp k (q.left + 1)).setQp k none).qpResult qpn 0

/-- A write of QPCMD for a context. -/
def State.qpCommand (s : State) (c w : Nat) : State :=
  let act := w % 16
  if act = 0 || 3 < act then s
  else
    let va := bits w 56 6 * 64
    let v := if s.spanOk c va 64 .load then some (s.landingNum c va 64) else none
    match v with
    | none => s.qpResult 0 2
    | some v => match act with
      | 1 => s.qpCreate c v
      | 2 => s.qpModify c v
      | _ => s.qpDestroy c v

/-- The context that the per-context registers name for a writer (17 R302, R327); none for a thread without privilege. -/
def State.selected (s : State) : Writer → Option Nat
  | .host => if 5 ≤ s.boot.stage then some s.hostCsel else none
  | .thread n => match s.thread n with | some t => if s.privileged t then some s.csel else none | none => none

/-- A command event: its writer and its ACT. -/
def State.qpEvent (s : State) (act : Nat) : Result :=
  match s.selected s.arg.writer with
  | some c => .next (s.qpCommand c (s.arg.addr / 64 * 64 + act))
  | none => .next s

/-- QP_CREATE (R403): QPCMD with the record at `arg.addr`. -/
def evQpCreate (s : State) : Result := s.qpEvent 1
/-- QP_MODIFY (R403). -/
def evQpModify (s : State) : Result := s.qpEvent 2
/-- QP_DESTROY (R403). -/
def evQpDestroy (s : State) : Result := s.qpEvent 3

/-! ## Doorbells -/

/-- A write of QPDOOR by a context. -/
def State.doorbell (s : State) (c w : Nat) : State :=
  let qpn := bits w 63 40
  let k := qpKey (bits w 37 36) qpn
  if qpn < 0x1000 || 0x1FFF < qpn then s
  else match s.qp k with
    | none => s
    | some q =>
      if q.owner ≠ c then s
      else if bit w 16 then (if q.state = 2 || q.state = 3 then s.setQp k (some { q with recvProd := w % 2 ^ 16 }) else s)
      else if q.state = 3 then s.setQp k (some { q with sendProd := w % 2 ^ 16 })
      else s

/-- The context of a writer: the host acts as a thread of context 0 (17 R327). -/
def State.writerCtx (s : State) : Writer → Option Nat
  | .host => if 5 ≤ s.boot.stage then some 0 else none
  | .thread n => (s.thread n).map fun t => t.ctx

/-- A thread's write of QPDOOR is a release of system scope: its relaxed accesses have been performed, without an error that is
still pending (09 R196). -/
def State.writerReleased (s : State) : Writer → Bool
  | .host => true
  | .thread n => match s.thread n with | some t => t.rx.isEmpty && t.pendErr.isEmpty | none => false

/-- A doorbell event of one kind. -/
def State.doorbellEvent (s : State) (recv : Bool) : Result :=
  match s.writerCtx s.arg.writer with
  | some c => .next (if bit s.arg.value 16 == recv && s.writerReleased s.arg.writer then s.doorbell c s.arg.value else s)
  | none => .next s

/-- QP_DOORBELL_SEND (R403): QPDOOR is written with `arg.value`, RQ clear. -/
def evQpDoorbellSend (s : State) : Result := s.doorbellEvent false
/-- QP_DOORBELL_RECV (R403): RQ set. -/
def evQpDoorbellRecv (s : State) : Result := s.doorbellEvent true

/-! ## Work requests (Table 9) -/

/-- A work request's local check: OP and LEN, and for a write or a send the local bytes. -/
def State.workCheck (s : State) (k : Nat) (q : QueuePair) (w : Nat) : PortEnd × State :=
  let op := field w 0 1
  let len := field w 4 4
  if 4 < op || 2 ^ 31 < len || (3 ≤ op && (len != 8 || field w 16 8 % 8 != 0)) then (.fails, s)
  else if op = 0 || op = 2 then s.portRead q.owner k (field w 8 8) len
  else (.done 0, s)

/-- WORK_REQUEST (R403): the next work request of pair `arg.index` is taken, and sent when its local bytes can be read. -/
def evWorkRequest (s : State) : Result :=
  let k := s.arg.index
  match s.qp k with
  | none => .next s
  | some q =>
    if q.state ≠ 3 || q.busy || q.left = 0 then .next s
    else
      let taken (s : State) (w : Nat) (bad : Bool) : State :=
        (s.setQp k (some { q with busy := true, wr := w, fail := flag bad, retries := 0 })).portDone k
      match s.workAt k q q.sendCons with
      | (.waits, s) => .next s
      | (.fails, s) => .next (if s.pairWaits q 0 0 then s else taken s 0 true)
      | (.done w, s) =>
        if s.pairWaits q (field w 8 8) (field w 4 4) then .next s
        else match s.workCheck k q w with
          | (.waits, s) => .next s
          | (.fails, s) => .next (taken s w true)
          | (.done _, s) => .next (taken s w false)

/-- End the work request of a pair with a status; a remote error sends the pair to Error. -/
def State.endWork (s : State) (k : Nat) (q : QueuePair) (status len value : Nat) : State :=
  let s := if status ≠ 0 || bit (field q.wr 1 1) 0 then s.complete k q.sendCons (field q.wr 0 1) status len value else s
  match s.qp k with
  | none => s
  | some q =>
    let s := s.setQp k (some { q with sendCons := (q.sendCons + 1) % 2 ^ 16, busy := false, fail := 0 })
    if status = 2 || status = 3 then s.errorQp k else s

/-- WORK_REQUEST_COMPLETE (R403): the peer's answer to the work request of pair `arg.index`: `arg.ok` unless it is a remote
access error, with the bytes read or the old value in `arg.data`. -/
def evWorkRequestComplete (s : State) : Result :=
  let k := s.arg.index
  match s.qp k with
  | none => .next s
  | some q =>
    if !q.busy || s.pairWaits q (field q.wr 8 8) (field q.wr 4 4) then .next s
    else if q.fail ≠ 0 then .next (s.endWork k q 1 0 0)
    else if !s.arg.ok then .next (s.endWork k q 2 0 0)
    else
      let op := field q.wr 0 1
      let len := field q.wr 4 4
      let v := numOf (s.arg.data.take len)
      if op = 0 || op = 2 then .next (s.endWork k q 0 len 0)
      else
        match s.portWrite q.owner k (field q.wr 8 8) len v with
        | (.waits, s) => .next s
        | (.fails, s) => .next ((s.endWork k q 1 0 0).portDone k)
        | (.done _, s) => .next ((s.endWork k q 0 len (if op = 1 then 0 else v)).portDone k)

/-- QP_RETRY_TIMEOUT (R403): the request of pair `arg.index` is unacknowledged: it is retried while `arg.ok` says that retries
are left, and ends with status 3 when they are exhausted. How many there are, the spec does not say. -/
def evQpRetryTimeout (s : State) : Result :=
  let k := s.arg.index
  match s.qp k with
  | none => .next s
  | some q =>
    if !q.busy || q.fail ≠ 0 || s.pairWaits q 0 0 then .next s
    else if s.arg.ok then .next (s.setQp k (some { q with retries := q.retries + 1 }))
    else .next (s.endWork k q 3 0 0)

/-! ## Incoming requests -/

/-- Answer a request of a peer queue pair; a refusal is a NAK with a code: 1 remote access error, 2 RNR. -/
def State.answer (s : State) (k : Nat) (ok : Bool) (v : Nat) : State :=
  { s with hostOut := s.hostOut ++ [{ requester := 2 ^ 16 + k, ok, value := v }] }

/-- A pair that takes requests. -/
def State.openQp (s : State) (k : Nat) : Option QueuePair := (s.qp k).filter fun q => q.state == 2 || q.state == 3

/-- A request of pair `arg.index` with key `arg.index2` that ACCESS bit `b` admits: `f` of the pair, else a NAK. -/
def State.rdmaIn (s : State) (b : Nat) (f : QueuePair → State) : Result :=
  match s.openQp s.arg.index with
  | none => .next s
  | some q =>
    if s.arg.index2 ≠ q.rkey || !bit q.access b then .next (s.answer s.arg.index false 1) else .next (f q)

/-- RDMA_WRITE_IN (R403): the bytes `arg.data` at `arg.addr`. -/
def evRdmaWriteIn (s : State) : Result :=
  s.rdmaIn 0 fun q =>
    let n := s.arg.data.length
    if s.portWaits q.owner s.arg.addr n then s
    else
      match s.portWrite q.owner s.arg.index s.arg.addr n (numOf s.arg.data) with
      | (.waits, s) => s
      | (.fails, _) => (s.answer s.arg.index false 1).portDone s.arg.index
      | (.done _, s) => (s.answer s.arg.index true 0).portDone s.arg.index

/-- RDMA_READ_IN (R403): `arg.value` bytes at `arg.addr`. -/
def evRdmaReadIn (s : State) : Result :=
  s.rdmaIn 1 fun q =>
    if s.portWaits q.owner s.arg.addr s.arg.value then s
    else match s.portRead q.owner s.arg.index s.arg.addr s.arg.value with
      | (.waits, s) => s
      | (.fails, s) => (s.answer s.arg.index false 1).portDone s.arg.index
      | (.done v, s) => (s.answer s.arg.index true v).portDone s.arg.index

/-- A fetch-add of `x`, or a compare-swap of `x` with `y`, at an aligned address of a port's reach: the old value. It is refused in a
CXL tier (R402). -/
def EngineOp.atomic (op : EngineOp) (va : Nat) (add : Bool) (x y : Nat) : Eng Nat := do
  let k ← op.key portReach va .store
  let s ← get
  let a := { engineAccess (if add then .atom 0 else .cas none) k va 8 0xFFFF (if add then x else y) with expected := x }
  if !keyHasAtomics k then throw (.data va)
  else if !s.isLocal k then op.askFar a true
  else
    let p := s.perform a
    match p.status with
    | .ok => do set p.state; pure p.old
    | _ => throw (.data va)

/-- RDMA_ATOMIC_IN (R403): compare-swap, or fetch-add with `arg.value` 1, at `arg.addr`; `arg.data` holds CMPADD and SWAP. -/
def evRdmaAtomicIn (s : State) : Result :=
  s.rdmaIn 2 fun q =>
    let va := s.arg.addr
    let x := numOf (s.arg.data.take 8)
    let y := numOf ((s.arg.data.drop 8).take 8)
    if s.portWaits q.owner va 8 then s
    else if va % 8 ≠ 0 || !s.portOk q.owner va 8 .load || !s.portOk q.owner va 8 .store then s.answer s.arg.index false 1
    else match s.portRun ((portOp q.owner s.arg.index).atomic va (s.arg.value == 1) x y) with
      | (.waits, s) => s
      | (.fails, _) => (s.answer s.arg.index false 1).portDone s.arg.index
      | (.done v, s) => (s.answer s.arg.index true v).portDone s.arg.index

/-- SEND_IN (R403): a SEND of `arg.data` takes the next posted receive entry of pair `arg.index`. -/
def evSendIn (s : State) : Result :=
  let k := s.arg.index
  match s.openQp k with
  | none => .next s
  | some q =>
    if q.recvCons = q.recvProd then .next (s.answer k false 2)
    else
      let n := s.arg.data.length
      let done (s : State) (ok : Bool) : State :=
        let s := (s.complete k q.recvCons 5 (if ok then 0 else 1) (if ok then n else 0) 0).portDone k
        match s.qp k with
        | none => s
        | some q => (s.setQp k (some { q with recvCons := (q.recvCons + 1) % 2 ^ 16 })).answer k ok 1
      match s.portRead q.owner k (q.rq + 16 * (q.recvCons % 2 ^ q.rLog)) 16 with
      | (.waits, s) => .next s
      | (.fails, s) => .next (if s.pairWaits q 0 n then s else done s false)
      | (.done v, s) =>
        if s.pairWaits q (field v 0 8) n then .next s
        else if field v 8 4 < n then .next (done s false)
        else match s.portWrite q.owner k (field v 0 8) n (numOf s.arg.data) with
          | (.waits, s) => .next s
          | (.fails, s) => .next (done s false)
          | (.done _, s) => .next (done s true)

end Sys2Proof.Machine
end

