-- ==== Sys2Proof/Machine/SysReg.lean ====
section
/-!
DEFINITION. System registers (spec/17 R302 to R304, R327; spec/15 R282; spec/16 R289; spec/22 R371; spec/25 R395, R403;
spec/26 R405, R415, R420; spec/27 R422; spec/28 R439): one read and one write for threads and the host, and the counters of
`ctr` (spec/27 R431, R432).
-/
namespace Sys2Proof.Machine

/-! ## Who reads or writes -/

/-- What a register access depends on: privilege, the accessor's own context, the context that CSEL names, and the slot of a
thread. -/
structure RegUser where
  priv : Bool
  ctx : Nat
  sel : Nat
  slot : Option Nat
deriving DecidableEq, Repr

/-- The user of a writer: the host acts as a privileged thread of context 0 with a CSEL of its own, from boot stage 5 on
(R327, 28 R433). -/
def State.userOf (s : State) : Writer → Option RegUser
  | .host => if 5 ≤ s.boot.stage then some { priv := true, ctx := 0, sel := s.hostCsel, slot := none } else none
  | .thread n => (s.thread n).map fun t => { priv := s.privileged t, ctx := t.ctx, sel := s.csel, slot := some n }

/-- The die on which a user stands: the host's port lies on die 0 (01 R22). -/
def RegUser.die (u : RegUser) : Nat := match u.slot with | some n => slotDie n | none => 0

/-- The context of the per-context registers. -/
def RegUser.named (u : RegUser) : Nat := if u.priv then u.sel else u.ctx

/-! ## What is privileged -/

/-- The debug registers, DBGSTAT apart (27 R422). -/
def isDebugReg (n : Nat) : Bool := n == 0x80 || n == 0x81 || decide (0x88 ≤ n ∧ n ≤ 0x99)

/-- Registers marked privileged for reading. -/
def privRead (n : Nat) : Bool :=
  n == 0x10 || n == 0x21 || n == 0x23 || decide (0x30 ≤ n ∧ n ≤ 0x32) || n == 0x44 || n == 0x45 || n == 0x48 || isDebugReg n ||
    n == 0xA1

/-- Registers marked privileged for writing. -/
def privWrite (n : Nat) : Bool :=
  n == 0x10 || decide (0x21 ≤ n ∧ n ≤ 0x26) || decide (0x30 ≤ n ∧ n ≤ 0x32) || n == 0x44 || n == 0x45 || n == 0x48 || n == 0x78 ||
    isDebugReg n || n == 0xA0

/-- Registers that can only be written (15 R282, 17 R327, 25 R403, 27 R422). -/
def writeOnly (n : Nat) : Bool := n == 0x31 || n == 0x40 || n == 0x81 || n == 0xA0 || n == 0xA2

/-! ## Contents -/

/-- The identity register (01 R23). -/
def State.identity (s : State) : Nat := 0x0D04 * 2 ^ 48 + 1 * 2 ^ 40 + s.domain % 256 * 2 ^ 32 + s.pkg % 4096 * 2 ^ 20

/-- LOCATION of the thread in slot `n` (R303). -/
def State.location (s : State) (n : Nat) : Nat :=
  match s.thread n with
  | none => 0
  | some t =>
    t.ctx * 2 ^ 52 + t.lcore % 4096 * 2 ^ 40 + slotGrove n % 256 * 2 ^ 32 + slotCore n % 16 * 2 ^ 28 + slotNum n * 2 ^ 24 +
      groveTrack (slotGrove n) * 2 ^ 22 + (s.core (slotCore n)).temp % 2 ^ 16

/-- The STATE code of a context (R298 Table 2). -/
def State.ctxState (s : State) (c : Nat) : Nat :=
  match (s.ctx c).mode with
  | .none => 0 | .created => 1 | .suspended => 4 | .frozen => 5 | .tornDown => 6
  | .active => if s.ctxRunning c then 3 else 2

/-- Frozen threads, queues and host functions of a context. -/
def State.frozenCount (s : State) (c : Nat) : Nat :=
  (s.slots.filter fun e => match e.2.thread with | some t => t.ctx == c && t.frozen | none => false).length +
    ((s.ctx c).saved.filter fun v => v.frozen).length +
    (s.queues.filter fun e => keyCtx e.1 == c && e.2.mode == .frozen).length +
    (s.hostFrozen.filter fun h => h.2 == c).length

/-- CTXSTAT (R304). -/
def State.ctxstat (s : State) (c : Nat) : Nat :=
  let x := s.ctx c
  c % 4096 * 2 ^ 52 + s.ctxState c * 2 ^ 48 + min 65535 (s.frozenCount c) * 2 ^ 32 + min 65535 (s.placedCount c) * 2 ^ 16 +
    4 * flag x.stopping.isSome + 2 * flag x.sys + flag (!(s.frameWaiters c).isEmpty)

/-- A link's status register (25 R395). -/
def State.linkStatus (s : State) (n : Nat) : Nat :=
  let l := Store.get Link.reset s.links n
  l.crcerr % 2 ^ 16 * 2 ^ 48 + l.retry % 2 ^ 16 * 2 ^ 32 + l.e2e % 2 ^ 16 * 2 ^ 16 + l.lanes % 256 * 2 ^ 8 + l.state % 4

/-- GOVSTAT (26 R415). -/
def State.govstat (s : State) : Nat :=
  let p := s.power
  p.target / 256 % 2 ^ 24 * 2 ^ 40 + p.k % 2 ^ 16 * 2 ^ 24 + p.misses % 2 ^ 16 * 2 ^ 8 + 8 * flag p.ballast + 4 * flag p.filler +
    2 * flag p.held + flag s.ptpSync

/-- RAS (26 R420). -/
def State.rasWord (s : State) : Nat :=
  let r := s.ras
  r.cesram * 2 ^ 48 + r.cehbm * 2 ^ 32 + r.ue * 2 ^ 24 + r.resid * 2 ^ 16 + r.lock * 2 ^ 8 + r.ctrl

/-- BOOTSTAT (28 R439). -/
def State.bootstat (s : State) : Nat :=
  let b := s.boot
  b.fwver % 2 ^ 32 * 2 ^ 32 + b.fused % 2 ^ 16 * 2 ^ 16 + b.err % 16 * 2 ^ 8 + b.src % 16 * 2 ^ 4 + b.stage % 16

/-- µJ of an accumulator of pJ (26 R406). -/
def microJ (pj : Nat) : Nat := pj / 1000000 % 2 ^ 64

/-- A readable register of a user; an unassigned number reads 0. -/
def State.regValue (s : State) (u : RegUser) (n : Nat) : Nat :=
  let c := u.named
  let x := s.ctx c
  match n with
  | 0x00 => s.identity
  | 0x01 => match u.slot with | some k => s.location k | none => 0
  | 0x10 => u.sel
  | 0x20 => s.ctxstat c
  | 0x21 => x.regs.ptroot
  | 0x22 => x.regs.kappa
  | 0x23 => x.regs.seed
  | 0x24 => x.regs.handler
  | 0x25 => x.regs.weight * 256 + x.regs.tracks
  | 0x26 => x.regs.limit
  | 0x30 => x.gtag
  | 0x32 => x.gresult
  | 0x44 => x.knamed
  | 0x45 => x.kresult % 256 * 256 + s.kernelState c x.knamed
  | 0x48 => s.readPool c
  | 0x49 => s.readPoolStat u.ctx
  | 0x60 => s.now % 2 ^ 64
  | 0x61 => s.ptpOffset % 2 ^ 32 * 2 ^ 32 + s.ptpPort % 256 * 2 ^ 8 + flag s.ptpSync
  | 0x68 => s.govstat
  | 0x70 => microJ s.power.pkg
  | 0x71 => microJ ((s.power.die[0]?).getD 0)
  | 0x72 => microJ ((s.power.die[1]?).getD 0)
  | 0x73 => microJ ((s.power.die[2]?).getD 0)
  | 0x74 => microJ ((s.power.die[3]?).getD 0)
  | 0x75 => microJ s.power.ballastPj
  | 0x78 => s.rasWord
  | 0x80 => s.dbg.target.toNat
  | 0x83 => s.dbg.result
  | 0x98 => s.dbg.logctl
  | 0x99 => s.dbg.smpctl
  | 0xA1 => s.qpres
  | 0xF0 => s.bootstat
  | _ =>
    if 0x50 ≤ n && n ≤ 0x59 then s.linkStatus (n - 0x50)
    else if 0x88 ≤ n && n ≤ 0x97 then
      if n % 2 = 0 then ((s.dbg.keys[(n - 0x88) / 2]?).getD 0).toNat else (s.dbg.ctls[(n - 0x89) / 2]?).getD 0
    else 0

/-- A read of register `n`: none is a protection violation; a register that can only be written reads as zero (00 R6). -/
def State.readReg (s : State) (u : RegUser) (n : Nat) : Option (Nat × State) :=
  if privRead n && !u.priv then none
  else some (if writeOnly n then 0 else s.regValue u n, s)

/-! ## Writes -/

/-- A write to the registers of a context record (R302). KAPPA, SHARE and LIMIT act from a die's next recomputation on, and
logical cores then leave a track that SHARE has taken away (R319). -/
def State.writeCtxReg (s : State) (c n v : Nat) : State :=
  let x := s.ctx c
  let put (r : CtxRegs) : State := s.setCtx c { x with regs := r }
  if x.mode = .none || x.mode = .tornDown then s
  else match n with
    | 0x21 => if x.mode = .created || x.mode = .suspended then put { x.regs with ptroot := bits v 51 12 * 4096 } else s
    | 0x22 => put { x.regs with kappa := v % 2 ^ 32 }
    | 0x23 => put { x.regs with seed := v }
    | 0x24 => put { x.regs with handler := flag (bit v 31) * 2 ^ 31 + v % 2 ^ 16 }
    | 0x25 => put { x.regs with weight := bits v 15 8, tracks := v % 8 }
    | 0x26 => put { x.regs with limit := v % 2 ^ 32 }
    | _ => s

/-- A write of the queue control register by a user of a context on a die (15 R282). -/
def State.queueControl (s : State) (ctx die v : Nat) : State :=
  let c := bits v 63 52
  let g := bits v 51 44
  let k := queueKey c g (v % 16)
  if c ≠ ctx || 192 ≤ g || groveDie g ≠ die || bit v 4 then s
  else match bits v 43 40 with
    | 1 => s.resumeQueue k
    | 2 => s.discardQueue k
    | _ => s

/-- A write of the kernel register (16 R289). -/
def State.writeKernelReg (s : State) (c v : Nat) : State :=
  let a := bits v 56 6 * 64
  match v % 16 with
  | 1 => s.registerKernel c a
  | 2 => s.evictKernel c a
  | _ => s

/-- RAS fields whose lowest bit is written as 1 clear (26 R420). -/
def State.clearRas (s : State) (v : Nat) : State :=
  let r := s.ras
  { s with ras :=
    { cesram := if bit v 48 then 0 else r.cesram, cehbm := if bit v 32 then 0 else r.cehbm, ue := if bit v 24 then 0 else r.ue
      resid := if bit v 16 then 0 else r.resid, lock := if bit v 8 then 0 else r.lock, ctrl := if bit v 0 then 0 else r.ctrl } }

/-- A write to BPKEY and BPCTL (27 R422). -/
def State.writeBreak (s : State) (n v : Nat) : State :=
  let d := s.dbg
  if n % 2 = 0 then { s with dbg := { d with keys := d.keys.set ((n - 0x88) / 2) (BitVec.ofNat 64 v) } }
  else { s with dbg := { d with ctls := d.ctls.set ((n - 0x89) / 2) (v % 2 ^ 57) } }

/-- What a write of a register that its user may write does. -/
def State.regEffect (s : State) (u : RegUser) (n v : Nat) : State :=
  let c := u.named
  match n with
  | 0x10 => match u.slot with | some _ => { s with csel := v % 4096 } | none => { s with hostCsel := v % 4096 }
  | 0x30 => if (s.ctx c).mode = .none then s else s.setCtx c { s.ctx c with gtag := v }
  | 0x31 => s.submit c v
  | 0x40 => s.queueControl u.ctx u.die v
  | 0x44 => if (s.ctx c).mode = .none then s else s.writeKernelReg c v
  | 0x48 => if (s.ctx c).mode = .none then s else s.writePool c v
  | 0x78 => s.clearRas v
  | 0x80 => { s with dbg := { s.dbg with target := BitVec.ofNat 64 v } }
  | 0x81 => s.debugCommand v
  | 0x98 => s.writeLogctl v
  | 0x99 => s.writeSmpctl v
  | 0xA0 => s.qpCommand c v
  | 0xA2 => s.doorbell u.ctx v
  | _ => if 0x88 ≤ n && n ≤ 0x97 then s.writeBreak n v else s.writeCtxReg c n v

/-- A write of register `n`: none is a protection violation. -/
def State.writeReg (s : State) (u : RegUser) (n v : Nat) : Option State :=
  if privWrite n && !u.priv then none else some (s.regEffect u n v)

/-! ## gets and puts -/

/-- The register number: fa:fb in the one-word form, the low half of imm32 in the extended one. -/
def regNumber (e : Fields) : Nat := if e.hasWord1 then e.imm.toNat % 2 ^ 16 else e.a.toNat * 32 + e.b.toNat

/-- `gets` (R302). -/
def State.getsOp (s : State) (e : Fields) : Result :=
  s.scalar e fun t =>
    match s.userOf (.thread s.cur) with
    | none => s
    | some u =>
      match s.readReg u (regNumber e) with
      | none => s.trap (.protection 0)
      | some (v, s) => s.finish t e (data64 v 8)

/-- `puts` (R302); GSUBMIT and QPDOOR are releases of system scope (R327, 25 R403). -/
def State.putsOp (s : State) (e : Fields) : Result :=
  s.scalar e fun t =>
    let n := regNumber e
    let go (s : State) (u : RegUser) : State :=
      match s.writeReg u n (t.reg e.d).lo with
      | none => s.trap (.protection 0)
      | some s =>
        match s.thread s.cur with
        | none => s
        | some t => s.put { t.next e with wait := .memory }
    if (t.reg e.d).cap then s.trap (.format false 0)
    else match s.userOf (.thread s.cur) with
      | none => s
      | some u =>
        if (n == 0x31 && u.priv) || n == 0xA2 then s.release t 5 false (go s u) else go s u

/-- GETS (R302). -/
def execGets (e : Fields) (s : State) : Result := s.getsOp e
/-- GETS_X (R302). -/
def execGetsX (e : Fields) (s : State) : Result := s.getsOp e
/-- PUTS (R302). -/
def execPuts (e : Fields) (s : State) : Result := s.putsOp e
/-- PUTS_X (R302). -/
def execPutsX (e : Fields) (s : State) : Result := s.putsOp e

/-! ## Counters (27 R431, R432) -/

def State.counter (s : State) (c k : Nat) : Counter := Store.get Counter.zero (s.ctx c).counters k
def State.setCounter (s : State) (c k : Nat) (v : Counter) : State :=
  let x := s.ctx c
  s.setCtx c { x with counters := Store.put Counter.zero x.counters k v }

/-- `ctr.read` (R432). -/
def State.ctrReadOp (s : State) (e : Fields) : Result :=
  s.scalar e fun t =>
    let v := s.counter t.ctx (e.b.toNat % 8)
    s.finish t e (lanes64 v.count (v.event + 256 * flag v.run) 8)

/-- CTR_READ (R432). -/
def execCtrRead (e : Fields) (s : State) : Result := s.ctrReadOp e
/-- CTR_READ_X (R432). -/
def execCtrReadX (e : Fields) (s : State) : Result := s.ctrReadOp e

/-- RUN of each counter in the mask imm32[7:0]. -/
def State.runCounters (s : State) (e : Fields) (run : Bool) : Result :=
  s.scalar e fun t =>
    let s := (setBits 8 e.imm.toNat).foldl (fun s k => s.setCounter t.ctx k { s.counter t.ctx k with run }) s
    s.put (t.next e)

/-- CTR_START (R432). -/
def execCtrStart (e : Fields) (s : State) : Result := s.runCounters e true
/-- CTR_STOP (R432). -/
def execCtrStop (e : Fields) (s : State) : Result := s.runCounters e false

/-- CTR_SEL (R432). -/
def execCtrSel (e : Fields) (s : State) : Result :=
  s.scalar e fun t =>
    let k := e.imm.toNat % 8
    let ev := bits e.imm.toNat 15 8
    if 10 < ev then s.trap (.format false 0)
    else (s.setCounter t.ctx k { s.counter t.ctx k with count := 0, event := ev }).put (t.next e)

/-! ## The same writes as events, by a thread or the host -/

/-- A register write by the writer of the event. -/
def State.writeEvent (s : State) (n v : Nat) : Result :=
  match s.userOf s.arg.writer with
  | none => .next s
  | some u => .next ((s.writeReg u n v).getD s)

/-- KERNEL_REGISTER (16 R290): 0x0044 is written with the image at `arg.addr` and ACT 1. -/
def evKernelRegister (s : State) : Result := s.writeEvent 0x44 (s.arg.addr / 64 * 64 + 1)
/-- KERNEL_EVICT (16 R292): ACT 2. -/
def evKernelEvict (s : State) : Result := s.writeEvent 0x44 (s.arg.addr / 64 * 64 + 2)
/-- GRAPH_SUBMIT (R327): GSUBMIT is written with `arg.value`. -/
def evGraphSubmit (s : State) : Result := s.writeEvent 0x31 s.arg.value
/-- KVPOOL_WRITE (22 R371): KVPOOL is written with `arg.value`. -/
def evKvpoolWrite (s : State) : Result := s.writeEvent 0x48 s.arg.value
/-- SHARE_WRITE (R302): SHARE is written with `arg.value`. -/
def evShareWrite (s : State) : Result := s.writeEvent 0x25 s.arg.value
/-- RAS_CLEAR (26 R420): RAS is written with `arg.value`. -/
def evRasClear (s : State) : Result := s.writeEvent 0x78 s.arg.value

/-- A queue identifier with another ACTION. -/
def withAction (v act : Nat) : Nat := v - bits v 43 40 * 2 ^ 40 + act * 2 ^ 40

/-- QUEUE_RESUME (15 R282): the queue control register is written with the identifier `arg.value` and ACTION 1. -/
def evQueueResume (s : State) : Result := s.writeEvent 0x40 (withAction s.arg.value 1)
/-- QUEUE_DISCARD (15 R282): ACTION 2. -/
def evQueueDiscard (s : State) : Result := s.writeEvent 0x40 (withAction s.arg.value 2)

/-- Registers a write of which only sets them. -/
def plainReg (n : Nat) : Bool :=
  n == 0x10 || decide (0x21 ≤ n ∧ n ≤ 0x24) || n == 0x26 || n == 0x30 || n == 0x80 || decide (0x88 ≤ n ∧ n ≤ 0x97)

/-- SYSTEM_REGISTER_WRITE (R302): register `arg.index2`, one without a behaviour of its own, is written with `arg.value`. -/
def evSystemRegisterWrite (s : State) : Result :=
  if plainReg s.arg.index2 then s.writeEvent s.arg.index2 (s.arg.value % 2 ^ 64) else .next s

/-- Answer a request of the host. -/
def State.hostAnswer (s : State) (requester : Nat) (ok : Bool) (v : Nat) : State :=
  { s with hostOut := s.hostOut ++ [{ requester, ok, value := v }] }

/-- HOST_REGISTER_READ32 (26 R405): requester `arg.index` reads 4 bytes at offset `arg.addr` of BAR 2. -/
def evHostRegisterRead32 (s : State) : Result :=
  let r := s.arg.index
  let a := s.arg.addr
  match s.userOf .host with
  | none => .next s
  | some u =>
    let n := a / 8
    if s.hostFrozen.any fun h => h.1 == r then .next (s.hostAnswer r false 0)
    else if a % 8 = 0 then
      match s.readReg u n with
      | none => .next s
      | some (v, s) =>
        .next ({ s with hostLatch := Store.put none s.hostLatch r (some (n, v / 2 ^ 32)) }.hostAnswer r true (v % 2 ^ 32))
    else if a % 4 = 0 then
      match Store.get none s.hostLatch r with
      | some (m, h) =>
        if m = n then .next ({ s with hostLatch := Store.put none s.hostLatch r none }.hostAnswer r true h)
        else match s.readReg u n with
          | none => .next s
          | some (v, s) => .next (s.hostAnswer r true (v / 2 ^ 32))
      | none =>
        match s.readReg u n with
        | none => .next s
        | some (v, s) => .next (s.hostAnswer r true (v / 2 ^ 32))
    else .next s

end Sys2Proof.Machine
end

