-- ==== Sys2Proof/Machine/Boot.lean ====
section
/-!
DEFINITION. Start-up (spec/28 R433 to R439, spec/26 R440): the boot stages, the recovery window, and attestation. Whether
a signature verifies, and what the image and the record carry, are inputs.
-/
namespace Sys2Proof.Machine

/-! ## The stages (R433, R434, R436) -/

/-- The end of the CXL tag region (22 R369). -/
def ConfigRecord.tagEnd (r : ConfigRecord) : Nat := r.tagBase + (r.cxlDram + r.cxlFlash + 127) / 128

/-- The pages of the lay-by's areas lie within their tiers (22 R363, 23 R381), and those of HBM outside the tag region. -/
def ConfigRecord.pagesOk (r : ConfigRecord) : Bool :=
  (r.dramPages.all fun p => decide (65536 * (p + 1) ≤ r.cxlDram)) && (r.flashPages.all fun p => decide (65536 * (p + 1) ≤ r.cxlFlash)) &&
    r.hbmPages.all fun p => decide (65536 * (p + 1) ≤ 2 ^ 39 ∧ (65536 * (p + 1) ≤ r.tagBase ∨ r.tagEnd ≤ 65536 * p))

/-- The ring of power records (26 R416): one reached by RDMA names a queue pair. -/
def ConfigRecord.ringOk (r : ConfigRecord) : Bool :=
  r.ringKind == 0 || (decide (r.ringKind < 3) && r.ringBase % 4096 == 0 && decide (4 ≤ r.ringLog ∧ r.ringLog ≤ 16) &&
    (r.ringKind == 1 || decide (0x1000 ≤ r.ringQpn ∧ r.ringQpn ≤ 0x1FFF)))

/-- The fields of a record that are out of range refuse it (R436; 01 R10, R23, R24, 17 R326, 22 R369, 25 R399). -/
def ConfigRecord.ok (r : ConfigRecord) : Bool :=
  decide (r.domain < 192) && decide (r.pkg < 4096) && decide (r.ptpDomain < 256) &&
    decide (1 ≤ r.limit ∧ r.limit ≤ 4000000) && decide (1 ≤ r.ramp ∧ r.ramp ≤ 4000000) &&
    decide (r.memBase + r.memSize ≤ 2 ^ 39) && decide (r.tagEnd ≤ 2 ^ 39) && r.pagesOk && r.ringOk &&
    r.groups.all fun g => decide (g.1 < 4096 ∧ g.2 < 4)

/-- The record takes effect. -/
def State.configure (s : State) (r : ConfigRecord) : State :=
  { s with
    domain := r.domain
    pkg := r.pkg
    cxlDram := r.cxlDram
    cxlFlash := r.cxlFlash
    tagBase := r.tagBase
    dramFree := r.dramPages
    flashFree := r.flashPages
    hbmFree := r.hbmPages
    ptpDomain := r.ptpDomain
    memBase := r.memBase
    memSize := r.memSize
    groups := r.groups
    power := { s.power with limit := r.limit, ramp := r.ramp, fixed := r.fixed, ringKind := r.ringKind
                            ringBase := r.ringBase, ringLog := r.ringLog, ringQpn := r.ringQpn, ringKey := r.ringKey } }

/-- The first window's target (26 R440): k is 1 and P the static power. -/
def Power.firstTarget (p : Power) (demands : List Nat) : Power :=
  let p := { p with k := 0x1000, window := 0, windowFiller := 0, windowBallast := 0, windowStart := p.pkg }
  p.withTarget (min (sumOf demands) (min (sumOf p.fixed + p.ramp) (92 * p.limit / 100))) demands

/-- A stage fails: 1 and 4 stop, 2 and 3 open the recovery window. -/
def Boot.fail (b : Boot) (stage : Nat) : Boot :=
  { b with err := stage, failed := stage, window := b.window || stage == 2 || stage == 3 }

/-- Stages 4 and 5, once the record is in force. -/
def State.bootLate (s : State) (failing : Nat) (demands : List Nat) : State :=
  if failing = 4 then { s with boot := s.boot.fail 4 }
  else { s with boot := { s.boot with stage := 5, err := 0, failed := 0 }, power := s.power.firstTarget demands }

/-- Stage 3 with a record that verifies, or not. -/
def State.bootRecord (s : State) (verifies : Bool) (r : ConfigRecord) (digest failing : Nat) (demands : List Nat) : State :=
  if verifies && r.ok then
    let s := s.configure r
    { s with boot := { s.boot with stage := 3, err := 0, failed := 0, recordDigest := digest } }.bootLate failing demands
  else { s with boot := s.boot.fail 3 }

/-- A valid image runs: its version, its source, and the fused minimum that it may raise (R434). -/
def Boot.takeImage (b : Boot) (src version digest : Nat) (raise : Bool) : Boot :=
  { b with stage := 2, err := 0, failed := 0, src, fwver := version, imageDigest := digest
           fused := if raise then max b.fused version else b.fused }

/-- Digests of 48 bytes each, and the version of the ROM, in the data of a boot event. -/
def digestAt (l : List Byte) (i : Nat) : Nat := numOf ((l.drop (48 * i)).take 48)

/-- The image: valid only when its signature verifies and its version is at or above the fused minimum; then stage 3 reads
the record from flash. -/
def State.bootImage (s : State) (src failing : Nat) (verifies : Bool) : State :=
  let a := s.arg
  if verifies && decide (s.boot.fused ≤ a.value) then
    { s with boot := s.boot.takeImage src a.value (digestAt a.data 0) (a.index == 1) }.bootRecord
      (failing != 3) a.cfg (digestAt a.data 1) failing (demandsOf a.addr)
  else { s with boot := s.boot.fail 2 }

/-- The identity key, which is derived anew at every reset and is the same each time (R437). -/
def IdentityKey.derive (puf : Nat) : IdentityKey := { secretHalf := Config.identityPrivate puf, publicHalf := Config.identityPublic puf }

/-- What a power-on leaves: the reset state with the inputs still to come, the free values taken, and the fuses; the ROM and
the board flash are as the data of the event says. -/
def State.powerOn (s : State) : State :=
  { State.reset with
    agenda := s.agenda, fresh := s.fresh, arg := s.arg
    boot := { Boot.reset with
      fused := s.boot.fused, romver := numOf ((s.arg.data.drop 96).take 8), certificate := s.arg.data.drop 104 } }

/-- POWER_ON_RESET: the stages are carried out in order. `arg.index2` is the stage that fails, or above 4 none; `arg.value` the
version of the image in flash, whose raise flag is `arg.index` 1; `arg.cfg` the record; `arg.data` the two digests, the
ROM's version, and the certificate that stands in flash beside the image; `arg.addr` the first demands. -/
def evPowerOnReset (s : State) : Result :=
  let f := s.arg.index2
  let s := s.powerOn
  if f = 1 then .next { s with boot := s.boot.fail 1 }
  else .next ({ s with boot := { s.boot with stage := 1, key := some (IdentityKey.derive Config.puf) } }.bootImage 0 f (f != 2))

/-! ## The recovery window (R435) -/

/-- A doorbell write: the admitted value starts the verification; another sets RESULT 4. -/
def Boot.ring (b : Boot) (v : Nat) : Boot :=
  if !b.window || b.result == 1 then b
  else if (v = 1 ∧ b.failed = 2) ∨ (v = 2 ∧ b.failed = 3) then { b with doorbell := v, result := 1 }
  else { b with result := 4 }

/-- RECOVERY_FIRMWARE: doorbell value 1. -/
def evRecoveryFirmware (s : State) : Result := .next { s with boot := s.boot.ring 1 }
/-- RECOVERY_CONFIG: doorbell value 2. -/
def evRecoveryConfig (s : State) : Result := .next { s with boot := s.boot.ring 2 }

/-- RECOVERY_VERIFY_END: the verification ends: the payload of an admitted LENGTH verifies with `arg.ok`. The other operands
are as at POWER_ON_RESET, `arg.index2` a later stage that fails. -/
def evRecoveryVerifyEnd (s : State) : Result :=
  let b := s.boot
  let a := s.arg
  if b.result ≠ 1 then .next s
  else
    let pass := a.ok && decide (1 ≤ b.length ∧ b.length ≤ 67104768)
    let refused : Boot := { b with doorbell := 0, result := 3 }
    let accepted : State := { s with boot := { b with doorbell := 0, result := 2 } }
    if b.doorbell = 1 then
      .next (if pass && decide (b.fused ≤ a.value) then accepted.bootImage 1 a.index2 true else { s with boot := refused })
    else
      .next (if pass && a.cfg.ok then accepted.bootRecord true a.cfg (digestAt a.data 1) a.index2 (demandsOf a.addr)
        else { s with boot := refused })

/-- A byte of the window. -/
def Boot.windowByte (b : Boot) (a : Nat) : Nat :=
  if a < 8 then b.doorbell / 256 ^ a % 256
  else if a < 16 then b.length / 256 ^ (a - 8) % 256
  else if a < 24 then b.result / 256 ^ (a - 16) % 256
  else if a < 0x1000 || 0x4000000 ≤ a then 0
  else (Store.get 0 b.payload (a - 0x1000)).toNat

/-- A read of `n` bytes of the window. -/
def Boot.windowRead (b : Boot) (a n : Nat) : Nat := loopUp (min n 4096) (fun i v => v + b.windowByte (a + i) * 256 ^ i) 0

/-- A byte written to LENGTH or the payload. -/
def Boot.windowPut (b : Boot) (a : Nat) (v : Byte) : Boot :=
  if 8 ≤ a && a < 16 then { b with length := b.length - b.length / 256 ^ (a - 8) % 256 * 256 ^ (a - 8) + v.toNat * 256 ^ (a - 8) }
  else if a < 0x1000 || 0x4000000 ≤ a then b
  else { b with payload := Store.put 0 b.payload (a - 0x1000) v }

/-- Write bytes from an offset. -/
def Boot.windowBytes (b : Boot) (a : Nat) : List Byte → Boot
  | [] => b
  | v :: r => Boot.windowBytes (b.windowPut a v) (a + 1) r

/-- A host write in the window: discarded before it opens and while a verification runs; the doorbell is taken after what
else the write holds. -/
def Boot.windowWrite (b : Boot) (a : Nat) (l : List Byte) : Boot :=
  if !b.window || b.result == 1 then b
  else
    let c := b.windowBytes a l
    if a = 0 && 8 ≤ l.length then c.ring (numOf (l.take 8)) else c

/-! ## Attestation (R438) -/

/-- An SPDM request, answered with values, or refused with `none`: Busy before stage 5 (code 0), an unexpected request where the
steps of SPDM 1.3 before it (`lo`, and at most `hi`) have not been taken (2), an invalid one (3), else the values (1), and step
`next` is reached (log 98). -/
def State.spdm (s : State) (code lo hi next : Nat) (values : Option (List Nat)) : Result :=
  let b := s.boot
  let reply (b : Boot) (k : Nat) (v : List Nat) : Result := .next { s with boot := { b with spdm := b.spdm ++ [(code, k, v)] } }
  if b.stage < 5 then reply b 0 []
  else if b.spdmStep < lo || hi < b.spdmStep then reply b 2 []
  else match values with
    | none => reply b 3 []
    | some v => reply { b with spdmStep := next } 1 v

/-- GET_VERSION: SPDM 1.3. -/
def evGetVersion (s : State) : Result := s.spdm 1 0 3 1 (some [0x13])
/-- GET_CAPABILITIES: the flags of SPDM 1.3 for certificates (bit 1), challenges (bit 2) and measurements that can be signed (bits
4:3 at 2), which are what R438 offers (log 98). -/
def evGetCapabilities (s : State) : Result := s.spdm 2 1 2 2 (some [0x16])
/-- NEGOTIATE_ALGORITHMS: ECDSA P-384 and SHA-384 are selected where the request offers both (`arg.ok`), else none is. -/
def evNegotiateAlgorithms (s : State) : Result :=
  s.spdm 3 2 3 (if s.arg.ok then 3 else 2) (some (if s.arg.ok then [384, 384] else [0, 0]))
/-- GET_CERTIFICATE (R437): the device's chain, whose certificates above the leaf are a free value (log 52), and whose leaf is
the certificate of the identity key. -/
def evGetCertificate (s : State) : Result :=
  let (v, s) := s.takeFree
  s.spdm 4 3 3 3 (some [v, numOf s.boot.certificate])
/-- A signature of the identity key over a number and the device's own. -/
def Boot.sign (b : Boot) (nonce own : Nat) : Nat := Config.signature ((b.key.map (·.secretHalf)).getD 0) nonce own

/-- CHALLENGE: the number `arg.value` is signed with the private half of the identity key, which no answer carries. -/
def evChallenge (s : State) : Result :=
  let (v, s) := s.takeFree
  s.spdm 5 3 3 3 (some [s.boot.sign s.arg.value v])

/-- The measurements; in SPDM 1.3 index 0 asks for their number and 0xFF for all of them (log 98). -/
def Boot.measurement (b : Boot) : Nat → Option (List Nat)
  | 0 => some [3]
  | 1 => some [b.imageDigest]
  | 2 => some [b.recordDigest]
  | 3 => some [b.romver, b.fused]
  | 0xFF => some [b.imageDigest, b.recordDigest, b.romver, b.fused]
  | _ => none

/-- GET_MEASUREMENTS: measurement `arg.index`, signed over the number `arg.value` where the request asks for it (`arg.ok`). -/
def evGetMeasurements (s : State) : Result :=
  let (v, s) := s.takeFree
  s.spdm 6 3 3 3 ((s.boot.measurement s.arg.index).map fun l => if s.arg.ok then l ++ [s.boot.sign s.arg.value v] else l)

end Sys2Proof.Machine
end

