-- ==== Sys2Proof/Machine/Control.lean ====
section
/-!
DEFINITION. Control transfers (spec/07 R148 to R152): opcodes 0x38 to 0x3C.
-/
namespace Sys2Proof.Machine

/-- A taken transfer: the PC at the target, the fetch buffer to be refilled (R114). -/
def Thread.goto (t : Thread) (target : Word64) : Thread :=
  { t with pc := target, fbuf := [], reissue := false, prio := false, skipBp := false }

/-- The word offset of `br` and `call`: 15 bits in the one-word form, imm32 in the extended one (R149). -/
def branchOffset (e : Fields) : Word64 := if e.hasWord1 then e.imm.signExtend 64 else e.imm15.signExtend 64

/-- The target of `br` and `call`. -/
def Thread.branchTarget (t : Thread) (e : Fields) : Word64 := t.pc + 4 * branchOffset e

/-- The link: the address after the instruction, as an i64 in q31 (R151). -/
def Thread.link (t : Thread) (e : Fields) : Thread := t.setReg 31 (data64 (t.nextPc e).toNat 4)

/-- `br` (R149). -/
def State.brOp (s : State) (e : Fields) : Result := s.scalar e fun t => s.put (t.goto (t.branchTarget e))

/-- BR (R149). -/
def execBr (e : Fields) (s : State) : Result := s.brOp e
/-- BR_X (R149). -/
def execBrX (e : Fields) (s : State) : Result := s.brOp e

/-- `call` (R151). -/
def State.callOp (s : State) (e : Fields) : Result :=
  s.scalar e fun t => s.put ((t.link e).goto (t.branchTarget e))

/-- CALL (R151). -/
def execCall (e : Fields) (s : State) : Result := s.callOp e
/-- CALL_X (R151). -/
def execCallX (e : Fields) (s : State) : Result := s.callOp e

/-- Data tagged i64 or ui64. -/
def QReg.isInt64 (r : QReg) : Bool := !r.cap && (r.tag == 4 || r.tag == 8)

/-- The target a register gives (R150), or the trap. -/
def jumpTarget (r : QReg) : Except Trap Nat :=
  if !r.cap then if r.isInt64 then .ok r.lo else .error (.format false 0)
  else if capKind r.bits = kindSealed then .error (.capability r.lo)
  else if capKind r.bits ≠ kindExecute || capSpace r.bits ≠ 3 then .error (.format false 0)
  else if capcheck r r.lo 4 permPX then .ok r.lo
  else .error (.capability r.lo)

/-- A transfer to the target of fa, after `f`. -/
def State.jumpOp (s : State) (e : Fields) (f : Thread → Thread) : Result :=
  s.scalar e fun t =>
    match jumpTarget (t.reg e.a) with
    | .ok a => s.put ((f t).goto (BitVec.ofNat 64 a))
    | .error x => s.trap x

/-- JMP (R150). -/
def execJmp (e : Fields) (s : State) : Result := s.jumpOp e id
/-- CALLR (R152): fa is read before q31 is written. -/
def execCallr (e : Fields) (s : State) : Result := s.jumpOp e fun t => t.link e
/-- RET (R152). -/
def execRet (e : Fields) (s : State) : Result := s.jumpOp e id

/-- JMP_TABLE (R150): P + 4·(imm32 + fa). -/
def execJmpTable (e : Fields) (s : State) : Result :=
  s.scalar e fun t =>
    if !(t.reg e.a).isInt64 then s.trap (.format false 0)
    else s.put (t.goto (t.pc + 4 * (e.imm.signExtend 64 + BitVec.ofNat 64 (t.reg e.a).lo)))

end Sys2Proof.Machine
end

