-- ==== Sys2Proof/Machine/Flags.lean ====
section
/-!
DEFINITION. The writing of predicate pairs (spec/04 R64; spec/06 R105): the combine modes of a compare.
-/
namespace Sys2Proof.Machine

/-- The bits of a predicate that an element of width `w` in lane `l` covers. -/
def laneBits (w l : Nat) : Word32 := BitVec.ofNat 32 ((2 ^ (w / 4) - 1) * 2 ^ (l * (w / 4)))

/-- Write one lane of a predicate by a combine mode (R64 Table 4; R105: 0 set, 1 and, 2 or), each bit with its own old
value. -/
def combineLane (comb w l : Nat) (k : Bool) (p : Word32) : Word32 :=
  let m := laneBits w l
  match comb with
  | 0 => if k then p ||| m else p &&& ~~~m
  | 1 => if k then p else p &&& ~~~m
  | _ => if k then p ||| m else p

/-- Write one lane of a pair: the condition to the even member, its complement to the odd one (R64). -/
def Thread.combinePair (t : Thread) (pd comb w l : Nat) (k : Bool) : Thread :=
  let t := t.setPred pd (combineLane comb w l k (t.pred pd))
  t.setPred (pd + 1) (combineLane comb w l (!k) (t.pred (pd + 1)))

/-- Write the active lanes of a pair. -/
def Thread.combineLanes (t : Thread) (pd comb w : Nat) (active k : Nat → Bool) : Thread :=
  loopUp (128 / w) (fun l t => if active l then t.combinePair pd comb w l (k l) else t) t

end Sys2Proof.Machine
end

