-- ==== Sys2Proof/Machine/Derive.lean ====
section
/-!
DEFINITION. Capability derivation and inspection (spec/08 R182 to R187): opcodes 0x50 to 0x56.
-/
namespace Sys2Proof.Machine

/-- A derivation from fa by an integer source (R182): fa a memory or execute capability; a sealed one is a capability
violation. -/
def State.deriveOp (s : State) (e : Fields) (f : QReg → Nat → QReg) : Result :=
  s.scalar e fun t =>
    let r := t.reg e.a
    match t.intB e with
    | none => s.trap (.format false 0)
    | some n =>
      if r.cap && capKind r.bits == kindSealed then s.trap (.capability r.lo)
      else if !r.isMem then s.trap (.format false 0)
      else s.finish t e (f r n)

/-- The permissions ANDed with a mask (R184). -/
def capMask (r : QReg) (n : Nat) : QReg :=
  { r with bits := setHigh r.bits ((capPerms r.bits &&& n % 1024) * 2 ^ 54 + capHigh r.bits % 2 ^ 54) }

/-- The cursor moved by an offset (R184). -/
def capMove (r : QReg) (n : Nat) : QReg := moveCursor r (wrap 64 (r.lo + n))

/-- CSET (R183). -/
def execCset (e : Fields) (s : State) : Result := s.deriveOp e fun r n => capSetBounds r n (e.xop == 1)
/-- CSET_X (R183). -/
def execCsetX (e : Fields) (s : State) : Result := s.deriveOp e fun r n => capSetBounds r n (e.xop == 1)
/-- CPERM (R184). -/
def execCperm (e : Fields) (s : State) : Result := s.deriveOp e capMask
/-- CPERM_X (R184). -/
def execCpermX (e : Fields) (s : State) : Result := s.deriveOp e capMask
/-- CINC (R184). -/
def execCinc (e : Fields) (s : State) : Result := s.deriveOp e capMove
/-- CINC_X (R184). -/
def execCincX (e : Fields) (s : State) : Result := s.deriveOp e capMove

/-- A field of a capability (R185); 0 for data. -/
def capField (r : QReg) (f : Nat) : Nat :=
  if !r.cap then 0
  else match f with
    | 0 => capBase r.bits
    | 1 => capTop r.bits % 2 ^ 64
    | 2 => (capTop r.bits - capBase r.bits) % 2 ^ 64
    | 3 => wrap 64 ((capCursor r.bits : Int) - capBase r.bits)
    | 4 => capPerms r.bits
    | 5 => capSpace r.bits
    | 6 => capKind r.bits
    | 7 => capE r.bits
    | _ => capCursor r.bits

/-- `cget` (R185). -/
def State.cgetOp (s : State) (e : Fields) : Result :=
  s.scalar e fun t => s.finish t e (data64 (capField (t.reg e.a) e.xop.toNat) 4)

/-- CGET (R185). -/
def execCget (e : Fields) (s : State) : Result := s.cgetOp e
/-- CGET_X (R185). -/
def execCgetX (e : Fields) (s : State) : Result := s.cgetOp e

/-- CTEST (R186): a capability that is not sealed. -/
def execCtest (e : Fields) (s : State) : Result :=
  s.scalar e fun t =>
    let r := t.reg e.a
    s.put ((t.setPair e.d.toNat 16 (r.cap && capKind r.bits != kindSealed)).next e)

/-- An access through a capability at its cursor would pass the check (R186). -/
def capFits (r : QReg) (n perms : Nat) : Bool :=
  r.isMem && decide (capSpace r.bits ≤ 3) && (capPerms r.bits &&& perms) == perms &&
    decide (capBase r.bits ≤ r.lo) && decide (r.lo + n ≤ capTop r.bits)

/-- CTEST_FIT (R186). -/
def execCtestFit (e : Fields) (s : State) : Result :=
  s.scalar e fun t =>
    let b := t.reg e.b
    if !b.isInt || b.lo / 2 ^ 42 ≠ 0 then s.trap (.format false 0)
    else s.put ((t.setPair e.d.toNat 16 (capFits (t.reg e.a) (b.lo % 2 ^ 32) (b.lo / 2 ^ 32 % 1024))).next e)

/-- An unsealed memory capability that holds a permission and whose bounds contain those of another (R187). -/
def authority (b a : QReg) (perm : Nat) : Bool :=
  b.cap && capKind b.bits == kindMemory && (capPerms b.bits &&& perm) == perm &&
    decide (capBase b.bits ≤ capBase a.bits) && decide (capTop a.bits ≤ capTop b.bits)

/-- The high half with another KIND, and PX cleared where asked. -/
def setKind (b : Word128) (kind : Nat) (dropPx : Bool) : Word128 :=
  let h := capHigh b
  let perms := if dropPx then capPerms b - (capPerms b &&& permPX) else capPerms b
  setHigh b (perms * 2 ^ 54 + bits h 53 51 * 2 ^ 51 + kind * 2 ^ 48 + h % 2 ^ 48)

/-- `cseal` (R187); data where a capability is required is a format fault, a sealed fa a capability violation (R178). -/
def State.csealOp (s : State) (e : Fields) : Result :=
  s.scalar e fun t =>
    let a := t.reg e.a
    if !(t.reg e.b).cap then s.trap (.format false 0)
    else if a.cap && capKind a.bits == kindSealed then s.trap (.capability a.lo)
    else if !a.isMem then s.trap (.format false 0)
    else if !authority (t.reg e.b) a permPSEAL then s.trap (.capability (t.reg e.b).lo)
    else s.finish t e { a with bits := setKind a.bits kindSealed (capKind a.bits == kindMemory) }

/-- CSEAL (R187). -/
def execCseal (e : Fields) (s : State) : Result := s.csealOp e
/-- CSEAL_X (R187). -/
def execCsealX (e : Fields) (s : State) : Result := s.csealOp e

/-- `cunseal` (R187, R178). -/
def State.cunsealOp (s : State) (e : Fields) : Result :=
  s.scalar e fun t =>
    let a := t.reg e.a
    if !(a.cap && capKind a.bits == kindSealed) || !(t.reg e.b).cap then s.trap (.format false 0)
    else if !authority (t.reg e.b) a permPUNS then s.trap (.capability (t.reg e.b).lo)
    else
      let kind := if capPerms a.bits &&& permPX = 0 then kindMemory else kindExecute
      s.finish t e { a with bits := setKind a.bits kind false }

/-- CUNSEAL (R187). -/
def execCunseal (e : Fields) (s : State) : Result := s.cunsealOp e
/-- CUNSEAL_X (R187). -/
def execCunsealX (e : Fields) (s : State) : Result := s.cunsealOp e

end Sys2Proof.Machine
end

