-- ==== Sys2Proof/Machine/Host.lean ====
section
/-!
DEFINITION. Requests through the host port (spec/09 R207, spec/17 R307, R327, spec/28 R433, R435): memory, the recovery
window of BAR 0, the system registers in BAR 2, and functions that are frozen.
-/
namespace Sys2Proof.Machine

/-- A host function is frozen. -/
def State.functionFrozen (s : State) (f : Nat) : Bool := s.hostFrozen.any fun h => h.1 == f

/-! ## Memory: one access for each aligned 8-byte part -/

/-- The access to a part of at most 8 bytes at a key. -/
def hostAccess (op : AccessOp) (k n v : Nat) : Access := { unitStore k k n (2 ^ (2 * n) - 1) with op, data := data64 v 0 }

/-- The host may reach `n` bytes from a key: memory of the package. -/
def State.hostReaches (s : State) (k n : Nat) : Bool :=
  s.isLocal k && !s.beyond (keyTgt k) (keyPa k) && !s.beyond (keyTgt k) (keyPa k + (n - 1)) && keyTgt k == keyTgt (k + (n - 1))

/-- Where `n` bytes at an offset of the HBM range that the record exposes over CXL.mem stand (25 R402, 28 R436). -/
def State.cxlMemKey (s : State) (a n : Nat) : Option Nat :=
  if a + n ≤ s.memSize then some (memKey s.pkg 0 (s.memBase + a)) else none

/-- Write bytes for the host; a part that meets an uncorrectable error in a word it writes in part is not written. -/
def State.hostWrite (s : State) (k : Nat) (l : List Byte) : State :=
  (hostParts (l.length + 1) k l.length).foldl (fun s p => (s.perform (hostAccess .store p.1 p.2 (numOf ((l.drop (p.1 - k)).take p.2)))).state) s

/-- Read bytes for the host; none where a part meets an uncorrectable error. -/
def State.hostRead (s : State) (k n : Nat) : Option Nat × State :=
  (hostParts (n + 1) k n).foldl (fun (r : Option Nat × State) p =>
    match r.1 with
    | none => r
    | some v =>
      let x := r.2.perform (hostAccess .load p.1 p.2 0)
      if x.status = .ok then (some (v + x.old * 256 ^ (p.1 - k)), x.state) else (none, r.2)) (some 0, s)

/-! ## Functions -/

/-- A violation by a host function freezes it (R307), with its message to the handler of the context. -/
def State.freezeFunction (s : State) (f c kind addr : Nat) : State :=
  if s.functionFrozen f then s
  else
    let (v, s) := s.takeFree
    { s with hostFrozen := s.hostFrozen ++ [(f, c)] }.postMessage c
      { e0 := (lanes64 (f % 2 ^ 16) (causeWord kind 0 0 2 0) 0).bits, e1 := (lanes64 v addr 0).bits }

/-- A write of register `n` by the host. -/
def State.hostRegWrite (s : State) (n v : Nat) : State :=
  match s.userOf .host with
  | none => s
  | some u => (s.writeReg u n v).getD s

/-- A read of `n` bytes of memory at a key by function `f`. -/
def State.hostGet (s : State) (f k n : Nat) : State :=
  if s.hostReaches k n && decide (n ≤ 4096) then
    match s.hostRead k n with
    | (some v, s) => s.hostAnswer f true v
    | (none, s) => s.hostAnswer f false 0
  else s.hostAnswer f false 0

/-- A write of bytes of memory at a key. -/
def State.hostPut (s : State) (k : Nat) (l : List Byte) : State := if s.hostReaches k l.length then s.hostWrite k l else s

/-- HOST_REQUEST: function `arg.index` asks, by `arg.index2`: 0 a read of `arg.value` bytes of memory at key `arg.addr`, 1 a
write of `arg.data` there; 2 and 3 the same in the recovery window at offset `arg.addr`; 4 and 5 a read and a write of
8 bytes in BAR 2. 6 is a violation by it in context `arg.value`, of capability with `arg.ok`, else of protection. 7 and 8 are
reads and writes over CXL.mem at offset `arg.addr` of the HBM range exposed (25 R402). Until boot stage 5 only the window is
exposed. -/
def evHostRequest (s : State) : Result :=
  let f := s.arg.index
  let a := s.arg.addr
  let n := s.arg.value
  let up := decide (5 ≤ s.boot.stage)
  let posted := s.arg.index2 % 2 == 1 || s.arg.index2 == 6
  if s.functionFrozen f && decide (s.arg.index2 < 7) then .next (if posted then s else s.hostAnswer f false 0)
  else match s.arg.index2 with
    | 0 => .next (if up then s.hostGet f a n else s.hostAnswer f false 0)
    | 1 => .next (if up then s.hostPut a s.arg.data else s)
    | 2 => .next (if s.boot.window then s.hostAnswer f true (s.boot.windowRead a n) else s.hostAnswer f false 0)
    | 3 => .next { s with boot := s.boot.windowWrite a s.arg.data }
    | 4 =>
      match s.userOf .host with
      | none => .next (s.hostAnswer f false 0)
      | some u =>
        match s.readReg u (a / 8) with
        | none => .next (s.hostAnswer f false 0)
        | some (v, s) => .next (s.hostAnswer f true v)
    | 5 => .next (if a % 8 = 0 && s.arg.data.length == 8 then s.hostRegWrite (a / 8) (numOf s.arg.data) else s)
    | 6 => .next (if up then s.freezeFunction f (n % 4096) (if s.arg.ok then 8 else 9) a else s)
    | 7 => .next (match s.cxlMemKey a n with | some k => if up then s.hostGet f k n else s.hostAnswer f false 0 | none => s.hostAnswer f false 0)
    | 8 => .next (match s.cxlMemKey a s.arg.data.length with | some k => if up then s.hostPut k s.arg.data else s | none => s)
    | _ => .next s

end Sys2Proof.Machine
end

