-- ==== Sys2Proof/Machine/Integer.lean ====
section
/-!
DEFINITION. Integer arithmetic (spec/07 R125 to R127, spec/05 R81, R82): opcodes 0x00 to 0x07, 0x0C to 0x16 and 0x1E.
-/
namespace Sys2Proof.Machine

/-- The lane of an exact value: wrapped, or clamped under saturation (R125). -/
def intLane (ty : Nat) (sat : Bool) (v : Int) : Nat := wrap (fmtWidth ty) (if sat then clampFmt ty v else v)

/-- Truncating division; a zero divisor gives all ones (R82). -/
def divVal (ty : Nat) (x y : Int) : Int :=
  if y = 0 then (if fmtSigned ty then -1 else intMax ty) else x.tdiv y

/-- The remainder, of the sign of the dividend; a zero divisor gives the dividend (R82). -/
def remVal (x y : Int) : Int := if y = 0 then x else x.tmod y

/-- A two- or three-source integer instruction from its exact value (R125 Table 2). -/
def State.intOp (s : State) (e : Fields) (useC sat : Bool) (f : Nat → Int → Int → Int → Int) : Result :=
  s.lanewise e { tys := tysInt, useC } fun ty x y z g =>
    (intLane ty sat (f ty (intVal ty x) (intVal ty y) (intVal ty z)), g)

/-- A shift from the pattern of A and the count of B (R127). -/
def State.shiftOp (s : State) (e : Fields) (f : Nat → Nat → Nat → Nat) : Result :=
  s.lanewise e { tys := tysInt } fun ty x n _ g => (f (fmtWidth ty) x n, g)

/-- A one-source integer instruction (R126). -/
def State.intOp1 (s : State) (e : Fields) (f : Nat → Nat → Nat) : Result :=
  s.lanewise e { tys := tysInt, useB := false } fun ty x _ _ g => (f ty x, g)

def addLane (_ : Nat) (x y _ : Int) : Int := x + y
def subLane (_ : Nat) (x y _ : Int) : Int := x - y
def mulLane (_ : Nat) (x y _ : Int) : Int := x * y
def mulhiLane (ty : Nat) (x y _ : Int) : Int := x * y / (2 ^ fmtWidth ty : Nat)
def divLane (ty : Nat) (x y _ : Int) : Int := divVal ty x y
def remLane (_ : Nat) (x y _ : Int) : Int := remVal x y
def minLane (_ : Nat) (x y _ : Int) : Int := if x ≤ y then x else y
def maxLane (_ : Nat) (x y _ : Int) : Int := if x ≤ y then y else x
def madLane (_ : Nat) (x y z : Int) : Int := x * y + z

def shlLane (w x n : Nat) : Nat := if w ≤ n then 0 else x * 2 ^ n % 2 ^ w
def shrLane (w x n : Nat) : Nat := if w ≤ n then 0 else x / 2 ^ n
def sarLane (w x n : Nat) : Nat := wrap w (signed w x / (2 ^ min n w : Nat))
def rotLane (w x n : Nat) : Nat := (x * 2 ^ (n % w) + x / 2 ^ (w - n % w)) % 2 ^ w

/-- |x|; of an unsigned type, x. -/
def absLane (sat : Bool) (ty x : Nat) : Nat := intLane ty sat (intVal ty x).natAbs
def negLane (sat : Bool) (ty x : Nat) : Nat := intLane ty sat (-intVal ty x)

/-- Leading zeros of a pattern of `w` bits. -/
def clzLane (ty x : Nat) : Nat := if x = 0 then fmtWidth ty else fmtWidth ty - 1 - Nat.log2 x

/-- Trailing zeros: counted from bit 0 upward. -/
def ctzLane (ty x : Nat) : Nat :=
  loopUp (fmtWidth ty) (fun i n => if n = i && !bit x i then i + 1 else n) 0

def popcLane (ty x : Nat) : Nat := loopUp (fmtWidth ty) (fun i n => n + flag (bit x i)) 0

/-! ## The instructions -/

/-- ADD (R125). -/
def execAdd (e : Fields) (s : State) : Result := s.intOp e false e.sat addLane
/-- ADD_X (R125). -/
def execAddX (e : Fields) (s : State) : Result := s.intOp e false e.sat addLane
/-- SUB (R125). -/
def execSub (e : Fields) (s : State) : Result := s.intOp e false e.sat subLane
/-- SUB_X (R125). -/
def execSubX (e : Fields) (s : State) : Result := s.intOp e false e.sat subLane
/-- MUL (R125). -/
def execMul (e : Fields) (s : State) : Result := s.intOp e false e.sat mulLane
/-- MUL_X (R125). -/
def execMulX (e : Fields) (s : State) : Result := s.intOp e false e.sat mulLane
/-- MULHI (R125). -/
def execMulhi (e : Fields) (s : State) : Result := s.intOp e false false mulhiLane
/-- MULHI_X (R125). -/
def execMulhiX (e : Fields) (s : State) : Result := s.intOp e false false mulhiLane
/-- DIV (R125, R82). -/
def execDiv (e : Fields) (s : State) : Result := s.intOp e false e.sat divLane
/-- DIV_X (R125, R82). -/
def execDivX (e : Fields) (s : State) : Result := s.intOp e false e.sat divLane
/-- REM (R125, R82). -/
def execRem (e : Fields) (s : State) : Result := s.intOp e false false remLane
/-- REM_X (R125, R82). -/
def execRemX (e : Fields) (s : State) : Result := s.intOp e false false remLane
/-- MIN (R125). -/
def execMin (e : Fields) (s : State) : Result := s.intOp e false false minLane
/-- MIN_X (R125). -/
def execMinX (e : Fields) (s : State) : Result := s.intOp e false false minLane
/-- MAX (R125). -/
def execMax (e : Fields) (s : State) : Result := s.intOp e false false maxLane
/-- MAX_X (R125). -/
def execMaxX (e : Fields) (s : State) : Result := s.intOp e false false maxLane
/-- SHL (R127). -/
def execShl (e : Fields) (s : State) : Result := s.shiftOp e shlLane
/-- SHL_X (R127). -/
def execShlX (e : Fields) (s : State) : Result := s.shiftOp e shlLane
/-- SHR (R127). -/
def execShr (e : Fields) (s : State) : Result := s.shiftOp e shrLane
/-- SHR_X (R127). -/
def execShrX (e : Fields) (s : State) : Result := s.shiftOp e shrLane
/-- SAR (R127). -/
def execSar (e : Fields) (s : State) : Result := s.shiftOp e sarLane
/-- SAR_X (R127). -/
def execSarX (e : Fields) (s : State) : Result := s.shiftOp e sarLane
/-- ROT (R127). -/
def execRot (e : Fields) (s : State) : Result := s.shiftOp e rotLane
/-- ROT_X (R127). -/
def execRotX (e : Fields) (s : State) : Result := s.shiftOp e rotLane
/-- ADDSAT: always saturates (R125). -/
def execAddsat (e : Fields) (s : State) : Result := s.intOp e false true addLane
/-- ADDSAT_X (R125). -/
def execAddsatX (e : Fields) (s : State) : Result := s.intOp e false true addLane
/-- SUBSAT: always saturates (R125). -/
def execSubsat (e : Fields) (s : State) : Result := s.intOp e false true subLane
/-- SUBSAT_X (R125). -/
def execSubsatX (e : Fields) (s : State) : Result := s.intOp e false true subLane
/-- ABS (R126). -/
def execAbs (e : Fields) (s : State) : Result := s.intOp1 e (absLane e.sat)
/-- ABS_X (R126). -/
def execAbsX (e : Fields) (s : State) : Result := s.intOp1 e (absLane e.sat)
/-- NEG (R126). -/
def execNeg (e : Fields) (s : State) : Result := s.intOp1 e (negLane e.sat)
/-- NEG_X (R126). -/
def execNegX (e : Fields) (s : State) : Result := s.intOp1 e (negLane e.sat)
/-- CLZ (R126). -/
def execClz (e : Fields) (s : State) : Result := s.intOp1 e clzLane
/-- CLZ_X (R126). -/
def execClzX (e : Fields) (s : State) : Result := s.intOp1 e clzLane
/-- CTZ (R126). -/
def execCtz (e : Fields) (s : State) : Result := s.intOp1 e ctzLane
/-- CTZ_X (R126). -/
def execCtzX (e : Fields) (s : State) : Result := s.intOp1 e ctzLane
/-- POPC (R126). -/
def execPopc (e : Fields) (s : State) : Result := s.intOp1 e popcLane
/-- POPC_X (R126). -/
def execPopcX (e : Fields) (s : State) : Result := s.intOp1 e popcLane
/-- MAD: x·y + z (R125). -/
def execMad (e : Fields) (s : State) : Result := s.intOp e true e.sat madLane
/-- MAD_X (R125). -/
def execMadX (e : Fields) (s : State) : Result := s.intOp e true e.sat madLane

end Sys2Proof.Machine
end

