-- ==== Sys2Proof/Machine/Landing.lean ====
section
/-!
DEFINITION. Task instructions (spec/13 R266 to R273): escape 0x72.
-/
namespace Sys2Proof.Machine

/-! ## gsub and tpost (R267, R268) -/

/-- An optional integer operand of `gsub` and `tpost`: absent where form 01 names register 0. -/
def Thread.optB (t : Thread) (e : Fields) : Option (Option Nat) :=
  if !e.hasLit && e.b == 0 then some none else (t.intB e).map some

/-- The record at the cursor of an operand: none where a page of SPACE 3 refuses. -/
def State.recordAt (s : State) (t : Thread) (r : QReg) (n : Nat) : Except Trap (Option Nat) :=
  if capSpace r.bits = 3 then
    .ok (if s.spanOk t.ctx r.lo n .load then some (s.landingNum t.ctx r.lo n) else none)
  else
    let form (a : Nat) : Formed := s.formPhysical t.ctx (slotCore s.cur) (capSpace r.bits) a
    match form r.lo, form (r.lo + (n - 1)) with
    | .key k, .key _ => .ok (some (s.readNum k n))
    | .protection, _ | _, .protection => .error (.protection r.lo)
    | _, _ => .error (.capability r.lo)

/-- The operand of a record passes its check: KIND memory with PL over its 64 bytes. -/
def QReg.isRecord (r : QReg) : Bool := r.cap && capKind r.bits == kindMemory && capcheck r r.lo 64 permPL

/-- A submitting instruction: its operands, its release of system scope, then `go` with the record. -/
def State.recordOp (s : State) (e : Fields) (go : State → Thread → Option Nat → Option Nat → State) : Result :=
  s.scalar e fun t =>
    match t.optB e with
    | none => s.trap (.format false 0)
    | some b =>
      let r := t.reg e.a
      if !r.isRecord then s.trap (.capability r.lo)
      else s.release t 5 false <|
        match s.recordAt t r 64 with
        | .error x => s.trap x
        | .ok v => go s t b v

/-- The capability of an admitted graph: its CTX and GSER, and bits of the D4's own, which are free (log 18) but for an E
within 0 to 37 (04 R70). -/
def State.graphCap (s : State) (c ser : Nat) : QReg × State :=
  let (v, s) := s.takeFree
  let hi := v % 2 ^ 64 / 2 ^ 51 * 2 ^ 51 + kindGraph * 2 ^ 48 + v / 2 ^ 42 % 38 * 2 ^ 42 + v % 2 ^ 42
  (⟨BitVec.ofNat 128 (hi * 2 ^ 64 + c * 2 ^ 52 + ser * 2 ^ 32 + v / 2 ^ 64 % 2 ^ 32), true, 27⟩, s)

/-- GSUB (R267). -/
def execGsub (e : Fields) (s : State) : Result :=
  s.recordOp e fun s t b v =>
    match s.admission t.ctx (t.reg e.a).lo v (slotDie s.cur) (b.getD 0) with
    | .error k => s.finishMem t e (lanes64 (wrap 64 (-(k : Int))) 0 4)
    | .ok g =>
      let (h, s) := (s.finishMem t e QReg.zero).graphCap t.ctx g.ser
      (s.finishMem t e h).enterGraph g

/-- The outcome of `tpost` at the graph of the issuing thread: the new index and the graph, or the code (R268). A tile task with
TQ in its FLAGS breaks R245; `gsub`, whose checks Table 6 lists, admits one, and its placement refuses it (log 95). -/
def State.posting (s : State) (c k : Nat) (v succ : Option Nat) : Except Nat (Nat × Graph) :=
  let g := s.graph k
  let n := g.tasks.length
  if 65536 ≤ n then .error 1
  else if g.state ≠ .running || g.tasks.isEmpty then .error 2
  else match v.map (s.taskAt c) with
    | none => .error 5
    | some (.error 2) => .error 5
    | some (.error _) => .error 3
    | some (.ok t) =>
      if t.mstone ≠ 0 || (t.tile && bits t.fields.ctrl 99 98 != 0) then .error 3
      else
        let t := { t with state := .ready, preds := 0 }
        match succ with
        | none => .ok (n, { g with tasks := g.tasks ++ [t] })
        | some j =>
          if n ≤ j || (g.task j).state != .blocked then .error 4
          else
            let g := g.setTask j { g.task j with preds := (g.task j).preds + 1 }
            .ok (n, { g with tasks := g.tasks ++ [t], edges := g.edges ++ [(n, j)] })

/-- TPOST (R268). The new task is ready, and keyed (R255). -/
def execTpost (e : Fields) (s : State) : Result :=
  s.recordOp e fun s t b v =>
    let code (k : Nat) : State := s.finishMem t e (lanes64 (wrap 64 (-(k : Int))) 0 4)
    match s.graphOf t.gtid with
    | none => code 2
    | some k =>
      match s.posting t.ctx k v b with
      | .error r => code r
      | .ok (n, g) =>
        (s.finishMem t e (lanes64 n 0 4)).setGraph k (g.keyNew (s.graph k) (g.time s.now))

/-! ## trig (R269) -/

/-- TRIG (R269): the first live one waits for the thread's relaxed accesses and hands on. -/
def execTrig (e : Fields) (s : State) : Result :=
  s.scalar e fun t =>
    if t.trig then s.put (t.next e)
    else s.orElsePending t 4 <|
      if !t.rx.isEmpty then s.retry t (.drain 5 false)
      else (s.put { t.next e with trig := true }).handOn t.gtid

/-! ## Accounts and states (R270 to R272) -/

/-- VREAD (R270): energy accounts are kept in pJ and read in µJ. -/
def execVread (e : Fields) (s : State) : Result :=
  s.scalar e fun t =>
    if e.mod.getLsbD 0 then
      if !s.privileged t then s.trap (.protection 0)
      else s.finishMem t e (lanes64 (s.power.ballastPj / 1000000) ((s.ctx 0).energy / 1000000) 8)
    else s.finishMem t e (lanes64 (s.ctx t.ctx).value ((s.ctx t.ctx).energy / 1000000) 8)

/-- The graph of a capability of the issuing context, none once it is released; or the trap (R271). -/
def State.graphArg (s : State) (t : Thread) (r : QReg) : Except Trap (Option Nat) :=
  if !r.cap then .error (.format false 0)
  else if capKind r.bits ≠ kindGraph || r.lo / 2 ^ 52 != t.ctx then .error (.capability r.lo)
  else .ok (s.graphOf (BitVec.ofNat 64 r.lo))

/-- The result of `gstat` (R271 Table 15). -/
def Graph.stat (g : Graph) : QReg :=
  lanes64 (g.statusWord g.state.code 0) (min (2 ^ 32 - 1) g.rval * 2 ^ 32 + min (2 ^ 32 - 1) g.jrem) 0

/-- GSTAT (R271). -/
def execGstat (e : Fields) (s : State) : Result :=
  s.scalar e fun t =>
    match s.graphArg t (t.reg e.a) with
    | .error x => s.trap x
    | .ok none => s.finishMem t e (lanes64 6 0 0)
    | .ok (some k) => s.finishMem t e (s.graph k).stat

/-- GABORT (R272): a thread that aborts its own graph goes on until its next safe point. -/
def execGabort (e : Fields) (s : State) : Result :=
  s.scalar e fun t =>
    match s.graphArg t (t.reg e.a) with
    | .error x => s.trap x
    | .ok k =>
      let own := k.isSome && k == s.graphOf t.gtid
      let s := s.put { t.next e with wait := if own then .none else .memory }
      match k with | some k => s.abandonGraph k 3 | none => s

/-! ## nwait (R273) -/

/-- Take the oldest notice, if there is one. -/
def State.nextNotice (s : State) (t : Thread) (e : Fields) : Option (Thread × State) :=
  let x := s.ctx t.ctx
  match x.notices with
  | [] => none
  | n :: r => some (t.takeNotice e.d n, s.setCtx t.ctx { x with notices := r })

/-- NWAIT (R273). -/
def execNwait (e : Fields) (s : State) : Result :=
  s.scalar e fun t =>
    match s.nextNotice t e with
    | some (t, s) => s.put (t.next e)
    | none =>
      let x := s.ctx t.ctx
      (s.put { t with wait := .notice e }).setCtx t.ctx { x with noticeWait := x.noticeWait ++ [s.cur] }

/-- NWAIT_TRY (R273): the pair says whether a notice was taken. -/
def execNwaitTry (e : Fields) (s : State) : Result :=
  s.scalar e fun t =>
    match s.nextNotice t e with
    | some (t, s) => s.put ((t.setPair e.c.toNat 16 true).next e)
    | none => s.put ((t.setPair e.c.toNat 16 false).next e)

end Sys2Proof.Machine
end

