-- ==== Sys2Proof/Machine/ThreadEvents.lean ====
section
/-!
DEFINITION. What happens to a waiting thread (spec/08 R160 to R163, R177; spec/06 R114; spec/02 R30, R32; spec/17 R314,
R315; spec/22 R365): the return of an access, relaxed accesses, failed host requests, held saves and page walks.
-/
namespace Sys2Proof.Machine

/-! ## Ordinary accesses (R160) -/

/-- An access beyond the package completes with what its home returned, or a data error. -/
def State.completeRemote (s : State) (n : Nat) (t : Thread) (a : Access) (e : Fields) (ok : Bool) (old cause : Nat) (cap : Bool) :
    State :=
  if ok then s.setThread n { t.complete e a old cap with wait := .none }
  else (s.setThread n { t with wait := .none }).take n (.data cause a.va.toNat false)

/-- What an access that the host has answered without an error leaves in host memory: a store is performed there; a load
reads what the host answers, which may have written its memory since (09 R191, log 39). -/
def State.toHost (s : State) (a : Access) (ok : Bool) : State :=
  if ok && a.op != .load && a.op != .ldcap then (s.perform a).state else s

/-- What an access to host memory returns of the host's answer: on a word there no continuation is armed, and `wake` finds none (23
R376, R388). -/
def Access.hostValue (a : Access) (data : List Byte) : Nat :=
  match a.op with | .wake _ => 0 | _ => numOf (data.take a.size)

/-- The upper half of a 16-byte access is performed (R163). -/
def State.performUpper (s : State) (n : Nat) (t : Thread) (a : Access) (e : Fields) (low : Nat) : State :=
  match s.badWord a.upper (a.op == .store) with
  | some k => (s.detect k).take n (s.dataTrap n a k)
  | none =>
    let r := s.perform a.upper
    r.state.setThread n { t.complete e a (low + 2 ^ 64 * r.old) r.cap with wait := .none }

/-- A thread whose access or operation has returned while a request stands goes on waiting, with its PC past the instruction:
it is saved once its relaxed accesses have been performed (17 R314). -/
def State.afterReturn (s : State) (n : Nat) : State :=
  match s.thread n with
  | some t =>
    if t.goesOnWaiting && t.stopped.isNone && !t.frozen && t.wait == .none then s.setThread n { t with wait := .memory }
    else s
  | none => s

/-- ACCESS_PERFORMED (R160): the ordinary access of the thread in slot `arg.index` returns. Host memory answers with
`arg.data`, or with an error status (`arg.ok` false). A thread with a request goes on waiting until its relaxed accesses
have been performed, and is then saved (17 R314); one whose save waits for a frame runs on (R315). -/
def evAccessPerformed (s : State) : Result :=
  let n := s.arg.index
  match s.thread n with
  | none => .next s
  | some t =>
    match t.wait with
    | .memory =>
      .next (if t.goesOnWaiting && !(s.frameWaiters t.ctx).contains n then s else s.setThread n { t with wait := .none })
    | .upperHalf a e low =>
      .next ((s.performUpper n t a e low).afterReturn n)
    | .remote a e =>
      if keyTgt a.key ≠ 6 then .next s
      else
        .next (((s.toHost a s.arg.ok).completeRemote n t a e s.arg.ok (a.hostValue s.arg.data) 4 false).afterReturn n)
    | _ => .next s

/-! ## Relaxed accesses (R161, R177) -/

/-- The relaxed access of a thread at place `i`, when none before it must be performed first and its core is not being
transferred (17 R320). -/
def State.freeRelaxed (s : State) (n i : Nat) (t : Thread) : Option Relaxed :=
  match t.rx[i]? with
  | none => none
  | some r => if (s.remapping t.ctx r.acc.space r.acc.va.toNat).isSome || (t.rx.take i).any fun x => s.precedes (slotCore n) x r.acc r.rel r.scope then none else some r

/-- An error of a relaxed access is kept behind those before it; one of a halted thread is lost (log 29). -/
def Thread.keepError (t : Thread) (a : Access) (cause key : Nat) : Thread :=
  if t.halted then t
  else { t with pendErr := t.pendErr ++
    [{ inSt := a.op != .load, cause, key, va := a.va + BitVec.ofNat 64 (key - a.key), pc := a.pc }] }

/-- A relaxed access leaves the counters, with its result or with an error. -/
def Thread.dropRelaxed (t : Thread) (i : Nat) : Thread := { t with rx := t.rx.eraseIdx i }

/-- What remains of a relaxed access is performed at its home in this package, and it returns. -/
def State.relaxedDone (s : State) (n i : Nat) (t : Thread) (r : Relaxed) : State :=
  let p := s.perform (if r.low.isSome then r.acc.upper else r.acc)
  match p.status with
  | .ok =>
    let old := match r.low with | some v => v + 2 ^ 64 * p.old | none => p.old
    (p.state.setThread n ((t.dropRelaxed i).writeBack r.acc old p.cap)).serveAccess r.acc
  | .error k => p.state.setThread n ((t.dropRelaxed i).keepError r.acc 0 k)
  | .waits => s

/-- The lower half of a relaxed access of 16 bytes is performed; the upper half follows (R163). An error anywhere in it ends
it without effect (R177). -/
def State.relaxedLower (s : State) (n i : Nat) (t : Thread) (r : Relaxed) : State :=
  match s.badWord r.acc (r.acc.op == .store) with
  | some k => (s.detect k).setThread n ((t.dropRelaxed i).keepError r.acc 0 k)
  | none =>
    let p := s.perform r.acc.lower
    p.state.setThread n { t with rx := t.rx.set i { r with low := some p.old } }

/-- RELAXED_ACCESS_DONE (R161): the relaxed access at place `arg.index2` of the thread in slot `arg.index` is performed, and
returns; one of 16 bytes with `arg.value` 1 by its lower half alone (R163). Host memory answers as in ACCESS_PERFORMED; a
peer package's by PACKET_REPLY. -/
def evRelaxedAccessDone (s : State) : Result :=
  let n := s.arg.index
  let i := s.arg.index2
  match s.thread n with
  | none => .next s
  | some t =>
    match s.freeRelaxed n i t with
    | none => .next s
    | some r =>
      let a := r.acc
      if keyTgt a.key = 6 then
        let u := t.dropRelaxed i
        .next ((s.toHost a s.arg.ok).setThread n (if s.arg.ok then u.writeBack a (numOf (s.arg.data.take a.size)) false else u.keepError a 4 a.key))
      else if !s.isLocal a.key then .next s
      else .next (if s.arg.value = 1 && a.halves && r.low.isNone then s.relaxedLower n i t r else s.relaxedDone n i t r)

/-- HOST_COMPLETION_TIMEOUT (02 R32): a host request of the thread in slot `arg.index` is not answered in time: its ordinary
access, or with `arg.ok` the relaxed access at place `arg.index2`. -/
def evHostCompletionTimeout (s : State) : Result :=
  let n := s.arg.index
  let i := s.arg.index2
  match s.thread n with
  | none => .next s
  | some t =>
    if s.arg.ok then
      match t.rx[i]? with
      | some r =>
        .next (if keyTgt r.acc.key = 6 then s.setThread n ((t.dropRelaxed i).keepError r.acc 4 r.acc.key) else s)
      | none => .next s
    else match t.wait with
      | .remote a e => .next (if keyTgt a.key = 6 then s.completeRemote n t a e false 0 4 false else s)
      | _ => .next s

/-! ## Fetch and walks (06 R114, 22 R365) -/

/-- The blocks that the next fetch of a thread may need. -/
def Thread.fetchBlocks (t : Thread) : List Nat := [t.pc.toNat / 64 * 64, t.pc.toNat / 64 * 64 + 64]

/-- A block that the thread in slot `n` needs enters its fetch buffer. -/
def State.takeBlock (s : State) (n : Nat) (t : Thread) (b : CodeBlock) : State :=
  s.setThread n { t with fbuf := b :: t.fbuf.filter fun x => t.fetchBlocks.contains x.va }

/-- The thread in slot `n`, of the name `g`, when it needs the block at `va`. -/
def State.needsBlock (s : State) (n : Nat) (g : Word64) (va : Nat) : Option Thread :=
  (s.thread n).filter fun t => t.gtid == g && t.fetchBlocks.contains va && (findBlock t.fbuf va).isNone

/-- A peer package answers with a block: its bytes, above them a bit for each word with an uncorrectable error (R116). -/
def State.fetched (s : State) (n : Nat) (g : Word64) (va v : Nat) : State :=
  match s.needsBlock n g va with
  | some t => s.takeBlock n t
      { va, bytes := (List.range 64).map fun i => BitVec.ofNat 8 (lane v 8 i), bad := (List.range 8).filter fun i => bit v (512 + i) }
  | none => s

/-- A block of a peer package cannot be had: the thread that needs it stops with a data error (25 R399). -/
def State.fetchFails (s : State) (n : Nat) (g : Word64) (va cause : Nat) : State :=
  match s.needsBlock n g va with
  | some t => if t.halted || t.stopped.isSome || t.frozen then s else s.stopThread n 4 cause 0 0 va
  | none => s

/-- FETCH_BLOCK_RETURN (R114): the block at `arg.addr` that the thread in slot `arg.index` needs arrives; one of a peer package is
asked for, and arrives by PACKET_REPLY. -/
def evFetchBlockReturn (s : State) : Result :=
  let n := s.arg.index
  let va := s.arg.addr
  match s.thread n with
  | none => .next s
  | some t =>
    if !t.fetchBlocks.contains va || (findBlock t.fbuf va).isSome then .next s
    else
      match ({ s with opts := TurnOpts.plain } : State).refill n { t with absent := none } va with
      | (.block b, s) => .next (s.takeBlock n t b)
      | (_, s) => .next s

/-- The threads that wait for a walk of a grove, which has found nothing, have found the page not present. -/
def State.markAbsent (s : State) (g : Nat) (w : Walking) : State :=
  { s with slots := s.slots.map fun e => match e.2.thread with
      | some t => match t.wait with
        | .walk g' va =>
          if g' = g ∧ w.covers t.ctx va then (e.1, { e.2 with thread := some { t with absent := some (va / 4096) } }) else e
        | _ => e
      | none => e }

/-- PAGE_WALK_END (22 R365): the walk at place `arg.index2` of grove `arg.index` ends and fills the TLB, with the entries as
they stand, or with `arg.ok` as they stood when it began, where no drop has named them since (R366). While the page moves it
fills nothing (R367). The accesses that waited are then made anew, and meet what the walk found. -/
def evPageWalkEnd (s : State) : Result :=
  let g := s.arg.index
  match (s.grove g).walks[s.arg.index2]? with
  | none => .next s
  | some w =>
    let s := s.setGrove g { s.grove g with walks := (s.grove g).walks.eraseIdx s.arg.index2 }
    if s.moving w.ctx w.va then .next s
    else
      if s.arg.ok && !w.stale then
        match w.found with
        | some t => .next (s.tlbFill g t)
        | none => .next (if w.bad then s else s.markAbsent g w)
      else match s.mapped w.ctx w.va with
        | (.page t, s) => .next (s.tlbFill g t)
        | (.absent, s) => .next (s.markAbsent g w)
        | (.bad _, s) => .next s

/-! ## Saves that have waited (17 R314, R315) -/

/-- HARD_PREEMPTION (R314): the thread in slot `arg.index` has a request and its safe-point distance passes 2,048. -/
def evHardPreemption (s : State) : Result :=
  let n := s.arg.index
  match s.thread n with
  | some t => .next (if t.meetsNow (s.withheldAt n) (s.frameDue n t) then s.meetHard n else s)
  | none => .next s

/-- A frame has freed for the save that the thread in slot `n` has been waiting to make, and it can be made. -/
def State.savesNow (s : State) (n : Nat) : Bool :=
  match s.thread n with | some t => s.frameDue n t && t.meetsNow (s.withheldAt n) true | none => false

/-- SAVE_FRAME_FREE (R315): a frame of context `arg.index` is free, and the save that NOFRAME has deferred is made, hard. -/
def evSaveFrameFree (s : State) : Result :=
  match (s.frameWaiters s.arg.index).find? s.savesNow with
  | some n => .next (s.meetHard n)
  | none => .next s

end Sys2Proof.Machine
end

