-- ==== Sys2Proof/Machine/Links.lean ====
section
/-!
DEFINITION. The links (spec/25 R394 to R400): their states, flits, requests to other packages with their retransmission,
and what the home of a request performs.
-/
namespace Sys2Proof.Machine

/-! ## Link states (R394 Table 2) -/

/-- The lanes of a link (R394 Table 1). -/
def linkLanes (n : Nat) : Nat := if n < 4 then 18 else if n < 8 then Config.ethernetLanes else 16

/-- LINK_TRAINING_END: the training of link `arg.index` ends with `arg.value` lanes trained. No link leaves training before
boot stage 5 (28 R433). -/
def evLinkTrainingEnd (s : State) : Result :=
  let n := s.arg.index
  let l := s.link n
  let w := linkLanes n
  if l.state ≠ 0 || 10 ≤ n || s.boot.stage < 5 then .next s
  else if w ≤ s.arg.value then .next (s.setLink n { l with state := 1, lanes := w })
  else if w ≤ 2 * s.arg.value then .next (s.setLink n { l with state := 2, lanes := w / 2 })
  else .next (s.setLink n { l with state := 3, lanes := 0, since := s.now })

/-- LANE_FAILURE: a lane of link `arg.index`, which is up, fails, and the link runs at half width. -/
def evLaneFailure (s : State) : Result :=
  let n := s.arg.index
  let l := s.link n
  if l.state = 1 then .next (s.setLink n { l with state := 2, lanes := linkLanes n / 2 }) else .next s

/-- LINK_LOSS: link `arg.index` is lost. -/
def evLinkLoss (s : State) : Result :=
  let n := s.arg.index
  let l := s.link n
  if l.open then .next (s.setLink n { l with state := 3, lanes := 0, since := s.now }) else .next s

/-- LINK_RETRAIN: training of link `arg.index`, which is down, starts again, every 10 ms. -/
def evLinkRetrain (s : State) : Result :=
  let n := s.arg.index
  let l := s.link n
  if l.state = 3 ∧ l.since + 10000000 ≤ s.now then .next (s.setLink n { l with state := 0 }) else .next s

/-- DEGRADED_RETRAIN: a retrain of link `arg.index`, which is degraded, restores every lane. -/
def evDegradedRetrain (s : State) : Result :=
  let n := s.arg.index
  let l := s.link n
  if l.state = 2 then .next (s.setLink n { l with state := 1, lanes := linkLanes n }) else .next s

/-! ## Flits (R397) -/

/-- A flit or frame that fails its check is counted; on a Zalfer group it is discarded, its replay is awaited, and the last good
LSEQ is reported. RETRY counts the replays that this end awaits and those that it makes (log 90). -/
def Link.failed (l : Link) (zalfer : Bool) : Link :=
  let l := { l with crcerr := satInc 16 l.crcerr }
  if zalfer then
    { l with replay := true, retry := if l.replay then l.retry else satInc 16 l.retry, holds := 0
             line := l.line ++ [.report ((l.expect + 2 ^ 32 - 1) % 2 ^ 32)] }
  else l

/-- Packets whose headers of 16 bytes the payload of a flit can hold (R396 Table 4). -/
def flitPackets : Nat := 15

/-- A flit that passes its check: the one expected is taken, and ends a replay awaited; any other is discarded. Of the one taken,
LACK acknowledges flits of this end, or with `again` reports a failure there, upon which those after it are sent again. -/
def Link.passed (l : Link) (lseq lack : Nat) (again : Bool) : Link :=
  if lseq = l.expect then
    let l := { l with expect := (l.expect + 1) % 2 ^ 32, replay := false, holds := flitPackets }.acked lack
    if again then l.resend else l
  else l

/-- FLIT_RECEIVE: the check of a flit with LSEQ `arg.value` and LACK `arg.addr` on link `arg.index` passes, or fails; with
`arg.index2` 1 it reports a failure at the other end. On the other ports, the check is of a frame. -/
def evFlitReceive (s : State) : Result :=
  let n := s.arg.index
  let l := s.link n
  if !l.open then .next s
  else if !s.arg.ok then .next (s.setLink n (l.failed (n < 4)))
  else if n < 4 then .next (s.setLink n (l.passed s.arg.value s.arg.addr (s.arg.index2 == 1)))
  else .next s

/-- Group `n` has a packet to deliver: it carries traffic, and a flit that it has accepted holds one. -/
def State.delivers (s : State) (n : Nat) : Bool := decide (n < 4) && (s.link n).open && decide (0 < (s.link n).holds)

/-- A packet is delivered from the flit accepted last on a group. -/
def State.deliver (s : State) (n : Nat) : State := s.setLink n { s.link n with holds := (s.link n).holds - 1 }

/-! ## Requests of this package (R398, R399) -/

/-- A request leaves the list of those outstanding. -/
def State.closeRequest (s : State) (r : OutRequest) : State :=
  { s with requests := s.requests.filter fun x => x.id != r.id }

/-- The place of the relaxed access of a thread with a request number. -/
def Thread.relaxedAt (t : Thread) (id : Nat) : Option Nat := t.rx.findIdx? fun r => r.req == id

/-- An operation on a crew of a peer package is answered (19 R333, R337, R339, R345; 20 R352 to R358). A collective whose phase
has been released before the answer takes the result that was kept; one whose gang crew has been broken before it stops (19 R346). -/
def State.completePeer (s : State) (n : Nat) (t : Thread) (kind : Nat) (e : Fields) (status v : Nat) : State :=
  let h := (t.reg e.a).lo
  let t := { t with wait := .none }
  let s := s.setThread n t
  let m := s.memberOf t
  let ci := peerCrew (bits h 63 52) (bits h 13 0)
  let b := e.imm.toNat % 4
  let kept := s
  let s := if kind ≤ 3 then s.dropTaker ci b m else s
  let wait (k : Nat) : State :=
    match ((kept.crew ci).bar b).results.find? fun r => r.phase == k && r.takers.contains m with
    | some r => s.setThread n (t.takeResult r false kind e)
    | none =>
      if s.farCrews.any fun f => f.who == m && f.member && f.broken && peerCrew f.pkg f.ci == ci then s.take n (.crewBroken 1)
      else s.setThread n { t with wait := .crew ci b k kind e }
  if status = 3 then s.take n (.capability h)
  else if status = 2 then s.take n (.crewBroken v)
  else match kind with
    | 0 | 2 | 3 => wait v
    | 1 => if status = 1 then wait v else s.setThread n ((t.setReg e.d (lanes64 (v % 2 ^ 32) (v / 2 ^ 32) 4)).next e)
    | 4 => s.setThread n ((t.setReg e.d (lanes64 v 0 4)).next e)
    | 5 =>
      let s := if v = 1 then s.joinedFar m (bits h 63 52) (bits h 13 0) (bit h 16) else s
      s.setThread n ((t.setPair e.d.toNat 16 (v == 1)).next e)
    | 9 => s.setThread n ((t.setPair e.d.toNat 16 (v == 1)).next e)
    | 6 => s.setThread n ((t.setReg e.d (data64 v 4)).next e)
    | 7 => s.setThread n ((t.setReg e.d (lanes64 (v % 2 ^ 64) (v / 2 ^ 64) 4)).next e)
    | _ =>
      let r := if status = 0 then .ok ⟨BitVec.ofNat 128 v, true, 27⟩ else .error (-1)
      s.setThread n ((t.crewResult e e.c.toNat r).next e)

/-- The thread in slot `n` has its waiting full/empty access at a peer package withdrawn: the PC stays at the instruction, and
a request that stands is met (08 R170). -/
def State.withdrawnFar (s : State) (n : Nat) : State :=
  match s.thread n with
  | some t => (s.setThread n { t with wait := .none }).meetHard n
  | none => s

/-- A request is answered with a status and a value, bit 128 of which is a capability tag bit; or it fails with a cause. -/
def State.answerRequest (s : State) (r : OutRequest) (ok : Bool) (cause status v : Nat) : State :=
  let s := s.closeRequest r
  match r.who with
  | .message _ => State.enterDue s.noticesDue.length s
  | .engine k _ => s.endFar k r.id ok v
  | .fetch n g va _ => if ok then s.fetched n g va v else s.fetchFails n g va cause
  | .thread n =>
    match s.thread n with
    | none => s
    | some t =>
      match t.wait with
      | .remote a e => if status = 4 then s.withdrawnFar n else (s.completeRemote n t a e ok (v % 2 ^ (8 * a.size)) cause (bit v 128)).afterReturn n
      | .peer kind e => ((if ok then s.completePeer n t kind e status v else s.stopThread n 4 cause 0 0 0)).afterReturn n
      | _ => s
  | .relaxed n =>
    match s.thread n with
    | none => s
    | some t =>
      match t.relaxedAt r.id with
      | none => s
      | some i =>
        match t.rx[i]? with
        | none => s
        | some x =>
          let u := t.dropRelaxed i
          s.setThread n (if ok then u.writeBack x.acc (v % 2 ^ (8 * x.acc.size)) (bit v 128) else u.keepError x.acc cause x.acc.key)

/-- The full/empty access of a thread at a peer package that is to be withdrawn: its request (08 R170). -/
def State.toWithdraw (s : State) (n : Nat) (t : Thread) : Option OutRequest :=
  match t.wait with
  | .remote a _ =>
    if a.feWaits && (t.request.isSome || t.debugStop || t.halted) then
      s.requests.find? fun r => r.who == .thread n && !r.withdrawn
    else none
  | _ => none

/-- Withdraw the waiting full/empty accesses of threads that are to stop: at once while the request has not been sent, else
by a message to its home. -/
def State.withdrawFar (s : State) : State :=
  (s.slots.filterMap fun e => e.2.thread.bind fun t => (s.toWithdraw e.1 t).map fun r => (e.1, r)).foldl (fun s x =>
    if !x.2.sent then (s.closeRequest x.2).withdrawnFar x.1
    else
      let s := { s with requests := s.requests.map fun (r : OutRequest) => if r.id = x.2.id then { r with withdrawn := true } else r }
      s.ask x.2.dest 1 (.message (.withdraw x.2.seq))) s

/-- The request with a number that is outstanding. -/
def State.sentRequest (s : State) (id : Nat) : Option OutRequest := s.requests.find? fun r => r.id == id && r.sent

/-- PACKET_REPLY: the reply of request `arg.index` arrives in a flit of group `arg.addr`, with `arg.value`, its status `arg.index2`
for an operation of a crew, and `arg.ok` false where the home met an uncorrectable error. It is acknowledged. -/
def evPacketReply (s : State) : Result :=
  match s.sentRequest s.arg.index with
  | none => .next s
  | some r =>
    .next (if s.delivers s.arg.addr then
      ((s.deliver s.arg.addr).sendPacket r.dest (.ack r.dest r.seq)).answerRequest r s.arg.ok 0 s.arg.index2 s.arg.value
    else s)

/-- A retransmission counts on the group it is sent on. -/
def State.countRetransmission (s : State) (dest : Nat) : State :=
  match s.routeTo dest with
  | some g => s.setLink g { s.link g with e2e := satInc 16 (s.link g).e2e }
  | none => s

/-- RETRANSMIT_TIMEOUT: the reply of request `arg.index` has not arrived within 100 µs. It is sent again with its SEQ, and
after 8 times it ends as unreachable. -/
def evRetransmitTimeout (s : State) : Result :=
  match s.sentRequest s.arg.index with
  | none => .next s
  | some r =>
    if s.now < r.since + 100000 then .next s
    else if r.tries < 8 then
      let again (x : OutRequest) : OutRequest := if x.id = r.id then { x with tries := x.tries + 1, since := s.now } else x
      .next ((({ s with requests := s.requests.map again }).countRetransmission r.dest).sendPacket r.dest (.request r.id))
    else .next (s.answerRequest r false 2 0 0)

/-! ## Requests of peer packages, at their home (R399) -/

/-- The crew of a handle cursor that a peer package presents (19 R333). -/
def State.homeCrew (s : State) (h : Nat) : Option Nat :=
  let c := s.crew (bits h 13 0)
  if c.used && c.dom && c.gen == bits h 39 24 && c.ctx == bits h 51 40 && bit h 17 then some (bits h 13 0) else none

/-- An operation on a crew of this home. -/
def State.onHomeCrew (s : State) (h : Nat) (f : Nat → HomeReply × State) : HomeReply × State :=
  match s.homeCrew h with
  | some ci => f ci
  | none => (.reply true 3 0, s)

/-- The lower or the upper half of a peer's 16-byte access: what it read, and whether it met no error. -/
def State.performHalf (s : State) (a : Access) : Nat × Bool × State :=
  let p := s.perform a
  (p.old, p.status == .ok, p.state)

/-- A 16-byte access of a peer package, as one access for each aligned 8-byte part (09 R207): both now, or with `arg.ok`
the lower half alone, and the upper one when the request is seen again. -/
def State.peerHalves (s : State) (k : Nat) (a : Access) : HomeReply × State :=
  match Store.get none s.farHalf k with
  | some (low, ok) =>
    let (v, ok', s) := ({ s with farHalf := Store.put none s.farHalf k none } : State).performHalf a.upper
    (.reply (ok && ok') 0 (low + 2 ^ 64 * v), s)
  | none =>
    let (low, ok, s) := s.performHalf a.lower
    if s.arg.ok then (.later, { s with farHalf := Store.put none s.farHalf k (some (low, ok)) })
    else
      let (v, ok', s) := s.performHalf a.upper
      (.reply (ok && ok') 0 (low + 2 ^ 64 * v), s)

/-- An access of a peer package; a full/empty access that must wait is queued with those of this package (08 R168). -/
def State.peerAccess (s : State) (src seq : Nat) (a : Access) : HomeReply × State :=
  if !s.isLocal a.key then (.later, s)
  else if a.halves then s.peerHalves (src * 2 ^ 16 + seq) a
  else
    let p := s.perform a
    match p.status with
    | .ok => (.reply true 0 (p.old + 2 ^ 128 * flag p.cap), p.state.serveAccess a)
    | .error _ => (.reply false 0 0, p.state)
    | .waits =>
      let k := src * 2 ^ 16 + seq
      if (Store.get none s.farWait k).isSome then (.later, s)
      else (.later, { s with farWait := Store.put none s.farWait k (some a), feWait := s.feWait ++ [2 ^ 16 + k] })

/-- A gang pre-emption reaches the thread of a global task identifier (19 R347). -/
def State.preemptGtid (s : State) (gtid : Word64) : State :=
  match s.slots.find? fun e => match e.2.thread with | some t => t.gtid == gtid | none => false with
  | some e => s.request e.1 .gang
  | none => s

/-- A waiting full/empty access of a peer package is withdrawn: its reply, status 4, says so (08 R170). One that has been
performed stays so. -/
def State.peerWithdraw (s : State) (src seq : Nat) : State :=
  let k := src * 2 ^ 16 + seq
  if (Store.get none s.farWait k).isNone then s
  else { s with farWait := Store.put none s.farWait k none, feWait := s.feWait.erase (2 ^ 16 + k) }.saveReply src seq true 4 0

/-- A block of code for a peer package: its bytes, above them a bit for each word with an uncorrectable error (06 R116, R117). -/
def State.peerBlock (s : State) (k : Nat) : HomeReply × State :=
  if !s.isLocal k then (.later, s)
  else
    let b := s.readBlock 0 k
    (.reply true 0 (numOf b.bytes + 2 ^ 512 * b.bad.foldl (fun v i => v + 2 ^ i) 0), (List.range 8).foldl (fun s i => (s.correct (k + 8 * i)).detect (k + 8 * i)) s)

/-- Perform the request of a peer package. -/
def State.peerPerform (s : State) (src seq : Nat) : PeerOp → HomeReply × State
  | .access a => s.peerAccess src seq a
  | .arrive h b kind value who waits => s.onHomeCrew h fun ci => s.peerArrive ci (b % 4) { who, kind, value, waits }
  | .join h who => s.onHomeCrew h fun ci => let (k, s) := s.joinCrew ci who; (.reply true 0 (flag k), s)
  | .leave h who => s.onHomeCrew h fun ci => let (k, s) := s.leaveCrew ci who; (.reply true 0 (flag k), s)
  | .stat h who => s.onHomeCrew h fun ci => let (lo, hi) := s.crewStatus ci who; (.reply true 0 (lo + 2 ^ 64 * hi), s)
  | .free h => s.onHomeCrew h fun ci => let (k, s) := s.tryFree ci; (.reply true 0 (wrap 64 k), s)
  | .find c name =>
    (match s.crewNamed c true name with
      | some ci => .reply true 0 (s.crewHandle ci).bits.toNat
      | none => .reply true 1 0, s)
  | .await h b phase who => s.onHomeCrew h fun ci => s.peerAwait ci (b % 4) phase who
  | .depart who fault => (.reply true 0 0, if fault then s.faultDeparts who else s.departAll who false)
  | .release ci b r => (.reply true 0 0, s.takeRelease src ci b r)
  | .odd ci b who cause => (.reply true 0 0, s.breakMember (peerCrew src ci) b who cause)
  | .broken ci => (.reply true 0 0, s.takeBroken src ci)
  | .left ci who => (.reply true 0 0, s.takeLeft src ci who)
  | .joined ci who gang => (.reply true 0 0, s.takeJoined src ci who gang)
  | .waits ci now => (.reply true 0 0, s.takeWaits src ci now)
  | .gang ci who => (.reply true 0 0, s.takeGang ci who)
  | .preempt gtid => (.reply true 0 0, s.preemptGtid gtid)
  | .withdraw q => (.reply true 0 0, s.peerWithdraw src q)
  | .block k => s.peerBlock k

/-- The saved reply of a request. -/
def State.savedReply (s : State) (src seq : Nat) : Option ReplyEntry :=
  s.replies.find? fun r => r.src == src && r.seq == seq

/-- The class of the packet of a request (R400): 0 for arrivals, releases, joins, leaves, wakes and what crews tell their members;
2 where `bulk` says that it is of a copy or of a tile operand; 1 for every other access of a thread. -/
def PeerOp.class (p : PeerOp) (bulk : Bool) : Nat :=
  match p with
  | .access a => (match a.op with | .wake _ => 0 | _ => if bulk then 2 else 1)
  | .withdraw _ | .block _ | .stat .. | .free _ | .find .. | .await .. => 1
  | _ => 0

/-! ### The SEQ order of arrivals -/

/-- The SEQs after `q` that have been seen without a gap. -/
def seenRun : Nat → Nat → NatSet → Nat × NatSet
  | 0, q, l => (q, l)
  | n + 1, q, l => if l.mem q then seenRun n ((q + 1) % 2 ^ 16) (l.del q) else (q, l)

/-- SEQs of a source that have been seen past one that has not. -/
def State.seenAhead (s : State) (src : Nat) : NatSet := Store.get [] s.seenPast src

/-- A request with an SEQ has arrived from a source before. -/
def State.seen (s : State) (src seq : Nat) : Bool :=
  decide (2 ^ 15 ≤ (seq + 2 ^ 16 - Store.get 0 s.seenTo src) % 2 ^ 16) || (s.seenAhead src).mem seq

/-- A request with an SEQ arrives from a source. -/
def State.see (s : State) (src seq : Nat) : State :=
  let l := (s.seenAhead src).add seq
  let (q, l) := seenRun (l.length + 1) (Store.get 0 s.seenTo src) l
  { s with seenTo := Store.put 0 s.seenTo src q, seenPast := Store.put [] s.seenPast src l }

/-- SEQ `a` comes before `b`. -/
def seqBefore (a b : Nat) : Bool := a != b && decide ((b + 2 ^ 16 - a) % 2 ^ 16 < 2 ^ 15)

/-- An access of a source is half performed (08 R163): those of its class after it wait. -/
def State.halfOf (s : State) (src : Nat) : Bool := s.farHalf.any fun e => e.1 / 2 ^ 16 == src

/-- A request that has arrived comes next in the SEQ order of its class (R400): none before it is missing, unless those that are
belong to other classes, and those of its class before it have been performed. -/
def State.inOrder (s : State) (r : InRequest) : Bool :=
  (r.alone || seqBefore r.seq (Store.get 0 s.seenTo r.src)) &&
    !(s.arrived.any fun x => x.src == r.src && x.cls == r.cls && seqBefore x.seq r.seq) && !(s.halfOf r.src && r.cls != 0)

/-- A request is an arrival at a barrier: one that follows a held one of its member waits until that is taken (20 R352). -/
def PeerOp.isArrival : PeerOp → Bool
  | .arrive .. => true
  | _ => false

/-- Perform a request that has arrived, and save its reply. -/
def State.performArrived (s : State) (r : InRequest) : State :=
  let s := { s with arrived := s.arrived.erase r }
  match s.peerPerform r.src r.seq r.op with
  | (.reply ok status v, s) => s.saveReply r.src r.seq ok status v
  | (.later, s) => if r.op.isArrival then { s with heldOver := s.heldOver ++ [r] } else s

/-- Arrivals of peer packages that have waited for a held one of their members are met once that has been taken (20 R352). -/
def State.meetHeldOver (s : State) : State :=
  s.heldOver.foldl (fun s r => match s.peerPerform r.src r.seq r.op with
    | (.reply ok status v, s) => ({ s with heldOver := s.heldOver.erase r } : State).saveReply r.src r.seq ok status v
    | (.later, _) => s) s

/-- Perform the requests that have arrived and whose turn it is. -/
def State.performAll : Nat → State → State
  | 0, s => s
  | n + 1, s => match s.arrived.find? s.inOrder with | some r => State.performAll n (s.performArrived r) | none => s

/-- PACKET_REQUEST: the request `arg.peer` of package `arg.index` with SEQ `arg.index2` reaches this home in a flit of group
`arg.addr`, of class 2 where `arg.value` is odd; with `arg.value` 2 or 3 the requests missing before it are of other classes (log 91).
It is performed once, in the SEQ order of its class, and its reply saved; a duplicate performs nothing, and is answered from the
cache. Where its reply cache is full it is not taken. -/
def evPacketRequest (s : State) : Result :=
  let src := s.arg.index
  let seq := s.arg.index2
  let r : InRequest := { src, seq, cls := s.arg.peer.class (s.arg.value % 2 == 1), op := s.arg.peer, alone := s.arg.value / 2 % 2 == 1 }
  if !s.delivers s.arg.addr || src == s.pkg || 4096 ≤ src || 65536 ≤ seq then .next s
  else
    let s := s.deliver s.arg.addr
    if (s.savedReply src seq).isSome then .next (s.sendPacket src (.reply src seq))
    else if (Store.get none s.farHalf (src * 2 ^ 16 + seq)).isSome then
      let s := s.performArrived r
      .next (State.performAll s.arrived.length s)
    else if s.seen src seq || 64 ≤ (s.replies.filter fun r => r.src == src).length then .next s
    else
      let s := s.see src seq
      let s := { s with arrived := s.arrived ++ [r] }
      .next (State.performAll s.arrived.length s)

/-- REPLY_ACK: package `arg.index` acknowledges, in a flit of group `arg.addr`, the reply of SEQ `arg.index2`, whose entry is
freed. -/
def evReplyAck (s : State) : Result :=
  if !s.delivers s.arg.addr then .next s
  else .next { s.deliver s.arg.addr with replies := s.replies.filter fun r => !(r.src == s.arg.index && r.seq == s.arg.index2) }

end Sys2Proof.Machine
end

