-- ==== Sys2Proof/Machine/Logic.lean ====
section
/-!
DEFINITION. Logical, move and lane instructions (spec/07 R128 to R134): opcodes 0x08 to 0x0B, 0x17 to 0x1D and 0x1F.
-/
namespace Sys2Proof.Machine

/-- A logical operation on 4-bit lanes (R128). -/
def State.logicOp (s : State) (e : Fields) (f : Nat → Nat → Nat) : Result :=
  s.wholewise e { tys := tysData, nib := true } (fun _ => 4) id fun x => f x.a x.b

/-- A and not B over 128 bits. -/
def andNot (a b : Nat) : Nat := a ^^^ (a &&& b)

/-- AND (R128). -/
def execAnd (e : Fields) (s : State) : Result := s.logicOp e (· &&& ·)
/-- AND_X (R128). -/
def execAndX (e : Fields) (s : State) : Result := s.logicOp e (· &&& ·)
/-- OR (R128). -/
def execOr (e : Fields) (s : State) : Result := s.logicOp e (· ||| ·)
/-- OR_X (R128). -/
def execOrX (e : Fields) (s : State) : Result := s.logicOp e (· ||| ·)
/-- XOR (R128). -/
def execXor (e : Fields) (s : State) : Result := s.logicOp e (· ^^^ ·)
/-- XOR_X (R128). -/
def execXorX (e : Fields) (s : State) : Result := s.logicOp e (· ^^^ ·)
/-- ANDN (R128). -/
def execAndn (e : Fields) (s : State) : Result := s.logicOp e andNot
/-- ANDN_X (R128). -/
def execAndnX (e : Fields) (s : State) : Result := s.logicOp e andNot

/-- `mov`, xop 0 (R129, R69): a capability is copied whole; data, or the literal, in 4-bit lanes. -/
def State.movOp (s : State) (e : Fields) : Result :=
  match s.thread s.cur with
  | none => .fault .noThread
  | some t =>
    if !e.hasLit && e.ty == 0 && (t.reg e.a).cap then
      .next (s.put (if t.live0 e.g then (t.setReg e.d (t.reg e.a)).next e else t.next e))
    else
      s.wholewise e { tys := tysData, nib := true, useB := false, litA := true } (fun _ => 4)
        (fun ty => if e.ty == 0 && e.hasLit then 0 else ty) (·.a)

/-- MOV (R129). -/
def execMov (e : Fields) (s : State) : Result := s.movOp e
/-- MOV_X (R129). -/
def execMovX (e : Fields) (s : State) : Result := s.movOp e

/-- MOV_TAG: kind and tag of fa as an i64 (R130). -/
def execMovTag (e : Fields) (s : State) : Result :=
  s.scalar e fun t => s.finish t e (data64 (32 * flag (t.reg e.a).cap + (t.reg e.a).tag.toNat) 4)

/-- MOV_RAW: the bits of fa as data, tag raw; whole for a capability (R130). -/
def execMovRaw (e : Fields) (s : State) : Result :=
  s.onThread fun t =>
    if !t.live e.g 4 then s.put (t.next e)
    else
      let mask := if (t.reg e.a).cap then 2 ^ 32 - 1 else t.nibbleMask e.g 4
      let v := mergeNibbles (t.reg e.d).bits.toNat (t.reg e.a).bits.toNat mask
      s.finish t e ⟨BitVec.ofNat 128 v, false, 0⟩

/-- `sel` (R131): nibble i is A's where bit i of the selecting predicate is 1. -/
def State.selOp (s : State) (e : Fields) : Result :=
  s.withSources e { tys := tysData, nib := true } (fun _ => 4) fun s t mask x =>
    let k := if e.hasWord1 then t.pred e.c.toNat else t.pred t.gfA
    s.finishLanes t e mask (mergeNibbles x.b x.a k.toNat) x.ty

/-- SEL (R131). -/
def execSel (e : Fields) (s : State) : Result := s.selOp e
/-- SEL_X (R131). -/
def execSelX (e : Fields) (s : State) : Result := s.selOp e

/-- The byte permutation of R132. -/
def shufBytes (a b : Nat) : Nat :=
  mapLanes 8 fun i => let n := lane b 8 i; if bit n 7 then 0 else lane a 8 (n % 16)

/-- `shuf` (R132). -/
def State.shufOp (s : State) (e : Fields) : Result :=
  s.wholewise e { tys := tysData, nib := true, anyB := true } (fun _ => 4) id fun x => shufBytes x.a x.b

/-- SHUF (R132). -/
def execShuf (e : Fields) (s : State) : Result := s.shufOp e
/-- SHUF_X (R132). -/
def execShufX (e : Fields) (s : State) : Result := s.shufOp e

/-- The element an index names: lane 0 of B, or the literal, modulo the number of lanes (R133). -/
def elemIndex (e : Fields) (x : Sources) : Nat :=
  (if e.hasLit then e.lit.toNat else x.b % 2 ^ 64) % (128 / laneWidth x.ty)

/-- `bcast` (R133). -/
def State.bcastOp (s : State) (e : Fields) : Result :=
  s.wholewise e { tys := tysLn, indexB := true } laneWidth id fun x =>
    mapLanes (laneWidth x.ty) fun _ => lane x.a (laneWidth x.ty) (elemIndex e x)

/-- BCAST (R133). -/
def execBcast (e : Fields) (s : State) : Result := s.bcastOp e
/-- BCAST_X (R133). -/
def execBcastX (e : Fields) (s : State) : Result := s.bcastOp e

/-- The scalar result of `ext`: sign- or zero-extended for an integer type, the pattern for a floating one (R133). -/
def extResult (ty v : Nat) : QReg :=
  if fmtIsInt ty then
    if fmtSigned ty then data64 (wrap 64 (intVal ty v)) 4 else data64 v 8
  else data64 v (BitVec.ofNat 5 ty)

/-- `ext` (R133), which is scalar; a base form whose fa gives no type is judged by 4-bit lanes (04 R67). -/
def State.extOp (s : State) (e : Fields) : Result :=
  s.onThread fun t =>
    let u : LaneUse := { tys := tysLn, indexB := true }
    if !(if t.typeOf e = 0 then t.live e.g 4 else t.live0 e.g) then s.put (t.next e)
    else if !t.typesOk e u then s.trap (.format false 0)
    else
      let x := s.sources t e u
      s.finish t e (extResult x.ty (lane x.a (laneWidth x.ty) (elemIndex e x)))

/-- EXT (R133). -/
def execExt (e : Fields) (s : State) : Result := s.extOp e
/-- EXT_X (R133). -/
def execExtX (e : Fields) (s : State) : Result := s.extOp e

/-- `ins` (R133): element n receives element 0 of A when its lane is active. -/
def State.insOp (s : State) (e : Fields) : Result :=
  s.withSources e { tys := tysLn, indexB := true, useD := true } laneWidth fun s t mask x =>
    let w := laneWidth x.ty
    let n := elemIndex e x
    let here := mask &&& ((2 ^ (w / 4) - 1) * 2 ^ (n * (w / 4)))
    s.finishLanes t e here (setLane x.d w n (lane x.a w 0)) x.ty

/-- INS (R133). -/
def execIns (e : Fields) (s : State) : Result := s.insOp e
/-- INS_X (R133). -/
def execInsX (e : Fields) (s : State) : Result := s.insOp e

/-- The narrower type of R134 Table 3. -/
def narrowOf (ty : Nat) : Nat :=
  match ty with
  | 1 => 17 | 2 => 1 | 3 => 2 | 4 => 3 | 6 => 5 | 7 => 6 | _ => 7

/-- The wider type of R134 Table 3. -/
def widenOf (ty : Nat) : Nat :=
  match ty with
  | 17 => 1 | 1 => 2 | 2 => 3 | 3 => 4 | 5 => 6 | 6 => 7 | _ => 8

/-- The lanes of A, then those of B, narrowed (R134). -/
def packLanes (sat : Bool) (x : Sources) : Nat :=
  let w := laneWidth x.ty
  let n := 128 / w
  mapLanes (w / 2) fun l =>
    let v := if l < n then lane x.a w l else lane x.b w (l - n)
    if sat then wrap (w / 2) (clampFmt (narrowOf x.ty) (intVal x.ty v)) else v % 2 ^ (w / 2)

/-- The lower or upper half of the lanes of A, widened (R134). -/
def unpackLanes (hi : Bool) (x : Sources) : Nat :=
  let w := laneWidth x.ty
  mapLanes (2 * w) fun l => wrap (2 * w) (intVal x.ty (lane x.a w (if hi then l + 64 / w else l)))

/-- `pack` (R134). -/
def State.packOp (s : State) (e : Fields) : Result :=
  s.wholewise e { tys := tysPack } (fun ty => laneWidth ty / 2) narrowOf (packLanes e.sat)

/-- PACK (R134). -/
def execPack (e : Fields) (s : State) : Result := s.packOp e
/-- PACK_X (R134). -/
def execPackX (e : Fields) (s : State) : Result := s.packOp e

/-- `unpack` (R134). -/
def State.unpackOp (s : State) (e : Fields) : Result :=
  s.wholewise e { tys := tysUnpack, useB := false } (fun ty => 2 * laneWidth ty) widenOf (unpackLanes (e.xop == 1))

/-- UNPACK (R134). -/
def execUnpack (e : Fields) (s : State) : Result := s.unpackOp e
/-- UNPACK_X (R134). -/
def execUnpackX (e : Fields) (s : State) : Result := s.unpackOp e

end Sys2Proof.Machine
end

