-- ==== Sys2Proof/Machine/Memory.lean ====
section
/-!
DEFINITION. Loads, stores, full/empty accesses, atomics and capability accesses (spec/08 R164 to R174, R179 to R181):
opcodes 0x40 to 0x49, 0x4C, 0x4D and 0x57.
-/
namespace Sys2Proof.Machine

/-- Every nibble of an access of `n` bytes. -/
def allNibbles (n : Nat) : Nat := 2 ^ (2 * n) - 1

/-- A stored source: data, and with ty of that tag or raw (R166, R68). -/
def storeOk (e : Fields) (r : QReg) : Bool := !r.cap && (e.ty == 0 || r.tag == e.ty || r.tag == 0)

/-- The bytes of a scalar load or store: W/8, or 8 without ty. -/
def scalarBytes (e : Fields) : Nat := if e.ty == 0 then 8 else fmtWidth e.ty.toNat / 8

/-- `ld` (R164). -/
def State.ldOp (s : State) (e : Fields) : Result :=
  s.onThread fun t =>
    let w := liveWidth e.ty.toNat
    if !t.live e.g w then s.put (t.next e)
    else
      let mask := t.nibbleMask e.g w
      s.memOperand t e { size := 16, mask, perm := permPL, rights := [.load] } fun s k va =>
        s.issue t e (mkAccess t .load k va 16 mask QReg.zero (some e.d) e.ty)

/-- LD (R164). -/
def execLd (e : Fields) (s : State) : Result := s.ldOp e
/-- LD_X (R164). -/
def execLdX (e : Fields) (s : State) : Result := s.ldOp e

/-- `st` (R166). -/
def State.stOp (s : State) (e : Fields) : Result :=
  s.onThread fun t =>
    let w := liveWidth e.ty.toNat
    if !t.live e.g w then s.put (t.next e)
    else if !storeOk e (t.reg e.d) then s.trap (.format false 0)
    else
      let mask := t.nibbleMask e.g w
      s.memOperand t e { size := 16, mask, perm := permPS, rights := [.store] } fun s k va =>
        s.issue t e (mkAccess t .store k va 16 mask (t.reg e.d) none e.ty)

/-- ST (R166). -/
def execSt (e : Fields) (s : State) : Result := s.stOp e
/-- ST_X (R166). -/
def execStX (e : Fields) (s : State) : Result := s.stOp e

/-- `lds` (R165). -/
def State.ldsOp (s : State) (e : Fields) : Result :=
  s.scalar e fun t =>
    let n := scalarBytes e
    s.memOperand t e { size := n, mask := allNibbles n, perm := permPL, rights := [.load] } fun s k va =>
      s.issue t e (mkAccess t .load k va n (allNibbles n) QReg.zero (some e.d) e.ty)

/-- LDS (R165). -/
def execLds (e : Fields) (s : State) : Result := s.ldsOp e
/-- LDS_X (R165). -/
def execLdsX (e : Fields) (s : State) : Result := s.ldsOp e

/-- `sts` (R166). -/
def State.stsOp (s : State) (e : Fields) : Result :=
  s.scalar e fun t =>
    let n := scalarBytes e
    if !storeOk e (t.reg e.d) then s.trap (.format false 0)
    else
      s.memOperand t e { size := n, mask := allNibbles n, perm := permPS, rights := [.store] } fun s k va =>
        s.issue t e (mkAccess t .store k va n (allNibbles n) (t.reg e.d) none e.ty)

/-- STS (R166). -/
def execSts (e : Fields) (s : State) : Result := s.stsOp e
/-- STS_X (R166). -/
def execStsX (e : Fields) (s : State) : Result := s.stsOp e

/-! ## Full/empty accesses (R167 to R169) -/

/-- Go on where the location has full/empty bits (R167). -/
def State.needFull (s : State) (k va : Nat) (go : State) : State :=
  if keyHasFull k then go else s.trap (.translation 7 va)

/-- A full/empty access of 8 bytes. -/
def State.feOp (s : State) (e : Fields) (op : AccessOp) (perm : Nat) (rights : List Right) (load : Bool) : Result :=
  s.scalar e fun t =>
    if !load && !storeOk e (t.reg e.d) then s.trap (.format false 0)
    else
      s.memOperand t e { size := 8, mask := allNibbles 8, perm, rights } fun s k va =>
        s.needFull k va (s.issue t e (mkAccess t op k va 8 (allNibbles 8) (if load then QReg.zero else t.reg e.d)
          (if load then some e.d else none) e.ty))

/-- LDFE (R168): needs both rights of its page, as it needs both permissions. -/
def execLdfe (e : Fields) (s : State) : Result := s.feOp e .ldfe (permPL + permPS) [.load, .store] true
/-- LDFE_X (R168). -/
def execLdfeX (e : Fields) (s : State) : Result := s.feOp e .ldfe (permPL + permPS) [.load, .store] true
/-- STEF (R168). -/
def execStef (e : Fields) (s : State) : Result := s.feOp e .stef permPS [.store] false
/-- STEF_X (R168). -/
def execStefX (e : Fields) (s : State) : Result := s.feOp e .stef permPS [.store] false
/-- LDFF (R168). -/
def execLdff (e : Fields) (s : State) : Result := s.feOp e .ldff permPL [.load] true
/-- LDFF_X (R168). -/
def execLdffX (e : Fields) (s : State) : Result := s.feOp e .ldff permPL [.load] true

/-- `fefill` (R169): two words, governed as i64 lanes. -/
def State.fefillOp (s : State) (e : Fields) : Result :=
  s.onThread fun t =>
    if !t.live e.g 64 then s.put (t.next e)
    else
      let mask := t.nibbleMask e.g 64
      s.memOperand t e { size := 16, mask, perm := permPS, rights := [.store] } fun s k va =>
        s.needFull k va (s.issue t e (mkAccess t (.fefill (e.xop == 1)) k va 16 mask QReg.zero none 0))

/-- FEFILL (R169). -/
def execFefill (e : Fields) (s : State) : Result := s.fefillOp e
/-- FEFILL_X (R169). -/
def execFefillX (e : Fields) (s : State) : Result := s.fefillOp e

/-! ## Atomics (R171 to R174) -/

/-- The type of an atomic: i64 without ty (R158, R171). -/
def atomType (e : Fields) : BitVec 5 := if e.ty == 0 then 4 else e.ty

/-- A source of an atomic: data of the type or raw. -/
def atomOk (ty : BitVec 5) (r : QReg) : Bool := !r.cap && (r.tag == ty || r.tag == 0)

/-- Lane 0 of B, or the literal. -/
def Thread.atomB (t : Thread) (e : Fields) : QReg := if e.hasLit then data64 e.lit.toNat 0 else t.reg e.b

/-- Go on where atomics are performed (R174). -/
def State.needAtomics (s : State) (k va : Nat) (go : State) : State :=
  if keyHasAtomics k then go else s.trap (.translation 8 va)

/-- `atom` (R171). -/
def State.atomOp (s : State) (e : Fields) : Result :=
  s.scalar e fun t =>
    let ty := atomType e
    let n := fmtWidth ty.toNat / 8
    if !atomOk ty (t.atomB e) then s.trap (.format false 0)
    else
      s.memOperand t e { size := n, mask := allNibbles n, perm := permPA, rights := [.store] } fun s k va =>
        let b := data64 ((t.atomB e).lo % 2 ^ (8 * n)) 0
        s.needAtomics k va (s.issue t e (mkAccess t (.atom e.xop.toNat) k va n (allNibbles n) b (some e.d) ty))

/-- ATOM (R171). -/
def execAtom (e : Fields) (s : State) : Result := s.atomOp e
/-- ATOM_X (R171). -/
def execAtomX (e : Fields) (s : State) : Result := s.atomOp e

/-- `cas` (R172). -/
def State.casOp (s : State) (e : Fields) : Result :=
  s.scalar e fun t =>
    let ty := atomType e
    let n := fmtWidth ty.toNat / 8
    if !(atomOk ty (t.reg e.d) && atomOk ty (t.atomB e)) then s.trap (.format false 0)
    else
      s.memOperand t e { size := n, mask := allNibbles n, perm := permPA, rights := [.store] } fun s k va =>
        let b := data64 ((t.atomB e).lo % 2 ^ (8 * n)) 0
        let pair := if e.mod.getLsbD 7 then some e.c.toNat else none
        let a := mkAccess t (.cas pair) k va n (allNibbles n) b (some e.d) ty
        s.needAtomics k va (s.issue t e { a with expected := (t.reg e.d).lo % 2 ^ (8 * n) })

/-- CAS (R172). -/
def execCas (e : Fields) (s : State) : Result := s.casOp e
/-- CAS_X (R172). -/
def execCasX (e : Fields) (s : State) : Result := s.casOp e

/-! ## Capability load, store and clear (R179 to R181) -/

/-- `ldcap` (R179). -/
def State.ldcapOp (s : State) (e : Fields) : Result :=
  s.scalar e fun t =>
    s.memOperand t e { size := 16, mask := allNibbles 16, perm := permPL + permPLC, rights := [.load] } fun s k va =>
      s.issue t e (mkAccess t .ldcap k va 16 (allNibbles 16) QReg.zero (some e.d) 0)

/-- LDCAP (R179). -/
def execLdcap (e : Fields) (s : State) : Result := s.ldcapOp e
/-- LDCAP_X (R179). -/
def execLdcapX (e : Fields) (s : State) : Result := s.ldcapOp e

/-- `stcap` (R180): a capability source also needs PSC. -/
def State.stcapOp (s : State) (e : Fields) : Result :=
  s.scalar e fun t =>
    let r := t.reg e.d
    let perm := permPS + if r.cap then permPSC else 0
    s.memOperand t e { size := 16, mask := allNibbles 16, perm, rights := [.store] } fun s k va =>
      s.issue t e (mkAccess t .stcap k va 16 (allNibbles 16) r none 0)

/-- STCAP (R180). -/
def execStcap (e : Fields) (s : State) : Result := s.stcapOp e
/-- STCAP_X (R180). -/
def execStcapX (e : Fields) (s : State) : Result := s.stcapOp e

/-- `cclr` (R181). -/
def State.cclrOp (s : State) (e : Fields) : Result :=
  s.scalar e fun t =>
    s.memOperand t e { size := 16, mask := allNibbles 16, perm := permPS, rights := [.store] } fun s k va =>
      s.issue t e (mkAccess t .cclr k va 16 (allNibbles 16) QReg.zero none 0)

/-- CCLR (R181). -/
def execCclr (e : Fields) (s : State) : Result := s.cclrOp e
/-- CCLR_X (R181). -/
def execCclrX (e : Fields) (s : State) : Result := s.cclrOp e

end Sys2Proof.Machine
end

