-- ==== Sys2Proof/Machine/Predicate.lean ====
section
/-!
DEFINITION. Compares and predicate instructions (spec/07 R142 to R147): opcodes 0x30 to 0x37.
-/
namespace Sys2Proof.Machine

/-- The condition codes of R105 over an ordering of two values: −1, 0, 1, or none when unordered. -/
def condHolds (cond : Nat) (o : Option Int) : Bool :=
  match o with
  | none => cond == 1 || cond == 6
  | some c =>
    match cond with
    | 0 => c == 0
    | 1 => c != 0
    | 2 => decide (c < 0)
    | 3 => decide (c ≤ 0)
    | 4 => decide (0 < c)
    | 5 => decide (0 ≤ c)
    | 6 => false
    | _ => true

/-- The order of two integers. -/
def intOrder (x y : Int) : Int := if x < y then -1 else if x = y then 0 else 1

/-- The order of two floating values; none when one is NaN (R142). -/
def floatOrder (x y : Val) : Option Int := if x.isNan || y.isNan then none else some (x.compare y)

/-- A compare: the pair is combined in the active lanes, no register is written (R142, R64). -/
def State.compareOp (s : State) (e : Fields) (tys : BitVec 32) (k : Nat → Nat → Nat → Bool) : Result :=
  s.withSources e { tys } laneWidth fun s t _ x =>
    let w := laneWidth x.ty
    let t := t.combineLanes e.d.toNat e.comb w (t.active e.g w) fun l => k x.ty (lane x.a w l) (lane x.b w l)
    s.put ((t.advance e).next e)

/-- CMP (R142). -/
def execCmp (e : Fields) (s : State) : Result :=
  s.compareOp e tysInt fun ty x y => condHolds e.cond (some (intOrder (intVal ty x) (intVal ty y)))

/-- FCMP (R142). -/
def execFcmp (e : Fields) (s : State) : Result :=
  s.compareOp e tysFcmp fun ty x y =>
    condHolds e.cond (floatOrder (floatVal (floatFmt ty) x) (floatVal (floatFmt ty) y))

/-- Write the active bits of a predicate under the guard, in 4-bit lanes. -/
def Thread.writeBits (t : Thread) (g : BitVec 8) (pd : Nat) (f : Nat → Bool) : Thread :=
  let v := loopUp 32 (fun i v => if (if t.guardBit g i then f i else (t.pred pd).getLsbD i) then v + 2 ^ i else v) 0
  t.setPred pd (BitVec.ofNat 32 v)

/-- An instruction on 4-bit lanes that checks nothing but liveness. -/
def State.nibbleOp (s : State) (e : Fields) (f : Thread → Thread) : Result :=
  s.onThread fun t => if t.live e.g 4 then s.put ((f t).next e) else s.put (t.next e)

/-- PLOP: a truth table of three predicates (R143). -/
def execPlop (e : Fields) (s : State) : Result :=
  s.nibbleOp e fun t => t.writeBits e.g e.d.toNat fun i =>
    let a := (t.pred e.a.toNat).getLsbD i
    let b := (t.pred e.b.toNat).getLsbD i
    let c := (t.pred e.c.toNat).getLsbD i
    e.imm.getLsbD (4 * flag a + 2 * flag b + flag c)

/-- PMOV (R144). -/
def execPmov (e : Fields) (s : State) : Result :=
  s.nibbleOp e fun t => t.writeBits e.g e.d.toNat fun i => (t.pred e.a.toNat).getLsbD i

/-- PMOV_NZ: nibble i of a register of any kind and tag is not zero (R144). -/
def execPmovNz (e : Fields) (s : State) : Result :=
  s.nibbleOp e fun t => t.writeBits e.g e.d.toNat fun i => lane (t.reg e.a).bits.toNat 4 i != 0

/-- PGET: a predicate zero-extended, as an i64 (R145). -/
def execPget (e : Fields) (s : State) : Result :=
  s.scalar e fun t => s.finish t e (data64 (t.pred e.a.toNat).toNat 4)

/-- PGET_MASK: a nibble of ones for each set bit, tag raw (R145). -/
def execPgetMask (e : Fields) (s : State) : Result :=
  s.nibbleOp e fun t =>
    let v := mapLanes 4 fun i => if (t.pred e.a.toNat).getLsbD i then 15 else 0
    t.setReg e.d ⟨BitVec.ofNat 128 (mergeNibbles (t.reg e.d).bits.toNat v (t.nibbleMask e.g 4)), false, 0⟩

/-- The width of the lanes whose bits `pcnt` and `pfirst` read: every bit without ty (R146). -/
def countWidth (e : Fields) : Nat := if e.ty == 0 then 4 else laneWidth e.ty.toNat

/-- The bit of lane `l`. -/
def laneBit (p : Word32) (w l : Nat) : Bool := p.getLsbD (l * w / 4)

/-- The set bits among the lanes of width `w`. -/
def countBits (p : Word32) (w : Nat) : Nat := loopUp (128 / w) (fun l n => n + flag (laneBit p w l)) 0

/-- The lowest lane whose bit is set, or −1. -/
def firstBit (p : Word32) (w : Nat) : Int :=
  match (List.range (128 / w)).find? (laneBit p w) with
  | some l => (l : Int)
  | none => -1

/-- `pcnt` (R146). -/
def State.pcntOp (s : State) (e : Fields) : Result :=
  s.scalar e fun t => s.finish t e (data64 (countBits (t.pred e.a.toNat) (countWidth e)) 4)

/-- `pfirst` (R146). -/
def State.pfirstOp (s : State) (e : Fields) : Result :=
  s.scalar e fun t => s.finish t e (dataInt (firstBit (t.pred e.a.toNat) (countWidth e)))

/-- PCNT (R146). -/
def execPcnt (e : Fields) (s : State) : Result := s.pcntOp e
/-- PCNT_X (R146). -/
def execPcntX (e : Fields) (s : State) : Result := s.pcntOp e
/-- PFIRST (R146). -/
def execPfirst (e : Fields) (s : State) : Result := s.pfirstOp e
/-- PFIRST_X (R146). -/
def execPfirstX (e : Fields) (s : State) : Result := s.pfirstOp e

/-- SETGF: the guard frame; gf[15:9] stays zero (R147). -/
def execSetgf (e : Fields) (s : State) : Result :=
  s.scalar e fun t =>
    s.put ({ t with gf := BitVec.ofNat 16 (e.d.toNat % 8 * 64 + e.a.toNat % 8 * 8 + e.b.toNat % 8) }.next e)

end Sys2Proof.Machine
end

