-- ==== Sys2Proof/Machine/Privileged.lean ====
section
/-!
DEFINITION. The privileged escape (spec/17 R299, R300, R322 to R326): `thaw`, `cxsw`, `slotw` and `govset`, and teardown.
-/
namespace Sys2Proof.Machine

/-- An instruction of escape 0x77: without system privilege it is a protection violation, live or not (06 R111 step 9). -/
def State.privOp (s : State) (e : Fields) (f : Thread → State) : Result :=
  s.onThread fun t => if !s.privileged t then s.trap (.protection 0) else if t.live0 e.g then f t else s.put (t.next e)

/-- fb of the escape: lane 0 of a data register, or the literal; none for a capability (R322). -/
def Thread.privB (t : Thread) (e : Fields) : Option Nat :=
  if e.hasLit then some e.lit.toNat else if (t.reg e.b).cap then none else some (t.reg e.b).lo

/-- Write the result of an instruction that may have changed the issuing thread, in that thread as it now stands. -/
def State.finishNow (s : State) (e : Fields) (v : QReg) : State :=
  match s.thread s.cur with
  | some t => s.finish t e v
  | none => s

/-! ## thaw (R323) -/

/-- THAW (R323). -/
def execThaw (e : Fields) (s : State) : Result :=
  s.privOp e fun t =>
    let r := t.reg e.a
    match t.privB e with
    | none => s.trap (.format false 0)
    | some b =>
      let bad := s.finish t e (dataInt (-1))
      if !r.isInt then s.trap (.format false 0)
      else if 8 ≤ b then bad
      else match b % 4 with
        | 0 =>
          match s.slotOf r.lo with
          | some n =>
            match s.thread n with
            | some u => if u.frozen then State.goOnResult t e (s.goOn n u (bit b 2) fun u => { u with frozen := false }) else bad
            | none => bad
          | none =>
            match s.savedOf (r.lo / 2 ^ 52) r.lo with
            | some v =>
              if !v.frozen then bad
              else State.goOnResult t e (s.goOnSaved (r.lo / 2 ^ 52) v (bit b 2) 4 fun w => { w with frozen := false })
            | none => bad
        | 1 =>
          let k := queueKey (bits r.lo 63 52) (bits r.lo 51 44) (r.lo % 16)
          if 192 ≤ bits r.lo 51 44 || bit r.lo 4 || (s.queue k).mode ≠ .frozen then bad
          else (s.thawQueue k).finishNow e (dataInt 0)
        | 2 =>
          let f := r.lo % 2 ^ 16
          if !(s.hostFrozen.any fun h => h.1 == f) then bad
          else { s with hostFrozen := s.hostFrozen.filter fun (h : Nat × Nat) => h.1 != f }.finish t e (dataInt 0)
        | _ => bad

/-! ## Stopping and going on (R299, 15 R281) -/

/-- The graphs of a context become suspended, and its queues stop: a running tile operation at the end of its block, a
copy at its progress. -/
def State.stopWork (s : State) (c : Nat) : State :=
  let s := s.suspendGraphs c
  { s with queues := s.queues.map fun (e : Nat × Queue) =>
      if keyCtx e.1 = c && e.2.unit != 0 then
        (e.1, if keyCode e.1 ≤ 4 then e.2.stopAtBlock 1 else { e.2 with unit := 0, started := true })
      else e }

/-- A context begins to be suspended or frozen. A suspension reaches the gangs of its threads in every package (19 R347). -/
def State.stopCtx (s : State) (c : Nat) (w : Stopping) : State :=
  let gangs := if w = .suspend then (s.placedOf c).filterMap fun n => (s.thread n).map s.memberOf else []
  ((gangs.foldl State.spreadGang (s.beginStop c w)).stopWork c).endStop c

/-- A suspended context runs again. -/
def State.resumeCtx (s : State) (c : Nat) : State :=
  let s := s.setCtx c { s.ctx c with mode := .active }
  let s := { s with queues := s.queues.map fun (e : Nat × Queue) => if keyCtx e.1 = c && e.2.stopping == 1 then (e.1, { e.2 with stopping := 0 }) else e }
  s.resumeGraphs c

/-- What every step does for a context that a violation of its handler has begun to freeze. -/
def State.settleStops (before s : State) : State :=
  s.ctxs.foldl (fun s e =>
    let was := before.ctx e.1
    let stops := e.2.stopping.isSome || e.2.mode == .suspended || e.2.mode == .frozen
    if stops && was.mode == .active && was.stopping.isNone then s.stopWork e.1 else s) s

/-! ## Teardown (R300) -/

/-- Discard the thread in slot `n` without a save. Accesses that it has outstanding are performed: its slot empties when they
have drained. -/
def State.discardThread (s : State) (n : Nat) : State :=
  match s.thread n with
  | none => s
  | some t =>
    let s := s.departAll (s.memberOf t) false
    match t.wait with
    | .upperHalf .. | .remote .. => s.setThread n { t with halted := true, request := none, cp := 0, tl := 0, pendErr := [] }
    | _ =>
      let s := s.withdraw n
      match s.thread n with
      | none => s
      | some t =>
        if t.rx.isEmpty then s.emptySlot n
        else s.setThread n { t with halted := true, stopped := none, frozen := false, migrating := false, request := none, cp := 0
                                    tl := 0, pendErr := [] }

/-- The slots that hold threads of a context. -/
def State.ctxSlots (s : State) (c : Nat) : List Nat :=
  s.slots.filterMap fun e => match e.2.thread with | some t => if t.ctx = c then some e.1 else none | none => none

/-- A handle of a torn-down tenant. -/
def Handle.drop (v : Handle) : Handle := { Handle.free with gen := (v.gen + 1) % 2 ^ 12 }

/-- Discard what a context holds beside its threads. -/
def State.dropHoldings (s : State) (c : Nat) : State :=
  let s := s.dropSaved c fun _ => true
  let s := s.dropConts fun v => v.ctx == c
  let s := s.dropQueues c
  let s := { s with graphs := s.graphs.filter fun (e : Nat × Graph) => e.2.ctx != c }
  let s := (s.kernelsOf c).foldl (fun s k => s.dropCopies c k.image) s
  let s := (s.moves.filter fun m => m.ctx == c).foldl (fun s m => s.freePage m.dst) s
  let s := { s with
    moves := s.moves.filter fun (m : PageMove) => m.ctx != c
    conts := s.conts.filter fun (v : Continuation) => v.ctx != c
    handles := s.handles.map fun (e : Nat × Handle) => if e.2.live && e.2.tenant == c then (e.1, e.2.drop) else e
    migrations := s.migrations.filter fun (m : Migration) => m.ctx != c
    hostFrozen := s.hostFrozen.filter fun (h : Nat × Nat) => h.2 != c
    noticesDue := s.noticesDue.filter fun (d : DueNotice) => d.ctx != c }
  (s.crews.filter fun e => e.2.used && e.2.ctx == c).foldl (fun s e => s.setCrew e.1 { Crew.free with gen := e.2.gen }) s

/-- Teardown begins. -/
def State.teardown (s : State) (c : Nat) : State :=
  let s := s.setCtx c { s.ctx c with mode := .tornDown, stopping := none }
  let s := (s.ctxSlots c).foldl State.discardThread s
  let s := s.dropHoldings c
  let x := s.ctx c
  s.setCtx c { Ctx.none with mode := .tornDown, sys := x.sys, regs := x.regs }

/-- An engine of a context has asked a peer package for an access that has no reply yet. -/
def State.engineAsks (s : State) (c : Nat) : Bool :=
  s.requests.any fun r => match r.who with | .engine k _ => decide (k < 2 ^ 40) && keyCtx k == c | _ => false

/-- TEARDOWN_END (R300): no access of context `arg.index` remains outstanding. -/
def evTeardownEnd (s : State) : Result :=
  let c := s.arg.index
  .next (if (s.ctx c).mode = .tornDown && (s.ctxSlots c).isEmpty && !s.engineAsks c then s.setCtx c Ctx.none else s)

/-! ## cxsw (R324) -/

/-- The fields of a context record (R296 Table 1) from its 128 bytes. -/
def recordRegs (v : Nat) : CtxRegs :=
  { ptroot := field v 32 8, save := field v 40 8, nframe := field v 48 4, kappa := field v 52 4, seed := field v 56 8
    handler := field v 64 4, weight := field v 68 1, tracks := field v 69 1, limit := field v 72 4 }

/-- A root of the record. -/
def rootOf (v off : Nat) : Word128 := BitVec.ofNat 128 (field v off 16)

/-- The record obeys Table 1; `mt` and `st` are the tag bits of its roots. -/
def recordOk (v : Nat) (mt st : Bool) : Bool :=
  let r := recordRegs v
  let roots := permPSEAL + permPUNS
  mt && capKind (rootOf v 0) == kindMemory && capSpace (rootOf v 0) == 3 &&
    st && capKind (rootOf v 16) == kindMemory && (capPerms (rootOf v 16) &&& roots) == roots &&
    r.ptroot % 4096 == 0 && decide (r.ptroot < 2 ^ 52) && r.save % 4096 == 0 && decide (r.save < 2 ^ 57) &&
    decide (1 ≤ r.nframe ∧ r.nframe ≤ 65536) && bits r.handler 30 16 == 0 && decide (1 ≤ r.tracks ∧ r.tracks < 8) &&
    decide (field v 70 1 < 2) && field v 71 1 == 0 && field v 76 52 == 0

/-- Load a record into a new context. -/
def State.createCtx (s : State) (c v : Nat) : State :=
  let r := recordRegs v
  s.setCtx c { Ctx.none with
    mode := .created, sys := bit (field v 70 1) 0, regs := r
    eff := (List.range 4).map fun d => (d, r.eff) }

/-- The first word of a record at a key with an uncorrectable error. -/
def State.badRecord (s : State) (k : Nat) : Option Nat := ((List.range 16).map fun i => k + 8 * i).find? s.poisoned

/-- `cxsw` create: the record that fa names; what a peer package or the host holds there is free (log 9). -/
def State.cxswRecord (s : State) (t : Thread) (e : Fields) (c : Nat) : State :=
  let r := t.reg e.a
  if !r.cap then s.trap (.format false 0)
  else if r.lo % 128 ≠ 0 then s.trap (.format true r.lo)
  else if !(capKind r.bits == kindMemory && capcheck r r.lo 128 permPL) then s.trap (.capability r.lo)
  else s.withKey t (capSpace r.bits) r.lo [.load] fun s k =>
    if !s.isLocal k then
      let (v, s) := s.takeFree
      let (m, s) := s.farTag k
      let (x, s) := s.farTag (k + 16)
      let v := v % 2 ^ 1024
      if recordOk v m x then (s.createCtx c v).finish t e (dataInt 0) else s.finish t e (dataInt (-2))
    else match s.badRecord k with
      | some w => (s.detect w).trap (.data 0 (r.lo + (w - k)) (s.inCore (slotCore s.cur) w))
      | none =>
        let v := s.readNum k 128
        let s := (List.range 16).foldl (fun s i => s.correct (k + 8 * i)) s
        if recordOk v (s.hasTag k) (s.hasTag (k + 16)) then (s.createCtx c v).finish t e (dataInt 0)
        else s.finish t e (dataInt (-2))

/-- The bits of fb outside ACT, CTX, CORE and GROVE. -/
def cxswRest (b : Nat) : Nat := bits b 15 4 + bits b 39 28 + bits b 47 44 + bits b 63 56

/-- ACT is admitted from the state in which a context stands (R324); while a stop goes on only teardown is (R299). -/
def State.cxswAdmits (s : State) (c act : Nat) : Bool :=
  let x := s.ctx c
  if c = 0 then act == 8 && s.ctxState 0 == 3
  else if x.stopping.isSome && act != 5 then false
  else match act with
    | 1 => x.mode == .none
    | 2 => x.mode == .created
    | 3 => x.mode == .active
    | 4 => x.mode == .suspended
    | 5 => x.mode != .none
    | 6 => x.mode == .active || x.mode == .suspended
    | 7 => x.mode == .frozen
    | _ => s.ctxState c == 3

/-- What an action but create does. -/
def State.cxswAct (s : State) (c act core : Nat) : State :=
  match act with
  | 2 => s.setCtx c { s.ctx c with mode := .active }
  | 3 => s.stopCtx c .suspend
  | 4 => s.resumeCtx c
  | 5 => s.teardown c
  | 6 => if (s.ctx c).mode = .suspended then s.setCtx c { s.ctx c with mode := .frozen } else s.stopCtx c .freeze
  | 7 => s.setCtx c { s.ctx c with mode := .suspended }
  | 8 => s.preemptCore c core
  | _ => s

/-- `cxsw` with the action `force`, or with that of fb. -/
def State.cxswOp (s : State) (e : Fields) (force : Option Nat) : Result :=
  s.privOp e fun t =>
    match t.privB e with
    | none => s.trap (.format false 0)
    | some b =>
      let act := force.getD (b % 16)
      let c := bits b 27 16
      if act = 0 || 9 ≤ act || cxswRest b ≠ 0 || (act == 8 && decide (192 ≤ bits b 55 48)) then s.finish t e (dataInt (-3))
      else if !s.cxswAdmits c act then s.finish t e (dataInt (-1))
      else if act = 1 then s.cxswRecord t e c
      else (s.finish t e (dataInt 0)).cxswAct c act (bits b 55 48 * 16 + bits b 43 40)

/-- CXSW_CREATE (R324); a word of `cxsw` gives any of the actions (log 16). -/
def execCxswCreate (e : Fields) (s : State) : Result := s.cxswOp e none
/-- CXSW_RUN (R324), with the fields `arg.fields`. -/
def execCxswRun (s : State) : Result := s.cxswOp s.arg.fields (some 2)
/-- CXSW_SUSPEND (R324). -/
def execCxswSuspend (s : State) : Result := s.cxswOp s.arg.fields (some 3)
/-- CXSW_RESUME (R324). -/
def execCxswResume (s : State) : Result := s.cxswOp s.arg.fields (some 4)
/-- CXSW_TEARDOWN (R324). -/
def execCxswTeardown (s : State) : Result := s.cxswOp s.arg.fields (some 5)
/-- CXSW_FREEZE (R324). -/
def execCxswFreeze (s : State) : Result := s.cxswOp s.arg.fields (some 6)
/-- CXSW_THAW_CONTEXT (R324). -/
def execCxswThawContext (s : State) : Result := s.cxswOp s.arg.fields (some 7)
/-- CXSW_PREEMPT_CORE (R324, R317). -/
def execCxswPreemptCore (s : State) : Result := s.cxswOp s.arg.fields (some 8)

/-! ## slotw and govset (R325, R326) -/

/-- An owner and PIN for a slot: at once when it is empty, else when it empties. -/
def State.ownSlot (s : State) (n owner : Nat) (pin : Bool) : State :=
  let x := s.slot n
  if x.thread.isSome || s.slotReserved n then s.setSlot n { x with deferred := some (owner, pin) }
  else s.setSlot n { x with owner, pin }

/-- SLOTW (R325). -/
def execSlotw (e : Fields) (s : State) : Result :=
  s.privOp e fun t =>
    let r := t.reg e.a
    let owner := bits r.lo 63 52
    let core := bits r.lo 47 40 * 16 + bits r.lo 35 32
    let m := (s.ctx owner).mode
    if !r.isInt then s.trap (.format false 0)
    else if 192 ≤ bits r.lo 47 40 || m = .none || m = .tornDown then s.finish t e (dataInt (-1))
    else ((setBits 16 r.lo).foldl (fun s i => s.ownSlot (core * 16 + i) owner (bit r.hi 0)) s |>.finish t e (dataInt 0))

/-- The slots of a core are masked as a mask says, the others unmasked. -/
def State.maskSlots (s : State) (core mask : Nat) : State :=
  (List.range 16).foldl (fun s i => s.setSlot (core * 16 + i) { s.slot (core * 16 + i) with masked := bit mask i }) s

/-- Write a governor parameter; none where the parameter or the value is refused. -/
def State.setGovernor (s : State) (par v : Nat) : Option State :=
  let p := s.power
  let inRange := decide (1 ≤ v ∧ v ≤ 4000000)
  match par with
  | 0 => if inRange then some { s with power := { p with limit := v } } else none
  | 1 => if inRange then some { s with power := { p with ramp := v } } else none
  | 2 =>
    if bits v 63 48 + bits v 39 36 + bits v 31 16 ≠ 0 || 192 ≤ bits v 47 40 then none
    else some (s.maskSlots (bits v 47 40 * 16 + bits v 35 32) (v % 2 ^ 16))
  | 3 => if 4 ≤ v then none else some { s with power := { p with fillerOk := bit v 0, ballastOk := bit v 1 } }
  | _ => none

/-- GOVSET (R326). -/
def execGovset (e : Fields) (s : State) : Result :=
  s.privOp e fun t =>
    match t.privB e with
    | none => s.trap (.format false 0)
    | some par =>
      if !(t.reg e.a).isInt then s.trap (.format false 0)
      else match s.setGovernor par (t.reg e.a).lo with
        | none => s.finish t e (dataInt (-1))
        | some s => match s.thread s.cur with | some t => s.finish t e (dataInt 0) | none => s

end Sys2Proof.Machine
end

