-- ==== Sys2Proof/Machine/Reliability.lean ====
section
/-!
DEFINITION. Errors and time (spec/26 R404, R417 to R420): patrol scrubbing, control faults and the 1588 messages that steer
the waymark clock.
-/
namespace Sys2Proof.Machine

/-! ## Patrol scrubbing (R419) -/

/-- The die of the memory of a key (R408). -/
def keyDie (k : Nat) : Nat :=
  match keyTgt k with
  | 0 => keyPa k / 2 ^ 37 % 4
  | 1 => keyPa k / 2 ^ 32 % 4
  | _ => groveDie (keyPa k / 2 ^ 32) % 4

/-- SCRUB_PASS: the word at key `arg.addr` is read. A single-bit error is corrected; a double-bit error, with `arg.ok`,
poisons the word. The energy goes to context 0. -/
def evScrubPass (s : State) : Result :=
  let k := s.arg.addr
  if 4 ≤ keyTgt k || keyPkg k ≠ s.pkg || s.beyond (keyTgt k) (keyPa k) then .next s
  else
    let s := s.credit (keyDie k) 0 none (s.levelCharge true k)
    .next (((if s.arg.ok then s.hitWord (k / 8, true) else s).correct k).detect k)

/-! ## Control faults (R418) -/

/-- The report to context 0's handler: what names the unit in it is a free value (log 37). -/
def State.controlReport (s : State) : State :=
  let (a, s) := s.takeFree
  let (b, s) := s.takeFree
  s.postMessage 0 { e0 := (lanes64 a (causeWord 4 3 0 (a / 2 ^ 64 % 4) 0) 0).bits, e1 := (lanes64 b 0 0).bits }

/-- The slots of the threads of a core that have not halted; a lockstep pair is one of both its cores (17 R321). -/
def State.runnersOn (s : State) (core : Nat) : List Nat :=
  s.slots.filterMap fun e => match e.2.thread with
    | some t => if (slotCore e.1 = core ∨ (t.pair ∧ slotCore e.1 + 1 = core)) ∧ !t.halted then some e.1 else none
    | none => none

/-- A core goes out of service: its threads stop and depart their crews by fault. -/
def State.failCore (s : State) (core : Nat) : State :=
  let s := s.setCore core { s.core core with dead := true }
  (s.runnersOn core).foldl (fun s n => s.coreFault n 3 0) s

/-- The head of a queue is one that only units out of service serve (11 R211). -/
def State.unserved (s : State) (k : Nat) : Bool :=
  let q := s.queue k
  q.mode == .running && match q.ops with
    | op :: _ => !op.isJoin && [1, 2, 3, 4, 5].all fun u =>
        !unitServes u (keyCode k) op.xop || (s.grove (keyGrove k)).dead.contains u
    | [] => false

/-- Queues whose heads no unit serves any more halt with EDATA set. -/
def State.haltUnserved (s : State) : State :=
  if s.groves.all fun e => e.2.dead.isEmpty then s
  else (s.queues.map (·.1)).foldl (fun s k => if s.unserved k then s.haltEnded k 2 0 else s) s

/-- An engine unit goes out of service: the queue it works for halts with EDATA set, as do those that no other unit serves. -/
def State.failUnit (s : State) (g unit : Nat) : State :=
  let x := s.grove g
  let s := s.setGrove g { x with dead := if x.dead.contains unit then x.dead else unit :: x.dead, ballast := x.ballast.erase unit }
  ((s.queues.filterMap fun e => if keyGrove e.1 = g ∧ e.2.unit = unit ∧ unit ≠ 0 then some e.1 else none).foldl
    (fun s k => s.haltEnded k 2 0) s).haltUnserved

/-- A Landing goes out of service: its running graphs are abandoned. -/
def State.failLanding (s : State) (die : Nat) : State :=
  let s := { s with deadLandings := if s.deadLandings.contains die then s.deadLandings else die :: s.deadLandings }
  (s.graphs.filterMap fun e => if e.2.die = die ∧ e.2.state = .running then some e.1 else none).foldl
    (fun s k => s.abandonGraph k 2) s

/-- CONTROL_FAULT: a control fault in core `arg.index` (`arg.value` 0), in unit `arg.index2` of grove `arg.index` (1), or in
the Landing of die `arg.index` (2). -/
def evControlFault (s : State) : Result :=
  let n := s.arg.index
  let s := { s with ras := { s.ras with ctrl := satInc 8 s.ras.ctrl } }
  match s.arg.value with
  | 0 => .next (if n < 3072 then (s.failCore n).controlReport else s.controlReport)
  | 1 => .next (if n < 192 then (s.failUnit n s.arg.index2).controlReport else s.controlReport)
  | 2 => .next (if n < 4 then (s.failLanding n).controlReport else s.controlReport)
  | _ => .next s.controlReport

/-! ## The waymark clock (R404) -/

/-- The first synchronisation finds an offset above 1 ms before any graph has been admitted: it is applied once. -/
def State.stepsClock (s : State) (offset : Int) : Bool :=
  !s.ptpOnce && s.graphs.isEmpty && s.nextGraph == 0 && (decide (1000000 < offset) || decide (offset < -1000000))

/-- The clock is set by an offset: budgets, windows and ticks go on from where it then stands. -/
def State.stepClock (s : State) (offset : Int) : State :=
  let now := ((s.now : Int) + offset).toNat
  { s with
    now
    refilled := (List.range 4).foldl (fun r d => Store.put 0 r d (min (Store.get 0 r d) (now / 1000))) s.refilled
    windowed := min s.windowed (now / 1000000)
    ticked := (List.range 4).foldl (fun r d => Store.put 0 r d (min (Store.get 0 r d) (now / 10000))) s.ticked }

/-- A port loses its synchronisation: the clock is steered by another that holds it, while one does (R404, R405). -/
def State.losePort (s : State) (port : Nat) : State :=
  let held := s.ptpHeld.del port
  match held with
  | [] => { s with ptpHeld := [], ptpSync := false, slew := if s.ptpSync then 0 else s.slew }
  | p :: _ => { s with ptpHeld := held, ptpPort := if s.ptpPort = port then p else s.ptpPort }

/-- PTP_MESSAGE: port `arg.index` of die 0 to 3 measures the signed offset `arg.value` in 1588 domain `arg.index2`, and holds
synchronisation with `arg.ok`. The offset is to be slewed away, but for one applied once. -/
def evPtpMessage (s : State) : Result :=
  let offset := signed 64 s.arg.value
  if s.arg.index2 ≠ s.ptpDomain || 4 ≤ s.arg.index then .next s
  else if !s.arg.ok then .next (s.losePort s.arg.index)
  else
    let step := s.stepsClock offset
    .next { (if step then s.stepClock offset else s) with
      ptpSync := true
      ptpOnce := true
      ptpPort := s.arg.index
      ptpHeld := s.ptpHeld.add s.arg.index
      ptpOffset := wrap 32 offset
      slew := if step then 0 else offset }

end Sys2Proof.Machine
end

