-- ==== Sys2Proof/Machine/Dispatch.lean ====
section
/-!
DEFINITION. The meaning of each instruction and event: one call for each constructor of Instr.
-/
namespace Sys2Proof.Machine

/-- Perform one instruction for the thread in slot `cur`, or one event of the opcode table. -/
def exec (i : Instr) (s : State) : Host.Outcome State Fault Refusal :=
  match i with
  | .add e => Sys2Proof.Machine.execAdd e s
  | .addX e => Sys2Proof.Machine.execAddX e s
  | .sub e => Sys2Proof.Machine.execSub e s
  | .subX e => Sys2Proof.Machine.execSubX e s
  | .mul e => Sys2Proof.Machine.execMul e s
  | .mulX e => Sys2Proof.Machine.execMulX e s
  | .mulhi e => Sys2Proof.Machine.execMulhi e s
  | .mulhiX e => Sys2Proof.Machine.execMulhiX e s
  | .div e => Sys2Proof.Machine.execDiv e s
  | .divX e => Sys2Proof.Machine.execDivX e s
  | .rem e => Sys2Proof.Machine.execRem e s
  | .remX e => Sys2Proof.Machine.execRemX e s
  | .min e => Sys2Proof.Machine.execMin e s
  | .minX e => Sys2Proof.Machine.execMinX e s
  | .max e => Sys2Proof.Machine.execMax e s
  | .maxX e => Sys2Proof.Machine.execMaxX e s
  | .and e => Sys2Proof.Machine.execAnd e s
  | .andX e => Sys2Proof.Machine.execAndX e s
  | .or e => Sys2Proof.Machine.execOr e s
  | .orX e => Sys2Proof.Machine.execOrX e s
  | .xor e => Sys2Proof.Machine.execXor e s
  | .xorX e => Sys2Proof.Machine.execXorX e s
  | .andn e => Sys2Proof.Machine.execAndn e s
  | .andnX e => Sys2Proof.Machine.execAndnX e s
  | .shl e => Sys2Proof.Machine.execShl e s
  | .shlX e => Sys2Proof.Machine.execShlX e s
  | .shr e => Sys2Proof.Machine.execShr e s
  | .shrX e => Sys2Proof.Machine.execShrX e s
  | .sar e => Sys2Proof.Machine.execSar e s
  | .sarX e => Sys2Proof.Machine.execSarX e s
  | .rot e => Sys2Proof.Machine.execRot e s
  | .rotX e => Sys2Proof.Machine.execRotX e s
  | .addsat e => Sys2Proof.Machine.execAddsat e s
  | .addsatX e => Sys2Proof.Machine.execAddsatX e s
  | .subsat e => Sys2Proof.Machine.execSubsat e s
  | .subsatX e => Sys2Proof.Machine.execSubsatX e s
  | .abs e => Sys2Proof.Machine.execAbs e s
  | .absX e => Sys2Proof.Machine.execAbsX e s
  | .neg e => Sys2Proof.Machine.execNeg e s
  | .negX e => Sys2Proof.Machine.execNegX e s
  | .clz e => Sys2Proof.Machine.execClz e s
  | .clzX e => Sys2Proof.Machine.execClzX e s
  | .ctz e => Sys2Proof.Machine.execCtz e s
  | .ctzX e => Sys2Proof.Machine.execCtzX e s
  | .popc e => Sys2Proof.Machine.execPopc e s
  | .popcX e => Sys2Proof.Machine.execPopcX e s
  | .mov e => Sys2Proof.Machine.execMov e s
  | .movX e => Sys2Proof.Machine.execMovX e s
  | .movTag e => Sys2Proof.Machine.execMovTag e s
  | .movRaw e => Sys2Proof.Machine.execMovRaw e s
  | .sel e => Sys2Proof.Machine.execSel e s
  | .selX e => Sys2Proof.Machine.execSelX e s
  | .shuf e => Sys2Proof.Machine.execShuf e s
  | .shufX e => Sys2Proof.Machine.execShufX e s
  | .bcast e => Sys2Proof.Machine.execBcast e s
  | .bcastX e => Sys2Proof.Machine.execBcastX e s
  | .ext e => Sys2Proof.Machine.execExt e s
  | .extX e => Sys2Proof.Machine.execExtX e s
  | .pack e => Sys2Proof.Machine.execPack e s
  | .packX e => Sys2Proof.Machine.execPackX e s
  | .unpack e => Sys2Proof.Machine.execUnpack e s
  | .unpackX e => Sys2Proof.Machine.execUnpackX e s
  | .mad e => Sys2Proof.Machine.execMad e s
  | .madX e => Sys2Proof.Machine.execMadX e s
  | .ins e => Sys2Proof.Machine.execIns e s
  | .insX e => Sys2Proof.Machine.execInsX e s
  | .fadd e => Sys2Proof.Machine.execFadd e s
  | .faddX e => Sys2Proof.Machine.execFaddX e s
  | .fsub e => Sys2Proof.Machine.execFsub e s
  | .fsubX e => Sys2Proof.Machine.execFsubX e s
  | .fmul e => Sys2Proof.Machine.execFmul e s
  | .fmulX e => Sys2Proof.Machine.execFmulX e s
  | .fma e => Sys2Proof.Machine.execFma e s
  | .fmaX e => Sys2Proof.Machine.execFmaX e s
  | .fmin e => Sys2Proof.Machine.execFmin e s
  | .fminX e => Sys2Proof.Machine.execFminX e s
  | .fmax e => Sys2Proof.Machine.execFmax e s
  | .fmaxX e => Sys2Proof.Machine.execFmaxX e s
  | .fabs e => Sys2Proof.Machine.execFabs e s
  | .fabsX e => Sys2Proof.Machine.execFabsX e s
  | .fneg e => Sys2Proof.Machine.execFneg e s
  | .fnegX e => Sys2Proof.Machine.execFnegX e s
  | .frcp e => Sys2Proof.Machine.execFrcp e s
  | .frcpX e => Sys2Proof.Machine.execFrcpX e s
  | .frsq e => Sys2Proof.Machine.execFrsq e s
  | .frsqX e => Sys2Proof.Machine.execFrsqX e s
  | .fsqrt e => Sys2Proof.Machine.execFsqrt e s
  | .fsqrtX e => Sys2Proof.Machine.execFsqrtX e s
  | .fexp2 e => Sys2Proof.Machine.execFexp2 e s
  | .fexp2X e => Sys2Proof.Machine.execFexp2X e s
  | .flog2 e => Sys2Proof.Machine.execFlog2 e s
  | .flog2X e => Sys2Proof.Machine.execFlog2X e s
  | .fdot e => Sys2Proof.Machine.execFdot e s
  | .fdotX e => Sys2Proof.Machine.execFdotX e s
  | .fcvt e => Sys2Proof.Machine.execFcvt e s
  | .fcvtX e => Sys2Proof.Machine.execFcvtX e s
  | .fround e => Sys2Proof.Machine.execFround e s
  | .froundX e => Sys2Proof.Machine.execFroundX e s
  | .cmp e => Sys2Proof.Machine.execCmp e s
  | .fcmp e => Sys2Proof.Machine.execFcmp e s
  | .plop e => Sys2Proof.Machine.execPlop e s
  | .pmov e => Sys2Proof.Machine.execPmov e s
  | .pmovNz e => Sys2Proof.Machine.execPmovNz e s
  | .pget e => Sys2Proof.Machine.execPget e s
  | .pgetMask e => Sys2Proof.Machine.execPgetMask e s
  | .pcnt e => Sys2Proof.Machine.execPcnt e s
  | .pcntX e => Sys2Proof.Machine.execPcntX e s
  | .setgf e => Sys2Proof.Machine.execSetgf e s
  | .pfirst e => Sys2Proof.Machine.execPfirst e s
  | .pfirstX e => Sys2Proof.Machine.execPfirstX e s
  | .br e => Sys2Proof.Machine.execBr e s
  | .brX e => Sys2Proof.Machine.execBrX e s
  | .jmp e => Sys2Proof.Machine.execJmp e s
  | .jmpTable e => Sys2Proof.Machine.execJmpTable e s
  | .call e => Sys2Proof.Machine.execCall e s
  | .callX e => Sys2Proof.Machine.execCallX e s
  | .callr e => Sys2Proof.Machine.execCallr e s
  | .ret e => Sys2Proof.Machine.execRet e s
  | .exit e => Sys2Proof.Machine.execExit e s
  | .safe e => Sys2Proof.Machine.execSafe e s
  | .brk e => Sys2Proof.Machine.execBrk e s
  | .brkX e => Sys2Proof.Machine.execBrkX e s
  | .ld e => Sys2Proof.Machine.execLd e s
  | .ldX e => Sys2Proof.Machine.execLdX e s
  | .st e => Sys2Proof.Machine.execSt e s
  | .stX e => Sys2Proof.Machine.execStX e s
  | .lds e => Sys2Proof.Machine.execLds e s
  | .ldsX e => Sys2Proof.Machine.execLdsX e s
  | .sts e => Sys2Proof.Machine.execSts e s
  | .stsX e => Sys2Proof.Machine.execStsX e s
  | .ldfe e => Sys2Proof.Machine.execLdfe e s
  | .ldfeX e => Sys2Proof.Machine.execLdfeX e s
  | .stef e => Sys2Proof.Machine.execStef e s
  | .stefX e => Sys2Proof.Machine.execStefX e s
  | .ldff e => Sys2Proof.Machine.execLdff e s
  | .ldffX e => Sys2Proof.Machine.execLdffX e s
  | .fefill e => Sys2Proof.Machine.execFefill e s
  | .fefillX e => Sys2Proof.Machine.execFefillX e s
  | .atom e => Sys2Proof.Machine.execAtom e s
  | .atomX e => Sys2Proof.Machine.execAtomX e s
  | .cas e => Sys2Proof.Machine.execCas e s
  | .casX e => Sys2Proof.Machine.execCasX e s
  | .fence e => Sys2Proof.Machine.execFence e s
  | .fenceX e => Sys2Proof.Machine.execFenceX e s
  | .wait e => Sys2Proof.Machine.execWait e s
  | .waitX e => Sys2Proof.Machine.execWaitX e s
  | .ldcap e => Sys2Proof.Machine.execLdcap e s
  | .ldcapX e => Sys2Proof.Machine.execLdcapX e s
  | .stcap e => Sys2Proof.Machine.execStcap e s
  | .stcapX e => Sys2Proof.Machine.execStcapX e s
  | .send e => Sys2Proof.Machine.execSend e s
  | .sendX e => Sys2Proof.Machine.execSendX e s
  | .recv e => Sys2Proof.Machine.execRecv e s
  | .recvTry e => Sys2Proof.Machine.execRecvTry e s
  | .cset e => Sys2Proof.Machine.execCset e s
  | .csetX e => Sys2Proof.Machine.execCsetX e s
  | .cperm e => Sys2Proof.Machine.execCperm e s
  | .cpermX e => Sys2Proof.Machine.execCpermX e s
  | .cinc e => Sys2Proof.Machine.execCinc e s
  | .cincX e => Sys2Proof.Machine.execCincX e s
  | .cget e => Sys2Proof.Machine.execCget e s
  | .cgetX e => Sys2Proof.Machine.execCgetX e s
  | .ctest e => Sys2Proof.Machine.execCtest e s
  | .ctestFit e => Sys2Proof.Machine.execCtestFit e s
  | .cseal e => Sys2Proof.Machine.execCseal e s
  | .csealX e => Sys2Proof.Machine.execCsealX e s
  | .cunseal e => Sys2Proof.Machine.execCunseal e s
  | .cunsealX e => Sys2Proof.Machine.execCunsealX e s
  | .cclr e => Sys2Proof.Machine.execCclr e s
  | .cclrX e => Sys2Proof.Machine.execCclrX e s
  | .cjoin e => Sys2Proof.Machine.execCjoin e s
  | .cjoinX e => Sys2Proof.Machine.execCjoinX e s
  | .cleave e => Sys2Proof.Machine.execCleave e s
  | .cleaveX e => Sys2Proof.Machine.execCleaveX e s
  | .cbar e => Sys2Proof.Machine.execCbar e s
  | .cbarX e => Sys2Proof.Machine.execCbarX e s
  | .carr e => Sys2Proof.Machine.execCarr e s
  | .carrX e => Sys2Proof.Machine.execCarrX e s
  | .cwait e => Sys2Proof.Machine.execCwait e s
  | .cwaitPh e => Sys2Proof.Machine.execCwaitPh e s
  | .cvote e => Sys2Proof.Machine.execCvote e s
  | .cvoteX e => Sys2Proof.Machine.execCvoteX e s
  | .cred e => Sys2Proof.Machine.execCred e s
  | .credX e => Sys2Proof.Machine.execCredX e s
  | .cmake e => Sys2Proof.Machine.execCmake e s
  | .trap e => Sys2Proof.Machine.execTrap e s
  | .trapX e => Sys2Proof.Machine.execTrapX e s
  | .tres e => Sys2Proof.Machine.execTres e s
  | .gets e => Sys2Proof.Machine.execGets e s
  | .getsX e => Sys2Proof.Machine.execGetsX e s
  | .puts e => Sys2Proof.Machine.execPuts e s
  | .putsX e => Sys2Proof.Machine.execPutsX e s
  | .migr e => Sys2Proof.Machine.execMigr e s
  | .migrX e => Sys2Proof.Machine.execMigrX e s
  | .tlbi e => Sys2Proof.Machine.execTlbi e s
  | .tlbiCtx e => Sys2Proof.Machine.execTlbiCtx e s
  | .tlbiVa e => Sys2Proof.Machine.execTlbiVa e s
  | .yield e => Sys2Proof.Machine.execYield e s
  | .ctrRead e => Sys2Proof.Machine.execCtrRead e s
  | .ctrReadX e => Sys2Proof.Machine.execCtrReadX e s
  | .ctrStart e => Sys2Proof.Machine.execCtrStart e s
  | .ctrStop e => Sys2Proof.Machine.execCtrStop e s
  | .ctrSel e => Sys2Proof.Machine.execCtrSel e s
  | .tmm e => Sys2Proof.Machine.execTmm e s
  | .tgmm e => Sys2Proof.Machine.execTgmm e s
  | .tsfx e => Sys2Proof.Machine.execTsfx e s
  | .tred e => Sys2Proof.Machine.execTred e s
  | .tcvt e => Sys2Proof.Machine.execTcvt e s
  | .tzero e => Sys2Proof.Machine.execTzero e s
  | .rcsnap e => Sys2Proof.Machine.execRcsnap e s
  | .rcread e => Sys2Proof.Machine.execRcread e s
  | .tstat e => Sys2Proof.Machine.execTstat e s
  | .cpy e => Sys2Proof.Machine.execCpy e s
  | .cpy2 e => Sys2Proof.Machine.execCpy2 e s
  | .cpyg e => Sys2Proof.Machine.execCpyg e s
  | .cfill e => Sys2Proof.Machine.execCfill e s
  | .qjoin e => Sys2Proof.Machine.execQjoin e s
  | .qstat e => Sys2Proof.Machine.execQstat e s
  | .gsub e => Sys2Proof.Machine.execGsub e s
  | .tpost e => Sys2Proof.Machine.execTpost e s
  | .trig e => Sys2Proof.Machine.execTrig e s
  | .vread e => Sys2Proof.Machine.execVread e s
  | .gstat e => Sys2Proof.Machine.execGstat e s
  | .gabort e => Sys2Proof.Machine.execGabort e s
  | .nwait e => Sys2Proof.Machine.execNwait e s
  | .nwaitTry e => Sys2Proof.Machine.execNwaitTry e s
  | .cfind e => Sys2Proof.Machine.execCfind e s
  | .cfree e => Sys2Proof.Machine.execCfree e s
  | .cstat e => Sys2Proof.Machine.execCstat e s
  | .hnew e => Sys2Proof.Machine.execHnew e s
  | .hext e => Sys2Proof.Machine.execHext e s
  | .hxl e => Sys2Proof.Machine.execHxl e s
  | .hfork e => Sys2Proof.Machine.execHfork e s
  | .hrel e => Sys2Proof.Machine.execHrel e s
  | .hcow e => Sys2Proof.Machine.execHcow e s
  | .hstat e => Sys2Proof.Machine.execHstat e s
  | .park e => Sys2Proof.Machine.execPark e s
  | .wake e => Sys2Proof.Machine.execWake e s
  | .lpro e => Sys2Proof.Machine.execLpro e s
  | .lstat e => Sys2Proof.Machine.execLstat e s
  | .thaw e => Sys2Proof.Machine.execThaw e s
  | .cxswCreate e => Sys2Proof.Machine.execCxswCreate e s
  | .slotw e => Sys2Proof.Machine.execSlotw e s
  | .govset e => Sys2Proof.Machine.execGovset e s
  | .qstatHandle => Sys2Proof.Machine.execQstatHandle s
  | .cxswRun => Sys2Proof.Machine.execCxswRun s
  | .cxswSuspend => Sys2Proof.Machine.execCxswSuspend s
  | .cxswResume => Sys2Proof.Machine.execCxswResume s
  | .cxswTeardown => Sys2Proof.Machine.execCxswTeardown s
  | .cxswFreeze => Sys2Proof.Machine.execCxswFreeze s
  | .cxswThawContext => Sys2Proof.Machine.execCxswThawContext s
  | .cxswPreemptCore => Sys2Proof.Machine.execCxswPreemptCore s
  | .breakpointMatch => Sys2Proof.Machine.evBreakpointMatch s
  | .fetchBlockReturn => Sys2Proof.Machine.evFetchBlockReturn s
  | .accessPerformed => Sys2Proof.Machine.evAccessPerformed s
  | .relaxedAccessDone => Sys2Proof.Machine.evRelaxedAccessDone s
  | .sendAccept => Sys2Proof.Machine.evSendAccept s
  | .hostCompletionTimeout => Sys2Proof.Machine.evHostCompletionTimeout s
  | .threadDrainEnd => Sys2Proof.Machine.evThreadDrainEnd s
  | .taskPlacement => Sys2Proof.Machine.evTaskPlacement s
  | .wavePlacement => Sys2Proof.Machine.evWavePlacement s
  | .landingTick => Sys2Proof.Machine.evLandingTick s
  | .graphAbandoned => Sys2Proof.Machine.evGraphAbandoned s
  | .kernelCopyComplete => Sys2Proof.Machine.evKernelCopyComplete s
  | .kernelUnregister => Sys2Proof.Machine.evKernelUnregister s
  | .unitDispatch => Sys2Proof.Machine.evUnitDispatch s
  | .ballastSliceEnd => Sys2Proof.Machine.evBallastSliceEnd s
  | .tileOpComplete => Sys2Proof.Machine.evTileOpComplete s
  | .copyComplete => Sys2Proof.Machine.evCopyComplete s
  | .engineTranslationFault => Sys2Proof.Machine.evEngineTranslationFault s
  | .engineDataError => Sys2Proof.Machine.evEngineDataError s
  | .engineCapabilityViolation => Sys2Proof.Machine.evEngineCapabilityViolation s
  | .joinResolve => Sys2Proof.Machine.evJoinResolve s
  | .queueResume => Sys2Proof.Machine.evQueueResume s
  | .queueDiscard => Sys2Proof.Machine.evQueueDiscard s
  | .handlerMessageDeliver => Sys2Proof.Machine.evHandlerMessageDeliver s
  | .hardPreemption => Sys2Proof.Machine.evHardPreemption s
  | .saveFrameFree => Sys2Proof.Machine.evSaveFrameFree s
  | .threadResume => Sys2Proof.Machine.evThreadResume s
  | .teardownEnd => Sys2Proof.Machine.evTeardownEnd s
  | .slotReassign => Sys2Proof.Machine.evSlotReassign s
  | .coreOverheat => Sys2Proof.Machine.evCoreOverheat s
  | .migrationTransfer => Sys2Proof.Machine.evMigrationTransfer s
  | .migrationRemap => Sys2Proof.Machine.evMigrationRemap s
  | .shareWrite => Sys2Proof.Machine.evShareWrite s
  | .budgetRefill => Sys2Proof.Machine.evBudgetRefill s
  | .governorWindowEnd => Sys2Proof.Machine.evGovernorWindowEnd s
  | .parkSaveWritten => Sys2Proof.Machine.evParkSaveWritten s
  | .thbmExpiry => Sys2Proof.Machine.evThbmExpiry s
  | .tcxlExpiry => Sys2Proof.Machine.evTcxlExpiry s
  | .pageMoveStart => Sys2Proof.Machine.evPageMoveStart s
  | .blockMoveComplete => Sys2Proof.Machine.evBlockMoveComplete s
  | .continuationPlacement => Sys2Proof.Machine.evContinuationPlacement s
  | .kernelRegister => Sys2Proof.Machine.evKernelRegister s
  | .kernelEvict => Sys2Proof.Machine.evKernelEvict s
  | .graphSubmit => Sys2Proof.Machine.evGraphSubmit s
  | .kvpoolWrite => Sys2Proof.Machine.evKvpoolWrite s
  | .qpCreate => Sys2Proof.Machine.evQpCreate s
  | .qpModify => Sys2Proof.Machine.evQpModify s
  | .qpDestroy => Sys2Proof.Machine.evQpDestroy s
  | .qpDoorbellSend => Sys2Proof.Machine.evQpDoorbellSend s
  | .qpDoorbellRecv => Sys2Proof.Machine.evQpDoorbellRecv s
  | .workRequest => Sys2Proof.Machine.evWorkRequest s
  | .workRequestComplete => Sys2Proof.Machine.evWorkRequestComplete s
  | .rdmaWriteIn => Sys2Proof.Machine.evRdmaWriteIn s
  | .rdmaReadIn => Sys2Proof.Machine.evRdmaReadIn s
  | .rdmaAtomicIn => Sys2Proof.Machine.evRdmaAtomicIn s
  | .sendIn => Sys2Proof.Machine.evSendIn s
  | .debugResume => Sys2Proof.Machine.evDebugResume s
  | .debugStep => Sys2Proof.Machine.evDebugStep s
  | .debugStop => Sys2Proof.Machine.evDebugStop s
  | .stepStop => Sys2Proof.Machine.evStepStop s
  | .logEnable => Sys2Proof.Machine.evLogEnable s
  | .logDeltaOverflow => Sys2Proof.Machine.evLogDeltaOverflow s
  | .sampleEnable => Sys2Proof.Machine.evSampleEnable s
  | .pcSample => Sys2Proof.Machine.evPcSample s
  | .rasClear => Sys2Proof.Machine.evRasClear s
  | .systemRegisterWrite => Sys2Proof.Machine.evSystemRegisterWrite s
  | .hostRegisterRead32 => Sys2Proof.Machine.evHostRegisterRead32 s
  | .hostRequest => Sys2Proof.Machine.evHostRequest s
  | .scrubPass => Sys2Proof.Machine.evScrubPass s
  | .controlFault => Sys2Proof.Machine.evControlFault s
  | .ptpMessage => Sys2Proof.Machine.evPtpMessage s
  | .linkTrainingEnd => Sys2Proof.Machine.evLinkTrainingEnd s
  | .laneFailure => Sys2Proof.Machine.evLaneFailure s
  | .linkLoss => Sys2Proof.Machine.evLinkLoss s
  | .linkRetrain => Sys2Proof.Machine.evLinkRetrain s
  | .flitReceive => Sys2Proof.Machine.evFlitReceive s
  | .packetRequest => Sys2Proof.Machine.evPacketRequest s
  | .packetReply => Sys2Proof.Machine.evPacketReply s
  | .replyAck => Sys2Proof.Machine.evReplyAck s
  | .retransmitTimeout => Sys2Proof.Machine.evRetransmitTimeout s
  | .powerOnReset => Sys2Proof.Machine.evPowerOnReset s
  | .recoveryFirmware => Sys2Proof.Machine.evRecoveryFirmware s
  | .recoveryConfig => Sys2Proof.Machine.evRecoveryConfig s
  | .recoveryVerifyEnd => Sys2Proof.Machine.evRecoveryVerifyEnd s
  | .getVersion => Sys2Proof.Machine.evGetVersion s
  | .getCapabilities => Sys2Proof.Machine.evGetCapabilities s
  | .negotiateAlgorithms => Sys2Proof.Machine.evNegotiateAlgorithms s
  | .getCertificate => Sys2Proof.Machine.evGetCertificate s
  | .challenge => Sys2Proof.Machine.evChallenge s
  | .getMeasurements => Sys2Proof.Machine.evGetMeasurements s
  | .pageWalkEnd => Sys2Proof.Machine.evPageWalkEnd s
  | .currentBlockEnd => Sys2Proof.Machine.evCurrentBlockEnd s
  | .degradedRetrain => Sys2Proof.Machine.evDegradedRetrain s
  | .qpRetryTimeout => Sys2Proof.Machine.evQpRetryTimeout s

end Sys2Proof.Machine
end

