-- ==== Sys2Proof/Machine/Issue.lean ====
section
/-!
DEFINITION. What goes with an issue beside the instruction (spec/26 R407, R408; spec/27 R424 to R431; spec/17 R314, R321):
its charges and counts, lockstep pairs, stepping, and what every step leaves behind it.
-/
namespace Sys2Proof.Machine

/-! ## Classes of instructions -/

/-- The opcode of an instruction. -/
def opcodeOf (i : Instr) : Nat := match i.row with | some (r, _) => r.op | none => 0x80

/-- The fields of an instruction. -/
def fieldsOf (i : Instr) : Option Fields := i.row.map (·.2)

/-- Special-function, `div` and `rem` opcodes (07 R122). -/
def longOp (op : Nat) : Bool := op == 0x04 || op == 0x05 || decide (0x28 ≤ op ∧ op ≤ 0x2C)

/-- Lane-wise rows: the number of whose active lanes scales the charge. -/
def laneWise (i : Instr) : Bool :=
  match i with
  | .movTag _ | .pget _ => false
  | _ => let op := opcodeOf i; (op != 0x1B && decide (op ≤ 0x34))

/-- C of the class of an instruction, pJ (26 R407 Table 2). -/
def classCharge (i : Instr) : Nat :=
  let op := opcodeOf i
  if longOp op then 40
  else if !laneWise i then 4
  else if decide (0x20 ≤ op ∧ op ≤ 0x2F) || op == 0x31 then 16
  else 10

/-- The width of the lanes of a lane-wise instruction that its guard governs: 4 for logical, move, select, shuffle and
predicate rows, that of the result for a conversion (07 R134, R139, R140), else that of its type. -/
def Thread.chargeWidth (t : Thread) (i : Instr) (e : Fields) : Nat :=
  let op := opcodeOf i
  let w := laneWidth (t.typeOf e)
  if op = 0x2D then 32
  else if op = 0x2E then fmtWidth (if e.hasWord1 then e.ty.toNat else e.b.toNat)
  else if w ≠ 0 && op = 0x1C then w / 2
  else if w ≠ 0 && op = 0x1D then 2 * w
  else if decide (0x08 ≤ op ∧ op ≤ 0x0B) || decide (0x17 ≤ op ∧ op ≤ 0x19) || decide (0x32 ≤ op) then 4 else max 4 (liveWidth (t.typeOf e))

/-- The width of the lanes that make a memory instruction live: `ld`, `st` and `fefill` (08 R164, R166, R169). -/
def memLanes (i : Instr) (e : Fields) : Option Nat :=
  match i with
  | .ld _ | .ldX _ | .st _ | .stX _ => some (liveWidth e.ty.toNat)
  | .fefill _ | .fefillX _ => some 64
  | _ => none

/-- The active lanes and the lanes of an instruction at a thread; a scalar one has one, which of `ld`, `st` and `fefill` any
lane makes active. -/
def Thread.lanesOf (t : Thread) (i : Instr) (e : Fields) : Nat × Nat :=
  if let some w := memLanes i e then (flag (t.live e.g w), 1)
  else if laneWise i then
    let w := t.chargeWidth i e
    let n := if w = 6 then 20 else 128 / w
    (((List.range n).filter fun l => t.active e.g w l).length, n)
  else (flag (t.live0 e.g), 1)

/-- The class charge: ⌈(C − 2) × a / n⌉. -/
def Thread.classPj (t : Thread) (i : Instr) : Nat :=
  match fieldsOf i with
  | none => 0
  | some e => let (a, n) := t.lanesOf i e; ((classCharge i - 2) * a + n - 1) / n

/-- The instruction is live. -/
def Thread.liveAt (t : Thread) (i : Instr) : Bool :=
  match fieldsOf i with | none => false | some e => decide (0 < (t.lanesOf i e).1)

/-- A lockstep pair takes a checkpoint before the instruction: atomics, `cas`, full/empty accesses, `send`, `recv`, `exit`,
and escapes 0x70 to 0x75 (R321). -/
def takesCheckpoint (i : Instr) : Bool :=
  let op := opcodeOf i
  decide (0x44 ≤ op ∧ op ≤ 0x49) || op == 0x4E || op == 0x4F || op == 0x3D || decide (0x70 ≤ op ∧ op ≤ 0x75)

/-! ## Charges and counts of an issue -/

/-- Charge `pj` to a slot and its core (26 R407, R408). -/
def State.chargeAt (s : State) (n c : Nat) (graph : Option Nat) (pj : Nat) : State :=
  let x := s.slot n
  let k := s.core (slotCore n)
  let s := s.setSlot n { x with quota := x.quota - pj }
  let s := s.setCore (slotCore n) { k with charged := k.charged + pj }
  s.credit (slotDie n) c (graph.filter fun g => s.graphs.any fun e => e.1 == g) pj

/-- Charge an issue of the thread `t` in slot `n`, which may have left it, of which `acc` is for accesses. Both cores of a
lockstep pair issue, and the even one makes the accesses (17 R321, log 59). -/
def State.chargeIssue (s : State) (n : Nat) (t : Thread) (graph : Option Nat) (own acc : Nat) : State :=
  let s := s.chargeAt n t.ctx graph (own + acc)
  if t.pair then s.chargeAt (n + 16) t.ctx graph own else s

/-- `ctr.start` and `ctr.stop` are not counted (27 R432). -/
def uncounted : Instr → Bool
  | .ctrStart _ | .ctrStop _ => true
  | _ => false

/-- Count a turn of a context: issued and live, borrowed, or forfeited (27 R431, 02 R27). -/
def State.countIssue (s : State) (c : Nat) (i : Instr) (live borrowed forfeited : Bool) : State :=
  if uncounted i || (s.ctx c).counters.isEmpty then s
  else
    let s := if borrowed then s.countEvent c 3 1 else s
    if forfeited then s.countEvent c 4 1
    else
      let s := s.countEvent c 1 1
      if live then s.countEvent c 2 1 else s

/-- What a core's turn showed the sampler (27 R430). -/
def State.noteTurn (s : State) (core : Nat) (v : IssueNote) : State := s.setCore core { s.core core with note := v }

/-- What the turn of an issue of a thread shows: on both cores of a lockstep pair, whose turns it takes. -/
def State.noteIssue (s : State) (n : Nat) (t : Thread) (v : IssueNote) : State :=
  let s := s.noteTurn (slotCore n) v
  if t.pair then
    let odd := slotCore n + 1
    s.setCore odd { s.core odd with note := v, taken := s.cycle odd + 1 }
  else s

/-- The bubble of a turn of slot `n`. -/
def State.noteBubble (s : State) (n : Nat) : State := s.noteTurn (slotCore n) ⟨slotNum n, 0, 0, 1⟩

/-! ## After the instruction -/

/-- The thread after its instruction: a forfeited turn does not count (07 R155); whether it was a long one is kept for
lending (02 R29); one that had waited on memory to be issued again and has a request goes on waiting there, past the
instruction, and is then saved (17 R314). -/
def Thread.afterIssue (t : Thread) (before : Thread) (i : Instr) : Thread :=
  let t := { t with dist := if t.lost then before.dist else t.dist, lastSfu := longOp (opcodeOf i) }
  if before.wait.reason == 2 && before.stepping == 0 && t.request.isSome && !t.reissue && t.wait == .none && t.stopped.isNone && !t.frozen then
    { t with wait := .memory }
  else t

/-- What follows an issue of the thread `t` in slot `n`, between two machines. An instruction that is issued again costs the
issue charge; its class was charged, and it was counted, when it issued first (log 97). -/
def State.afterIssue (before s : State) (n : Nat) (t : Thread) (i : Instr) (borrowed : Bool) (offered : Nat) : State :=
  let forfeited := match s.thread n with | some u => u.lost | none => false
  let s := match s.thread n with | some u => s.setThread n (u.afterIssue t i) | none => s
  let live := t.liveAt i
  let own := if t.reissue || forfeited then 2 else 2 + t.classPj i
  let s := s.chargeIssue n t (before.graphOf t.gtid) own s.spent
  let s := if t.reissue then s else s.countIssue t.ctx i live borrowed forfeited
  let s := s.noteIssue n t
    ⟨slotNum offered, t.gtid, t.pc, 2 * flag borrowed + 4 * flag live + 8 * flag forfeited⟩
  State.stepped before { s with spent := 0 } n

/-- A mismatch of a lockstep pair: nothing of the instruction takes effect, and the checkpoint is restored; a second one at
the same instruction stops the pair (R321). -/
def State.mismatchAt (s : State) (n : Nat) (t : Thread) : State :=
  if t.mismatch = some t.pc then s.coreFault n 1 0
  else
    let s := { s with ras := { s.ras with lock := satInc 8 s.ras.lock } }
    s.rollback n { t with mismatch := some t.pc }

/-! ## Time and what every step leaves behind it -/

/-- Cycles of the threads of a context that wait in the memory class, while `u` units of time pass. -/
def State.memoryCycles (s : State) (c u : Nat) : Nat :=
  s.slots.foldl (fun v e => match e.2.thread with
    | some t =>
      let p := corePeriod (slotCore e.1)
      if t.ctx = c ∧ reasonClass (s.reasonOf e.1) = 2 then v + ((s.osc + u) / p - s.osc / p) else v
    | none => v) 0

/-- The counters of time (27 R431), while `u` units and `ns` of the waymark clock pass. -/
def State.countTime (s : State) (u ns : Nat) : State :=
  (s.ctxs.filterMap fun e => if e.2.counters.isEmpty then none else some e.1).foldl (fun x c =>
    (x.countEvent c 5 ns).countEvent c 6 (s.memoryCycles c u)) s

/-- How far the clock is slewed while its oscillator passes `u` units, which are `ns`: nothing, or the 1 ns that 100 ppm allow in
10 µs of the oscillator, a free value, which neither turns the clock back nor passes the next microsecond (26 R404, log 38). -/
def State.slewBy (s : State) (u ns : Nat) : Nat × State :=
  if s.slew = 0 || decide (s.osc + u < s.slewed) then (0, s)
  else
    let (v, s) := s.takeFree
    let room := if 0 < s.slew then s.clockRoom - ns else ns
    (v % (min 1 room + 1), s)

/-- From when the clock may be slewed again: 10 µs after it has been slewed by 1 ns. -/
def State.slewedTo (s : State) (d osc : Nat) : Nat := if d = 0 then s.slewed else osc + 350000

/-- Units of 1/35 ns that may pass: no turn, refill, window's end, tick, sample or passing of slots is passed over. -/
def State.timeRoom (s : State) : Nat := s.sampleRoom (s.shareRoom s.room)

/-- At most `u` units of 1/35 ns pass: as many as `timeRoom` allows (02 R27, R37, log 1). -/
def State.elapse (s : State) (u : Nat) : State :=
  let u := min u s.timeRoom
  let ns := (s.osc + u) / 35 - s.osc / 35
  let (d, s) := s.slewBy u ns
  let gone := if 0 < s.slew then ns + d else ns - d
  State.closeCycles s { s.countTime u gone with
    now := s.now + gone, osc := s.osc + u, slew := if 0 < s.slew then s.slew - d else s.slew + d
    slewed := s.slewedTo d (s.osc + u)
    windowed := if s.boot.stage < 5 then (s.now + gone) / 1000000 else s.windowed }

/-- A `tlbi` whose walks and accesses have all ended is passed (22 R366); a thread with a request goes on waiting past it, and
is then saved. -/
def State.passTlbi (s : State) : State :=
  (s.slots.filterMap fun e => match e.2.thread with
    | some t => match t.wait with
      | .tlb kind c va size f =>
        if s.staleLeft kind c va size then none
        else some (e.1, { t.next f with wait := if t.goesOnWaiting then .memory else .none })
      | _ => none
    | none => none).foldl (fun s x => s.setThread x.1 x.2) s

/-- Stage 1 of a wake that has nothing to promote ends at once (23 R382). -/
def State.settleWakes (s : State) : State :=
  (s.conts.filter fun c => c.state == .stage1 && c.up.isEmpty).foldl (fun s c => s.movesEnded c.ctx c.frame) s

/-- Requests of relaxed accesses that may now be performed are sent (08 R161, R162). -/
def State.askAll (s : State) : State :=
  (s.slots.filterMap fun e => match e.2.thread with
    | some t => if (s.unasked e.1 t).isSome then some e.1 else none
    | none => none).foldl (fun s n => State.askRelaxed n 64 s) s

/-- What crews have for other packages is asked of them (25 R398). -/
def State.askPeers (s : State) : State := s.peerOut.foldl (fun s x => s.ask x.1 0 (.message x.2)) { s with peerOut := [] }

/-- A thread at a boundary takes the stop that is due for a held arrival (20 R352). -/
def State.takeDue (s : State) : State :=
  (s.slots.filterMap fun e => e.2.thread.bind fun t => t.due.bind fun d =>
    match t.wait with
    | .memory | .upperHalf .. | .remote .. | .peer .. | .crew .. | .crewHeld .. => none
    | _ => if t.halted || t.stopped.isSome || t.frozen || t.migrating then none else some (e.1, t, d)).foldl
    (fun s x => ((s.setThread x.1 { x.2.1 with due := none }).withdraw x.1).stopThread x.1 x.2.2.1 x.2.2.2 0 0 0) s

/-- What follows every step: queues that no unit serves any more (26 R418), stops that a violation of a handler has begun (17 R309), wakes without promotions (23 R382), `tlbi`s that have ended (22
R366), tracks that a context has lost (17 R319), stops that are due
(20 R352), debug stops of threads that wait (27 R426), requests that are met at once (R314), sends that can no longer be received
(08 R189), requests to other packages (25 R398), the log (27 R428), threads that have nothing to drain (07 R153), and records that die
memory takes (27 R429, R430). -/
def State.settleStep (before s : State) : State :=
  let s := State.settleStops before s.haltUnserved
  let s := State.discardSends before s.settleWakes.passTlbi.leaveTracks.takeDue.takeStops.meetRequests
  let s := s.askAll.withdrawFar.meetHeldOver.tellWaits.askPeers
  let s := State.logChanges before (State.sendRequests s.requests.length s)
  (State.drainHalted before s).takeRecords

/-- `settleStep` of a next state. -/
def afterMove (before : State) : Result → Result
  | .next s => .next (State.settleStep before s)
  | r => r

end Sys2Proof.Machine
end

