-- ==== Sys2Proof/Machine/Turn.lean ====
section
/-!
DEFINITION. One turn (spec/06 R111, spec/02 R27 to R29, spec/07 R155): fetch, decode, issue, and what follows an issue.
-/
namespace Sys2Proof.Machine

/-- The machine as the fetched instruction of slot `n` is executed: the slot issues, and the instruction counts toward
its safe-point distance unless it is issued again (07 R155). -/
def State.atIssue (s : State) (n : Nat) (t : Thread) (buf : List CodeBlock) : State :=
  let t := { t with wait := .none, fbuf := buf, lost := false, dist := if t.reissue then t.dist else min 65535 (t.dist + 1)
                    marked := false, mismatch := if t.mismatch = some t.pc then none else t.mismatch }
  { s.setThread n t with cur := n }

/-- A lockstep pair has to take its checkpoint before it issues an instruction; the retry of a forfeited turn has it. -/
def Thread.needsCheckpoint (t : Thread) (i : Instr) : Bool := t.pair && takesCheckpoint i && !t.marked && !t.lost

/-- A lockstep pair takes its checkpoint before an instruction, and is held out of rotation (17 R321): the turn is a bubble. -/
def State.beforeIssue (s : State) (n : Nat) (t : Thread) (buf : List CodeBlock) (offered : Nat) : State :=
  ((s.setThread n { t.heldFrom (s.cycle (slotCore n)) with marked := true, fbuf := buf }).checkpoint n t).noteBubble offered

/-- An instruction of the lay-by's control: handles and continuations (22 R372, 23 R375), which its store serves. -/
def usesLayBy (i : Instr) : Bool := let op := opcodeOf i; decide (0x74 ≤ op ∧ op ≤ 0x75)

/-- The trap of an uncorrectable error that an instruction meets in a register or in the lay-by's store (26 R417, 08 R177, log 102). -/
def State.storeError (s : State) (t : Thread) (i : Instr) : Option Trap :=
  if s.opts.ecc = 2 then some (.data 0 0 true)
  else if s.opts.ecc = 3 && usesLayBy i && t.liveAt i then some (.data 0 0 false)
  else none

/-- An instruction that issues and takes no effect: its turn's charge and what the turn shows. -/
def State.issueOnly (s : State) (n : Nat) (t : Thread) (i : Instr) (borrowed : Bool) (offered : Nat) : State :=
  (s.chargeIssue n t (s.graphOf t.gtid) 2 0).noteIssue n t ⟨slotNum offered, t.gtid, t.pc, 2 * flag borrowed + 4 * flag (t.liveAt i)⟩

/-- A single-bit error of a register or of the lay-by's store is corrected and counted. -/
def State.countEcc (s : State) : State :=
  if s.opts.ecc = 1 then { s with ras := { s.ras with cesram := satInc 16 s.ras.cesram } } else s

/-- Run an instruction from slot `n`, in a turn offered to slot `offered`. -/
def State.runInstr (s : State) (n : Nat) (t : Thread) (buf : List CodeBlock) (i : Instr) (borrowed : Bool) (offered : Nat) :
    Result :=
  if t.needsCheckpoint i then .next (s.beforeIssue n t buf offered)
  else if t.pair && s.opts.mismatch then .next ((s.mismatchAt n t).issueOnly n t i borrowed offered)
  else match s.storeError t i with
    | some x =>
      .next ((({ s with ras := { s.ras with ue := satInc 8 s.ras.ue } } : State).take n x).issueOnly n t i borrowed offered)
    | none => match exec i (({ s.countEcc with spent := 0 } : State).atIssue n t buf) with
      | .next s' => .next (State.afterIssue s s' n t i borrowed offered)
      | r => r

/-- Code of the thread in slot `n` lies in its own core's scratch: an error in it is one of the core (17 R341, 19 R341). -/
def State.ownCode (s : State) (n : Nat) (t : Thread) (va : Nat) : Bool :=
  match (s.mapped t.ctx va).1 with
  | .page x => s.inCore (slotCore n) (x.key va)
  | _ => false

/-- A turn of slot `offered` taken by the thread in slot `n`: its own, or a borrowed one, which is not taken for a long
instruction (02 R29). A debug stop or a breakpoint comes first (27 R423). A thread whose block is absent counts as not
ready for the turn (06 R114): `late` is what then becomes of it. -/
def State.issueTurn (s : State) (n : Nat) (borrowed : Bool) (offered : Nat) (late : State → Result) : Result :=
  match s.thread n with
  | none => .next s
  | some t =>
    let s := ({ s with cur := n } : State)
    match s.debugTurn n with
    | some s => .next (s.noteBubble offered)
    | none =>
      match s.fetch n t with
      | (.pending, s) => late s
      | (.walking va, s) => late (s.setThread n { t with wait := .walk (slotGrove n) va })
      | (.fault c d a, s) => .next ((s.stopThread n 3 c d 0 a).noteBubble offered)
      | (.bad a, s) => .next ((s.take n (.data 0 a (s.ownCode n t a))).noteBubble offered)
      | (.bytes l buf, s) =>
        match decode l with
        | .error (.cause c) => .next ((s.stopThread n 1 c 0 0 0).noteBubble offered)
        | .error .short => .next (s.noteBubble offered)
        | .ok i => if borrowed && isLong i then .next (s.noteBubble offered) else s.runInstr n t buf i borrowed offered

/-- The turn of slot `n` is lent where the rules allow it, else it is a bubble (02 R27, R29). -/
def State.lendTurn (n : Nat) (s : State) : Result :=
  let bubble (s : State) : Result := .next (s.noteBubble n)
  if s.mayBorrow n then ({ s with opts := { s.opts with late := s.opts.lateLent } } : State).issueTurn (lender n) true n bubble
  else bubble s

/-- What remains of an access of 16 bytes to its own core's scratch is performed before a turn that the thread may take (R28,
08 R163). -/
def State.finishOwn (s : State) (n : Nat) : State :=
  match s.thread n with
  | some t => match t.wait with
    | .upperHalf a e low => if s.inCore (slotCore n) a.key then (s.performUpper n t a e low).afterReturn n else s
    | _ => s
  | none => s

/-- The turn of slot `n` (02 R27): its own thread issues, else the turn is lent, else it is a bubble. -/
def State.turn (s : State) (n : Nat) (o : TurnOpts) : Result :=
  let s := ((({ s with opts := o } : State).finishOwn n).finishOwn (lender n))
  if s.ready n then s.issueTurn n false n (State.lendTurn n) else s.lendTurn n

/-- The turn of a core's present cycle, which goes to slot (cycle mod 16), once (02 R27). -/
def State.coreTurn (s : State) (core : Nat) (o : TurnOpts) : Result :=
  let c := s.cycle core
  if c < (s.core core).taken then .next s
  else (s.setCore core { s.core core with taken := c + 1 }).turn (core * 16 + c % 16) o

/-- The instruction rows that carry no fields: a turn reaches what they do through the words of `cxsw` and `qstat`. -/
def isVariant : Instr → Bool
  | .qstatHandle | .cxswRun | .cxswSuspend | .cxswResume | .cxswTeardown | .cxswFreeze | .cxswThawContext
  | .cxswPreemptCore => true
  | _ => false

/-- An event of the opcode table: a row without an encoding. -/
def isEvent (i : Instr) : Bool := i.row.isNone && !isVariant i

/-- What moves: a turn, or an event with what it is about. -/
def State.move (s : State) : Move → Result
  | .turn core o => s.coreTurn core o
  | .event i a => if isEvent i then exec i { s with arg := a } else .next s

/-- What the thread of a slot waits for, where the package brings it about itself. -/
def State.idleEvent (s : State) (n : Nat) : Move :=
  let a := { Arg.none with index := n }
  match s.thread n with
  | none => .turn (slotCore n) TurnOpts.plain
  | some t => match t.wait with
    | .memory | .upperHalf .. => .event .accessPerformed a
    | .send .. => .event .sendAccept a
    | .none => .turn (slotCore n) TurnOpts.plain
    | _ => if t.rx.isEmpty then .turn (slotCore n) TurnOpts.plain else .event .relaxedAccessDone a

/-- With nothing in the agenda: a refill, a window's end, a tick of a Landing or a passing of slots that is due, else a turn that
would be issued in, else a sample that is due, else what the thread that issued last waits for (log 2). What a window's end reads of the board and of the Landings is then free. -/
def State.idleMove (s : State) : Move :=
  match s.dueRefill with
  | some d => .event .budgetRefill { Arg.none with index := d }
  | none =>
    if s.dueWindow then
      .event .governorWindowEnd { Arg.none with value := Config.free s.fresh % 2 ^ 32, addr := Config.free s.fresh / 2 ^ 32 }
    else match s.dueTick, s.dueShare, s.dueCore, s.dueSample with
      | some d, _, _, _ => .event .landingTick { Arg.none with index := d }
      | _, some core, _, _ => .event .slotReassign { Arg.none with index := core }
      | _, _, some core, _ => .turn core TurnOpts.plain
      | _, _, _, some core => .event .pcSample { Arg.none with index := core }
      | _, _, _, _ => s.idleEvent s.cur

/-- The next input: the head of the agenda, or with none left an idle one, with the machine that has taken it, whose memory has
met the input's bit errors (26 R417). -/
def State.nextInput (s : State) : Input × State :=
  match s.agenda with
  | i :: r => (i, i.hits.foldl State.hitWord { s with agenda := r, busy := i.busy })
  | [] => ({ elapsed := Config.elapsed s.fresh, move := s.idleMove }, { s with fresh := s.fresh + 1, busy := false })

/-! ## Placing one instruction (log 22) -/

/-- Put bytes into memory from a key. -/
def State.putBytes (s : State) (k : Nat) : List Byte → State
  | [] => s
  | b :: r => State.putBytes (s.setByte k b) (k + 1) r

/-- The leaf entry of the probe's page: valid, executable, grove memory of grove 0. -/
def probeLeaf (pkg : Nat) : Nat := 2 ^ 63 + 2 ^ 60 + 2 * 2 ^ 52 + pkg

/-- The thread of the probe: a blank thread of context 0 whose p0 is all ones, with its PC at 0. -/
def probeThread : Thread := Thread.blank.setPred 0 0xFFFFFFFF

/-- Place an instruction where the next step fetches: with a thread in the slot of core 0 whose turn it is. -/
def State.placeProbe (s : State) (w : Nat) : State :=
  let s := s.putBytes (memKey s.pkg 2 0) (tableBytes w)
  let s := s.setGrove 0 { s.grove 0 with tlb := [{ ctx := 0, base := 0, size := 4096, leaf := probeLeaf s.pkg }] }
  let n := s.cycle 0 % 16
  let s := s.setSlot n { Slot.empty with quota := 1, thread := some probeThread }
  let s := s.setCore 0 { s.core 0 with taken := 0, dead := false }
  { s with cur := n, agenda := [{ elapsed := 0, move := .turn 0 TurnOpts.plain }] }

end Sys2Proof.Machine
end

