-- ==== Sys2Proof/Machine/Step.lean ====
section
/-!
DEFINITION. One step of the package: the next input of the agenda moves.
-/
namespace Sys2Proof.Machine

/-- One step. -/
def step (s : State) : Host.Outcome State Fault Refusal :=
  afterMove s ((s.nextInput.2.elapse s.nextInput.1.elapsed).move s.nextInput.1.move)

/-- The state with an instruction placed where the next step fetches (log 22): the numbered bits, and zeros above them up
to the longest instruction, at address 0 of a page that maps grove memory of grove 0, and a launched thread of context 0
in the slot of core 0 whose turn it is, with its PC at that address. -/
def State.withFetchWord (s : State) (nbits w : Nat) : State :=
  s.placeProbe (w % 2 ^ nbits)

end Sys2Proof.Machine
end

