-- ==== Sys2Proof/Safety.lean ====
section
/-!
DEFINITION. What the claims are stated in: the conditions under which an instruction executes normally, what an instruction
of each shape leaves, the tables of spec/ that give an operation's value, and the invariants of a state.
-/
namespace Sys2Proof.Machine

/-! ## Frames -/

/-- The thread `t'` is `t` past the instruction `e`: but for registers, predicates, the guard frame, the generator and the
PC, nothing that the program can see differs (06 R111; the cleared fields are the model's own marks of a retry). -/
def Thread.passes (t t' : Thread) (e : Fields) : Prop :=
  t' = { t with q := t'.q, p := t'.p, gf := t'.gf, gen := t'.gen, pc := t.pc + BitVec.ofNat 64 (4 * e.form.words)
                reissue := false, prio := false, skipBp := false, absent := none }

/-- Between `s` and `s'` nothing but the issuing thread, memory, its error counts and the energy of the issue has changed. -/
def State.onlyMemory (s s' : State) : Prop :=
  s' = { s with slots := s'.slots, mem := s'.mem, ras := s'.ras, spent := s'.spent } ∧ ∀ n, n ≠ s.cur → s'.slot n = s.slot n

/-- Every byte outside the `n` from `k` reads as before, but for one of the CXL tag region that holds a tag bit of their granules
(22 R369). -/
def State.bytesOutside (s s' : State) (k n : Nat) : Prop :=
  ∀ j, j < k ∨ k + n ≤ j → (∀ i, i < n → ¬ s.isTagByte (k + i) j) → s'.byte j = s.byte j

/-! ## Lane-wise instructions (07 R118 to R121) -/

/-- A lane-wise instruction of the thread `t` passes its checks: some lane is live (R63), its register sources have the type
(R67 to R69), its streams pass their checks, have nothing to wait for (R120, 17 R320) and meet no error (R75), and no bank is in
conflict (R76). -/
def State.passesChecks (s : State) (t : Thread) (e : Fields) (u : LaneUse) (w : Nat) : Prop :=
  s.thread s.cur = some t ∧ t.live e.g w = true ∧ t.typesOk e u = true ∧
  s.streamTrap t (t.nibbleMask e.g w) (streamsOf e) = none ∧
  (∀ x ∈ streamsOf e, s.streamWaits t (t.nibbleMask e.g w) x = none ∧ s.streamError t (t.nibbleMask e.g w) x = none) ∧
  (streamsOf e = [] ∨ t.prio = true ∨
    (ownConflict ((streamsOf e).map fun x => s.streamKey t x.reg) = false ∧ s.opts.lostBank = false))

/-- One that writes fd executes normally: its checks pass, and a stream source is not its register destination (R75, which the
decoder sees to). -/
def State.admits (s : State) (t : Thread) (e : Fields) (u : LaneUse) (w : Nat) : Prop :=
  s.passesChecks t e u w ∧ (e.sfd = true ∨ e.streamNames e.d = false)

/-- A register that is a stream operand ends at its cursor plus the stride; another is as it was (R72, R75). -/
def Thread.streamed (t t' : Thread) (e : Fields) (r : BitVec 5) : Prop :=
  t'.reg r = if e.streamNames r || (e.sfd && r == e.d) then moveCursor (t.reg r) (wrap 64 ((t.reg r).lo + e.stride)) else t.reg r

/-- What a lane-wise instruction leaves: in the active lanes of width `w` of fd, or of the 16 bytes its stream addresses,
the values `v`, elsewhere what was there; fd tagged `tag`; the stream cursors moved; the generator at `gen`; and nothing
else changed. -/
def State.lanesDone (s s' : State) (t : Thread) (e : Fields) (w tag : Nat) (gen : Word64) (v : Nat → Nat) : Prop :=
  ∃ t', s'.thread s.cur = some t' ∧ t.passes t' e ∧ t'.p = t.p ∧ t'.gf = t.gf ∧ t'.gen = gen ∧ s.onlyMemory s' ∧
    (if e.sfd then
      (∀ r, t.streamed t' e r) ∧ s.bytesOutside s' (s.streamKey t e.d) 16 ∧
      (s.mem.wf = true → ∀ l, l < 128 / w → lane (s'.readNum (s.streamKey t e.d) 16) w l =
        if t.active e.g w l then v l % 2 ^ w else lane (s.readNum (s.streamKey t e.d) 16) w l)
    else
      (∀ r, r ≠ e.d → t.streamed t' e r) ∧ (∀ k, s'.byte k = s.byte k) ∧
      (t'.reg e.d).cap = false ∧ (t'.reg e.d).tag = BitVec.ofNat 5 tag ∧
      ∀ l, l < 128 / w → lane (t'.reg e.d).bits.toNat w l =
        if t.active e.g w l then v l % 2 ^ w else lane (t.reg e.d).bits.toNat w l)

/-- The generator before lane `l`, when each active lane takes it in ascending order (04 R61, 05 R89). -/
def genBefore (active : Nat → Bool) (f : Nat → Nat → Nat × Nat) (gen : Nat) : Nat → Nat
  | 0 => gen
  | l + 1 => if active l then (f l (genBefore active f gen l)).2 else genBefore active f gen l

/-! ## Liveness (04 R63) -/

/-- The rows that lane 0 of their guard makes live: the scalar ones of chapters 07, 08 and 11 to 27 but for the privileged escape,
which acts live or not (17 R322). -/
def scalarRow : Instr → Option Fields
  | .movTag e | .pget e | .pcnt e | .pcntX e | .setgf e | .pfirst e | .pfirstX e | .br e | .brX e | .jmp e
  | .jmpTable e | .call e | .callX e | .callr e | .ret e | .exit e | .safe e | .brk e | .brkX e | .lds e | .ldsX e
  | .sts e | .stsX e | .ldfe e | .ldfeX e | .stef e | .stefX e | .ldff e | .ldffX e | .atom e | .atomX e | .cas e
  | .casX e | .fence e | .fenceX e | .wait e | .waitX e | .ldcap e | .ldcapX e | .stcap e | .stcapX e | .send e
  | .sendX e | .recv e | .recvTry e | .cset e | .csetX e | .cperm e | .cpermX e | .cinc e | .cincX e | .cget e
  | .cgetX e | .ctest e | .ctestFit e | .cseal e | .csealX e | .cunseal e | .cunsealX e | .cclr e | .cclrX e | .cjoin e
  | .cjoinX e | .cleave e | .cleaveX e | .cbar e | .cbarX e | .carr e | .carrX e | .cwait e | .cwaitPh e | .cvote e
  | .cvoteX e | .cred e | .credX e | .cmake e | .trap e | .trapX e | .tres e | .gets e | .getsX e | .puts e | .putsX e
  | .migr e | .migrX e | .tlbi e | .tlbiCtx e | .tlbiVa e | .yield e | .ctrRead e | .ctrReadX e | .ctrStart e
  | .ctrStop e | .ctrSel e | .tmm e | .tgmm e | .tsfx e | .tred e | .tcvt e | .tzero e | .rcsnap e | .rcread e
  | .tstat e | .cpy e | .cpy2 e | .cpyg e | .cfill e | .qjoin e | .qstat e | .gsub e | .tpost e | .trig e | .vread e
  | .gstat e | .gabort e | .nwait e | .nwaitTry e | .cfind e | .cfree e | .cstat e | .hnew e | .hext e | .hxl e
  | .hfork e | .hrel e | .hcow e | .hstat e | .park e | .wake e | .lpro e | .lstat e => some e
  | _ => none

/-- The rows that any active lane makes live, with the width of the lanes: those of the type, the nibbles of R128 to R132 and of
predicates, those of the result of `pack` and `unpack`, and those of an access (07 R118, 08 R164, R166, R169). A capability that
`mov` copies whole is as a scalar row (07 R129), and so is `ext` (R133). Where fa gives a base form no type, 4-bit lanes count (04
R67). -/
def laneRow (t : Thread) : Instr → Option (Fields × Nat)
  | .add e | .addX e | .sub e | .subX e | .mul e | .mulX e | .mulhi e | .mulhiX e | .div e | .divX e | .rem e | .remX e
  | .min e | .minX e | .max e | .maxX e | .shl e | .shlX e | .shr e | .shrX e | .sar e | .sarX e | .rot e | .rotX e
  | .addsat e | .addsatX e | .subsat e | .subsatX e | .abs e | .absX e | .neg e | .negX e | .clz e | .clzX e | .ctz e
  | .ctzX e | .popc e | .popcX e | .mad e | .madX e | .fadd e | .faddX e | .fsub e | .fsubX e | .fmul e | .fmulX e
  | .fma e | .fmaX e | .fmin e | .fminX e | .fmax e | .fmaxX e | .fabs e | .fabsX e | .fneg e | .fnegX e | .frcp e
  | .frcpX e | .frsq e | .frsqX e | .fsqrt e | .fsqrtX e | .fexp2 e | .fexp2X e | .flog2 e | .flog2X e | .fround e
  | .froundX e | .bcast e | .bcastX e | .ins e | .insX e | .cmp e | .fcmp e => some (e, max 4 (laneWidth (t.typeOf e)))
  | .and e | .andX e | .or e | .orX e | .xor e | .xorX e | .andn e | .andnX e | .movRaw e | .sel e | .selX e | .shuf e
  | .shufX e | .plop e | .pmov e | .pmovNz e | .pgetMask e => some (e, 4)
  | .mov e | .movX e => if e.hasLit = false ∧ e.ty = 0 ∧ (t.reg e.a).cap = true then none else some (e, 4)
  | .pack e | .packX e => some (e, max 4 (laneWidth (t.typeOf e) / 2))
  | .unpack e | .unpackX e => some (e, max 4 (2 * laneWidth (t.typeOf e)))
  | .fdot e | .fdotX e => some (e, if t.typeOf e = 0 then 4 else 32)
  | .ext e | .extX e => if t.typeOf e = 0 then some (e, 4) else none
  | .ld e | .ldX e | .st e | .stX e => some (e, liveWidth e.ty.toNat)
  | .fefill e | .fefillX e => some (e, 64)
  | _ => none

/-! ## Integer arithmetic (07 R125 to R127) -/

/-- The exact results of R125 Table 2 for a type of `w` bits, of the values x, y and z, with the fields of the instruction,
whether C is a source, and whether it saturates. -/
def arithRow : Instr → Option (Fields × Bool × Bool × (Nat → Int → Int → Int → Int))
  | .add e | .addX e => some (e, false, e.sat, fun _ x y _ => x + y)
  | .sub e | .subX e => some (e, false, e.sat, fun _ x y _ => x - y)
  | .mul e | .mulX e => some (e, false, e.sat, fun _ x y _ => x * y)
  | .mulhi e | .mulhiX e => some (e, false, false, fun ty x y _ => x * y / (2 ^ fmtWidth ty : Nat))
  | .div e | .divX e => some (e, false, e.sat, fun ty x y _ =>
      if y = 0 then (if fmtSigned ty then -1 else (2 ^ fmtWidth ty : Nat) - 1) else x.tdiv y)
  | .rem e | .remX e => some (e, false, false, fun _ x y _ => if y = 0 then x else x - y * x.tdiv y)
  | .min e | .minX e => some (e, false, false, fun _ x y _ => min x y)
  | .max e | .maxX e => some (e, false, false, fun _ x y _ => max x y)
  | .addsat e | .addsatX e => some (e, false, true, fun _ x y _ => x + y)
  | .subsat e | .subsatX e => some (e, false, true, fun _ x y _ => x - y)
  | .mad e | .madX e => some (e, true, e.sat, fun _ x y z => x * y + z)
  | _ => none

/-- An exact value in a lane of a type: modulo 2 to the width, or under saturation the nearest value of the type. -/
def laneOfInt (ty : Nat) (sat : Bool) (v : Int) : Nat :=
  let lo : Int := if fmtSigned ty then -(2 ^ (fmtWidth ty - 1) : Nat) else 0
  let hi : Int := if fmtSigned ty then (2 ^ (fmtWidth ty - 1) : Nat) - 1 else (2 ^ fmtWidth ty : Nat) - 1
  ((if sat then max lo (min hi v) else v) % (2 ^ fmtWidth ty : Nat)).toNat

/-- The shifts of R127: of the pattern `x` of a lane of `w` bits by the count `n`. -/
def shiftRow : Instr → Option (Fields × (Nat → Nat → Nat → Nat))
  | .shl e | .shlX e => some (e, fun w x n => if w ≤ n then 0 else x * 2 ^ n % 2 ^ w)
  | .shr e | .shrX e => some (e, fun w x n => if w ≤ n then 0 else x / 2 ^ n)
  | .sar e | .sarX e => some (e, fun w x n => ((signed w x / (2 ^ n : Nat)) % (2 ^ w : Nat)).toNat)
  | .rot e | .rotX e => some (e, fun w x n => x * 2 ^ (n % w) % 2 ^ w + x / 2 ^ (w - n % w))
  | _ => none

/-- The one-source integer instructions of R126, of a lane `x` of type `ty`. -/
def unaryRow : Instr → Option (Fields × (Nat → Nat → Nat))
  | .abs e | .absX e => some (e, fun ty x => laneOfInt ty e.sat (intVal ty x).natAbs)
  | .neg e | .negX e => some (e, fun ty x => laneOfInt ty e.sat (-intVal ty x))
  | .clz e | .clzX e => some (e, fun ty x => ((List.range (fmtWidth ty)).takeWhile fun i => !x.testBit (fmtWidth ty - 1 - i)).length)
  | .ctz e | .ctzX e => some (e, fun ty x => ((List.range (fmtWidth ty)).takeWhile fun i => !x.testBit i).length)
  | .popc e | .popcX e => some (e, fun ty x => (List.range (fmtWidth ty)).countP fun i => x.testBit i)
  | _ => none

/-! ## Logical, move and lane instructions (07 R128 to R134) -/

/-- The operations of R128 on a nibble of A and one of B. -/
def logicRow : Instr → Option (Fields × (Nat → Nat → Nat))
  | .and e | .andX e => some (e, fun a b => a &&& b)
  | .or e | .orX e => some (e, fun a b => a ||| b)
  | .xor e | .xorX e => some (e, fun a b => a ^^^ b)
  | .andn e | .andnX e => some (e, fun a b => a &&& (15 - b))
  | _ => none

/-- The sources of the logical and lane instructions on nibbles. -/
def nibbleUse : LaneUse := { tys := tysData, nib := true }

/-- The two forms of `mov` with xop 0, of `sel` and of the other two-form instructions of R128 to R134. -/
def movRow : Instr → Option Fields
  | .mov e | .movX e => some e
  | _ => none
def selRow : Instr → Option Fields
  | .sel e | .selX e => some e
  | _ => none
def shufRow : Instr → Option Fields
  | .shuf e | .shufX e => some e
  | _ => none
def bcastRow : Instr → Option Fields
  | .bcast e | .bcastX e => some e
  | _ => none
def extRow : Instr → Option Fields
  | .ext e | .extX e => some e
  | _ => none
def insRow : Instr → Option Fields
  | .ins e | .insX e => some e
  | _ => none
def packRow : Instr → Option Fields
  | .pack e | .packX e => some e
  | _ => none
def unpackRow : Instr → Option Fields
  | .unpack e | .unpackX e => some e
  | _ => none

/-- The element index of R133: lane 0 of B as an unsigned 64-bit value, or the literal, modulo the number of lanes. -/
def indexOf (e : Fields) (x : Sources) : Nat := (if e.hasLit then e.lit.toNat else x.b % 2 ^ 64) % (128 / laneWidth x.ty)

/-- The pairs of R134 Table 3: wider, narrower. -/
def packPairs : List (Nat × Nat) := [(1, 17), (2, 1), (3, 2), (4, 3), (6, 5), (7, 6), (8, 7)]

/-! ## Floating point (07 R135 to R141) -/

/-- A value rounded into a format by the instruction's mode, `.sat` and `.ftz`; under `.sr` the generator is advanced once and
gives the random bits (05 R86 to R89). -/
def roundedLane (e : Fields) (ty : Nat) (v : Val) (g : Nat) : Nat × Nat :=
  let draws := rndOf e.rnd == .sr
  let g' := if draws then (g + 0x9E3779B97F4A7C15) % 2 ^ 64 else g
  (roundFloat (floatFmt ty) (rndOf e.rnd) e.sat e.ftz (if draws then genBits g' else 0) v, g')

/-- The exact values of R135 and R137, of the values of the lanes, with whether B and C are sources; the first argument is
whether a zero sum of both signs is negative (05 R84). -/
def floatRow : Instr → Option (Fields × Bool × Bool × (Bool → Val → Val → Val → Val))
  | .fadd e | .faddX e => some (e, true, false, fun down x y _ => sumVals [x, y] down)
  | .fsub e | .fsubX e => some (e, true, false, fun down x y _ => sumVals [x, y.neg] down)
  | .fmul e | .fmulX e => some (e, true, false, fun _ x y _ => x.mul y)
  | .fma e | .fmaX e => some (e, true, true, fun down x y z => sumVals [x.mul y, z] down)
  | .frcp e | .frcpX e => some (e, false, false, fun _ x _ _ => recipVal x)
  | .frsq e | .frsqX e => some (e, false, false, fun _ x _ _ => rsqrtVal x)
  | .fsqrt e | .fsqrtX e => some (e, false, false, fun _ x _ _ => sqrtVal x)
  | _ => none

/-- The exact operations of R136 on patterns of a format. -/
def signRow : Instr → Option (Fields × Bool × (FloatFmt → Nat → Nat → Nat))
  | .fmin e | .fminX e => some (e, true, fun f x y =>
      if (floatVal f x).isNan then (if (floatVal f y).isNan then f.nan.getD 0 else y)
      else if (floatVal f y).isNan then x
      else if (floatVal f x).compare (floatVal f y) < 0 then x
      else if 0 < (floatVal f x).compare (floatVal f y) then y
      else if (floatVal f x).isNeg && !(floatVal f y).isNeg then x else y)
  | .fmax e | .fmaxX e => some (e, true, fun f x y =>
      if (floatVal f x).isNan then (if (floatVal f y).isNan then f.nan.getD 0 else y)
      else if (floatVal f y).isNan then x
      else if (floatVal f x).compare (floatVal f y) < 0 then y
      else if 0 < (floatVal f x).compare (floatVal f y) then x
      else if (floatVal f x).isNeg && !(floatVal f y).isNeg then y else x)
  | .fabs e | .fabsX e => some (e, false, fun f x _ =>
      if (floatVal f x).isNan then f.nan.getD 0 else x % 2 ^ (f.ebits + f.mbits))
  | .fneg e | .fnegX e => some (e, false, fun f x _ =>
      if (floatVal f x).isNan then f.nan.getD 0
      else if x.testBit (f.ebits + f.mbits) then x - 2 ^ (f.ebits + f.mbits) else x + 2 ^ (f.ebits + f.mbits))
  | _ => none

/-- The instructions that are rounded from a pattern: `fexp2`, `flog2` and `fround` (R137, R138); the last argument is the
random bits. -/
def patternRow : Instr → Option (Fields × (FloatFmt → Rnd → Nat → Nat → Nat))
  | .fexp2 e | .fexp2X e => some (e, fun f mode rb x => exp2Round f mode e.sat e.ftz rb (floatVal f x))
  | .flog2 e | .flog2X e => some (e, fun f mode rb x => log2Round f mode e.sat e.ftz rb (floatVal f x))
  | .fround e | .froundX e => some (e, fun f mode rb x => froundPat f mode rb x)
  | _ => none

def fdotRow : Instr → Option Fields
  | .fdot e | .fdotX e => some e
  | _ => none
def fcvtRow : Instr → Option Fields
  | .fcvt e | .fcvtX e => some e
  | _ => none

/-! ## Predicates and control transfers (07 R142 to R152) -/

/-- A condition of 06 R105 on two integers. -/
def intCond (cond : Nat) (x y : Int) : Bool :=
  match cond with
  | 0 => x == y | 1 => x != y | 2 => decide (x < y) | 3 => decide (x ≤ y) | 4 => decide (y < x) | 5 => decide (y ≤ x)
  | 6 => false | _ => true

/-- A condition of 06 R105 on two floating values: with a NaN only ne and un hold (R142). -/
def floatCond (cond : Nat) (x y : Val) : Bool :=
  if x.isNan || y.isNan then cond == 1 || cond == 6
  else match cond with
    | 0 => x.compare y == 0 | 1 => x.compare y != 0 | 2 => decide (x.compare y < 0) | 3 => decide (x.compare y ≤ 0)
    | 4 => decide (0 < x.compare y) | 5 => decide (0 ≤ x.compare y) | 6 => false | _ => true

/-- A bit of a predicate after a compare whose condition is `k` (04 R64 Table 4, 06 R105: 0 set, 1 and, 2 or). -/
def combined (comb : Nat) (k old : Bool) : Bool :=
  match comb with
  | 0 => k | 1 => old && k | _ => old || k

/-- The thread `t'` is `t` past `e` with predicates `f` written where `pd` and `active` say, bit by bit, and nothing else
changed. -/
def Thread.predsWritten (t t' : Thread) (e : Fields) (f : Nat → Nat → Option Bool) : Prop :=
  t.passes t' e ∧ t'.q = t.q ∧ t'.gf = t.gf ∧ t'.gen = t.gen ∧
    ∀ k, k < 8 → ∀ i, i < 32 → (t'.pred k).getLsbD i = (f k i).getD ((t.pred k).getLsbD i)

/-- The counts of R146. -/
def countRow : Instr → Option (Fields × (List Bool → Int))
  | .pcnt e | .pcntX e => some (e, fun l => (l.count true : Nat))
  | .pfirst e | .pfirstX e => some (e, fun l => if l.contains true then (l.idxOf true : Nat) else -1)
  | _ => none

/-- The predicate bits that R146 reads, from the lowest lane up: all 32 without ty, those of the lanes of ty with it. -/
def bitsRead (e : Fields) (p : Word32) : List Bool :=
  let w := if e.ty = 0 then 4 else laneWidth e.ty.toNat
  (List.range (128 / w)).map fun l => p.getLsbD (l * w / 4)

/-- The transfers of R149 and R151 and whether they write the link. -/
def branchRow : Instr → Option (Fields × Bool)
  | .br e | .brX e => some (e, false)
  | .call e | .callX e => some (e, true)
  | _ => none

/-- The transfers by a register of R150 and R152 and whether they write the link. -/
def jumpRow : Instr → Option (Fields × Bool)
  | .jmp e | .ret e => some (e, false)
  | .callr e => some (e, true)
  | _ => none

/-- The target that fa gives a transfer, where it gives one (R150): the value of i64 or ui64 data, or the cursor of an
executable capability of SPACE 3 that passes the check for 4 bytes with PX. -/
def targetOf (r : QReg) : Option Nat :=
  if r.cap then
    if capKind r.bits = 1 ∧ capSpace r.bits = 3 ∧ capPerms r.bits &&& permPX = permPX ∧ capBase r.bits ≤ r.lo ∧
      r.lo + 4 ≤ capTop r.bits then some r.lo else none
  else if r.tag = 4 ∨ r.tag = 8 then some r.lo else none

/-- The thread after a taken transfer: the PC at the target, with the link in q31 where it is written. -/
def Thread.transfers (t t' : Thread) (e : Fields) (link : Bool) (target : Word64) : Prop :=
  t' = { t with q := t'.q, pc := target, fbuf := [], reissue := false, prio := false, skipBp := false } ∧
    (∀ r, r ≠ 31 → t'.reg r = t.reg r) ∧
    t'.reg 31 = if link then ⟨BitVec.ofNat 128 (t.pc + BitVec.ofNat 64 (4 * e.form.words)).toNat, false, 4⟩ else t.reg 31

/-! ## Memory instructions (08 R157 to R181) -/

/-- What the entry of a memory instruction fixes: the width of its lanes, 0 for a scalar one; whether its register sources are
admitted (R158, R166); what it asks of its operand; and the access at a key and an address. -/
structure AccessUse where
  e : Fields
  width : Nat
  sources : Bool
  use : MemUse
  access : Nat → Nat → Access

/-- A lane-wise access of 16 bytes, of the active nibbles of lanes of width `w`. -/
def wideUse (t : Thread) (e : Fields) (w : Nat) (sources : Bool) (perm : Nat) (right : Right) (op : AccessOp) (data : QReg)
    (dest : Option (BitVec 5)) (ty : BitVec 5) : AccessUse :=
  { e, width := w, sources, use := { size := 16, mask := t.nibbleMask e.g w, perm, rights := [right] }
    access := fun k va => mkAccess t op k va 16 (t.nibbleMask e.g w) data dest ty }

/-- A scalar access of `n` bytes. -/
def scalarUse (t : Thread) (e : Fields) (n : Nat) (sources : Bool) (perm : Nat) (rights : List Right) (op : AccessOp)
    (data : QReg) (dest : Option (BitVec 5)) (ty : BitVec 5) : AccessUse :=
  { e, width := 0, sources, use := { size := n, mask := 2 ^ (2 * n) - 1, perm, rights }
    access := fun k va => mkAccess t op k va n (2 ^ (2 * n) - 1) data dest ty }

/-- The loads, stores, full/empty accesses, atomics and capability accesses of a thread. -/
def accessRow (t : Thread) : Instr → Option AccessUse
  | .ld e | .ldX e =>
    some (wideUse t e (liveWidth e.ty.toNat) true permPL .load .load QReg.zero (some e.d) e.ty)
  | .st e | .stX e =>
    some (wideUse t e (liveWidth e.ty.toNat) (storeOk e (t.reg e.d)) permPS .store .store (t.reg e.d) none e.ty)
  | .lds e | .ldsX e => some (scalarUse t e (scalarBytes e) true permPL [.load] .load QReg.zero (some e.d) e.ty)
  | .sts e | .stsX e => some (scalarUse t e (scalarBytes e) (storeOk e (t.reg e.d)) permPS [.store] .store (t.reg e.d) none e.ty)
  | .ldfe e | .ldfeX e => some (scalarUse t e 8 true (permPL + permPS) [.load, .store] .ldfe QReg.zero (some e.d) e.ty)
  | .stef e | .stefX e => some (scalarUse t e 8 (storeOk e (t.reg e.d)) permPS [.store] .stef (t.reg e.d) none e.ty)
  | .ldff e | .ldffX e => some (scalarUse t e 8 true permPL [.load] .ldff QReg.zero (some e.d) e.ty)
  | .fefill e | .fefillX e => some (wideUse t e 64 true permPS .store (.fefill (e.xop == 1)) QReg.zero none 0)
  | .atom e | .atomX e =>
    let ty := atomType e
    let n := fmtWidth ty.toNat / 8
    some (scalarUse t e n (atomOk ty (t.atomB e)) permPA [.store] (.atom e.xop.toNat)
      (data64 ((t.atomB e).lo % 2 ^ (8 * n)) 0) (some e.d) ty)
  | .cas e | .casX e =>
    let ty := atomType e
    let n := fmtWidth ty.toNat / 8
    let u := scalarUse t e n (atomOk ty (t.reg e.d) && atomOk ty (t.atomB e)) permPA [.store]
      (.cas (if e.mod.getLsbD 7 then some e.c.toNat else none)) (data64 ((t.atomB e).lo % 2 ^ (8 * n)) 0) (some e.d) ty
    some { u with access := fun k va => { u.access k va with expected := (t.reg e.d).lo % 2 ^ (8 * n) } }
  | .ldcap e | .ldcapX e => some (scalarUse t e 16 true (permPL + permPLC) [.load] .ldcap QReg.zero (some e.d) 0)
  | .stcap e | .stcapX e =>
    some (scalarUse t e 16 true (permPS + if (t.reg e.d).cap then permPSC else 0) [.store] .stcap (t.reg e.d) none 0)
  | .cclr e | .cclrX e => some (scalarUse t e 16 true permPS [.store] .cclr QReg.zero none 0)
  | _ => none

/-- A memory instruction is live, and its register sources are admitted. -/
def AccessUse.live (u : AccessUse) (t : Thread) : Prop :=
  (if u.width = 0 then t.live0 u.e.g = true else t.live u.e.g u.width = true) ∧ u.sources = true

/-- An address of SPACE 3 waits for nothing: no walk has to be waited for (22 R365), none has found its page not present, and
the page is not being moved (R367). -/
def State.reachedNow (s : State) (t : Thread) (va : Nat) : Prop :=
  s.mustWalk (slotGrove s.cur) t.ctx va = false ∧ t.absent ≠ some (va / 4096) ∧ s.moving t.ctx va = false

/-- The memory operand passes its checks (R157, R159; 04 R71, R73; 22 R362, R363): it is aligned, the capability admits its
active bytes, and its address is formed as the key `k`, in the machine `s1` whose TLB holds its page. -/
def State.operandAt (s : State) (t : Thread) (u : AccessUse) (s1 : State) (k : Nat) : Prop :=
  let r := t.reg u.e.a
  let va := t.memAddr u.e
  va % u.use.size = 0 ∧ r.isMem = true ∧ checkBytes r va u.use.size u.use.mask u.use.perm = true ∧
  ((capSpace r.bits ≤ 2 ∧ s.formPhysical t.ctx (slotCore s.cur) (capSpace r.bits) va = .key k ∧
    s.remapping t.ctx (capSpace r.bits) va = none ∧ s1 = s) ∨
   (capSpace r.bits = 3 ∧ va < 2 ^ 57 ∧ s.reachedNow t va ∧
    ∃ x, s.translate (slotGrove s.cur) t.ctx va = (.page x, s1) ∧ (∀ r ∈ u.use.rights, leafHas x.leaf r = true) ∧ k = x.key va))

/-- The level of the key keeps what the access needs: full/empty bits (R167), or atomics (R174). -/
def levelServes (a : Access) : Bool :=
  match a.op with
  | .ldfe | .stef | .ldff | .fefill _ => 1 ≤ keyTgt a.key && keyTgt a.key ≤ 3
  | .atom _ | .cas _ => keyTgt a.key ≤ 3
  | _ => true

/-- An ordinary access is performed in its step: it is not relaxed, its home is in this package, no relaxed access of the
thread must come first (R161, R162), no pending error is taken (R177), no bank is lost (01 R15, 04 R76), and its halves are not
parted (R163). -/
def State.performsNow (s : State) (t : Thread) (u : AccessUse) (a : Access) : Prop :=
  u.e.rx = false ∧ s.isLocal a.key = true ∧ (∀ r ∈ t.rx, s.precedes (slotCore s.cur) r a u.e.rel u.e.scope = false) ∧
  (u.e.rel = true → ∀ p ∈ t.pendErr, s.inScope (slotCore s.cur) u.e.scope p.key = false) ∧ s.losesBank t a = false ∧
  (s.opts.split && a.halves) = false

/-- The base register of a post-incremented operand moves by imm32 (R157); every other register but fd is as it was. -/
def Thread.baseMoved (t t' : Thread) (e : Fields) (writesD : Bool) : Prop :=
  ∀ r, (writesD = true → r ≠ e.d) →
    t'.reg r = if e.post && r == e.a then moveCursor (t.reg r) (wrap 64 ((t.reg r).lo + e.imm.toInt)) else t.reg r

/-- The thread waits on memory for the access to return, but for an access to its own core's scratch (R160). -/
def State.returned (s : State) (t t' : Thread) (e : Fields) (k : Nat) : Prop :=
  t' = { t with q := t'.q, p := t'.p, pc := t.pc + BitVec.ofNat 64 (4 * e.form.words), reissue := false, prio := false
                skipBp := false, absent := none, wait := if s.inCore (slotCore s.cur) k then .none else .memory }

/-- The new value of an atomic of R171, of the old value and the operand of a type; none for the floating sum. -/
def atomNew (op ty old b : Nat) : Option Nat :=
  match op with
  | 0 => some ((old + b) % 2 ^ fmtWidth ty)
  | 1 => some (if intVal ty old ≤ intVal ty b then old else b)
  | 2 => some (if intVal ty old ≤ intVal ty b then b else old)
  | 3 => some (old &&& b) | 4 => some (old ||| b) | 5 => some (old ^^^ b) | 6 => some b
  | _ => none

/-- Nothing of an instruction has taken effect but that the thread in slot `n` is stopped or frozen at it (17 R305, R306). -/
def State.trapped (s s' : State) (n : Nat) (t : Thread) (stop : Option Stop) (frozen : Bool) : Prop :=
  ∃ t', s'.thread n = some t' ∧
    t' = { t with stopped := if frozen then t.stopped else stop, frozen := t.frozen || frozen, wait := t.wait.kept, reissue := false
                  stepping := 0, debugStop := false, absent := none } ∧
    s'.mem = s.mem ∧ s'.queues = s.queues ∧ s'.crews = s.crews ∧ ∀ m, m ≠ n → s'.slot m = s.slot m

/-- The issuing thread takes a pending error (08 R177): it is stopped with a data error at its PC, INFO the distance in words to the
failed access, whose address its message gives; nothing of its instruction takes effect. -/
def State.errorTaken (s s' : State) (t : Thread) (p : PendingError) : Prop :=
  let info : Word32 := ((p.pc - t.pc).sshiftRight 2).truncate 32
  (∃ t', s'.thread s.cur = some t' ∧ t'.stopped = some ⟨4, p.cause, 0, info⟩ ∧ t'.pc = t.pc ∧ t'.q = t.q ∧ t'.p = t.p ∧
    t'.pendErr = t.pendErr.erase p) ∧ s'.mem = s.mem ∧
  (s.isHandler s.cur t = false → s.inCore (slotCore s.cur) p.key = false → (s'.ctx t.ctx).messages = (s.ctx t.ctx).messages ++
    [⟨BitVec.ofNat 64 (4 * 2 ^ 56 + p.cause * 2 ^ 48 + info.toNat) ++ t.gtid, BitVec.ofNat 64 p.va.toNat ++ t.pc⟩])

/-- No crew lists a member twice, or names members in an entry that is free. -/
def State.crewsSound (s : State) : Prop :=
  ∀ ci, (s.crew ci).members.Nodup ∧ (s.crew ci).joins.Nodup ∧
    ((s.crew ci).used = false → (s.crew ci).members = [] ∧ (s.crew ci).joins = [])

/-! ## Ends, stops and safe points (07 R153 to R155, 17 R305 to R313) -/

/-- The instructions that stop their thread with the PC after them: KIND, CAUSE and the code in INFO (17 R311, 27 R425). -/
def stopRow : Instr → Option (Fields × Nat × Nat)
  | .trap e | .trapX e => some (e, 7, 0)
  | .brk e | .brkX e => some (e, 6, 1)
  | _ => none

/-- The first entry of a handler message: the thread and KIND, CAUSE, DETAIL and INFO in their places (17 R308 Table 7). -/
def messageHead (gtid : Word64) (kind cause detail info : Nat) : Word128 :=
  BitVec.ofNat 64 (kind * 2 ^ 56 + cause * 2 ^ 48 + detail * 2 ^ 40 + info) ++ gtid

/-- The second entry: the PC and the address. -/
def messageTail (pc : Word64) (addr : Nat) : Word128 := BitVec.ofNat 64 addr ++ pc

/-! ## Capabilities (08 R182 to R187) -/

/-- The integer source of a derivation: lane 0 of fb tagged i64, ui64 or raw, or the literal (R182). -/
def sourceB (t : Thread) (e : Fields) (n : Nat) : Prop :=
  if e.hasLit then n = e.lit.toNat
  else (t.reg e.b).cap = false ∧ ((t.reg e.b).tag = 4 ∨ (t.reg e.b).tag = 8 ∨ (t.reg e.b).tag = 0) ∧
    n = (t.reg e.b).bits.toNat % 2 ^ 64

def cgetRow : Instr → Option Fields
  | .cget e | .cgetX e => some e
  | _ => none
def csealRow : Instr → Option (Fields × Bool)
  | .cseal e | .csealX e => some (e, true)
  | .cunseal e | .cunsealX e => some (e, false)
  | _ => none

/-! ## Crews (19 R331 to R349, 20 R352 to R358) -/

/-- The handle in fa is current and names a crew of this package: its entry (R333). -/
def State.namesCrew (s : State) (t : Thread) (e : Fields) (ci : Nat) : Prop :=
  s.crewCheck t (t.reg e.a) = .ok (s.pkg, ci)

/-- The instructions that join or leave: fields and whether they join. -/
def memberRow : Instr → Option (Fields × Bool)
  | .cjoin e | .cjoinX e => some (e, true)
  | .cleave e | .cleaveX e => some (e, false)
  | _ => none

/-- The collectives, and what their arrivals carry: kind 0 waits as `cbar`, 2 as `cvote`, 3 as `cred`; 4 is `carr`, which does not
wait (R342 to R344, R356, R357). -/
def collectiveRow (t : Thread) : Instr → Option (Fields × Nat × PhaseKind)
  | .cbar e | .cbarX e => some (e, 0, .plain)
  | .carr e | .carrX e => some (e, 4, .plain)
  | .cvote e | .cvoteX e => some (e, 2, .vote e.xop.toNat)
  | .cred e | .credX e => some (e, 3, .red e.xop.toNat (t.credType e))
  | _ => none

/-- The contribution of a thread to a collective (R343, R344): none for a plain arrival, bit 0 of the predicate fb for a vote,
and for a reduction each active lane of fb, with the identity of the operation in the others. -/
def contributes (t : Thread) (e : Fields) (kind : Nat) (v : Word128) : Prop :=
  match kind with
  | 2 => v = BitVec.ofNat 128 (flag ((t.pred e.b.toNat).getLsbD 0))
  | 3 =>
    let w := fmtWidth (t.credType e)
    ∀ l, l < 128 / w → lane v.toNat w l =
      (if e.mod.getLsbD 0 = false ∧ t.active e.g w l = true then lane (t.reg e.b).bits.toNat w l
       else redIdentity e.xop.toNat (t.credType e)) % 2 ^ w
  | _ => v = 0

/-- The code at the PC of the thread `u` in slot `n` is read, with the checks of a fetch, and its instruction has `len` bytes (06 R100,
R113): its page stands in the grove's translation unit, and its block in a home of this package without an error in its first word. -/
def State.codeLength (s : State) (n : Nat) (u : Thread) (len : Nat) : Prop :=
  let pc := u.pc.toNat
  let block := pc / 64 * 64
  pc % 4 = 0 ∧ pc < 2 ^ 57 ∧ s.servedBy (slotGrove n) u.ctx block = none ∧
  (∀ t, s.thread s.cur = some t → t.absent = none) ∧
  ∃ x, tlbFind (s.grove (slotGrove n)).tlb u.ctx block = some x ∧ s.reaches x block = true ∧ fetchable x.leaf = true ∧
    s.isLocal (x.key block) = true ∧ (∀ j, j < 64 → s.poisoned (x.key block + j) = false) ∧
    len = match (s.byte (x.key block + pc % 64 + 3)).toNat / 64 with | 0 => 4 | 1 => 12 | 2 => 12 | _ => 20

/-! ## System registers and the privileged escape (17 R302, R322 to R326) -/

def getsRow : Instr → Option Fields
  | .gets e | .getsX e => some e
  | _ => none
def putsRow : Instr → Option Fields
  | .puts e | .putsX e => some e
  | _ => none
def ctrReadRow : Instr → Option Fields
  | .ctrRead e | .ctrReadX e => some e
  | _ => none
def migrRow : Instr → Option Fields
  | .migr e | .migrX e => some e
  | _ => none

/-- The accessor that a thread is. -/
def State.threadUser (s : State) (t : Thread) : RegUser :=
  { priv := (s.ctx t.ctx).sys, ctx := t.ctx, sel := s.csel, slot := some s.cur }

/-- The rows of the privileged escape 0x77, with their fields: those of `cxsw` with no fields of their own take them from the
request (log 16). -/
def privRow (s : State) : Instr → Option Fields
  | .thaw e | .cxswCreate e | .slotw e | .govset e => some e
  | .cxswRun | .cxswSuspend | .cxswResume | .cxswTeardown | .cxswFreeze | .cxswThawContext | .cxswPreemptCore => some s.arg.fields
  | _ => none

/-- The action of R324 Table 10 that each row of `cxsw` but create performs. -/
def cxswRow : Instr → Option Nat
  | .cxswRun => some 2 | .cxswSuspend => some 3 | .cxswResume => some 4 | .cxswTeardown => some 5 | .cxswFreeze => some 6
  | .cxswThawContext => some 7 | .cxswPreemptCore => some 8 | _ => none

/-! ## Engines (11 R211 to R239, 15 R277 to R286) -/

/-- The queued tile operations, and the copies. -/
def tileRow : Instr → Option Fields
  | .tmm e | .tgmm e | .tsfx e | .tred e | .tcvt e | .tzero e | .rcsnap e => some e
  | _ => none
def copyRow : Instr → Option Fields
  | .cpy e | .cpy2 e | .cpyg e | .cfill e => some e
  | _ => none

/-- The queue `code` of the thread's context in its grove has room, and the thread's counter for it stands below 255 (R213). -/
def State.hasRoom (s : State) (t : Thread) (code : Nat) : Prop :=
  (s.queue (queueKey t.ctx (slotGrove s.cur) code)).ops.length < queueDepth code ∧ (if code ≤ 4 then t.tl else t.cp) < 255

/-- The completion word of an operation, where it names one, is reached at issue in the machine `s1` (R213). -/
def State.wordReached (s : State) (op : EngineOp) (s1 : State) : Prop :=
  (op.w = none ∧ s1 = s) ∨ ∃ w k, op.w = some w ∧ (op.wordKey w).run.run s = (.ok k, s1)

/-- The operation `op` has been appended to queue `code` of the thread's context in its grove, the thread `t` has passed `e`
and counts one more of the queue's kind, and nothing else of queues and of slots has changed (R213, 06 R111). -/
def State.enqueued (s s' : State) (t : Thread) (e : Fields) (code : Nat) (op : EngineOp) : Prop :=
  let k := queueKey t.ctx (slotGrove s.cur) code
  (s'.queue k).ops = (s.queue k).ops ++ [{ op with serial := (s.queue k).appended, queue := k }] ∧
  (s'.queue k).appended = (s.queue k).appended + 1 ∧ (s'.queue k).mode = (s.queue k).mode ∧ (∀ j, j ≠ k → s'.queue j = s.queue j) ∧
  (∀ n, n ≠ s.cur → s'.slot n = s.slot n) ∧
  s'.thread s.cur = some { t.next e with tl := if code ≤ 4 then t.tl + 1 else t.tl, cp := if code ≤ 4 then t.cp else t.cp + 1 }

/-- The entries that a queue has ever had before the present cycle of its grove (15 R284). -/
def State.entriesBefore (s : State) (k n : Nat) : Prop :=
  n = if (s.queue k).appendedAt = s.cycle (keyGrove k * 16) then (s.queue k).before else (s.queue k).appended

/-- The status lane of a queue (11 R235 Table 8): DONE, entries, STATE, unit, XOP, and the error bits in bits 15 to 11. -/
def State.statusFields (s : State) (k : Nat) (v : Nat) : Prop :=
  let q := s.queue k
  v / 2 ^ 48 = q.done % 2 ^ 16 ∧ v / 2 ^ 40 % 2 ^ 8 = q.ops.length % 2 ^ 8 ∧ v / 2 ^ 32 % 2 ^ 4 = q.unit % 2 ^ 4 ∧
  (q.mode = .frozen → v / 2 ^ 36 % 2 ^ 4 = 4) ∧ (q.mode = .halted → v / 2 ^ 36 % 2 ^ 4 = 3) ∧
  (q.mode = .running → q.ops = [] → v / 2 ^ 36 % 2 ^ 4 = 0) ∧
  (q.mode = .running → q.ops ≠ [] → v / 2 ^ 36 % 2 ^ 4 = if s.blocked k then 2 else 1) ∧
  (∀ op r, q.ops = op :: r → v / 2 ^ 22 % 2 ^ 10 = op.xop % 2 ^ 10) ∧
  v.testBit 15 = q.eres ∧ v.testBit 14 = q.edata ∧ v.testBit 13 = q.exlat ∧ v.testBit 12 = q.efmt ∧ v.testBit 11 = q.ecap

/-- The message of a queue (17 R308): SOURCE 1 and the queue identifier, then the progress and the address. -/
def queueNote (k kind cause prog addr : Nat) : Message :=
  ⟨messageHead (BitVec.ofNat 64 (queueId k)) kind cause 0 (2 ^ 38), messageTail (BitVec.ofNat 64 prog) addr⟩

/-! ## Tables in rising order -/

/-- The keys of a table rise strictly, so that each key has one entry. -/
def Store.rising {α : Type} : Store α → Bool
  | [] => true
  | (k, _) :: r => Store.above k r && Store.rising r

/-- The tables of a machine are in order and its memory has its canonical form. -/
structure State.Tidy (s : State) : Prop where
  mem : s.mem.wf = true
  slots : Store.rising s.slots = true
  ctxs : Store.rising s.ctxs = true
  queues : Store.rising s.queues = true
  crews : Store.rising s.crews = true
  cores : Store.rising s.cores = true
  links : Store.rising s.links = true
  pairs : Store.rising s.qps = true
  groves : Store.rising s.groves = true
  graphs : Store.rising s.graphs = true
  handles : Store.rising s.handles = true
  counters : ∀ e ∈ s.ctxs, Store.rising e.2.counters = true
  pools : ∀ e ∈ s.ctxs, Store.rising e.2.pool = true
  kernels : ∀ e ∈ s.ctxs, Store.rising e.2.kernels = true

/-! ## Launches and tags -/

/-- No tag bit of the `n` bytes from `a` stands in the `m` bytes from `b` (22 R369). -/
def State.tagsClear (s : State) (a n b m : Nat) : Prop := ∀ i j, i < n → j < m → ¬ s.isTagByte (a + i) (b + j)

/-- In `s'` the threads of task `i` of graph `k`, from number `idx` on, stand in the slots `ns` at the entry of their launch, with their
number in q2 and the width in q3 (02 R33 to R36, 04 R78), ready or waiting for the copy of their kernel (16 R293). -/
def State.threadsBegin (s s' : State) (k i : Nat) (l : Launch) (width idx : Nat) (ns : List Nat) : Prop :=
  let g := s.graph k
  ∀ j n, ns[j]? = some n → ∃ t, s'.thread n = some t ∧
    t.gtid = BitVec.ofNat 64 (g.ctx * 2 ^ 52 + g.ser * 2 ^ 32 + i * 2 ^ 16 + (idx + j)) ∧ t.pc = BitVec.ofNat 64 l.entry ∧
    t.reg 2 = ⟨BitVec.ofNat 128 ((idx + j) % 2 ^ 64), false, 4⟩ ∧ t.reg 3 = ⟨BitVec.ofNat 128 (width % 2 ^ 64), false, 4⟩ ∧
    (t.wait = .none ∨ t.wait = .kernel) ∧ t.stopped = none ∧ t.frozen = false

/-! ## Addresses of operands -/

/-- The address `va` of a space is formed, with a right, as the key `k` for the issuing thread, in the machine `s1` whose TLB holds
its page (04 R71, 22 R362 to R367). -/
def State.keyAt (s : State) (t : Thread) (space va : Nat) (right : Right) (s1 : State) (k : Nat) : Prop :=
  (space ≤ 2 ∧ s.formPhysical t.ctx (slotCore s.cur) space va = .key k ∧ s.remapping t.ctx space va = none ∧ s1 = s) ∨
  (space = 3 ∧ va < 2 ^ 57 ∧ s.reachedNow t va ∧
    ∃ x, s.translate (slotGrove s.cur) t.ctx va = (.page x, s1) ∧ leafHas x.leaf right = true ∧ k = x.key va)

/-- The wake-word operand of `wake`, `lpro` and `lstat` passes its checks (23 R387) and has the key `k`. -/
def State.wordAt (s : State) (t : Thread) (e : Fields) (perm : Nat) (right : Right) (s1 : State) (k : Nat) : Prop :=
  let r := t.reg e.a
  r.lo % 8 = 0 ∧ r.cap = true ∧ capKind r.bits = 0 ∧ checkBytes r r.lo 8 0xFFFF perm = true ∧
    s.keyAt t (capSpace r.bits) r.lo right s1 k

/-- The operands of `park` pass their checks (23 R375, R376): its block `b` is read, and its wake word has the key `word` in the
machine `s1`. -/
def State.parkAt (s : State) (t : Thread) (e : Fields) (b : ParkBlock) (s1 : State) (word : Nat) : Prop :=
  let r := t.reg e.a
  r.isMem = true ∧ checkBytes r r.lo 64 (2 ^ 128 - 1) permPL = true ∧ r.lo % 64 = 0 ∧
  ∃ s0 k, s.keyAt t (capSpace r.bits) r.lo .load s0 k ∧ s0.isLocal k = true ∧
    (∀ i, i < 8 → s0.poisoned (k + 8 * i) = false) ∧ b = parkBlock (s0.readNum k 64) ∧ b.ok = true ∧ b.wakeVa % 8 = 0 ∧
    ((List.range 8).foldl (fun (s : State) (i : Nat) => s.correct (k + 8 * i)) s0).keyAt t 3 b.wakeVa .store s1 word ∧
    keyTgt word ≤ 1 ∧ keyPkg word = s.pkg ∧ pteM (s1.leafOf t b.wakeVa) = false ∧ s1.poisoned word = false

/-- The pool page `p` of a context stands whole at the key `a`, and no entry of the page table by which a right finds it lies in the
64 KiB at `w` (22 R362, R371). -/
def State.pageAt (s : State) (c p : Nat) (right : Right) (a w : Nat) : Prop :=
  a % 65536 = 0 ∧ ∀ i, i < 16 →
    let va := s.poolVa c p + 4096 * i
    s.landingKey c va right = (some (a + 4096 * i), s) ∧
    ∀ k ∈ s.walkKeys va 5 (s.ctx c).regs.ptroot, k / 128 * 128 + 128 ≤ w ∨ w + 65536 ≤ k / 128 * 128

/-! ## Graphs (13 R242 to R273) -/

/-- What the admission of a graph makes of its record (13 R242 to R247). -/
def Graph.admitted_ (s : State) (c tag : Nat) (g : Graph) : Prop :=
  g.ctx = c ∧ g.ser = (s.ctx c).serial ∧ g.admitted = s.now ∧ g.tag = tag ∧ g.state = .running ∧ g.mdone = 0 ∧ g.mdead = 0 ∧
  1 ≤ g.tasks.length ∧ g.tasks.length ≤ 65536 ∧ g.curves.length ≤ 8 ∧ (g.filler = false → g.curves ≠ []) ∧
  (∀ v ∈ g.curves, v.t1 ≤ v.t2 ∧ v.t2 ≤ v.t3 ∧ v.v1 ≤ v.v0) ∧
  g.edges.Nodup ∧ (∀ x ∈ g.edges, x.1 < g.tasks.length ∧ x.2 < g.tasks.length ∧ x.1 ≠ x.2) ∧
  ∀ i t, g.tasks[i]? = some t → t.preds = g.edges.countP (fun x => x.2 == i) ∧
    t.state = if t.preds = 0 then TaskState.ready else TaskState.blocked

/-- The oldest notice in fd and fd + 1 (13 R273). -/
def Thread.noticed (t : Thread) (e : Fields) (n : Notice) : Thread := (t.setReg e.d ⟨n.lo, false, 0⟩).setReg (e.d + 1) ⟨n.hi, false, 0⟩

/-! ## Queue pairs (25 R402, R403) -/

/-- QPCMD is written for context `c` with the record `v`, which its pages admit. -/
def State.qpRecord (s : State) (c v : Nat) : Prop :=
  let a := s.arg.addr / 64 * 64
  s.selected s.arg.writer = some c ∧ a < 2 ^ 57 ∧ s.spanOk c a 64 .load = true ∧ v = s.landingNum c a 64

/-- QPRES holds a pair's number and a result. -/
def State.qpAnswered (s : State) (qpn result : Nat) : Prop := s.qpres = qpn * 2 ^ 40 + result

/-- A completion (25 R403 Table 10): WR index, OP, status, LEN, value and phase. -/
def completionOf (index op status len value phase : Nat) : Nat :=
  index % 2 ^ 16 + op * 2 ^ 16 + status * 2 ^ 24 + len % 2 ^ 32 * 2 ^ 32 + value % 2 ^ 64 * 2 ^ 64 + phase * 2 ^ 128

/-- The next completion of a pair has been written to its ring in the machine `s1`. -/
def State.completed (s : State) (k : Nat) (q : QueuePair) (index op status len value : Nat) (s1 : State) : Prop :=
  s1.mem = (s.portPost q.owner k (q.cq + 32 * (q.completions % 2 ^ (q.rings / 256 % 16))) 32
    (completionOf index op status len value ((q.phase0 + q.completions / 2 ^ (q.rings / 256 % 16)) % 2))).mem

/-- A peer's request has been answered, last. -/
def State.answeredLast (s s' : State) (k : Nat) (ok : Bool) (v : Nat) : Prop :=
  s'.hostOut = s.hostOut ++ [{ requester := 2 ^ 16 + k, ok, value := v }]

/-! ## Debug (27 R422 to R430) -/

/-- Breakpoint `i` matches the thread: it is enabled, its address is that of the PC in bits 56:2, and its key names the
thread, or with bit 1 its graph. -/
def State.breakMatches (s : State) (t : Thread) (i : Nat) : Prop :=
  let ctl := s.dbg.ctls.getD i 0
  let key := (s.dbg.keys.getD i 0).toNat
  ctl % 2 = 1 ∧ ctl / 4 % 2 ^ 55 = t.pc.toNat / 4 % 2 ^ 55 ∧
    if ctl / 2 % 2 = 1 then t.gtid.toNat / 2 ^ 16 = key / 2 ^ 16 else t.gtid.toNat = key

/-- The thread in slot `n` has stopped at its PC, with KIND, CAUSE and INFO, and nothing of it but the marks of waiting,
stepping and stopping has changed. -/
def State.stoppedAt (s s' : State) (n : Nat) (t : Thread) (kind cause info : Nat) : Prop :=
  (∃ t', s'.thread n = some t' ∧ t'.stopped = some ⟨kind, cause, 0, BitVec.ofNat 32 info⟩ ∧ t'.pc = t.pc ∧ t'.q = t.q ∧ t'.p = t.p ∧
    t'.rx = t.rx) ∧ s'.mem = s.mem ∧ ∀ m, m ≠ n → s'.slot m = s.slot m

/-! ## Power (26 R408 to R416, R440) -/

/-- The window that closes: its correction k, its estimate, its demand and the next target (26 R412, R413). -/
structure WindowEnd where
  k : Nat
  estimate : Nat
  demand : Nat
  target : Nat

/-- A window with board power `meas` and the demands of the dies, when energy was charged in it. -/
def Power.windowEnd (p : Power) (meas : Nat) (demands : List Nat) : WindowEnd :=
  let k := min 0x2000 (max 0x800 (meas * 1000000 * 4096 / (p.pkg - p.windowStart)))
  let est := p.window * k / 4096 / 1000000 + p.fixed.foldl (· + ·) 0
  let d := demands.foldl (· + ·) 0
  { k, estimate := est, demand := d
    target := if est ≤ d then min d (min (est + p.ramp) (92 * p.limit / 100)) else max d (est - p.ramp) }

end Sys2Proof.Machine
end

