-- ==== Sys2Proof/Certificates/Slice0/Obligations.lean ====
section
/-!
DEFINITION. The statements for the provers.
-/
open Sys2Proof Sys2Proof.Machine

/-! ## Integer, logical and lane instructions -/

/-- 07 R125: in each active lane the exact value of Table 2, modulo 2 to the width or clamped; and nothing else changes. -/
def Obligations.IntegerArithmetic : Prop :=
  ∀ i e useC sat f, arithRow i = some (e, useC, sat, f) →
  ∀ (s : State) (t : Thread), s.admits t e { tys := tysInt, useC } (laneWidth (t.typeOf e)) →
  ∃ s', exec i s = .next s' ∧
    s.lanesDone s' t e (laneWidth (t.typeOf e)) (t.typeOf e) t.gen fun l =>
      let x := s.sources t e { tys := tysInt, useC }
      let v := fun n => intVal (t.typeOf e) (lane n (laneWidth (t.typeOf e)) l)
      laneOfInt (t.typeOf e) sat (f (t.typeOf e) (v x.a) (v x.b) (v x.c))

/-- 07 R126 and R127: the shifts and the rotation, by an unsigned count of the lane of B; the magnitude, the negation and the counts of
each lane of A. -/
def Obligations.ShiftsAndUnary : Prop :=
  (∀ i e f, shiftRow i = some (e, f) →
     ∀ (s : State) (t : Thread), s.admits t e { tys := tysInt } (laneWidth (t.typeOf e)) →
     ∃ s', exec i s = .next s' ∧
       s.lanesDone s' t e (laneWidth (t.typeOf e)) (t.typeOf e) t.gen fun l =>
         let x := s.sources t e { tys := tysInt }
         let w := laneWidth (t.typeOf e)
         f w (lane x.a w l) (lane x.b w l)) ∧
  (∀ i e f, unaryRow i = some (e, f) →
     ∀ (s : State) (t : Thread), s.admits t e { tys := tysInt, useB := false } (laneWidth (t.typeOf e)) →
     ∃ s', exec i s = .next s' ∧
       s.lanesDone s' t e (laneWidth (t.typeOf e)) (t.typeOf e) t.gen fun l =>
         f (t.typeOf e) (lane (s.sources t e { tys := tysInt, useB := false }).a (laneWidth (t.typeOf e)) l))

/-- 07 R128: each active nibble receives the operation of the nibbles of A and B; the result carries the type. -/
def Obligations.LogicalNibbles : Prop :=
  ∀ i e f, logicRow i = some (e, f) →
  ∀ (s : State) (t : Thread), s.admits t e nibbleUse 4 →
  ∃ s', exec i s = .next s' ∧
    s.lanesDone s' t e 4 (t.typeOf e) t.gen fun l =>
      f (lane (s.sources t e nibbleUse).a 4 l) (lane (s.sources t e nibbleUse).b 4 l)

/-- 07 R129 and R130: `mov` of a register, a stream or a literal in 4-bit lanes, and of a capability as a whole; `mov.tag` writes kind
and tag as an i64; `mov.raw` writes the bits as data with tag raw, a capability whole. That a literal of a type without a lane width
stands in both 64-bit halves is the model's choice (log 76). -/
def Obligations.MoveCopies : Prop :=
  (∀ i e, movRow i = some e →
     ∀ (s : State) (t : Thread), s.thread s.cur = some t →
     let u : LaneUse := { tys := tysData, nib := true, useB := false, litA := true }
     (s.admits t e u 4 → (e.hasLit = true ∨ e.ty ≠ 0 ∨ (t.reg e.a).cap = false) →
       ∃ s', exec i s = .next s' ∧
         s.lanesDone s' t e 4 (if e.hasLit && e.ty == 0 then 0 else t.typeOf e) t.gen fun l =>
           if e.hasLit then
             lane e.lit.toNat 4 (if laneWidth e.ty.toNat = 0 then l % 16 else l % (laneWidth e.ty.toNat / 4))
           else lane (s.source t e.sfa e.a) 4 l) ∧
     (e.hasLit = false → e.ty = 0 → (t.reg e.a).cap = true → t.live0 e.g = true →
       exec i s = .next (s.put ((t.setReg e.d (t.reg e.a)).next e)))) ∧
  (∀ (e : Fields) (s : State) (t : Thread), s.thread s.cur = some t →
     (t.live0 e.g = true → exec (.movTag e) s =
       .next (s.put ((t.setReg e.d ⟨BitVec.ofNat 128 ((if (t.reg e.a).cap then 32 else 0) + (t.reg e.a).tag.toNat), false, 4⟩).next e))) ∧
     (t.live e.g 4 = true → ∃ v : QReg, exec (.movRaw e) s = .next (s.put ((t.setReg e.d v).next e)) ∧ v.cap = false ∧ v.tag = 0 ∧
       ∀ l, l < 32 → lane v.bits.toNat 4 l =
         if (t.reg e.a).cap || t.active e.g 4 l then lane (t.reg e.a).bits.toNat 4 l else lane (t.reg e.d).bits.toNat 4 l))

/-- 07 R131 and R132: `sel` takes each nibble from A or B by the selecting predicate; `shuf` permutes bytes. -/
def Obligations.SelectAndShuffle : Prop :=
  (∀ i e, selRow i = some e → ∀ (s : State) (t : Thread), s.admits t e nibbleUse 4 →
    ∃ s', exec i s = .next s' ∧ s.lanesDone s' t e 4 (t.typeOf e) t.gen fun l =>
      if (t.pred (if e.hasWord1 then e.c.toNat else t.gfA)).getLsbD l then lane (s.sources t e nibbleUse).a 4 l
      else lane (s.sources t e nibbleUse).b 4 l) ∧
  (∀ i e, shufRow i = some e → ∀ (s : State) (t : Thread), s.admits t e { nibbleUse with anyB := true } 4 →
    ∃ s', exec i s = .next s' ∧ s.lanesDone s' t e 4 (t.typeOf e) t.gen fun l =>
      let x := s.sources t e { nibbleUse with anyB := true }
      let index := lane x.b 8 (l / 2)
      if index.testBit 7 then 0 else lane x.a 4 (2 * (index % 16) + l % 2))

/-- 07 R133: `bcast`, `ext` and `ins` of the element that the index names. -/
def Obligations.ElementMoves : Prop :=
  ∀ (s : State) (t : Thread) (e : Fields),
  let u : LaneUse := { tys := tysLn, indexB := true }
  let w := laneWidth (t.typeOf e)
  (∀ i, bcastRow i = some e → s.admits t e u w →
    ∃ s', exec i s = .next s' ∧ s.lanesDone s' t e w (t.typeOf e) t.gen fun _ =>
      lane (s.sources t e u).a w (indexOf e (s.sources t e u))) ∧
  (∀ i, extRow i = some e → s.thread s.cur = some t → t.live0 e.g = true → t.typesOk e u = true →
    let v := lane (s.sources t e u).a w (indexOf e (s.sources t e u))
    exec i s = .next (s.put ((t.setReg e.d
      (if fmtIsInt (t.typeOf e) then
        if fmtSigned (t.typeOf e) then ⟨BitVec.ofNat 128 (signed w v % 2 ^ 64).toNat, false, 4⟩ else ⟨BitVec.ofNat 128 v, false, 8⟩
       else ⟨BitVec.ofNat 128 v, false, BitVec.ofNat 5 (t.typeOf e)⟩)).next e))) ∧
  (∀ i, insRow i = some e → s.admits t e { u with useD := true } w →
    ∃ s', exec i s = .next s' ∧ s.lanesDone s' t e w (t.typeOf e) t.gen fun l =>
      if l = indexOf e (s.sources t e u) then lane (s.sources t e u).a w 0 else lane (t.reg e.d).bits.toNat w l)

/-- 07 R134: `pack` narrows the lanes of A, then those of B; `unpack` widens the lower or the upper lanes of A. -/
def Obligations.PackAndUnpack : Prop :=
  ∀ (s : State) (t : Thread) (e : Fields) (wide narrow : Nat), (wide, narrow) ∈ packPairs →
  let w := fmtWidth wide
  (∀ i, packRow i = some e → t.typeOf e = wide → s.admits t e { tys := tysPack } (w / 2) →
    ∃ s', exec i s = .next s' ∧ s.lanesDone s' t e (w / 2) narrow t.gen fun l =>
      let x := s.sources t e { tys := tysPack }
      laneOfInt narrow e.sat (intVal wide (if l < 128 / w then lane x.a w l else lane x.b w (l - 128 / w)))) ∧
  (∀ i, unpackRow i = some e → t.typeOf e = narrow → s.admits t e { tys := tysUnpack, useB := false } w →
    ∃ s', exec i s = .next s' ∧ s.lanesDone s' t e w wide t.gen fun l =>
      laneOfInt wide false (intVal narrow
        (lane (s.sources t e { tys := tysUnpack, useB := false }).a (w / 2) (if e.xop = 1 then l + 128 / w else l))))

/-! ## Floating point -/

/-- 07 R135 and R137: one rounding of the exact sum, product, reciprocal or root; under `.sr` each active lane draws once, in
ascending order. -/
def Obligations.FloatArithmetic : Prop :=
  ∀ i e useB useC f, floatRow i = some (e, useB, useC, f) →
  ∀ (s : State) (t : Thread),
  let u : LaneUse := { tys := tysFp, useB, useC }
  let ty := t.typeOf e
  let w := laneWidth ty
  let x := s.sources t e u
  let v := fun n l => floatVal (floatFmt ty) (lane n w l)
  let r := fun l g => roundedLane e ty (f (rndOf e.rnd == .rdn) (v x.a l) (v x.b l) (v x.c l)) g
  let gens := genBefore (t.active e.g w) r t.gen.toNat
  s.admits t e u w →
  ∃ s', exec i s = .next s' ∧ s.lanesDone s' t e w ty (BitVec.ofNat 64 (gens (128 / w))) fun l => (r l (gens l)).1

/-- 07 R136: `fmin`, `fmax`, `fabs` and `fneg` are exact and draw no random value. -/
def Obligations.FloatSigns : Prop :=
  ∀ i e useB f, signRow i = some (e, useB, f) →
  ∀ (s : State) (t : Thread), s.admits t e { tys := tysFp, useB } (laneWidth (t.typeOf e)) →
  ∃ s', exec i s = .next s' ∧
    s.lanesDone s' t e (laneWidth (t.typeOf e)) (t.typeOf e) t.gen fun l =>
      let x := s.sources t e { tys := tysFp, useB }
      f (floatFmt (t.typeOf e)) (lane x.a (laneWidth (t.typeOf e)) l) (lane x.b (laneWidth (t.typeOf e)) l)

/-- 07 R137 and R138: `fexp2`, `flog2` and `fround` of each active lane, with one draw for each under `.sr`. -/
def Obligations.FloatPatterns : Prop :=
  ∀ i e f, patternRow i = some (e, f) →
  ∀ (s : State) (t : Thread),
  let u : LaneUse := { tys := tysFp, useB := false }
  let ty := t.typeOf e
  let w := laneWidth ty
  let x := s.sources t e u
  let draw := fun g => if rndOf e.rnd = .sr then (g + 0x9E3779B97F4A7C15) % 2 ^ 64 else g
  let r := fun l g => (f (floatFmt ty) (rndOf e.rnd) (if rndOf e.rnd = .sr then genBits (draw g) else 0) (lane x.a w l), draw g)
  let gens := genBefore (t.active e.g w) r t.gen.toNat
  s.admits t e u w →
  ∃ s', exec i s = .next s' ∧ s.lanesDone s' t e w ty (BitVec.ofNat 64 (gens (128 / w))) fun l => (r l (gens l)).1

/-- 07 R137: the special values of the special functions, without `.sat`, in every mode and format of FP. -/
def Obligations.SpecialValues : Prop :=
  ∀ (ty rnd rb : Nat) (ftz : Bool), ty = 9 ∨ ty = 10 ∨ ty = 11 →
  let f := floatFmt ty
  let sign := 2 ^ (f.ebits + f.mbits)
  let inf := (2 ^ f.ebits - 1) * 2 ^ f.mbits
  let round := roundFloat f (rndOf rnd) false ftz rb
  let v := floatVal f
  (∀ neg : Bool, round (recipVal (v (if neg then sign else 0))) = (if neg then sign else 0) + inf ∧
    round (recipVal (v ((if neg then sign else 0) + inf))) = (if neg then sign else 0) ∧
    round (rsqrtVal (v (if neg then sign else 0))) = (if neg then sign else 0) + inf) ∧
  round (rsqrtVal (v inf)) = 0 ∧ round (sqrtVal (v sign)) = sign ∧
  (∀ p, p < sign → 0 < p → p ≤ inf → round (rsqrtVal (v (sign + p))) = f.nan.getD 0 ∧ round (sqrtVal (v (sign + p))) = f.nan.getD 0 ∧
    log2Round f (rndOf rnd) false ftz rb (v (sign + p)) = f.nan.getD 0) ∧
  exp2Round f (rndOf rnd) false ftz rb (v (sign + inf)) = 0 ∧ exp2Round f (rndOf rnd) false ftz rb (v inf) = inf ∧
  (∀ neg : Bool, log2Round f (rndOf rnd) false ftz rb (v (if neg then sign else 0)) = sign + inf) ∧
  log2Round f (rndOf rnd) false ftz rb (v ((2 ^ (f.ebits - 1) - 1) * 2 ^ f.mbits)) = 0 ∧
  log2Round f (rndOf rnd) false ftz rb (v inf) = inf

/-- 07 R139: `fdot` adds the products of each group to the accumulator: exactly and then rounded once, or as an i32; under `.sr` each
active lane draws once. The sign of a sum that is exactly zero is the model's choice (log 71). -/
def Obligations.DotProducts : Prop :=
  ∀ i e, fdotRow i = some e →
  ∀ (s : State) (t : Thread),
  let u : LaneUse := { tys := tysFdot, useC := true, accTag := some dotType }
  let ty := t.typeOf e
  let w := fmtWidth ty
  let x := s.sources t e u
  let group := fun n l => (List.range (32 / w)).map fun k => lane n w (l * (32 / w) + k)
  s.admits t e u 32 →
  ∃ s', exec i s = .next s' ∧
    (fmtIsInt ty = true →
      let next := fun g => if rndOf e.rnd = .sr then (g + 0x9E3779B97F4A7C15) % 2 ^ 64 else g
      let gen := genBefore (t.active e.g 32) (fun _ g => (0, next g)) t.gen.toNat 4
      s.lanesDone s' t e 32 3 (BitVec.ofNat 64 gen) fun l => laneOfInt 3 e.sat (signed 32 (lane x.c 32 l) +
        (((group x.a l).zip (group x.b l)).map fun p => intVal ty p.1 * intVal ty p.2).sum)) ∧
    (fmtIsInt ty = false →
      let r := fun l g => roundedLane e 9 (sumVals (floatVal (floatFmt 9) (lane x.c 32 l) ::
        ((group x.a l).zip (group x.b l)).map fun p => (elemVal ty p.1).mul (elemVal ty p.2)) (rndOf e.rnd == .rdn)) g
      let gens := genBefore (t.active e.g 32) r t.gen.toNat
      s.lanesDone s' t e 32 9 (BitVec.ofNat 64 (gens 4)) fun l => (r l (gens l)).1)

/-- 07 R140 and R141: the converted elements stand in their part, the others keep their bits, and fd carries the destination
format; a 6-bit destination ends with zeros in bits 127:120 (R118). Under `.sr` each element rounded draws once, in ascending
order, but for an exact pair of formats (05 R98). -/
def Obligations.Conversions : Prop :=
  ∀ i e, fcvtRow i = some e →
  ∀ (s : State) (t : Thread), s.thread s.cur = some t →
  let d := cvtDest e
  let sf := (t.reg e.a).tag.toNat
  let ns := elemCount sf
  let nd := elemCount d
  let n := min ns nd
  let part := e.imm.toNat % 16
  let active := fun k => t.guardBit e.g (fmtWidth d * k / 4)
  let src := fun j => if nd < ns then part * n + j else j
  let dst := fun j => if ns < nd then part * n + j else j
  let draws := rndOf e.rnd == .sr && !exactPair sf d
  let next := fun g => if draws then (g + 0x9E3779B97F4A7C15) % 2 ^ 64 else g
  let on := fun j => decide (src j < ns) && decide (dst j < nd) && active (dst j)
  let gens := genBefore on (fun _ g => (0, next g)) t.gen.toNat
  (t.reg e.a).cap = false → 1 ≤ sf → sf ≤ 17 → 1 ≤ d → d ≤ 17 → (e.hasWord1 = true ∨ fmtIsInt sf = fmtIsInt d) →
  (∃ k, k < nd ∧ active k = true) →
  ∃ v : QReg, exec i s = .next (s.put (({ t with gen := BitVec.ofNat 64 (gens n) }.setReg e.d v).next e)) ∧
    v.cap = false ∧ v.tag = BitVec.ofNat 5 d ∧ (fmtWidth d = 6 → v.bits.toNat < 2 ^ 120) ∧
    (∀ j, j < n → on j = true → lane v.bits.toNat (fmtWidth d) (dst j) =
      roundTo d (rndOf e.rnd) e.sat e.ftz (if draws then genBits (next (gens j)) else 0)
        (elemVal sf (lane (t.reg e.a).bits.toNat (fmtWidth sf) (src j))) % 2 ^ fmtWidth d) ∧
    ∀ k, k < nd → (∀ j, j < n → on j = true → dst j ≠ k) →
      lane v.bits.toNat (fmtWidth d) k = lane (t.reg e.d).bits.toNat (fmtWidth d) k

/-! ## Compares, predicates and control transfers -/

/-- 07 R142: in each active lane the condition is combined into pd and its complement into pd + 1 (04 R64); no register is
written but for stream cursors. -/
def Obligations.Compares : Prop :=
  ∀ (e : Fields) (s : State) (t : Thread), e.d.toNat % 2 = 0 → e.d.toNat < 8 → e.sfd = false →
  let w := laneWidth (t.typeOf e)
  let written := fun (c : Nat → Nat → Bool) (s' : State) (t' : Thread) (u : LaneUse) =>
    s'.thread s.cur = some t' ∧ s.onlyMemory s' ∧ (∀ k, s'.byte k = s.byte k) ∧ t.passes t' e ∧ t'.gf = t.gf ∧ t'.gen = t.gen ∧
    (∀ r, t.streamed t' e r) ∧
    ∀ k, k < 8 → ∀ i, i < 32 → (t'.pred k).getLsbD i =
      let l := i / (w / 4)
      let h := c (lane (s.sources t e u).a w l) (lane (s.sources t e u).b w l)
      if t.active e.g w l && k / 2 == e.d.toNat / 2 then
        combined e.comb (if k % 2 = 0 then h else !h) ((t.pred k).getLsbD i)
      else (t.pred k).getLsbD i
  (s.passesChecks t e { tys := tysInt } w → ∃ s' t', exec (.cmp e) s = .next s' ∧
    written (fun x y => intCond e.cond (intVal (t.typeOf e) x) (intVal (t.typeOf e) y)) s' t' { tys := tysInt }) ∧
  (s.passesChecks t e { tys := tysFcmp } w → ∃ s' t', exec (.fcmp e) s = .next s' ∧
    written (fun x y => floatCond e.cond (floatVal (floatFmt (t.typeOf e)) x) (floatVal (floatFmt (t.typeOf e)) y)) s' t'
      { tys := tysFcmp })

/-- 07 R143 to R147: `plop` by its truth table, `pmov` and `pmov.nz`, in the active nibbles; `pget`, `pget.mask`, `pcnt` and `pfirst` turn
predicate bits into a register; a live `setgf` names the three predicates of the guard frame, and gf[15:9] stays zero. -/
def Obligations.PredicateMoves : Prop :=
  (∀ (e : Fields) (s : State) (t : Thread), s.thread s.cur = some t → e.d.toNat < 8 → t.live e.g 4 = true →
     let only := fun (f : Nat → Bool) (k i : Nat) => if k = e.d.toNat ∧ t.guardBit e.g i = true then some (f i) else none
     (∃ t', exec (.plop e) s = .next (s.put t') ∧ t.predsWritten t' e (only fun i =>
       e.imm.getLsbD ((if (t.pred e.a.toNat).getLsbD i then 4 else 0) + (if (t.pred e.b.toNat).getLsbD i then 2 else 0) +
         (if (t.pred e.c.toNat).getLsbD i then 1 else 0)))) ∧
     (∃ t', exec (.pmov e) s = .next (s.put t') ∧ t.predsWritten t' e (only fun i => (t.pred e.a.toNat).getLsbD i)) ∧
     (∃ t', exec (.pmovNz e) s = .next (s.put t') ∧ t.predsWritten t' e (only fun i => lane (t.reg e.a).bits.toNat 4 i != 0))) ∧
  (∀ (e : Fields) (s : State) (t : Thread), s.thread s.cur = some t →
     (t.live0 e.g = true → exec (.pget e) s =
       .next (s.put ((t.setReg e.d ⟨BitVec.ofNat 128 (t.pred e.a.toNat).toNat, false, 4⟩).next e))) ∧
     (t.live e.g 4 = true → ∃ v : QReg, exec (.pgetMask e) s = .next (s.put ((t.setReg e.d v).next e)) ∧ v.cap = false ∧ v.tag = 0 ∧
       ∀ l, l < 32 → lane v.bits.toNat 4 l =
         if t.active e.g 4 l then (if (t.pred e.a.toNat).getLsbD l then 15 else 0) else lane (t.reg e.d).bits.toNat 4 l) ∧
     (∀ i f, countRow i = some (e, f) → t.live0 e.g = true → exec i s =
       .next (s.put ((t.setReg e.d ⟨BitVec.ofNat 128 (f (bitsRead e (t.pred e.a.toNat)) % 2 ^ 64).toNat, false, 4⟩).next e)))) ∧
  (∀ (e : Fields) (s : State) (t : Thread), s.thread s.cur = some t → e.d.toNat < 8 → e.a.toNat < 8 → e.b.toNat < 8 →
     t.live0 e.g = true → ∃ gf : BitVec 16, exec (.setgf e) s = .next (s.put ({ t with gf }.next e)) ∧
       gf.toNat / 64 = e.d.toNat ∧ gf.toNat / 8 % 8 = e.a.toNat ∧ gf.toNat % 8 = e.b.toNat ∧ gf.toNat < 512)

/-- 07 R149 to R152: a live `br` or `call` goes to P + 4 × offset; a live transfer by a register goes to the target that fa gives, which
is read before the link is written; `jmp.table` adds its literal and fa; a call leaves the next address in q31. -/
def Obligations.ControlTransfers : Prop :=
  (∀ i e link, branchRow i = some (e, link) →
     ∀ (s : State) (t : Thread), s.thread s.cur = some t → t.live0 e.g = true →
     ∃ t', exec i s = .next (s.put t') ∧ t.transfers t' e link
       (t.pc + BitVec.ofInt 64 (4 * (if e.hasWord1 then e.imm.toInt else (e.d ++ e.a ++ e.b : BitVec 15).toInt)))) ∧
  ((∀ i e link, jumpRow i = some (e, link) →
       ∀ (s : State) (t : Thread) (target : Nat), s.thread s.cur = some t → t.live0 e.g = true → targetOf (t.reg e.a) = some target →
       ∃ t', exec i s = .next (s.put t') ∧ t.transfers t' e link (BitVec.ofNat 64 target)) ∧
     (∀ (e : Fields) (s : State) (t : Thread), s.thread s.cur = some t → t.live0 e.g = true → (t.reg e.a).cap = false →
       (t.reg e.a).tag = 4 ∨ (t.reg e.a).tag = 8 →
       ∃ t', exec (.jmpTable e) s = .next (s.put t') ∧
         t.transfers t' e false (BitVec.ofInt 64 (t.pc.toNat + 4 * (e.imm.toInt + (t.reg e.a).bits.toNat % 2 ^ 64)))))

/-! ## Memory -/

/-- 08 R164, R165 and R179: a load leaves memory as it is and writes fd: `ld` the nibbles of its active lanes, `lds` its number,
`ldcap` 16 bytes that are a capability exactly when their tag bit is set. That the access is performed and fd written in the issuing
step, the thread waiting afterwards, is the model's choice (log 6). -/
def Obligations.LoadsRead : Prop :=
  ∀ i (s s1 : State) (t : Thread) u k, s.thread s.cur = some t → accessRow t i = some u → u.live t → s.operandAt t u s1 k →
  let a := u.access k (t.memAddr u.e)
  (a.op = .load ∨ a.op = .ldcap) → s1.performsNow t u a → s1.badWord a false = none →
  ∃ s' t', exec i s = .next s' ∧ s'.thread s.cur = some t' ∧ s.returned t t' u.e k ∧ t'.p = t.p ∧ t.baseMoved t' u.e true ∧
    (∀ j, s'.byte j = s.byte j ∧ s'.isFull j = s.isFull j ∧ s'.hasTag j = s.hasTag j) ∧ (∀ n, n ≠ s.cur → s'.slot n = s.slot n) ∧
    (a.op = .load → (t'.reg u.e.d).cap = false ∧ (t'.reg u.e.d).tag = u.e.ty ∧
      (a.size = 16 → ∀ l, l < 32 → lane (t'.reg u.e.d).bits.toNat 4 l =
        if bit u.use.mask l then lane (s.readNum k 16) 4 l
        else lane ((t.postInc u.e).reg u.e.d).bits.toNat 4 l) ∧
      (a.size < 16 → (t'.reg u.e.d).bits.toNat = s.readNum k a.size)) ∧
    (a.op = .ldcap → (t'.reg u.e.d).bits.toNat = s.readNum k 16 ∧ (t'.reg u.e.d).cap = s.hasTag k)

/-- 08 R166, R180 and R181: a store writes the bytes of its active nibbles at the key of its address and no other byte, and
clears the tag bits of the granules it touches; `stcap` sets the tag bit for a capability, where the granule has one; `cclr`
only clears it. A tag bit of a CXL tier is a bit of the tag region (22 R369). That memory is written in the issuing step, the thread
waiting afterwards, and the numbering of the granules of TGT 5 in the tag region are the model's choices (logs 6 and 83). -/
def Obligations.StoresWrite : Prop :=
  ∀ i (s s1 : State) (t : Thread) u k, s.thread s.cur = some t → accessRow t i = some u → u.live t → s.operandAt t u s1 k →
  let a := u.access k (t.memAddr u.e)
  (a.op = .store ∨ a.op = .stcap ∨ a.op = .cclr) → s1.performsNow t u a → s.mem.wf = true →
  (a.op = .store → s1.badWord a true = none) →
  ∃ s' t', exec i s = .next s' ∧ s'.thread s.cur = some t' ∧ s.returned t t' u.e k ∧ t'.p = t.p ∧ t.baseMoved t' u.e false ∧
    (∀ n, n ≠ s.cur → s'.slot n = s.slot n) ∧ (∀ j, s'.isFull j = s.isFull j) ∧
    s.bytesOutside s' k a.size ∧
    (a.op = .cclr → ∀ j, ¬ s.isTagByte k j → s'.byte j = s.byte j) ∧
    (a.op ≠ .cclr → ∀ l, l < 2 * a.size → lane (s'.readNum k a.size) 4 l =
      if bit u.use.mask l then lane (t.reg u.e.d).bits.toNat 4 l else lane (s.readNum k a.size) 4 l) ∧
    (a.op = .store → ∀ w ∈ a.words, s'.hasTag w.1 = false) ∧
    (a.op = .stcap → s'.hasTag k = ((t.reg u.e.d).cap && decide (keyTgt k ≤ 3 ∨ (s.cxlGranule k).isSome = true))) ∧
    (a.op = .cclr → s'.hasTag k = false)

/-- 08 R167 to R169: with no other full/empty access waiting, `ldfe` and `ldff` of a full word read it, `ldfe` leaves it empty; `stef` of
an empty word writes it and leaves it full; `fefill` sets the bits of the words of its active lanes. One that does not find the bit in its
required state waits, with the PC at it, after those that wait already; nothing is read or written. That the access is performed in
the issuing step and that `ldfe` needs both rights of its page are the model's choices (logs 6 and 74). -/
def Obligations.FullEmptyAccesses : Prop :=
  (∀ i (s s1 : State) (t : Thread) u k, s.thread s.cur = some t → accessRow t i = some u → u.live t → s.operandAt t u s1 k →
     let a := u.access k (t.memAddr u.e)
     s1.performsNow t u a → levelServes a = true → s.feWait = [] → s.mem.wf = true →
     (a.op = .ldfe ∨ a.op = .ldff → s1.isFull k = true → s1.badWord a false = none →
       ∃ s' t', exec i s = .next s' ∧ s'.thread s.cur = some t' ∧ s.returned t t' u.e k ∧ t.baseMoved t' u.e true ∧
         t'.reg u.e.d = ⟨BitVec.ofNat 128 (s.readNum k 8), false, u.e.ty⟩ ∧ (∀ j, s'.byte j = s.byte j) ∧
         ∀ j, s'.isFull j = if a.op = .ldfe ∧ j / 8 = k / 8 then false else s.isFull j) ∧
     (a.op = .stef → s1.isFull k = false →
       ∃ s' t', exec i s = .next s' ∧ s'.thread s.cur = some t' ∧ s.returned t t' u.e k ∧ t.baseMoved t' u.e false ∧
         s.bytesOutside s' k 8 ∧ s'.readNum k 8 = (t.reg u.e.d).bits.toNat % 2 ^ 64 ∧
         ∀ j, s'.isFull j = if j / 8 = k / 8 then true else s.isFull j) ∧
     (∀ empty, a.op = .fefill empty →
       ∃ s' t', exec i s = .next s' ∧ s'.thread s.cur = some t' ∧ s.returned t t' u.e k ∧ t.baseMoved t' u.e false ∧
         (∀ j, s'.byte j = s.byte j) ∧
         ∀ j, s'.isFull j = if (∃ w ∈ a.words, w.1 / 8 = j / 8) then !empty else s.isFull j)) ∧
  (∀ i (s s1 : State) (t : Thread) u k, s.thread s.cur = some t → accessRow t i = some u → u.live t → s.operandAt t u s1 k →
     let a := u.access k (t.memAddr u.e)
     s1.performsNow t u a → levelServes a = true →
     ((a.op = .ldfe ∨ a.op = .ldff) ∧ s1.isFull k = false) ∨ (a.op = .stef ∧ s1.isFull k = true) →
     ∃ s', exec i s = .next s' ∧ s'.thread s.cur = some { t with wait := .fullEmpty (s1.located t u.e a) u.e } ∧ s'.feWait = s.feWait ++ [s.cur] ∧
       s'.mem = s1.mem)

/-- 08 R171 and R172: an atomic returns the old value in fd and writes the new one in the same step; `cas` writes its operand
exactly when the old value is the expected one, which fd held. That it is performed and fd written in the issuing step, the thread
waiting afterwards, is the model's choice (log 6). -/
def Obligations.AtomicsUpdate : Prop :=
  ∀ i (s s1 : State) (t : Thread) u k, s.thread s.cur = some t → accessRow t i = some u → u.live t → s.operandAt t u s1 k →
  let a := u.access k (t.memAddr u.e)
  s1.performsNow t u a → levelServes a = true → s1.badWord a false = none → s.mem.wf = true →
  let old := s.readNum k a.size
  let completes := fun (s' : State) (t' : Thread) =>
    exec i s = .next s' ∧ s'.thread s.cur = some t' ∧ s.returned t t' u.e k ∧ t.baseMoved t' u.e true ∧
    t'.reg u.e.d = ⟨BitVec.ofNat 128 old, false, atomType u.e⟩ ∧ s.bytesOutside s' k a.size ∧ ∀ j, s'.isFull j = s.isFull j
  (∀ op, a.op = .atom op → ∃ s' t', completes s' t' ∧ t'.p = t.p ∧
    ∀ new, atomNew op (atomType u.e).toNat old a.data.lo = some new → s'.readNum k a.size = new % 2 ^ (8 * a.size)) ∧
  (∀ pair, a.op = .cas pair → ∃ s' t', completes s' t' ∧ (pair = none → t'.p = t.p) ∧
    s'.readNum k a.size = if old = (t.reg u.e.d).lo % 2 ^ (8 * a.size) then a.data.lo % 2 ^ (8 * a.size) else old)

/-- 08 R161: a relaxed access with fewer than eight outstanding, that takes no pending error and loses no bank, passes at once,
its base moved and fd as it was, and is outstanding after those before it; memory is as it was. -/
def Obligations.RelaxedAccesses : Prop :=
  ∀ i (s s1 : State) (t : Thread) u k, s.thread s.cur = some t → accessRow t i = some u → u.live t → s.operandAt t u s1 k →
  let a := u.access k (t.memAddr u.e)
  u.e.rx = true → t.rx.length < 8 → (u.e.rel = true → ∀ p ∈ t.pendErr, s1.inScope (slotCore s.cur) u.e.scope p.key = false) →
  s1.losesBank t a = false → levelServes a = true →
  ∃ s' t', exec i s = .next s' ∧ s'.thread s.cur = some t' ∧ t'.pc = t.pc + BitVec.ofNat 64 (4 * u.e.form.words) ∧
    t'.rx = t.rx ++ [{ acc := s1.located t u.e a, acq := u.e.acq, rel := u.e.rel, scope := u.e.scope, req := 0, low := none }] ∧
    t.baseMoved t' u.e false ∧ t'.p = t.p ∧ s'.mem = s1.mem

/-- 17 R305 and 08 R159, at a live access whose sources are admitted: a misaligned address is a format fault with its detail
bit, a capability that does not admit the active bytes freezes the thread with KIND 8, an address that no page maps is a
translation fault with cause 5, one whose page lacks a right has cause 6, and one whose walk meets an uncorrectable error a data error; a
source that is not admitted is a format fault. That `ldfe` takes cause 6 on a page that lacks either right is the model's choice (log 74). -/
def Obligations.AccessFaults : Prop :=
  ∀ i (s : State) (t : Thread) u, s.thread s.cur = some t → accessRow t i = some u → s.isHandler s.cur t = false →
  (if u.width = 0 then t.live0 u.e.g = true else t.live u.e.g u.width = true) →
  let va := t.memAddr u.e
  let r := t.reg u.e.a
  let stops := fun (kind cause detail : Nat) => ∃ s', exec i s = .next s' ∧ s.trapped s' s.cur t (some ⟨kind, cause, detail, 0⟩) false
  (u.sources = false → stops 2 0 0) ∧
  (u.sources = true → va % u.use.size ≠ 0 → stops 2 0 1) ∧
  (u.sources = true → va % u.use.size = 0 → (r.isMem && checkBytes r va u.use.size u.use.mask u.use.perm) = false →
    ∃ s', exec i s = .next s' ∧ s.trapped s' s.cur t none true) ∧
  (u.sources = true → va % u.use.size = 0 → r.isMem = true → checkBytes r va u.use.size u.use.mask u.use.perm = true →
    capSpace r.bits = 3 → va < 2 ^ 57 →
    (t.absent = some (va / 4096) → stops 3 5 0) ∧
    ∀ m s1, s.reachedNow t va → s.translate (slotGrove s.cur) t.ctx va = (m, s1) →
      let stops := fun (kind cause : Nat) => ∃ s', exec i s = .next s' ∧ s1.trapped s' s.cur t (some ⟨kind, cause, 0, 0⟩) false
      (m = .absent → stops 3 5) ∧ (∀ k, m = .bad k → stops 4 0) ∧
      (∀ x, m = .page x → (∃ q ∈ u.use.rights, leafHas x.leaf q = false) → stops 3 6))

/-- 08 R175 to R177, with no error pending that it takes: a live `fence` passes when no relaxed access of the thread has its
home in the scope, and else waits at its PC; a live `wait` passes when every counter is at or below its limit, and else waits. It
takes an error of its scope, or of a counter that it limits below 8. -/
def Obligations.FencesAndWaits : Prop :=
  ∀ i e (s : State) (t : Thread), s.thread s.cur = some t → t.live0 e.g = true →
  (i = .fence e ∨ i = .fenceX e → (∀ p ∈ t.pendErr, s.inScope (slotCore s.cur) e.scope p.key = false) →
    exec i s = .next (if t.rx.any fun r => s.inScope (slotCore s.cur) e.scope r.acc.key
      then s.put { t with wait := .drain e.scope false, reissue := true } else (s.dropFetches s.cur).put { t.next e with fbuf := [] })) ∧
  (i = .wait e ∨ i = .waitX e → (∀ p ∈ t.pendErr, 8 ≤ e.imm.toNat / (if p.inSt then 16 else 1) % 16) →
    exec i s = .next (s.put (if t.ld ≤ e.imm.toNat % 16 ∧ t.st ≤ e.imm.toNat / 16 % 16 ∧ t.cp ≤ e.imm.toNat / 256 % 256 ∧
        t.tl ≤ e.imm.toNat / 65536 % 256
      then t.next e else { t with wait := .counters e.imm, reissue := true })))

/-! ## Ends, stops, safe points, and instructions that are not live -/

/-- 04 R63, 07 R121, R148, 08 R159: an instruction that is not live only advances the PC: of a scalar row, of a row on lanes, a `mov` that
copies a capability, an `ext`, and an `fcvt` no element of whose destination is active (07 R118). -/
def Obligations.NotLiveOnlyPasses : Prop :=
  ∀ (i : Instr) (s : State) (t : Thread), s.thread s.cur = some t →
  let passes := fun (e : Fields) => exec i s = .next (s.put (t.next e))
  (∀ e, scalarRow i = some e → t.live0 e.g = false → passes e) ∧
  (∀ e w, laneRow t i = some (e, w) → t.live e.g w = false → passes e) ∧
  (∀ e, movRow i = some e → e.hasLit = false → e.ty = 0 → (t.reg e.a).cap = true → t.live0 e.g = false → passes e) ∧
  (∀ e, extRow i = some e → t.typeOf e ≠ 0 → t.live0 e.g = false → passes e) ∧
  (∀ e, fcvtRow i = some e →
    let untyped := e.hasWord1 = false ∧ ((t.reg e.a).cap = true ∨ (t.reg e.a).tag = 0)
    (untyped → t.live e.g 4 = false → passes e) ∧
    (¬ untyped → (∀ k, k < elemCount (cvtDest e) → t.guardBit e.g (fmtWidth (cvtDest e) * k / 4) = false) → passes e))

/-- 17 R306, R308 and R311, 27 R425: a live `trap` stops its thread with KIND 7, a live `brk` with KIND 6 and CAUSE 1, the PC
after it and the code in INFO; the message of its context's handler names the thread, the cause word and that PC. -/
def Obligations.TrapsStop : Prop :=
  ∀ i e kind cause, stopRow i = some (e, kind, cause) →
  ∀ (s : State) (t : Thread), s.thread s.cur = some t → t.live0 e.g = true →
  let code : Word32 := if e.hasWord1 then e.imm else (e.d ++ e.a ++ e.b : BitVec 15).zeroExtend 32
  let pc := t.pc + BitVec.ofNat 64 (4 * e.form.words)
  ∃ s' t', exec i s = .next s' ∧ s'.thread s.cur = some t' ∧ t'.stopped = some ⟨kind, cause, 0, code⟩ ∧ t'.pc = pc ∧
    t'.q = t.q ∧ t'.p = t.p ∧ t'.gf = t.gf ∧ s'.mem = s.mem ∧ (∀ n, n ≠ s.cur → s'.slot n = s.slot n) ∧
    (s.isHandler s.cur t = false →
      (s'.ctx t.ctx).messages = (s.ctx t.ctx).messages ++
        [⟨messageHead t.gtid kind cause 0 code.toNat, messageTail pc 0⟩])

/-- 07 R153, 19 R341: a live `exit`, with no error pending, halts the thread past the instruction, and it departs from every crew: no
barrier counts it any more; but for a trigger, its task then hands on (02 R39). One with an error pending takes that error (08 R177). -/
def Obligations.ExitHalts : Prop :=
  ∀ (e : Fields) (s : State) (t : Thread), s.thread s.cur = some t → t.live0 e.g = true →
  let m := s.memberOf t
  (t.pendErr = [] → s.crewsOf m = [] →
    ∃ s1 : State, s1.thread s.cur = some { t.next e with halted := true, request := none } ∧ s1.mem = s.mem ∧
      (∀ n, n ≠ s.cur → s1.slot n = s.slot n) ∧
      exec (.exit e) s = .next ((if t.trig then s1 else s1.handOn t.gtid).endStop t.ctx)) ∧
  (t.pendErr = [] → t.wait = .none → s.Tidy → s.crewsSound →
    ∃ (s1 : State) (t' : Thread), s1.thread s.cur = some t' ∧ t'.halted = true ∧ t'.request = none ∧
      t'.pc = t.pc + BitVec.ofNat 64 (4 * e.form.words) ∧ t'.q = t.q ∧ t'.p = t.p ∧ s1.mem = s.mem ∧
      (∀ ci, m ∉ (s1.crew ci).members ∧ m ∉ (s1.crew ci).joins ∧ ∀ b, m ∈ ((s1.crew ci).bar b).counted → m ∈ ((s.crew ci).bar b).counted ∧
        m ∉ (s.crew ci).members) ∧
      exec (.exit e) s = .next ((if t.trig then s1 else s1.handOn t.gtid).endStop t.ctx)) ∧
  (∀ p r, t.pendErr = p :: r → t.wait = .none → ∃ s', exec (.exit e) s = .next s' ∧ s.errorTaken s' t p)

/-- 07 R154 and R155, 17 R313 and R321: a live `safe` or `yield` with an error pending takes that error (08 R177); with relaxed accesses
outstanding it waits for them; with neither, and no request pending, it passes with D at 0. After `safe` a register or predicate outside
the live masks holds its value or zero; one in the masks, and every one after `yield`, keeps its value. A lockstep pair takes at `safe` a
checkpoint of its live registers and its slice in the slot region of the odd core, and is held for 16 + SLICE cycles. -/
def Obligations.SafePoints : Prop :=
  ∀ (e : Fields) (s : State) (t : Thread), s.thread s.cur = some t → t.live0 e.g = true →
  (∀ p r, t.pendErr = p :: r → t.wait = .none →
    (∃ s', exec (.safe e) s = .next s' ∧ s.errorTaken s' t p) ∧ ∃ s', exec (.yield e) s = .next s' ∧ s.errorTaken s' t p) ∧
  (t.pendErr = [] → t.request = none →
    let passed := fun (t' : Thread) => t'.dist = 0 ∧ t'.pc = t.pc + BitVec.ofNat 64 (4 * e.form.words) ∧ t'.gf = t.gf ∧
      (∀ r : BitVec 5, t'.reg r = t.reg r ∨ (e.imm.getLsbD r.toNat = false ∧ t'.reg r = QReg.zero)) ∧
      (∀ k, k < 8 → t'.pred k = t.pred k ∨ (e.mod.getLsbD k = false ∧ t'.pred k = 0))
    (t.rx ≠ [] → (∀ r ∈ t.rx, s.inScope (slotCore s.cur) 5 r.acc.key = true) ∧
      exec (.safe e) s = .next (s.put { t with wait := .drain 5 false, reissue := true }) ∧
      exec (.yield e) s = .next (s.put { t with wait := .drain 5 false, reissue := true })) ∧
    (t.rx = [] → exec (.yield e) s = .next (s.put { t.next e with dist := 0 })) ∧
    (t.rx = [] → t.pair = false → ∃ s' t', exec (.safe e) s = .next s' ∧ s'.thread s.cur = some t' ∧ passed t' ∧ s'.mem = s.mem) ∧
    (t.rx = [] → t.pair = true → s.mem.wf = true → ∃ s' t', exec (.safe e) s = .next s' ∧ s'.thread s.cur = some t' ∧ passed t' ∧
      t'.held = s.cycle (slotCore s.cur) + 16 + t.slice ∧
      let k := s.checkpointKey s.cur
      let l := saveRegs t' (slotNum s.cur) e.imm.toNat (e.mod.toNat % 256) false false ++ s.sliceGranules s.cur t.slice
      (∀ i g, l[i]? = some g → s'.granule (k + 16 * i) = g) ∧ s.bytesOutside s' k (16 * l.length)))

/-! ## Capabilities and channels -/

/-- 08 R183 and R184: each derivation of a memory or execute capability completes. `cset` gives the bounds from the cursor for
the length at the least exponent that holds them, where they lie within the old ones, and else the bits as raw data; `cperm` ANDs
the permissions with the mask; `cinc` moves the cursor, and gives data where it leaves the representable window (04 R72). -/
def Obligations.CapabilityDerivation : Prop :=
  ∀ (e : Fields) (s : State) (t : Thread) (n : Nat), s.thread s.cur = some t → t.live0 e.g = true → sourceB t e n →
  (t.reg e.a).isMem = true →
  let r := t.reg e.a
  let b := capCursor r.bits
  let low := fun k => b / 2 ^ k * 2 ^ k
  let high := fun k => (b + n + (2 ^ k - 1)) / 2 ^ k * 2 ^ k
  let fits := fun k => high k - low k ≤ 2 ^ (k + 20)
  let moved := (b + n) % 2 ^ 64
  (∀ i, i = .cset e ∨ i = .csetX e → ∃ k, fits k ∧ (∀ j, j < k → ¬ fits j) ∧
    exec i s = .next (s.put ((t.setReg e.d
      (if k ≤ 37 ∧ b + n ≤ 2 ^ 64 ∧ capBase r.bits ≤ low k ∧ high k ≤ capTop r.bits ∧ (e.xop = 1 → low k = b ∧ high k = b + n)
       then ⟨BitVec.ofNat 128 ((capHigh r.bits / 2 ^ 48 * 2 ^ 48 + k * 2 ^ 42 + low k / 2 ^ k % 2 ^ 21 * 2 ^ 21 + high k / 2 ^ k % 2 ^ 21)
         * 2 ^ 64 + b), true, r.tag⟩
       else ⟨r.bits, false, 0⟩)).next e))) ∧
  (∀ i, i = .cperm e ∨ i = .cpermX e →
    exec i s = .next (s.put ((t.setReg e.d ⟨BitVec.ofNat 128 (((capPerms r.bits &&& n % 1024) * 2 ^ 54 + capHigh r.bits % 2 ^ 54) * 2 ^ 64 + b),
      true, r.tag⟩).next e))) ∧
  (∀ i, i = .cinc e ∨ i = .cincX e →
    exec i s = .next (s.put ((t.setReg e.d ⟨BitVec.ofNat 128 (capHigh r.bits * 2 ^ 64 + moved),
      decide (capBase r.bits ≤ moved + 2 ^ (capE r.bits + 19) ∧ moved < capTop r.bits + 2 ^ (capE r.bits + 19)),
      if capBase r.bits ≤ moved + 2 ^ (capE r.bits + 19) ∧ moved < capTop r.bits + 2 ^ (capE r.bits + 19) then r.tag else 0⟩).next e)))

/-- 08 R185 to R187: `cget` reads a field, 0 of data; `ctest` writes the pair in bits 15:0 of its members; `cseal` and `cunseal`
change KIND alone, but for PX of a sealed memory capability, under an authority whose bounds contain those of fa. -/
def Obligations.CapabilityInspection : Prop :=
  ∀ (e : Fields) (s : State) (t : Thread), s.thread s.cur = some t → t.live0 e.g = true →
  let r := t.reg e.a
  let fields : List Nat := [capBase r.bits, capTop r.bits % 2 ^ 64, (capTop r.bits - capBase r.bits) % 2 ^ 64,
    ((capCursor r.bits - capBase r.bits : Int) % 2 ^ 64).toNat, capPerms r.bits, capSpace r.bits, capKind r.bits, capE r.bits,
    capCursor r.bits]
  (∀ i v, cgetRow i = some e → fields[e.xop.toNat]? = some v → exec i s =
    .next (s.put ((t.setReg e.d ⟨BitVec.ofNat 128 (if r.cap then v else 0), false, 4⟩).next e))) ∧
  (e.d.toNat < 8 → e.d.toNat % 2 = 0 → ∃ t', exec (.ctest e) s = .next (s.put t') ∧
    let h := r.cap && capKind r.bits != 4
    t.predsWritten t' e fun k j => if j < 16 ∧ k / 2 = e.d.toNat / 2 then some (if k % 2 = 0 then h else !h) else none) ∧
  (e.d.toNat < 8 → e.d.toNat % 2 = 0 → (t.reg e.b).isInt = true → (t.reg e.b).lo < 2 ^ 42 →
    ∃ t', exec (.ctestFit e) s = .next (s.put t') ∧
    let n := (t.reg e.b).lo % 2 ^ 32
    let perms := (t.reg e.b).lo / 2 ^ 32
    let h := r.isMem && decide (capSpace r.bits ≤ 3) && capPerms r.bits &&& perms == perms &&
      decide (capBase r.bits ≤ capCursor r.bits) && decide (capCursor r.bits + n ≤ capTop r.bits)
    t.predsWritten t' e fun k j => if j < 16 ∧ k / 2 = e.d.toNat / 2 then some (if k % 2 = 0 then h else !h) else none) ∧
  (∀ i seal_, csealRow i = some (e, seal_) → authority (t.reg e.b) r (if seal_ then permPSEAL else permPUNS) = true →
    (if seal_ then r.isMem = true else r.cap = true ∧ capKind r.bits = 4) →
    ∃ v : QReg, exec i s = .next (s.put ((t.setReg e.d v).next e)) ∧ v.cap = true ∧ v.tag = r.tag ∧
      capCursor v.bits = capCursor r.bits ∧ capHigh v.bits % 2 ^ 48 = capHigh r.bits % 2 ^ 48 ∧
      capSpace v.bits = capSpace r.bits ∧
      capKind v.bits = (if seal_ then 4 else if capPerms r.bits &&& permPX = 0 then 0 else 1) ∧
      capPerms v.bits = (if seal_ && capKind r.bits == 0 then capPerms r.bits - (capPerms r.bits &&& permPX) else capPerms r.bits))

/-- 08 R188 to R190: a live `send` with nothing outstanding or pending holds its entry, waiting, for the slot that its word
names; `recv` takes the oldest entry of the thread's channel, or waits with its PC where it is; `recv.try` says in its pair
whether there was one. -/
def Obligations.Channels : Prop :=
  ∀ (e : Fields) (s : State) (t : Thread), s.thread s.cur = some t → t.live0 e.g = true →
  (∀ i word, i = .send e ∨ i = .sendX e → sourceB t e word → word < 2 ^ 17 → t.rx = [] → t.pendErr = [] →
    (word / 2 ^ 16 = 1 ∨ ∃ core, Store.get none (s.ctx t.ctx).remap (word % 4096) = some core) →
    let core := if word / 2 ^ 16 = 1 then none else some (word % 4096)
    ∃ s', exec i s = .next s' ∧ s'.sendWait = s.sendWait ++ [s.cur] ∧ s'.mem = s.mem ∧
      s'.thread s.cur = some { t with wait := .send (t.reg e.a) core (word / 2 ^ 12 % 16) e }) ∧
  (∀ v r, (s.slot s.cur).chan = v :: r → s.hasSpill t.ctx (slotDie s.cur) t.gtid = false →
    (∃ s', exec (.recv e) s = .next s' ∧ (s'.slot s.cur).chan = r ∧ s'.thread s.cur = some ((t.setReg e.d v).next e)) ∧
    (∃ s', exec (.recvTry e) s = .next s' ∧ (s'.slot s.cur).chan = r ∧
      s'.thread s.cur = some (((t.setReg e.d v).setPair e.a.toNat 16 true).next e))) ∧
  ((s.slot s.cur).chan = [] →
    exec (.recv e) s = .next (s.put { t with wait := .recv e }) ∧
    exec (.recvTry e) s = .next (s.put ((t.setPair e.a.toNat 16 false).next e)))

/-! ## Crews -/

/-- 19 R335 to R338: `cmake` takes the lowest free entry for a new name, with its generation advanced, and returns its handle;
it returns −3 for a domain name of another package, −2 for a name that stands and −1 with no entry free. `cfind` returns the
handle of a name or −1. Both write their pair and wait on memory for the crew unit. -/
def Obligations.CrewNames : Prop :=
  ∀ (e : Fields) (s : State) (t : Thread), s.thread s.cur = some t → t.live0 e.g = true →
  let done := fun (s1 : State) (pk : BitVec 5) (v : QReg) (ok : Bool) =>
    s1.put { ((t.setReg e.d v).setPair pk.toNat 16 ok).next e with wait := .memory }
  let dom := e.imm.getLsbD 1
  let other := dom && e.lit.toNat / 2 ^ 52 != s.pkg
  (other = true → exec (.cmake e) s = .next (done s e.a (dataInt (-3)) false)) ∧
  (other = false → (s.crewNamed t.ctx dom e.lit.toNat).isSome = true → exec (.cmake e) s = .next (done s e.a (dataInt (-2)) false)) ∧
  (other = false → s.crewNamed t.ctx dom e.lit.toNat = none →
    ((∀ ci, ci < crewEntries → s.crewTaken.mem ci = true) → exec (.cmake e) s = .next (done s e.a (dataInt (-1)) false)) ∧
    (∀ ci, ci < crewEntries → s.crewTaken.mem ci = false → (∀ k, k < ci → s.crewTaken.mem k = true) →
      let c : Crew := { Crew.free with used := true, gen := ((s.crew ci).gen + 1) % 2 ^ 16, ctx := t.ctx, dom
                                       gang := e.imm.getLsbD 0, origin := .named e.lit }
      exec (.cmake e) s = .next (done (s.setCrew ci c) e.a ((s.setCrew ci c).crewHandle ci) true))) ∧
  (∀ name, sourceB t e name → (dom = false ∨ name / 2 ^ 52 = s.pkg) →
    (∀ ci, s.crewNamed t.ctx dom name = some ci → exec (.cfind e) s = .next (done s e.c (s.crewHandle ci) true)) ∧
    (s.crewNamed t.ctx dom name = none → exec (.cfind e) s = .next (done s e.c (dataInt (-1)) false)))

/-- 19 R337, R339, R340 and R345, for a current handle of a crew of this package: `cfree` frees a named crew without members, joiners and
waiters and returns 0, else −1, and −2 for an implicit one; `cstat` returns the member's rank, the phase, the counts and whether a join
or a leave is pending; `cjoin` and `cleave` say in their pair whether they were taken. A joiner of a crew that stands waits for its
boundary, behind those of earlier cycles; one of a crew without members is admitted at once. -/
def Obligations.CrewMembership : Prop :=
  ∀ (e : Fields) (s : State) (t : Thread) (ci : Nat), s.thread s.cur = some t → t.live0 e.g = true → s.namesCrew t e ci →
  let c := s.crew ci
  let m := s.memberOf t
  let done := fun (s1 : State) (v : QReg) => s1.put { (t.setReg e.d v).next e with wait := .memory }
  (∀ task, c.origin = .implicit task → exec (.cfree e) s = .next (done s (dataInt (-2)))) ∧
  (∀ name, c.origin = .named name →
    (c.members ≠ [] ∨ c.joins ≠ [] ∨ s.crewWaited ci = true → exec (.cfree e) s = .next (done s (dataInt (-1)))) ∧
    (c.members = [] → c.joins = [] → s.crewWaited ci = false →
      exec (.cfree e) s = .next (done (s.setCrew ci { Crew.free with gen := c.gen }) (dataInt 0)))) ∧
  (∃ v : QReg, exec (.cstat e) s = .next (done s v) ∧ v.cap = false ∧ v.tag = 4 ∧
    v.lo = (if m ∈ c.members then c.ranks.idxOf m % 2 ^ 64 else 2 ^ 64 - 1) ∧
    v.hi / 2 ^ 32 = c.bar0.phase % 2 ^ 32 ∧ v.hi / 2 ^ 15 % 2 ^ 17 = c.members.length % 2 ^ 17 ∧
    v.hi / 2 ^ 4 % 2 ^ 11 = c.faults % 2 ^ 11 ∧ v.hi / 8 % 2 = flag c.dom ∧ v.hi / 4 % 2 = flag c.gang ∧
    (v.hi / 2 % 2 = 1 ↔ c.joins ≠ [] ∨ c.leaves ≠ []) ∧ v.hi % 2 = flag c.broken) ∧
  (∀ i join, memberRow i = some (e, join) → t.wait = .none →
    (m ∈ c.members → m ∉ c.leaves → join = true → ∃ s' t', exec i s = .next s' ∧ s'.crew ci = c ∧ s'.thread s.cur = some t' ∧
      t' = { (t.setPair e.d.toNat 16 false).next e with wait := .memory }) ∧
    (m ∈ c.members → m ∉ c.leaves → join = false → ∃ s' t', exec i s = .next s' ∧ (s'.crew ci).leaves = c.leaves ++ [m] ∧
      (s'.crew ci).members = c.members ∧ s'.thread s.cur = some t' ∧
      t' = { (t.setPair e.d.toNat 16 true).next e with wait := .memory }) ∧
    (m ∈ c.members → m ∈ c.leaves → join = true → ∃ s' t', exec i s = .next s' ∧ (s'.crew ci).leaves = c.leaves.erase m ∧
      (s'.crew ci).members = c.members ∧ s'.thread s.cur = some t' ∧
      t' = { (t.setPair e.d.toNat 16 true).next e with wait := .memory }) ∧
    (m ∉ c.members → m ∉ c.joins → c.members.length + c.joins.length < 65536 → join = true → (∀ b, (c.bar b).complete = false) →
      let taken := fun (s' : State) => exec i s = .next s' ∧
        s'.thread s.cur = some { (t.setPair e.d.toNat 16 true).next e with wait := .memory }
      (c.members ≠ [] → ∃ s', taken s' ∧ (s'.crew ci).members = c.members ∧ (∀ b, (s'.crew ci).bar b = c.bar b) ∧
        (∀ x, x ∈ (s'.crew ci).joins ↔ x = m ∨ x ∈ c.joins) ∧ (s'.crew ci).joins.erase m = c.joins ∧
        (c.lateAt ≠ s.tick + 1 → (s'.crew ci).joins = c.joins ++ [m])) ∧
      (c.members = [] → c.joins = [] → c.leaves = [] → c.bar0.held = [] → ∃ s', taken s' ∧ (s'.crew ci).members = [m] ∧
        (s'.crew ci).joins = [] ∧ (s'.crew ci).bar0.counted = [m] ∧ (s'.crew ci).bar0.phase = (c.bar0.phase + 1) % 2 ^ 32)) ∧
    (m ∉ c.members → 65536 ≤ c.members.length + c.joins.length → join = true → ∃ s' t', exec i s = .next s' ∧ s'.crew ci = c ∧
      s'.thread s.cur = some t' ∧ t' = { (t.setPair e.d.toNat 16 false).next e with wait := .memory }) ∧
    (m ∉ c.members → m ∉ c.joins → join = false → ∃ s' t', exec i s = .next s' ∧ s'.crew ci = c ∧ s'.thread s.cur = some t' ∧
      t' = { (t.setPair e.d.toNat 16 false).next e with wait := .memory }) ∧
    (m ∉ c.members → m ∈ c.joins → join = false → ∃ s' t', exec i s = .next s' ∧ (s'.crew ci).joins = c.joins.erase m ∧
      s'.thread s.cur = some t' ∧ t' = { (t.setPair e.d.toNat 16 true).next e with wait := .memory }))

/-- 19 R342 to R344, 20 R352, R356 to R358: a live collective of a member, with its earlier accesses performed and no error pending,
arrives with its contribution at the barrier imm32[1:0]: once taken in a phase, `carr` returns the phase number and passes, and the others
wait for the phase; the barrier is then settled, which releases a phase that is complete. `cwait` for a phase that has been released returns
its number and flags; for the open one it waits. A thread that may not wait on the barrier is stopped with KIND 5. A reduction whose type
is not given, not in the list of its operation or not that of fb is a format fault (04 R67). -/
def Obligations.CollectivesArrive : Prop :=
  (∀ i e kind phase (s : State) (t : Thread) (ci : Nat), s.thread s.cur = some t → collectiveRow t i = some (e, kind, phase) →
     t.live0 e.g = true → s.namesCrew t e ci → t.rx = [] → t.pendErr = [] →
     (kind = 3 → t.credType e ≠ 0 ∧ (credTys e.xop.toNat).getLsbD (t.credType e) = true ∧ srcOk e (t.credType e) (t.reg e.b) = true) →
     let b := e.imm.toNat % 4
     ∃ v, contributes t e kind v ∧
       let r := s.meetArrival ci b { who := s.memberOf t, kind := phase, value := v, waits := kind != 4 }
       (∀ k, r.1 = .taken k → exec i s = .next
         ((r.2.put (if kind = 4 then { (t.setReg e.d (lanes64 k 0 4)).next e with wait := .memory }
           else { t with wait := .crew ci b k kind e })).settle ci settleFuel)) ∧
       (∀ k, r.1 = .held k → exec i s = .next
         (r.2.put (if kind = 4 then { (t.setReg e.d (lanes64 k 0 4)).next e with wait := .memory }
           else { t with wait := .crewHeld ci b kind e }))) ∧
       (∀ cause, r.1 = .broken cause → exec i s = .next (r.2.stopThread s.cur 5 cause 0 0 0))) ∧
  (∀ i e phase (s : State) (t : Thread) (ci : Nat), s.thread s.cur = some t → collectiveRow t i = some (e, 3, phase) → t.live0 e.g = true →
     s.namesCrew t e ci → s.isHandler s.cur t = false →
     (t.credType e = 0 ∨ (credTys e.xop.toNat).getLsbD (t.credType e) = false ∨ srcOk e (t.credType e) (t.reg e.b) = false) →
     ∃ s', exec i s = .next s' ∧ s.trapped s' s.cur t (some ⟨2, 0, 0, 0⟩) false) ∧
  (∀ i e (s : State) (t : Thread) (ci : Nat), i = .cwait e ∨ i = .cwaitPh e → s.thread s.cur = some t → t.live0 e.g = true →
     s.namesCrew t e ci → (e.mod.getLsbD 0 = true → (t.reg e.b).isInt = true) →
     let b := e.imm.toNat % 4
     let bar := (s.crew ci).bar b
     let k := if e.mod.getLsbD 0 then (t.reg e.b).lo % 2 ^ 32 else bar.phase
     (∀ cause, (s.crew ci).waitRefused b (s.memberOf t) = some cause → exec i s = .next (s.stopThread s.cur 5 cause 0 0 0)) ∧
     ((s.crew ci).waitRefused b (s.memberOf t) = none →
       (phaseReleased bar.phase k = true → exec i s =
         .next (s.put { (t.setReg e.d (lanes64 k (bar.waitFlags k) 4)).next e with wait := .memory })) ∧
       (phaseReleased bar.phase k = false → exec i s = .next (s.put { t with wait := .crew ci b k 1 e }))))

/-! ## System registers, privilege and the system instructions -/

/-- 17 R302: `gets` returns a register as a ui64, 0 for one that can only be written (00 R6); `puts` writes lane 0 of fd and waits on memory for the register; a register
marked privileged is a protection violation without system privilege, which freezes the thread. -/
def Obligations.SystemRegisters : Prop :=
  ∀ (e : Fields) (s : State) (t : Thread), s.thread s.cur = some t → t.live0 e.g = true →
  let u := s.threadUser t
  let n := if e.hasWord1 then e.imm.toNat % 2 ^ 16 else e.a.toNat * 32 + e.b.toNat
  (∀ i, getsRow i = some e →
    (privRead n = true → u.priv = false → s.isHandler s.cur t = false →
      ∃ s', exec i s = .next s' ∧ s.trapped s' s.cur t none true) ∧
    ((privRead n = false ∨ u.priv = true) →
      exec i s = .next (s.put ((t.setReg e.d (data64 (if writeOnly n then 0 else s.regValue u n) 8)).next e)))) ∧
  (∀ i, putsRow i = some e → (t.reg e.d).cap = false → t.rx = [] → t.pendErr = [] →
    (privWrite n = true → u.priv = false → s.isHandler s.cur t = false → n ≠ 0xA2 →
      ∃ s', exec i s = .next s' ∧ s.trapped s' s.cur t none true) ∧
    ((privWrite n = false ∨ u.priv = true) → ∀ t1, (s.regEffect u n (t.reg e.d).lo).thread s.cur = some t1 →
      ∃ s', exec i s = .next s' ∧ s'.thread s.cur = some { t1.next e with wait := .memory } ∧
        s' = { s.regEffect u n (t.reg e.d).lo with slots := s'.slots }))

/-- 27 R431 and R432: `ctr.read` returns a counter of the thread's context with its event and RUN, `ctr.start` and `ctr.stop` set
RUN of the counters of the mask, `ctr.sel` selects an event and zeroes the count. -/
def Obligations.Counters : Prop :=
  ∀ (e : Fields) (s : State) (t : Thread), s.thread s.cur = some t → t.live0 e.g = true → s.Tidy → s.ctx t.ctx ≠ Ctx.none →
  let c := s.counter t.ctx
  (∀ i, ctrReadRow i = some e → exec i s = .next (s.put ((t.setReg e.d
    (lanes64 (c (e.b.toNat % 8)).count ((c (e.b.toNat % 8)).event + if (c (e.b.toNat % 8)).run then 256 else 0) 8)).next e))) ∧
  (∀ i run, (i = .ctrStart e ∧ run = true) ∨ (i = .ctrStop e ∧ run = false) → (s.ctx t.ctx).mode ≠ .none →
    ∃ s', exec i s = .next s' ∧ s'.thread s.cur = some (t.next e) ∧ s'.mem = s.mem ∧
    ∀ k, k < 8 → s'.counter t.ctx k = if e.imm.getLsbD k then { c k with run } else c k) ∧
  (e.imm.toNat / 256 % 256 ≤ 10 → (s.ctx t.ctx).mode ≠ .none → ∃ s', exec (.ctrSel e) s = .next s' ∧ s'.thread s.cur = some (t.next e) ∧ s'.mem = s.mem ∧
    ∀ k, k < 8 → s'.counter t.ctx k =
      if k = e.imm.toNat % 8 then { c k with count := 0, event := e.imm.toNat / 256 % 256 } else c k)

/-- 17 R312 and R318, 22 R366: `tres` without a stopped target of the context returns −1; it lets a stopped thread, placed or saved, go on
at its PC, or with SKIP a placed one past the instruction there, and returns 0, or −2 where that cannot be read; `migr` towards a target that is not allowed returns −1 and otherwise the code of its request; `tlbi`
by a privileged thread with nothing outstanding drops the translations it names in every grove, and passes where no access made
through one of them and no walk that read one is left. -/
def Obligations.SystemInstructions : Prop :=
  ∀ (e : Fields) (s : State) (t : Thread), s.thread s.cur = some t → t.live0 e.g = true → s.Tidy →
  let r := t.reg e.a
  (r.isInt = true → r.hi ≤ 1 → s.slotOf r.lo = none → s.savedOf t.ctx r.lo = none →
    exec (.tres e) s = .next (s.put ((t.setReg e.d (dataInt (-1))).next e))) ∧
  (∀ n u, r.isInt = true → r.hi ≤ 1 → s.slotOf r.lo = some n → s.thread n = some u →
    let goes := fun (pc : Word64) => ∃ s' u', exec (.tres e) s = .next s' ∧ s'.thread n = some u' ∧ u'.stopped = none ∧ u'.pc = pc ∧
      u'.q = u.q ∧ u'.p = u.p ∧ s'.thread s.cur = some ((t.setReg e.d (dataInt 0)).next e)
    (u.stopped = none ∨ u.ctx ≠ t.ctx ∨ n = s.cur → exec (.tres e) s = .next (s.put ((t.setReg e.d (dataInt (-1))).next e))) ∧
    (u.stopped ≠ none → u.ctx = t.ctx → n ≠ s.cur →
      (r.hi = 0 → goes u.pc) ∧ (∀ len, r.hi = 1 → s.codeLength n u len → goes (u.pc + BitVec.ofNat 64 len)) ∧
      (r.hi = 1 → u.pc.toNat % 4 ≠ 0 ∨ 2 ^ 57 ≤ u.pc.toNat → ∃ s', exec (.tres e) s = .next s' ∧ s'.mem = s.mem ∧
        s'.slots = (s.put ((t.setReg e.d (dataInt (-2))).next e)).slots))) ∧
  (∀ v, r.isInt = true → s.slotOf r.lo = none → s.savedOf t.ctx r.lo = some v → (s.ctx t.ctx).mode ≠ .none →
    (r.hi ≤ 1 → v.stopped = none → exec (.tres e) s = .next (s.put ((t.setReg e.d (dataInt (-1))).next e))) ∧
    (r.hi = 0 → v.stopped ≠ none → ∃ s' w, exec (.tres e) s = .next s' ∧ w ∈ (s'.ctx t.ctx).saved ∧ w.gtid = v.gtid ∧ w.frame = v.frame ∧
      w.pc = v.pc ∧ w.stopped = none ∧ s'.thread s.cur = some ((t.setReg e.d (dataInt 0)).next e))) ∧
  (∀ i, migrRow i = some e → r.isInt = true →
    (s.migrGoal t r.lo = some none → exec i s = .next (s.put ((t.setReg e.d (dataInt (-1))).next e))) ∧
    (∀ goal t1, s.migrGoal t r.lo = some (some goal) → (s.requestMigration t.ctx t.lcore goal).2.thread s.cur = some t1 →
      ∃ s', exec i s = .next s' ∧
        s'.thread s.cur = some ((t1.setReg e.d (dataInt (s.requestMigration t.ctx t.lcore goal).1)).next e))) ∧
  (s.privileged t = true → t.rx = [] → t.pendErr = [] →
    let drained := fun (kind c va size : Nat) => ((s.put t).dropNamed kind c va size).staleLeft kind c va size = false
    (drained 0 0 0 1 → ∃ s', exec (.tlbi e) s = .next s' ∧ s'.thread s.cur = some (t.next e) ∧ ∀ g, (s'.grove g).tlb = []) ∧
    (r.isInt = true → drained 1 (r.hi % 4096) 0 1 → ∃ s', exec (.tlbiCtx e) s = .next s' ∧ s'.thread s.cur = some (t.next e) ∧
      ∀ g x, x ∈ (s'.grove g).tlb ↔ x ∈ (s.grove g).tlb ∧ x.ctx ≠ r.hi % 4096) ∧
    (r.isInt = true → drained 2 (r.hi % 4096) (r.lo % 2 ^ 57) (tlbiSize (e.mod.toNat % 4)) →
      ∃ s', exec (.tlbiVa e) s = .next s' ∧ s'.thread s.cur = some (t.next e) ∧
      ∀ g x, x ∈ (s'.grove g).tlb ↔ x ∈ (s.grove g).tlb ∧
        x.covers (r.hi % 4096) (r.lo % 2 ^ 57) (tlbiSize (e.mod.toNat % 4)) = false))

/-- 17 R322 to R326: an instruction of the privileged escape without system privilege, live or not, is a protection violation: the
thread is frozen, and nothing else happens. By a privileged thread, `thaw` of a frozen thread lets it go on at its PC, or with SKIP past the
instruction there, of a frozen queue halts it with its head ended, and of a frozen host function frees it; one that names nothing
frozen returns −1; `cxsw` creates a context from an admitted record; its actions, create among them, are refused with −1 where the context's state does not admit
them and otherwise return 0 and change its state (the order in which `cxsw` tries its refusals is the model's choice, log 35); `slotw` gives the empty slots of its mask their owner, and the others when they empty; `govset` writes a parameter in its range. -/
def Obligations.PrivilegedEscape : Prop :=
  (∀ i e (s : State) (t : Thread), privRow s i = some e → s.thread s.cur = some t → s.privileged t = false →
     s.isHandler s.cur t = false → ∃ s', exec i s = .next s' ∧ s.trapped s' s.cur t none true) ∧
  (∀ (s : State) (t : Thread), s.thread s.cur = some t → s.privileged t = true → s.Tidy →
     (∀ e : Fields, t.live0 e.g = true → (t.reg e.a).isInt = true →
       (let v := (t.reg e.a).lo
        let returns := fun (k : Int) => exec (.thaw e) s = .next (s.put ((t.setReg e.d (dataInt k)).next e))
        (∀ b, t.privB e = some b → b = 0 ∨ b = 4 →
          (s.slotOf v = none → s.savedOf (v / 2 ^ 52) v = none → returns (-1)) ∧
          ∀ n u, s.slotOf v = some n → s.thread n = some u → n ≠ s.cur →
            let goes := fun (pc : Word64) => ∃ s' u', exec (.thaw e) s = .next s' ∧ s'.thread n = some u' ∧ u'.frozen = false ∧ u'.pc = pc ∧
              u'.q = u.q ∧ u'.p = u.p ∧ u'.stopped = u.stopped ∧ s'.thread s.cur = some ((t.setReg e.d (dataInt 0)).next e)
            (u.frozen = false → returns (-1)) ∧ (u.frozen = true → b = 0 → goes u.pc) ∧
            ∀ len, u.frozen = true → b = 4 → s.codeLength n u len → goes (u.pc + BitVec.ofNat 64 len)) ∧
        (t.privB e = some 1 → v / 2 ^ 44 % 256 < 192 → v.testBit 4 = false →
          let k := queueKey (v / 2 ^ 52) (v / 2 ^ 44 % 256) (v % 16)
          ((s.queue k).mode ≠ .frozen → returns (-1)) ∧
          (∀ op r, (s.queue k).mode = .frozen → (s.queue k).ops = op :: r → ∃ s' t', exec (.thaw e) s = .next s' ∧
            (s'.queue k).mode = .halted ∧ (s'.queue k).ecap = false ∧ (s'.queue k).headEnded = true ∧ (s'.queue k).ops = op :: r ∧
            (s'.queue k).done = ((s.queue k).done + 1) % 2 ^ 16 ∧ s'.mem = s.mem ∧ s'.thread s.cur = some t' ∧
            t'.pc = t.pc + BitVec.ofNat 64 (4 * e.form.words) ∧ t'.reg e.d = dataInt 0)) ∧
        (t.privB e = some 2 → let f := v % 2 ^ 16
          ((∀ h ∈ s.hostFrozen, h.1 ≠ f) → returns (-1)) ∧
          ((∃ h ∈ s.hostFrozen, h.1 = f) → ∃ s', exec (.thaw e) s = .next s' ∧
            (∀ h, h ∈ s'.hostFrozen ↔ h ∈ s.hostFrozen ∧ h.1 ≠ f) ∧ s'.thread s.cur = some ((t.setReg e.d (dataInt 0)).next e)))) ∧
       (∀ par, t.privB e = some par →
         let v := (t.reg e.a).lo
         (par = 0 → 1 ≤ v → v ≤ 4000000 → ∃ s', exec (.govset e) s = .next s' ∧ s'.power.limit = v ∧
           s'.thread s.cur = some ((t.setReg e.d (dataInt 0)).next e)) ∧
         (par = 1 → 1 ≤ v → v ≤ 4000000 → ∃ s', exec (.govset e) s = .next s' ∧ s'.power.ramp = v ∧
           s'.thread s.cur = some ((t.setReg e.d (dataInt 0)).next e)) ∧
         ((par ≤ 1 ∧ (v = 0 ∨ 4000000 < v)) ∨ 3 < par → exec (.govset e) s = .next (s.put ((t.setReg e.d (dataInt (-1))).next e)))) ∧
       (let owner := (t.reg e.a).lo / 2 ^ 52 % 4096
        let core := (t.reg e.a).lo / 2 ^ 40 % 256 * 16 + (t.reg e.a).lo / 2 ^ 32 % 16
        (s.ctx owner).mode ≠ .none → (s.ctx owner).mode ≠ .tornDown → core < 3072 →
        ∃ s', exec (.slotw e) s = .next s' ∧ s'.thread s.cur = some ((t.setReg e.d (dataInt 0)).next e) ∧
          ∀ k, k < 16 → (t.reg e.a).lo.testBit k = true →
            let n := core * 16 + k
            (s.thread n = none → s.slotReserved n = false → (s'.slot n).owner = owner ∧ (s'.slot n).pin = (t.reg e.a).hi.testBit 0) ∧
            (s.thread n ≠ none → (s'.slot n).owner = (s.slot n).owner ∧ (s'.slot n).deferred = some (owner, (t.reg e.a).hi.testBit 0)))) ∧
     (∀ (e : Fields) b, t.live0 e.g = true → t.privB e = some b → b % 16 = 1 → cxswRest b = 0 → s.cxswAdmits (b / 2 ^ 16 % 4096) 1 = false →
       exec (.cxswCreate e) s = .next (s.put ((t.setReg e.d (dataInt (-1))).next e))) ∧
     (∀ (e : Fields) b k s1, t.live0 e.g = true → t.privB e = some b → b % 16 = 1 → cxswRest b = 0 →
       let c := b / 2 ^ 16 % 4096
       let r := t.reg e.a
       let v := s1.readNum k 128
       s.cxswAdmits c 1 = true → r.cap = true → r.lo % 128 = 0 → capKind r.bits = 0 → capcheck r r.lo 128 permPL = true →
       s.keyAt t (capSpace r.bits) r.lo .load s1 k → s1.isLocal k = true → s1.badRecord k = none → keyTgt k ≤ 5 →
       (recordOk v (s1.hasTag k) (s1.hasTag (k + 16)) = true → ∃ s', exec (.cxswCreate e) s = .next s' ∧ (s'.ctx c).mode = .created ∧
         (s'.ctx c).regs = recordRegs v ∧ ((s'.ctx c).sys = true ↔ v / 256 ^ 70 % 2 = 1) ∧ (s'.ctx c).saved = [] ∧
         s'.thread s.cur = some ((t.setReg e.d (dataInt 0)).next e) ∧ ∀ j, s'.byte j = s.byte j) ∧
       (recordOk v (s1.hasTag k) (s1.hasTag (k + 16)) = false → ∃ s', exec (.cxswCreate e) s = .next s' ∧ s'.ctxs = s1.ctxs ∧
         s'.thread s.cur = some ((t.setReg e.d (dataInt (-2))).next e))) ∧
     (∀ i act b (e : Fields), (cxswRow i = some act ∧ e = s.arg.fields) ∨ (i = .cxswCreate e ∧ act = b % 16 ∧ 2 ≤ act ∧ act ≤ 8) →
       t.live0 e.g = true → t.privB e = some b → cxswRest b = 0 → (act = 8 → b / 2 ^ 48 % 256 < 192) →
       let c := b / 2 ^ 16 % 4096
       (s.cxswAdmits c act = false → exec i s = .next (s.put ((t.setReg e.d (dataInt (-1))).next e))) ∧
       (s.cxswAdmits c act = true → ∃ s1 : State, s1 = s.put ((t.setReg e.d (dataInt 0)).next e) ∧
         (act = 2 → ∃ s', exec i s = .next s' ∧ s' = s1.setCtx c { s.ctx c with mode := .active }) ∧
         (act = 3 → exec i s = .next (s1.stopCtx c .suspend)) ∧
         (act = 4 → ∃ s', exec i s = .next s' ∧ s' = s1.resumeCtx c) ∧
         (act = 5 → exec i s = .next (s1.teardown c)) ∧
         (act = 6 → (s.ctx c).mode = .suspended → exec i s = .next (s1.setCtx c { s.ctx c with mode := .frozen })) ∧
         (act = 6 → (s.ctx c).mode ≠ .suspended → exec i s = .next (s1.stopCtx c .freeze)) ∧
         (act = 7 → exec i s = .next (s1.setCtx c { s.ctx c with mode := .suspended })) ∧
         (act = 8 → exec i s = .next (s1.preemptCore c (b / 2 ^ 48 % 256 * 16 + b / 2 ^ 40 % 16))))))

/-! ## Engines and their queues -/

/-- 11 R213 and 15 R284: a live tile or copy instruction that passes its checks, with room and its counter below 255, appends its
operation with its operands as they stand, counts it and passes; a full queue or counter forfeits the turn. `qjoin` appends a
join on the entries that the queues of its mask have ever had before this cycle. A control register that is a capability is a format fault. -/
def Obligations.EngineIssue : Prop :=
  ∀ (e : Fields) (s : State) (t : Thread), s.thread s.cur = some t → t.live0 e.g = true →
  (∀ i s1, tileRow i = some e →
    let op := s.tileOp t e
    let code := op.flags / 4 % 4
    (op.xop = 5 → op.b.isInt = true) → op.tileCheck = none → s.wordReached op s1 →
    (s.hasRoom t code → ∃ s', exec i s = .next s' ∧ s.enqueued s' t e code op ∧ s'.mem = s1.mem) ∧
    (¬ s.hasRoom t code → exec i s = .next (s1.put { t with lost := true }))) ∧
  (∀ i s1 code, copyRow i = some e →
    let op := s.copyOp t e
    let h := if e.mod.getLsbD 1 then some (t.reg (BitVec.ofNat 5 (e.imm.toNat / 32 % 32))) else none
    (op.hasGeometry = true → e.hasLit = false) → op.copyCheck h t.ctx (slotGrove s.cur) = .ok code → s.wordReached op s1 →
    (h = none → code = 8) ∧ (∀ r, h = some r → handleCode r t.ctx (slotGrove s.cur) = some code) ∧
    (s.hasRoom t code → ∃ s', exec i s = .next s' ∧ s.enqueued s' t e code op ∧ s'.mem = s1.mem) ∧
    (¬ s.hasRoom t code → exec i s = .next (s1.put { t with lost := true }))) ∧
  (let jq := e.imm.toNat / 2 ^ 16 % 32
   let mask := e.imm.toNat % 2 ^ 16
   (jq ≤ 3 ∨ 8 ≤ jq ∧ jq ≤ 15) → mask / 32 % 8 = 0 →
    (s.hasRoom t jq → ∃ s' op points, exec (.qjoin e) s = .next s' ∧ s.enqueued s' t e jq op ∧ s'.mem = s.mem ∧
      op.kind = .join points ∧
      ∀ c n, (c, n) ∈ points ↔ c < 16 ∧ mask.testBit c = true ∧ c ≠ jq ∧ s.entriesBefore (queueKey t.ctx (slotGrove s.cur) c) n) ∧
    (¬ s.hasRoom t jq → exec (.qjoin e) s = .next (s.put { t with lost := true }))) ∧
  (∀ i, tileRow i = some e → (t.reg e.c).cap = true →
    ∃ s', exec i s = .next s' ∧ s.trapped s' s.cur t (some ⟨2, 0, 0, 0⟩) false)

/-- 11 R229 and R235, 15 R286: `rcread` reads a route counter as an i64; `tstat` and `qstat` read the status and the progress of
a queue of the thread's context in its grove, `tstat.clr` clearing EFMT; `qstat.handle` gives a handle of the queue. -/
def Obligations.EngineStatus : Prop :=
  ∀ (e : Fields) (s : State) (t : Thread), s.thread s.cur = some t → t.live0 e.g = true → s.Tidy →
  ∀ n, sourceB t e n → slotGrove s.cur < 192 →
  let k := queueKey t.ctx (slotGrove s.cur) n
  let progress := fun (v : Nat) =>
    let q := s.queue k
    (4 < n → v = q.prog % 2 ^ 64) ∧
    (n ≤ 4 → q.ops ≠ [] → v / 2 ^ 32 = q.prog % 2 ^ 32 ∧ v / 2 ^ 16 % 2 ^ 16 = q.restarts % 2 ^ 16 ∧ v % 2 ^ 16 = q.rrow % 2 ^ 16) ∧
    (n ≤ 4 → q.ops = [] → v / 2 ^ 32 = q.lastRows % 2 ^ 32 ∧ v / 2 ^ 16 % 2 ^ 16 = q.lastRestarts % 2 ^ 16 ∧
      v % 2 ^ 16 = q.lastRrow % 2 ^ 16)
  exec (.rcread e) s = .next (s.put ((t.setReg e.d
    ⟨BitVec.ofNat 128 (Store.get 0 (s.grove (slotGrove s.cur)).routes (n % 64) % 2 ^ 64), false, 4⟩).next e)) ∧
  (n ≤ 4 → ∃ v : QReg, v.cap = false ∧ v.tag = 0 ∧ s.statusFields k v.lo ∧ progress v.hi ∧
    (e.mod.getLsbD 0 = false → exec (.tstat e) s = .next (s.put ((t.setReg e.d v).next e))) ∧
    (e.mod.getLsbD 0 = true → ∃ s', exec (.tstat e) s = .next s' ∧ s'.thread s.cur = some ((t.setReg e.d v).next e) ∧
      s'.queue k = { s.queue k with efmt := false } ∧ s'.mem = s.mem)) ∧
  (n ≤ 4 ∨ (8 ≤ n ∧ n ≤ 15) →
    (e.mod.getLsbD 0 = false → ∃ v : QReg, v.cap = false ∧ v.tag = 0 ∧ s.statusFields k v.lo ∧ progress v.hi ∧
      exec (.qstat e) s = .next (s.put ((t.setReg e.d v).next e))) ∧
    (∀ i, (i = .qstat e ∧ e.mod.getLsbD 0 = true) ∨ (i = .qstatHandle ∧ s.arg.fields = e) →
      (t.reg e.a).cap = true → capKind (t.reg e.a).bits = 0 → capSpace (t.reg e.a).bits = 0 → (t.reg e.a).lo.testBit 51 = true →
      exec i s = .next (s.put ((t.setReg e.d
        ⟨BitVec.ofNat 128 (0x0083000000000000 * 2 ^ 64 + (t.ctx * 2 ^ 52 + slotGrove s.cur * 2 ^ 44 + n)), true, 27⟩).next e))))

/-- 11 R212, 15 R282 and R284, 26 R414: a free unit takes the head that has waited longest; a join whose named work has ended
leaves its queue; a queue control write of a thread of the context resumes a halted queue, whose head an error has not ended
keeps its place, or discards its entries; a ballast slice begins on an idle unit and is charged when it ends. -/
def Obligations.QueueEvents : Prop :=
  ∀ s : State, s.Tidy →
  let k := s.arg.index
  (∀ g u k, s.arg.index = g → s.arg.index2 = u → 1 ≤ u → u ≤ 5 → s.unitFree g u = true → 0 < (s.grove g).budget →
    (u = 2 → s.unitFree g 1 = false) → (k, s.queue k) ∈ s.queues → keyGrove k = g → s.headWaits k = true →
    unitServes u (keyCode k) (s.queue k).headXop = true →
    (∀ x ∈ s.queues, keyGrove x.1 = g → unitServes u (keyCode x.1) x.2.headXop = true → s.headWaits x.1 = true →
      x = (k, s.queue k) ∨ (s.queue k).since < x.2.since) →
    ∃ s', exec .unitDispatch s = .next s' ∧ (s'.queue k).unit = u ∧ (s'.queue k).ops = (s.queue k).ops ∧
      (s'.queue k).prog = (s.queue k).prog ∧ (∀ j, j ≠ k → s'.queue j = s.queue j) ∧ s'.mem = s.mem) ∧
  (∀ op r ps, (s.queue k).ops = op :: r → op.kind = .join ps → (s.queue k).mode = .running →
    (∀ p ∈ ps, s.endedBefore (queueKey (keyCtx k) (keyGrove k) p.1) p.2 = true) →
    ∃ s', exec .joinResolve s = .next s' ∧ (s'.queue k).ops = r ∧ s'.mem = s.mem ∧ ∀ j, j ≠ k → s'.queue j = s.queue j) ∧
  (∀ w n t, s.arg.writer = .thread n → s.thread n = some t → s.arg.value = w → w < 2 ^ 64 → w / 2 ^ 52 = t.ctx →
    w / 2 ^ 44 % 256 < 192 → groveDie (w / 2 ^ 44 % 256) = slotDie n → w.testBit 4 = false →
    let k := queueKey t.ctx (w / 2 ^ 44 % 256) (w % 16)
    (s.queue k).mode = .halted →
    (∃ s', exec .queueResume s = .next s' ∧ (s'.queue k).mode = .running ∧
      (s'.queue k).ops = (if (s.queue k).headEnded then (s.queue k).ops.drop 1 else (s.queue k).ops) ∧
      (s'.queue k).exlat = false ∧ (s'.queue k).edata = false ∧ (s'.queue k).eres = false ∧
      ((s.queue k).headEnded = false → (s'.queue k).prog = (s.queue k).prog) ∧ s'.mem = s.mem) ∧
    (∃ s', exec .queueDiscard s = .next s' ∧ (s'.queue k).mode = .running ∧ (s'.queue k).ops = [] ∧ s'.mem = s.mem)) ∧
  (∀ g u, s.arg.index = g → s.arg.index2 = u → 1 ≤ u → u ≤ 3 → (s.grove g).dead.contains u = false →
    (s.power.ballast = true → s.loadWanted = true → s.power.filler = false ∨ s.fillerLeft = false → s.unitWanted g u = false →
      s.unitFree g u = true → (s.grove g).ballast = [] → ∃ s', exec .ballastSliceEnd s = .next s' ∧ (s'.grove g).ballast = [u] ∧
        s'.power = s.power) ∧
    (s.power.ballast = false ∨ s.loadWanted = false ∨ s.unitWanted g u = true → (s.grove g).ballast = [] →
      exec .ballastSliceEnd s = .next s) ∧
    ((s.grove g).ballast.contains u = true → ∃ s', exec .ballastSliceEnd s = .next s' ∧
      s'.power.ballastPj = s.power.ballastPj + (if u = 3 then 76800 else 524288) ∧
      (s.power.ballast = true → s.power.filler = false → s.unitWanted g u = false → s'.loadWanted = true → s'.grove g = s.grove g) ∧
      (s.power.ballast = false ∨ s'.loadWanted = false ∨ s.unitWanted g u = true → (s'.grove g).ballast = (s.grove g).ballast.erase u)))

/-- 11 R222 to R226 and R239, 09 R201 and R205, 15 R280: the head of a queue on a unit, whose work runs to its end in the machine
`s1`. Whole, its completion word, where it names one, is incremented (or, where the word cannot be, the queue halts with EXLAT); it leaves
its queue, DONE counts it, and its issuer's counter falls, or its task is done (02 R38). A fault of
its translation halts the queue with EXLAT, an uncorrectable error halts it with EDATA and a second residue mismatch of a block with ERES, the head ended and its task, where it has one, failed (13 R259), and a violation
freezes it with ECAP; each is reported. One that is to stop stays at the end of its block, or is discarded there. -/
def Obligations.EngineEnds : Prop :=
  ∀ (s s1 : State) (op : EngineOp) (r : List EngineOp),
  s.Tidy → s1.Tidy →
  let k := s.arg.index
  let here := if (op.hasRows = true ∨ 4 < keyCode k) ∧ (s.queue k).stopping ≠ 0 then some (s.queue k).stopRow else none
  (s.queue k).mode = .running → (s.queue k).unit ≠ 0 → (s.queue k).ops = op :: r →
  let task := op.gtid.toNat / 2 ^ 16 % 2 ^ 16
  let fails := fun (s' : State) => ∀ g, op.isTask = true → s1.graphOf op.gtid = some g → task < (s1.graph g).tasks.length →
    ((s'.graph g).task task).failed = true
  (∀ i, (i = .tileOpComplete ∧ keyCode k ≤ 4 ∧ (s.queue k).stopping = 0) ∨ (i = .copyComplete ∧ 4 < keyCode k) →
    s.workOn k op none = (.ok (), s1) → (s1.queue k).ops = op :: r →
    let leaves := fun (s' : State) => (s'.queue k).ops = r ∧ (s'.queue k).unit = 0 ∧ (s'.queue k).done = ((s1.queue k).done + 1) % 2 ^ 16
    let uncounts := fun (s' : State) => ∀ n t, (∀ x ∈ s1.slots, x.1 ≠ n → ∀ u, x.2.thread = some u → u.gtid ≠ op.gtid) →
      s1.thread n = some t → t.gtid = op.gtid →
      s'.thread n = some (if keyCode k ≤ 4 then { t with tl := t.tl - 1 } else { t with cp := t.cp - 1 })
    (op.w = none → op.isTask = false → ∃ s', exec i s = .next s' ∧ leaves s' ∧ uncounts s' ∧ s'.mem = s1.mem) ∧
    (∀ g, op.w = none → op.isTask = true → s1.graphOf op.gtid = some g →
      ∃ s2 : State, leaves s2 ∧ s2.graphs = s1.graphs ∧ s2.slots = s1.slots ∧ s2.mem = s1.mem ∧ exec i s = .next (s2.taskDone g task)) ∧
    (∀ w s2, op.w = some w → op.isTask = false →
      let ended := s1.setQueue k { s1.queue k with whole := true }
      (∀ kw, (op.wordKey w).run.run ended = (.ok kw, s2) → s2.isLocal kw = true → s2.poisoned kw = false → kw % 8 = 0 →
        ∃ s', exec i s = .next s' ∧ leaves s' ∧ uncounts s' ∧ s'.readNum kw 8 = (s1.readNum kw 8 + 1) % 2 ^ 64 ∧ s1.bytesOutside s' kw 8) ∧
      (∀ c a, (op.wordKey w).run.run ended = (.error (.translation c a), s2) →
        ∃ s', exec i s = .next s' ∧ (s'.queue k).mode = .halted ∧ (s'.queue k).exlat = true ∧ (s'.queue k).ops = op :: r ∧
          (s'.queue k).whole = true ∧ s'.mem = s2.mem))) ∧
  (∀ c a, s.workOn k op here = (.error (.translation c a), s1) →
    ∃ s', exec .engineTranslationFault s = .next s' ∧ (s'.queue k).mode = .halted ∧ (s'.queue k).exlat = true ∧
      (s'.queue k).ops = (s1.queue k).ops ∧ (s'.queue k).prog = (s1.queue k).prog ∧ (s'.queue k).unit = 0 ∧ s'.mem = s1.mem ∧
      (s'.ctx (keyCtx k)).messages = (s1.ctx (keyCtx k)).messages ++ [queueNote k 10 1 (s1.queue k).prog a]) ∧
  (s.workOn k op none = (.error .residue, s1) → keyCode k ≤ 4 → (s.queue k).stopping = 0 → (s1.queue k).ops = op :: r →
    ∃ s', exec .tileOpComplete s = .next s' ∧ (s'.queue k).mode = .halted ∧ (s'.queue k).eres = true ∧
      (s'.queue k).headEnded = true ∧ (s'.queue k).ops = op :: r ∧ s'.mem = s1.mem ∧ fails s' ∧
      (s'.ctx (keyCtx k)).messages = (s1.ctx (keyCtx k)).messages ++ [queueNote k 10 3 (s1.queue k).prog 0]) ∧
  (∀ a, s.workOn k op here = (.error (.data a), s1) → (s1.queue k).ops = op :: r → s.arg.index2 = 0 → s.arg.addr = 0 →
    ∃ s', exec .engineDataError s = .next s' ∧ (s'.queue k).mode = .halted ∧ (s'.queue k).edata = true ∧
      (s'.queue k).headEnded = true ∧ (s'.queue k).ops = op :: r ∧ s'.mem = s1.mem ∧ fails s' ∧
      (s'.ctx (keyCtx k)).messages = (s1.ctx (keyCtx k)).messages ++ [queueNote k 10 2 (s1.queue k).prog a]) ∧
  (∀ kind a, s.workOn k op here = (.error (.violation kind a), s1) →
    ∃ s', exec .engineCapabilityViolation s = .next s' ∧ (s'.queue k).mode = .frozen ∧ (s'.queue k).ecap = true ∧
      (s'.queue k).ops = (s1.queue k).ops ∧ s'.mem = s1.mem ∧
      (s'.ctx (keyCtx k)).messages = (s1.ctx (keyCtx k)).messages ++ [queueNote k kind 0 (s1.queue k).prog a]) ∧
  (let stop := (s.queue k).stopRow
   let last := if op.hasRows = true ∧ stop < op.rows then some stop else none
   (s.workOn k op last = (.ok (), s1) → (s.queue k).stopping = 2 → (s1.queue k).ops = op :: r → (s1.queue k).headEnded = false →
      ∃ s', exec .currentBlockEnd s = .next s' ∧ (s'.queue k).ops = r ∧ (s'.queue k).unit = 0 ∧ s'.mem = s1.mem) ∧
   (s.workOn k op last = (.error .pause, s1) → op.hasRows = true → min stop op.rows ≤ (s1.queue k).prog →
    ((s.queue k).stopping = 1 → ∃ s', exec .currentBlockEnd s = .next s' ∧ s'.mem = s1.mem ∧
      s'.queue k = { s1.queue k with unit := 0, started := true, stopping := 0 }) ∧
    ((s.queue k).stopping = 2 → (s1.queue k).ops = op :: r → (s1.queue k).headEnded = false →
      ∃ s', exec .currentBlockEnd s = .next s' ∧ (s'.queue k).ops = r ∧ (s'.queue k).unit = 0 ∧ s'.mem = s1.mem)))

/-- 11 R234 and R239: the work of `tzero` leaves zeros in the bytes it names and every other byte as it was, and the work of a
`cfill` its pattern, where the operand is in a physical space of this package that no migration transfers; the progress point of the fill ends at its length. -/
def Obligations.EngineFills : Prop :=
  ∀ (s : State) (k : Nat) (op : EngineOp), (s.queue k).prog = 0 → (s.queue k).whole = false → (s.queue k).ahead = [] → (s.queue k).planEnd = 0 →
  s.Tidy → op.b.lo % 16 = 0 → op.d.lo % 16 = 0 →
  ∀ key, (∀ i, i < op.b.lo → s.formPhysical op.ctx op.core (capSpace op.d.bits) (op.d.lo + i) = .key (key + i)) →
  (∀ i, i < op.b.lo → s.remapping op.ctx (capSpace op.d.bits) (op.d.lo + i) = none) →
  capSpace op.d.bits ≤ 2 → (∀ i, i < op.b.lo → s.isLocal (key + i) = true) → key % 16 = 0 →
  (op.xop = 5 → keyCode k ≤ 4 → ∃ s1, s.workOn k op none = (.ok (), s1) ∧
    ∀ j, s1.byte j = if key ≤ j ∧ j < key + op.b.lo then 0 else s.byte j) ∧
  (op.xop = 3 → 4 < keyCode k → ∃ s1, s.workOn k op none = (.ok (), s1) ∧
    (s1.queue k).prog = op.b.lo ∧
    ∀ j, s1.byte j = if key ≤ j ∧ j < key + op.b.lo then BitVec.ofNat 8 (op.a.bits.toNat / 2 ^ (8 * ((j - key) % 16))) else s.byte j)

/-! ## Graphs, cache handles and the lay-by -/

/-- 13 R267 to R273, with nothing of the thread outstanding or pending: `gsub` admits the graph of its record or returns the code
of the refusal, `tpost` appends a ready task, which is keyed (R255) at once and alone (the model's choice, log 57), the first `trig` hands on, `vread`, `gstat` and `gabort` act on the accounts and
graphs of the context, and `nwait` takes the oldest notice or waits. The REASON 0 that `gstat` gives of a graph being abandoned is the
model's choice (log 67). -/
def Obligations.GraphInstructions : Prop :=
  ∀ (e : Fields) (s : State) (t : Thread), s.thread s.cur = some t → t.live0 e.g = true → t.rx = [] → t.pendErr = [] →
  let c := t.ctx
  let r := t.reg e.a
  let done := fun (s1 : State) (v : QReg) => s1.put { (t.setReg e.d v).next e with wait := .memory }
  (∀ b v, t.optB e = some b → r.isRecord = true → s.recordAt t r 64 = .ok v →
    (∀ k, s.admission c r.lo v (slotDie s.cur) (b.getD 0) = .error k → exec (.gsub e) s = .next (done s (dataInt (-(k : Int))))) ∧
    (∀ g, s.admission c r.lo v (slotDie s.cur) (b.getD 0) = .ok g → Graph.admitted_ s c (b.getD 0) g ∧
      ∃ h : QReg, h.cap = true ∧ h.tag = 27 ∧
        (g.ser < 2 ^ 20 → capKind h.bits = 5 ∧ h.lo / 2 ^ 32 = c * 2 ^ 20 + g.ser) ∧
        exec (.gsub e) s = .next ((done { s with fresh := s.fresh + 1 } h).enterGraph g)) ∧
    (s.graphOf t.gtid = none → exec (.tpost e) s = .next (done s (dataInt (-2)))) ∧
    (∀ k j, s.graphOf t.gtid = some k → s.posting c k v b = .error j → exec (.tpost e) s = .next (done s (dataInt (-(j : Int))))) ∧
    (∀ k n g, s.graphOf t.gtid = some k → s.posting c k v b = .ok (n, g) →
      n = (s.graph k).tasks.length ∧ g.tasks.length = n + 1 ∧ (g.task n).state = .ready ∧ (g.task n).mstone = 0 ∧
      (b = none → g.edges = (s.graph k).edges) ∧
      (∀ j, b = some j → g.edges = (s.graph k).edges ++ [(n, j)] ∧ (g.task j).preds = ((s.graph k).task j).preds + 1 ∧
        ((s.graph k).task j).state = .blocked) ∧
      exec (.tpost e) s = .next ((done s (lanes64 n 0 4)).setGraph k (g.keyNew (s.graph k) ((s.graph k).time s.now))))) ∧
  (t.trig = true → exec (.trig e) s = .next (s.put (t.next e))) ∧
  (t.trig = false → exec (.trig e) s = .next ((s.put { t.next e with trig := true }).handOn t.gtid)) ∧
  (e.mod.getLsbD 0 = false → exec (.vread e) s = .next (done s (lanes64 (s.ctx c).value ((s.ctx c).energy / 1000000) 8))) ∧
  (e.mod.getLsbD 0 = true → s.privileged t = true →
    exec (.vread e) s = .next (done s (lanes64 (s.power.ballastPj / 1000000) ((s.ctx 0).energy / 1000000) 8))) ∧
  (r.cap = true → capKind r.bits = 5 → r.lo / 2 ^ 52 = c →
    (s.graphOf (BitVec.ofNat 64 r.lo) = none → exec (.gstat e) s = .next (done s (lanes64 6 0 0)) ∧
      exec (.gabort e) s = .next (s.put { t.next e with wait := .memory })) ∧
    (∀ k, s.graphOf (BitVec.ofNat 64 r.lo) = some k →
      let g := s.graph k
      (∃ v : QReg, exec (.gstat e) s = .next (done s v) ∧ v.cap = false ∧ v.tag = 0 ∧
        v.lo = (g.doneCount * 2 ^ 32 + g.mdead * 2 ^ 24 + g.mdone * 2 ^ 16 +
          (match g.state with | .running => 1 | .suspended => 2 | .abandoning => 3)) % 2 ^ 64 ∧
        v.hi / 2 ^ 32 = min (2 ^ 32 - 1) g.rval ∧ v.hi % 2 ^ 32 = min (2 ^ 32 - 1) g.jrem) ∧
      (g.state = .running → ∃ s', exec (.gabort e) s = .next s' ∧ (s'.graph k).state = .abandoning ∧ (s'.graph k).reason = 3) ∧
      (g.state = .suspended → ∃ s', exec (.gabort e) s = .next s' ∧ s'.graph k = { g with abort := true }))) ∧
  ((s.ctx c).mode ≠ .none →
    (∀ n l, (s.ctx c).notices = n :: l →
      (∃ s', exec (.nwait e) s = .next s' ∧ s'.thread s.cur = some ((t.noticed e n).next e) ∧ (s'.ctx c).notices = l) ∧
      (∃ s', exec (.nwaitTry e) s = .next s' ∧ s'.thread s.cur = some (((t.noticed e n).setPair e.c.toNat 16 true).next e) ∧
        (s'.ctx c).notices = l)) ∧
    ((s.ctx c).notices = [] →
      (∃ s', exec (.nwait e) s = .next s' ∧ s'.thread s.cur = some { t with wait := .notice e } ∧
        (s'.ctx c).noticeWait = (s.ctx c).noticeWait ++ [s.cur]) ∧
      exec (.nwaitTry e) s = .next (s.put ((t.setPair e.c.toNat 16 false).next e))))

/-- 22 R370 to R373, with nothing of the thread outstanding or pending: the handle instructions act on the table and on the pool of
the context, or return the code of the check that fails in their pair's false arm; `hstat` reads a chain. -/
def Obligations.HandleInstructions : Prop :=
  ∀ (e : Fields) (s : State) (t : Thread) (n : Nat), s.thread s.cur = some t → t.live0 e.g = true → t.rx = [] →
  t.pendErr = [] → s.Tidy → (s.ctx t.ctx).mode ≠ .none → sourceB t e n → (t.reg e.a).isInt = true →
  let c := t.ctx
  let h := (t.reg e.a).lo
  let i := handleIndex h
  let v := s.handle i
  let good := handleTenant h = c ∧ v.live = true ∧ v.gen = handleGen h
  let does := fun (ins : Instr) (x : QReg) (s1 : State) =>
    exec ins s = .next (s1.put { ((t.setReg e.d x).setPair e.c.toNat 16 true).next e with wait := .memory }) ∧ s1.slots = s.slots
  let fails := fun (ins : Instr) (k : Int) =>
    exec ins s = .next (s.put { ((t.setReg e.d (dataInt (-k))).setPair e.c.toNat 16 false).next e with wait := .memory })
  let lowest := fun (j : Nat) => j < handleEntries ∧ (s.handle j).live = false ∧ ∀ k, k < j → (s.handle k).live = true
  let taken := fun (s1 : State) (l : List Nat) => ∀ p, s1.poolPage c p = if p ∈ l then { count := 1, sticky := false } else s.poolPage c p
  (∀ j, lowest j → 1 ≤ n → n ≤ 65535 → n ≤ (s.poolFree c).length → ∃ s1 : State,
    does (.hnew e) (data64 (mkHandle c (((s.handle j).gen + 1) % 2 ^ 12) j n) 8) s1 ∧ taken s1 ((s.poolFree c).take n) ∧ s1.mem = s.mem ∧
    s1.handle j = { gen := ((s.handle j).gen + 1) % 2 ^ 12, live := true, held := false, tenant := c, blocks := (s.poolFree c).take n } ∧
    ∀ k, k ≠ j → s1.handle k = s.handle k) ∧
  (∀ j, lowest j → (s.poolFree c).length < n → fails (.hnew e) 4) ∧
  (∀ j, lowest j → n ≤ (s.poolFree c).length → n = 0 ∨ 65535 < n → fails (.hnew e) 5) ∧
  ((∀ k, k < handleEntries → (s.handle k).live = true) → fails (.hnew e) 4 ∧ (good → fails (.hfork e) 4)) ∧
  (handleTenant h ≠ c → ∀ ins ∈ [Instr.hext e, .hxl e, .hfork e, .hrel e, .hcow e], fails ins 1) ∧
  (handleTenant h = c → (v.live = false ∨ v.gen ≠ handleGen h) →
    ∀ ins ∈ [Instr.hext e, .hxl e, .hfork e, .hrel e, .hcow e], fails ins 2) ∧
  (good → (s.poolFree c).length < n → fails (.hext e) 4) ∧
  (good → n ≤ (s.poolFree c).length → n = 0 ∨ 65535 < v.blocks.length + n → fails (.hext e) 5) ∧
  (good → 1 ≤ n → n ≤ (s.poolFree c).length → v.blocks.length + n ≤ 65535 → ∃ s1 : State,
    does (.hext e) (data64 (mkHandle c v.gen i (v.blocks.length + n)) 8) s1 ∧ taken s1 ((s.poolFree c).take n) ∧ s1.mem = s.mem ∧
    s1.handle i = { v with blocks := v.blocks ++ (s.poolFree c).take n }) ∧
  (good → (handleBound h ≤ n ∨ v.blocks.length ≤ n) → fails (.hxl e) 3 ∧ fails (.hcow e) 3) ∧
  (∀ p, good → n < handleBound h → v.blocks[n]? = some p → s.poolVa c p + 65536 < 2 ^ 64 →
    (∃ x : QReg, does (.hxl e) x s ∧ x.cap = true ∧ x.tag = 27 ∧ capKind x.bits = 0 ∧ capSpace x.bits = 3 ∧
      capCursor x.bits = s.poolVa c p ∧ capBase x.bits = s.poolVa c p ∧ capTop x.bits = s.poolVa c p + 65536 ∧
      (capPerms x.bits = permPL + permPENG + if (s.poolPage c p).count = 1 ∧ (s.poolPage c p).sticky = false then permPS else 0)) ∧
    ((s.poolPage c p).sticky = false → (s.poolPage c p).count ≤ 1 → ∃ x, does (.hcow e) x s ∧ does (.hxl e) x s) ∧
    ((s.poolPage c p).shared = true → s.poolFree c = [] → fails (.hcow e) 4) ∧
    (∀ q l, s.poolFree c = q :: l → (s.poolPage c p).shared = true → (s.poolPage c p).count ≠ 0 → ∃ (x : QReg) (s1 : State),
      does (.hcow e) x s1 ∧ x.cap = true ∧ capCursor x.bits = s.poolVa c q % 2 ^ 64 ∧ s1.handle i = { v with blocks := v.blocks.set n q } ∧
      s1.poolPage c q = { count := 1, sticky := false } ∧
      (s1.poolPage c p = if (s.poolPage c p).sticky then s.poolPage c p else { s.poolPage c p with count := (s.poolPage c p).count - 1 }) ∧
      ∀ a b, s.mem.single = [] → s.mem.double = [] → a ≠ b → keyTgt b ≤ 3 → s.tagsClear a 65536 b 65536 → s.pageAt c p .load a b → s.pageAt c q .store b b →
        s.bytesOutside s1 b 65536 ∧ ∀ k, k < 65536 → s1.byte (b + k) = s.byte (a + k) ∧ s1.hasTag (b + k) = s.hasTag (a + k))) ∧
  (∀ j, good → lowest j → v.blocks.Nodup → ∃ s1 : State,
    does (.hfork e) (data64 (mkHandle c (((s.handle j).gen + 1) % 2 ^ 12) j (handleBound h)) 8) s1 ∧ s1.mem = s.mem ∧
    s1.handle j = { gen := ((s.handle j).gen + 1) % 2 ^ 12, live := true, held := false, tenant := c, blocks := v.blocks } ∧
    ∀ p, s1.poolPage c p =
      let x := s.poolPage c p
      if p ∈ v.blocks ∧ x.sticky = false then (if 4095 ≤ x.count then { x with sticky := true } else { x with count := x.count + 1 }) else x) ∧
  (good → v.held = true → fails (.hrel e) 6) ∧
  (good → v.held = false → v.blocks.Nodup → ∃ (x : QReg) (s1 : State), does (.hrel e) x s1 ∧ s1.mem = s.mem ∧
    s1.handle i = { gen := (v.gen + 1) % 2 ^ 12, live := false, held := false, tenant := 0, blocks := [] } ∧
    (∀ p, s1.poolPage c p =
      let y := s.poolPage c p
      if p ∈ v.blocks ∧ y.sticky = false then { y with count := y.count - 1 } else y) ∧
    x = data64 ((s1.poolFree c).length - (s.poolFree c).length) 4) ∧
  (good → ∃ x : QReg, exec (.hstat e) s = .next (s.put { (t.setReg e.d x).next e with wait := .memory }) ∧ x.cap = false ∧ x.tag = 0 ∧
    x.lo / 2 ^ 48 = v.blocks.length % 2 ^ 16 ∧
    x.lo / 2 ^ 32 % 2 ^ 16 = (v.blocks.countP fun p => (s.poolPage c p).shared) % 2 ^ 16 ∧
    x.hi / 2 ^ 40 % 2 ^ 8 = if v.held then 2 else 1) ∧
  (let codes := fun (k : Int) => exec (.hstat e) s = .next (s.put { (t.setReg e.d (dataInt (-k))).next e with wait := .memory })
   (handleTenant h ≠ c → codes 1) ∧ (handleTenant h = c → (v.live = false ∨ v.gen ≠ handleGen h) → codes 2))

/-- 23 R376, R377 and R387 to R390: `park`, which credits the wake milestone of a resumed thread (R384), arms its word, writes its save
and empties its slot, or is refused with a code and passed; `wake` writes its word, and its pair says whether a continuation was armed on
it, which takes the wake; `lpro` lists the newest blocks of a parked continuation; `lstat` reads its state. That the save is written and
the slot emptied in the step of `park` while the continuation is parking is the model's choice (log 68), and so is that the store of
`wake` is performed in its issuing step (log 6). -/
def Obligations.LayByInstructions : Prop :=
  ∀ (e : Fields) (s s1 : State) (t : Thread), s.thread s.cur = some t → t.live0 e.g = true → s.Tidy →
  (∀ b word, (s.creditWake t.gtid).parkAt t e b s1 word → t.rx = [] → t.pendErr = [] → t.cp = 0 → t.tl = 0 →
    (∀ k w, s.graphOf t.gtid = some k → (s.graph k).wakes.find? (fun w => w.gtid == t.gtid && w.placed.isSome) = some w →
      (s1.graph k).earned = (s.graph k).earned + w.value ((s.graph k).time s.now)) ∧
    (∀ k, s1.parkRefused t.ctx b word = some k →
      let u := ((t.setReg e.d (dataInt (-(k : Int)))).setPair e.c.toNat 16 false).next e
      (t.request = none → exec (.park e) s = .next (s1.put { u with wait := .memory })) ∧
      (t.request ≠ none → t.request ≠ some .abandon →
        exec (.park e) s = .next ((s1.put u).honour s.cur e.imm.toNat (e.mod.toNat % 256)))) ∧
    (s1.parkRefused t.ctx b word = none → t.request ≠ some .abandon → t.pair = false → (s1.ctx t.ctx).mode ≠ .none →
      ∃ s' x, exec (.park e) s = .next s' ∧ s'.thread s.cur = none ∧ s'.conts = s1.conts ++ [x] ∧ x.word = word ∧ x.ctx = t.ctx ∧
        x.gtid = t.gtid ∧ x.state = .parking ∧ x.armed = (s1.readNum word 8 == b.armVal) ∧ x.since = s1.now ∧ x.w = b.w ∧
        x.thbm = timerOf 20000 b.thbm ∧ x.tcxl = timerOf 2000000 b.tcxl ∧
        (s'.ctx t.ctx).frames.mem x.frame = true ∧ (s1.ctx t.ctx).frames.mem x.frame = false ∧
        (∀ i, b.handle ≠ 0 → i = handleIndex b.handle → (s'.handle i).held = true))) ∧
  (∀ v k, sourceB t e v → s.wordAt t e permPS .store s1 k → t.rx = [] → t.pendErr = [] → s1.isLocal k = true → k % 8 = 0 → e.post = false →
    (∀ a : Access, a.key = k → s1.losesBank t a = false) →
    ∃ s' t', exec (.wake e) s = .next s' ∧ s'.readNum k 8 = v % 2 ^ 64 ∧ s.bytesOutside s' k 8 ∧ s'.thread s.cur = some t' ∧
      t' = { (t.setPair e.c.toNat 16 (s1.wakeArmed k)).next e with wait := if s.inCore (slotCore s.cur) k then .none else .memory } ∧
      ∀ x, s1.contOf k = some x → x.armed = true → ∃ y ∈ s'.conts, y.stands x.ctx x.frame = true ∧ y.word = k ∧ y.armed = false ∧
        y.value = some (v % 2 ^ 64) ∧ y.state = if x.state = .parking then .parking else .stage1) ∧
  (∀ n k, sourceB t e n → s.wordAt t e permPL .load s1 k →
    (∀ x, s1.contOf k = some x → x.state = .parked → x.armed = true → ∃ s' y, exec (.lpro e) s = .next s' ∧
      s'.thread s.cur = some { (t.setPair e.c.toNat 16 true).next e with wait := .memory } ∧ s'.contOf k = some y ∧
      y.state = .parked ∧ y.down = [] ∧ y.up = s1.toPromote x (if n = 0 then s1.stage1Count x else n)) ∧
    ((∀ x, s1.contOf k = some x → x.state ≠ .parked ∨ x.armed = false) →
      exec (.lpro e) s = .next (s1.put { (t.setPair e.c.toNat 16 false).next e with wait := .memory }))) ∧
  (∀ k, s.wordAt t e permPL .load s1 k → ∃ v : QReg, v.cap = false ∧ v.tag = 0 ∧
    exec (.lstat e) s = .next (s1.put { (t.setReg e.d v).next e with wait := .memory }) ∧
    (s1.contOf k = none → v.bits = 0) ∧
    ∀ x, s1.contOf k = some x → x.tier < 4 → v.lo / 2 ^ 58 % 4 = x.tier ∧ v.lo % 2 ^ 32 = min (2 ^ 32 - 1) ((s1.now - x.since) / 1000) ∧
      (v.hi % 2 ^ 16 = if x.state = .parking ∨ x.state = .parked then 0 else (s1.toPromote x (s1.chain x).length).length % 2 ^ 16) ∧
      v.lo / 2 ^ 60 = match x.state with | .parking => 1 | .parked => 2 | .stage1 => 3 | .ready => 4 | .stage2 => 5)

/-! ## Events of threads -/

/-- 08 R160 to R163, R177 and R189, 02 R30 and R32, 06 R114, 22 R365, for a thread in slot `n` with no request: an access returns
and the thread is ready; the upper half of a load is performed; the host answers a load, or an error or a time-out is a data error;
the oldest relaxed access is performed, one of 16 bytes by its lower half alone where its home does so, and its error stays pending
behind those before it; a waiting send enters its channel; a code block arrives, from the grove's copy where it has one; a halted
thread leaves its slot, and the last of its task makes the task done, credits its milestone, and readies what followed it; a walk ends
and fills the TLB, or its waiting threads meet a page that is not present. The model's own choices: an access performed at its issue,
for which `accessPerformed` only ends the wait (log 6); that an input chooses whether a walk found what stands now or when it began (log
20); and a fetch buffer of two blocks, where R114 says one (log 70). -/
def Obligations.ThreadEvents : Prop :=
  (∀ (s : State) (t : Thread),
  let n := s.arg.index
  s.thread n = some t → s.Tidy →
  let fails := fun (i : Instr) (a : Access) (cause : Nat) => ∃ s' t', exec i s = .next s' ∧ s'.thread n = some t' ∧ t'.stopped = some ⟨4, cause, 0, 0⟩ ∧
    t'.pc = t.pc ∧ t'.q = t.q ∧ s'.mem = s.mem ∧ (s.isHandler n t = false → (s'.ctx t.ctx).messages = (s.ctx t.ctx).messages ++
      [⟨messageHead t.gtid 4 cause 0 0, messageTail t.pc a.va.toNat⟩])
  (t.request = none →
    (t.wait = .memory → exec .accessPerformed s = .next (s.setThread n { t with wait := .none })) ∧
    (∀ a e low, t.wait = .upperHalf a e low → a.op = .load → a.size = 16 → s.badWord a.upper false = none →
      ∃ s', exec .accessPerformed s = .next s' ∧ (∀ k, s'.byte k = s.byte k) ∧
        s'.thread n = some { t.complete e a (low + 2 ^ 64 * s.readNum (a.key + 8) 8) false with wait := .none }) ∧
    (∀ a e, t.wait = .remote a e → keyTgt a.key = 6 →
      (s.arg.ok = true → a.op = .load → exec .accessPerformed s =
        .next (s.setThread n { t.complete e a (numOf (s.arg.data.take a.size)) false with wait := .none })) ∧
      (s.arg.ok = false → fails .accessPerformed a 4 ∧ fails .hostCompletionTimeout a 4))) ∧
  (∀ r rest, t.rx = r :: rest → s.arg.index2 = 0 → s.isLocal r.acc.key = true →
    s.remapping t.ctx r.acc.space r.acc.va.toNat = none →
    (r.low = none → s.arg.value ≠ 1 ∨ r.acc.halves = false →
      (r.acc.op = .load → s.badWord r.acc false = none → ∃ s', exec .relaxedAccessDone s = .next s' ∧ (∀ k, s'.byte k = s.byte k) ∧
        s'.thread n = some ({ t with rx := rest }.writeBack r.acc (s.readNum r.acc.key r.acc.size) false)) ∧
      (r.acc.op = .store → r.acc.dest = none → s.badWord r.acc true = none →
        (∀ i, i < r.acc.size → ∀ w ∈ r.acc.words, ¬ s.isTagByte w.1 (r.acc.key + i)) → ∃ s', exec .relaxedAccessDone s = .next s' ∧
        s.bytesOutside s' r.acc.key r.acc.size ∧ s'.thread n = some { t with rx := rest } ∧
        ∀ l, l < 2 * r.acc.size → lane (s'.readNum r.acc.key r.acc.size) 4 l =
          if bit r.acc.mask.toNat l then lane r.acc.data.bits.toNat 4 l else lane (s.readNum r.acc.key r.acc.size) 4 l) ∧
      (∀ k, r.acc.op = .load → s.badWord r.acc false = some k → t.halted = false →
        exec .relaxedAccessDone s = .next (s.setThread n { t with rx := rest, pendErr := t.pendErr ++
          [{ inSt := false, cause := 0, key := k, va := r.acc.va + BitVec.ofNat 64 (k - r.acc.key), pc := r.acc.pc }] }))) ∧
    (r.acc.op = .load → r.acc.size = 16 → r.acc.key % 16 = 0 → s.badWord r.acc false = none →
      (r.low = none → s.arg.value = 1 → ∃ s', exec .relaxedAccessDone s = .next s' ∧ (∀ k, s'.byte k = s.byte k) ∧
        s'.thread n = some { t with rx := { r with low := some (s.readNum r.acc.key 8) } :: rest }) ∧
      (∀ v, r.low = some v → ∃ s', exec .relaxedAccessDone s = .next s' ∧ (∀ k, s'.byte k = s.byte k) ∧
        s'.thread n = some ({ t with rx := rest }.writeBack r.acc (v + 2 ^ 64 * s.readNum (r.acc.key + 8) 8) false)))) ∧
  (∀ v slot e m u, t.wait = .send v none slot e → m = slotCore n * 16 + slot →
    s.sendWait.find? (fun x => s.sendTarget x == some m && !s.sendDiscards x) = some n →
    m ≠ n → s.thread m = some u → u.halted = false → u.ctx = t.ctx → u.migrating = false → (∀ e, u.wait ≠ .recv e) →
    s.hasSpill t.ctx (slotDie m) u.gtid = false → (s.slot m).chan.length < 8 →
    s.isHandler m u = false ∨ (s.ctx t.ctx).messages = [] →
    ((s.ctx t.ctx).saved.find? fun v => v.lcore == t.lcore && v.slot == slot) = none →
    ∃ s', exec .sendAccept s = .next s' ∧ (s'.slot m).chan = (s.slot m).chan ++ [v] ∧
      s'.thread n = some { t.next e with wait := .none } ∧ s'.thread m = some u) ∧
  (∀ x, s.arg.addr ∈ t.fetchBlocks → findBlock t.fbuf s.arg.addr = none → s.arg.addr < 2 ^ 57 →
    tlbFind (s.grove (slotGrove n)).tlb t.ctx s.arg.addr = some x → s.reaches x s.arg.addr = true → fetchable x.leaf = true →
    let returns := fun (b : CodeBlock) => ∃ s' t', exec .fetchBlockReturn s = .next s' ∧ s'.thread n = some t' ∧
      findBlock t'.fbuf s.arg.addr = some b ∧ t' = { t with fbuf := t'.fbuf } ∧ ∀ k, s'.byte k = s.byte k
    (s.servedBy (slotGrove n) t.ctx s.arg.addr = none → s.isLocal (x.key s.arg.addr) = true →
      returns (s.readBlock s.arg.addr (x.key s.arg.addr))) ∧
    (∀ r i, s.servedBy (slotGrove n) t.ctx s.arg.addr = some (r, i) → returns (s.copyBlock r i s.arg.addr (x.key s.arg.addr)).1)) ∧
  (t.halted = true → t.rx = [] → t.cp = 0 → t.tl = 0 → t.wait = .none → t.pair = false →
    let leaves := fun (s' : State) => s'.thread n = none ∧ (s'.slot n).chan = [] ∧ ∀ m, m ≠ n → s'.slot m = s.slot m
    (s.graphOf t.gtid = none → ∃ s', exec .threadDrainEnd s = .next s' ∧ leaves s' ∧ s'.mem = s.mem) ∧
    ∀ k, s.graphOf t.gtid = some k →
      let g := s.graph k
      let i := t.gtid.toNat / 2 ^ 16 % 2 ^ 16
      let x := g.task i
      i < g.tasks.length → x.state = .placed → g.state ≠ .abandoning →
      (x.exited + 1 < x.width → ∃ s', exec .threadDrainEnd s = .next s' ∧ leaves s' ∧ s'.mem = s.mem ∧
        s'.graph k = g.setTask i { x with exited := x.exited + 1 }) ∧
      (x.width ≤ x.exited + 1 → ∃ s1 : State, exec .threadDrainEnd s = .next ((s1.recomputeDie g.die).endStop t.ctx) ∧ leaves s1 ∧
        ((s1.graph k).task i).state = .done ∧ ((s1.graph k).task i).crew = none ∧ (∀ j, x.crew = some j → (s1.crew j).used = false) ∧
        (x.mstone = 0 → (s1.ctx g.ctx).value = (s.ctx g.ctx).value ∧ (s1.graph k).mdone = g.mdone) ∧
        (x.mstone ≠ 0 →
          let v := (g.curve (x.mstone - 1)).value (g.time s.now)
          (s1.ctx g.ctx).value = ((s.ctx g.ctx).value + v) % 2 ^ 64 ∧ (s1.graph k).earned = g.earned + v ∧
          (s1.graph k).mdone = g.mdone ||| 2 ^ (x.mstone - 1)) ∧
        ∀ j, j ∈ g.succs i → j ≠ i → x.released = false → j < g.tasks.length → (g.task j).state = .blocked → (g.task j).preds = 1 →
          (∀ m ∈ g.predsOf i, (g.task m).state = .done ∨ (g.task m).state = .culled) → (g.succs i).Nodup →
          ((s1.graph k).task j).state = .ready))) ∧
  ∀ (s : State) (w : Walking), (s.grove s.arg.index).walks[s.arg.index2]? = some w → s.moving w.ctx w.va = false →
  let then_ : Mapped := match w.found with | some x => .page x | none => if w.bad then .bad 0 else .absent
  let found := if s.arg.ok = true ∧ w.stale = false then then_ else (s.mapped w.ctx w.va).1
  ∃ s', exec .pageWalkEnd s = .next s' ∧ (∀ k, s'.byte k = s.byte k) ∧
    (s'.grove s.arg.index).walks = (s.grove s.arg.index).walks.eraseIdx s.arg.index2 ∧
    (∀ x, found = .page x → x ∈ (s'.grove s.arg.index).tlb ∧ s'.slots = s.slots) ∧
    (∀ k, found = .bad k → (s'.grove s.arg.index).tlb = (s.grove s.arg.index).tlb ∧ s'.slots = s.slots) ∧
    (found = .absent → (s'.grove s.arg.index).tlb = (s.grove s.arg.index).tlb ∧
      ∀ n t va, s.thread n = some t → t.wait = .walk s.arg.index va → w.covers t.ctx va = true →
        s'.thread n = some { t with absent := some (va / 4096) })

/-- 17 R299 to R302, R309 and R314 to R320: a handler message enters its channel as two entries; a request whose safe-point distance
has passed 2,048, and a save that waited for a frame, save their thread to the lowest free frame; a saved thread resumes in its
slot number; a teardown ends; slots of a core pass to the context furthest below its target; a hot core's slots are masked where
a logical core cannot leave it; a migration takes a core and a skidder, transfers slot after slot, and remaps; a write of SHARE
takes effect. The model's own choices: the order in which a migration tries cores, and the first free skidder (log 30); that a frame
which frees goes to the save that has waited longest (log 21); and that the saved threads of a logical core resume together (log 60). -/
def Obligations.PreemptEvents : Prop :=
  ∀ s : State, s.Tidy →
  let c := s.arg.index
  let saved := fun (i : Instr) (n : Nat) (t : Thread) (f : Nat) => ∃ s' v, exec i s = .next s' ∧ s'.thread n = none ∧
    (s'.ctx t.ctx).saved = (s.ctx t.ctx).saved ++ [v] ∧ v.gtid = t.gtid ∧ v.pc = t.pc ∧ v.frame = f ∧ v.lcore = t.lcore ∧ v.slot = slotNum n ∧
    v.cp = t.cp ∧ v.tl = t.tl ∧ v.stopped = t.stopped ∧ v.frozen = t.frozen ∧ (s'.ctx t.ctx).frames.mem f = true
  let savable := fun (n : Nat) (t : Thread) (f : Nat) => s.thread n = some t ∧ t.request = some .suspend ∧ t.halted = false ∧
    t.migrating = false ∧ t.rx = [] ∧ t.pendErr = [] ∧ t.debugStop = false ∧ t.pair = false ∧ t.stepping = 0 ∧
    (s.ctx t.ctx).mode ≠ .none ∧ (s.ctx t.ctx).frames.leastFree (s.ctx t.ctx).regs.nframe 0 = some f
  (∀ m r n u, (s.ctx c).messages = m :: r → s.handlerSlot c = some n → s.thread n = some u → u.halted = false → u.migrating = false →
    s.hasSpill c (slotDie n) u.gtid = false → (s.slot n).chan.length ≤ 6 → (∀ e, u.wait ≠ .recv e) → (s.ctx c).mode ≠ .none →
    ∃ s', exec .handlerMessageDeliver s = .next s' ∧ (s'.ctx c).messages = r ∧ s'.thread n = some u ∧
      (s'.slot n).chan = (s.slot n).chan ++ [⟨m.e0, false, 0⟩, ⟨m.e1, false, 0⟩]) ∧
  (∀ t f, savable c t f → t.wait = .none → 2048 < t.dist → saved .hardPreemption c t f) ∧
  (∀ n r t f, s.frameWaiters c = n :: r → savable n t f → t.ctx = c → t.wait = .none → 0 < (s.ctx c).framesFree →
    saved .saveFrameFree n t f) ∧
  (∀ c' lc core v, (s.resumeUnits c).findSome? (s.unitCores []) = some [(⟨c', lc, [v]⟩, core)] → (s.ctx c').mode ≠ .none →
    v.crewWait = none → c' = v.gtid.toNat / 2 ^ 52 → let flags := (s.readFrame (core / 16) c' v.frame).1.flags
    ∃ s' t, exec .threadResume s = .next s' ∧ s'.thread (core * 16 + v.slot) = some t ∧ t.gtid = v.gtid ∧ t.lcore = v.lcore ∧
      t.cp = v.cp ∧ t.tl = v.tl ∧ t.dist = 0 ∧ t.frozen = flags.testBit 4 ∧ (flags.testBit 3 = false → t.stopped = none) ∧
      (∀ x, flags.testBit 3 = true → v.stopped = some x → t.stopped = some x) ∧
      (s'.ctx c').saved = (s.ctx c').saved.erase v) ∧
  ((s.ctx c).mode = .tornDown → s.ctxSlots c = [] → s.engineAsks c = false → exec .teardownEnd s = .next (s.setCtx c Ctx.none)) ∧
  (s.ctxSlots c ≠ [] ∨ s.engineAsks c = true → exec .teardownEnd s = .next s) ∧
  (s.dueShare ≠ some c → exec .slotReassign s = .next s) ∧
  (∃ s', exec .slotReassign s = .next s' ∧ s'.mem = s.mem ∧ (∀ n, (s'.slot n).thread = (s.slot n).thread) ∧
    (∀ n, (s.slot n).pin = true ∨ s.thread n ≠ none ∨ s.slotReserved n = true → s'.slot n = s.slot n) ∧
    ∀ n d, s.dueShare = some c → n / 16 = c → (∀ m, m / 16 = c → m ≠ n → (s.slot m).pin = true ∨ s.thread m ≠ none) → (s.slot n).pin = false →
      s.thread n = none → s.slotReserved n = false → s.shareTarget (slotDie n) (s.slot n).owner ≤ s.ownedOf (slotDie n) (s.slot n).owner →
      s.neediest (slotDie n) = some d → (s'.slot n).owner = d) ∧
  (s.arg.value ≤ hotTemp → exec .coreOverheat s = .next (s.setCore c { s.core c with temp := s.arg.value })) ∧
  ((s.core c).temp ≤ hotTemp → hotTemp < s.arg.value → ∀ x l k s1, s.lcoresOn c = [(x, l)] →
    (s.setCore c { s.core c with temp := s.arg.value }).requestMigration x l .cooler = (k, s1) →
    (k = 0 ∨ k = -3 → exec .coreOverheat s = .next s1) ∧
    (k = -2 → ∃ s', exec .coreOverheat s = .next s' ∧ ∀ i, i < 16 → (s'.slot (c * 16 + i)).thermal = true)) ∧
  (∀ m, s.migrationOf c s.arg.index2 = some m →
    (∀ d u, m.dest = none → s.freeSkidder (m.core / 16) = u → u ≠ 0 → s.halfDone m = false → (∀ n ∈ s.lcoreSlots m.ctx m.lcore m.core, ∃ t, s.thread n = some t ∧ t.migrating = true) →
      s.copiesBlock m = false → (s.goalCores m.core m.goal ++ s.goalCores m.core .cooler).find?
        (({ s with migrations := s.migrations.erase m } : State).coreHolds m.ctx (s.lcoreSlots m.ctx m.lcore m.core) m.core) = some d →
      ∃ s', exec .migrationTransfer s = .next s' ∧ s'.mem = s.mem ∧ s'.slots = s.slots ∧
        let taken := (s.lcoreSlots m.ctx m.lcore m.core).map slotNum
        s'.migrationOf c s.arg.index2 = some { m with dest := some d, slots := taken, left := taken, skidder := u }) ∧
    (∀ d i r, m.dest = some d → m.left = i :: r → i < 16 → d ≠ m.core → d < 3072 → m.core < 3072 → s.thread (m.core * 16 + i) ≠ none →
      let a := s.regionKey (m.core * 16 + i)
      let b := s.regionKey (d * 16 + i)
      ∃ s', exec .migrationTransfer s = .next s' ∧ s'.slots = s.slots ∧ s'.migrationOf c s.arg.index2 = some { m with left := r } ∧
        s.bytesOutside s' b 6144 ∧ ∀ j, j < 6144 → s'.byte (b + j) = s.byte (a + j) ∧ s'.hasTag (b + j) = s.hasTag (a + j)) ∧
    (∀ d i t, m.dest = some d → m.left = [] → s.copiesWhole m d = true → m.slots = [i] → i < 16 → d ≠ m.core → s.thread (m.core * 16 + i) = some t → t.pair = false →
      t.ctx = m.ctx → (s.ctx m.ctx).mode ≠ .none →
      ∃ s' u, exec .migrationRemap s = .next s' ∧ s'.thread (d * 16 + i) = some u ∧ u.gtid = t.gtid ∧ u.q = t.q ∧ u.p = t.p ∧
        u.pc = t.pc ∧ u.migrating = false ∧ u.dist = 0 ∧ s'.thread (m.core * 16 + i) = none ∧
        Store.get none (s'.ctx m.ctx).remap m.lcore = some d)) ∧
  (∀ u, s.userOf s.arg.writer = some u → u.priv = true → (s.ctx u.sel).mode = .active →
    ∃ s', exec .shareWrite s = .next s' ∧ (s'.ctx u.sel).regs.weight = s.arg.value / 256 % 256 ∧
      (s'.ctx u.sel).regs.tracks = s.arg.value % 8 ∧ s'.mem = s.mem)

/-- 13 R247, R255 to R263, 16 R290 to R293, 17 R327, 23 R383, 02 R33 and R34: a write of the kernel register registers or evicts a
kernel and leaves its code, and one of GSUBMIT submits a graph; an evicted kernel that nothing holds is unregistered after the cycle of
its evict; a whole copy readies its threads; the first candidate of a die is placed where its first track has room: a task with its
threads, which begin as R33 and 04 R78 say, or its operation, or a continuation with its wake value; a wave adds threads; a tick takes
up the registers, once in each 10 µs, and keys the tasks of a graph that stands; an abandoned graph with no work left is released. The
model's own choices: a q0 with SPACE 3 and its cursor at its base whatever capability the block holds (log 81), that an input picks
among columns and groves with room (log 27), which tasks are keyed and when (log 57), and the haul of a task (log 66). -/
def Obligations.LandingEvents : Prop :=
  ∀ s : State, s.Tidy →
  let d := s.arg.index
  let pick := s.arg.index2
  let settled := s.dueShare = none
  (∀ u, s.userOf s.arg.writer = some u → u.priv = true → (s.ctx u.sel).mode ≠ .none →
    let c := u.sel
    let a := s.arg.addr / 64 * 64
    (a < 2 ^ 57 →
      (∃ s', exec .kernelRegister s = .next s' ∧ (s'.ctx c).kresult = (s.registration c a).1 ∧ (s'.ctx c).knamed = a ∧
        s'.kernelOf c a = (s.registration c a).2.or (s.kernelOf c a)) ∧
      (256 ≤ (s.kernelsOf c).length → s.registration c a = (1, none)) ∧
      (∀ r k, s.registration c a = (r, some k) → r = 0 ∧ k.image = a ∧ k.evicted = false ∧ 4 ≤ k.size ∧ k.size ≤ 524288 ∧
        k.code % 64 = a % 64 ∧ ∀ o ∈ k.entries, o < k.size ∧ o % 4 = 0) ∧
      (∀ k, s.kernelOf c a = some k → ∃ s' x, exec .kernelEvict s = .next s' ∧ (s'.ctx c).kresult = 0 ∧ s'.kernelOf c a = some x ∧
        x.evicted = true ∧ x.entries = k.entries ∧ x.code = k.code ∧ x.size = k.size) ∧
      (s.kernelOf c a = none → ∃ s', exec .kernelEvict s = .next s' ∧ (s'.ctx c).kresult = 7 ∧ s'.mem = s.mem)) ∧
    (let v := s.arg.value
     ((s.ctx c).mode = .active → v % 64 = 0 → v < 2 ^ 57 →
      let r := if s.spanOk c v 64 .load then some (s.landingNum c v 64) else none
      (∀ k, s.admission c v r 0 (s.ctx c).gtag = .error k → ∃ s', exec .graphSubmit s = .next s' ∧
        (s'.ctx c).gresult = c * 2 ^ 52 + k ∧ s'.graphs = s.graphs) ∧
      (∀ g, s.admission c v r 0 (s.ctx c).gtag = .ok g → ∃ s', exec .graphSubmit s = .next s' ∧
        (s'.ctx c).gresult = c * 2 ^ 52 + g.ser * 2 ^ 32 ∧ s'.nextGraph = s.nextGraph + 1)) ∧
     (v % 64 ≠ 0 ∨ 2 ^ 57 ≤ v → ∃ s', exec .graphSubmit s = .next s' ∧ (s'.ctx c).gresult = c * 2 ^ 52 + 10 ∧ s'.graphs = s.graphs))) ∧
  (∀ k, s.kernelOf d s.arg.addr = some k → k.evicted = true → k.evictedAt ≠ s.tick → s.kernelHeld d k = false →
    (s.ctx d).mode ≠ .none → ∃ s', exec .kernelUnregister s = .next s' ∧ s'.kernelOf d s.arg.addr = none ∧
      ∀ g, (s'.grove g).resident d s.arg.addr = none) ∧
  (∀ r k, (s.grove d).resident pick s.arg.addr = some r → s.kernelOf pick s.arg.addr = some k → r.whole = false →
    (r.skidder = 0 → ∃ s', exec .kernelCopyComplete s = .next s' ∧ s'.slots = s.slots ∧ s'.mem = s.mem ∧
      { r with skidder := s.freeSkidder d } ∈ (s'.grove d).kernels) ∧
    (r.skidder ≠ 0 → ∃ s', exec .kernelCopyComplete s = .next s' ∧ s'.mem = s.mem ∧
      { r with whole := true, skidder := 0 } ∈ (s'.grove d).kernels ∧
      ∀ n t, s.thread n = some t → slotGrove n = d → t.ctx = r.ctx → k.holds t.pc.toNat = true →
        s'.thread n = some { t with wait := if t.wait = .kernel then .none else t.wait, copying := false })) ∧
  (¬ settled → exec .taskPlacement s = .next s ∧ exec .continuationPlacement s = .next s ∧ exec .wavePlacement s = .next s) ∧
  (∀ p k i rest tr trs, settled → s.candidates d = (p, .task k i) :: rest → s.taskTracks k i = tr :: trs → i < (s.graph k).tasks.length →
    let g := s.graph k
    let t := g.task i
    let placed := fun (s' : State) => let x := (s'.graph k).task i
      x.state = .placed ∧ x.track = tr ∧ x.start = g.time s.now
    (∀ l kern ns c s2, t.tile = false → s.launchAt g.ctx t.launch true = .ok l → s.entryKernel g.ctx l.entry = some kern →
      s.trackSlots g.ctx g.die tr l.pair kern l.width l.width pick = some ns → ns.Nodup →
      s.takeCrew (implicitCrew s.pkg g.ctx g.ser i l.width) = some (c, s2) →
      ∃ s', exec .taskPlacement s = .next s' ∧ placed s' ∧ ((s'.graph k).task i).next = ns.length ∧ ((s'.graph k).task i).width = l.width ∧
        s.threadsBegin s' k i l l.width 0 ns) ∧
    (∀ h, t.tile = true →
      choose ((trackGroves g.die tr).filter fun h => decide ((s.queue (queueKey g.ctx h 4)).ops.length < queueDepth 4)) pick = some h →
      let op := s.taskOp k i h
      (tileInstrOf t.fields).wf = true → bits op.flags 3 2 = 0 → (op.xop = 5 → op.b.isInt = true) → op.tileCheck = none → op.w = none →
      ∃ s' serial, exec .taskPlacement s = .next s' ∧ placed s' ∧
        (s'.queue (queueKey g.ctx h 4)).ops = (s.queue (queueKey g.ctx h 4)).ops ++ [{ op with serial, queue := queueKey g.ctx h 4 }])) ∧
  (∀ p k w rest c core, settled → s.candidates d = (p, .cont k w) :: rest → s.contAt (s.graph k).ctx w = some c → s.contCore c k = some core →
    c.gtid.toNat / 2 ^ 52 = c.ctx →
    ∃ s' t, exec .continuationPlacement s = .next s' ∧ s'.thread (core * 16 + c.slot) = some t ∧ t.gtid = c.gtid ∧ t.lcore = c.lcore ∧
      t.cp = 0 ∧ t.tl = 0 ∧ t.dist = 0 ∧ t.reg c.d = ⟨BitVec.ofNat 128 (c.value.getD 0 % 2 ^ 64), false, 8⟩ ∧
      (c.stepped = true → t.stopped = some ⟨6, 3, 0, 0⟩)) ∧
  (∀ x s1, settled → s.nextPlacement d pick = some (x, s1) →
    (∃ a b p, s.candidates d = a ++ (p, x) :: b ∧ ∀ y ∈ a, s.placeCandidate pick y.2 = none) ∧
    (∀ k i, x = .task k i → exec .taskPlacement s = .next s1 ∧ ((s.graph k).task i).state = .ready ∧ (s.graph k).state = .running ∧
      (s.graph k).die = d ∧ 5 ≤ s.boot.stage) ∧
    (∀ k w, x = .cont k w → exec .continuationPlacement s = .next s1)) ∧
  (∀ gtid l slot lcore idx width crew seed, slot < 16 → l.slice ≤ 384 →
    let t := launched gtid l slot lcore idx width crew seed
    t.gtid = gtid ∧ t.pc = BitVec.ofNat 64 l.entry ∧ t.reg 4 = crew ∧ t.pred 0 = 0xFFFFFFFF ∧ (∀ k, 1 ≤ k → k < 8 → t.pred k = 0) ∧
    t.reg 2 = ⟨BitVec.ofNat 128 (idx % 2 ^ 64), false, 4⟩ ∧ t.reg 3 = ⟨BitVec.ofNat 128 (width % 2 ^ 64), false, 4⟩ ∧
    (∀ r : BitVec 5, 5 ≤ r.toNat → t.reg r = QReg.zero) ∧ (t.reg 0).cap = true ∧ capSpace (t.reg 0).bits = 3 ∧
    capKind (t.reg 0).bits = 0 ∧ capCursor (t.reg 0).bits = capBase l.arg % 2 ^ 64 ∧ capE (t.reg 0).bits = capE l.arg ∧
    capBF (t.reg 0).bits = capBF l.arg ∧ capTF (t.reg 0).bits = capTF l.arg ∧
    (∀ i, i < 10 → (capPerms (t.reg 0).bits).testBit i = ((capPerms l.arg).testBit i && (i == 9 || i == 6))) ∧
    (t.reg 1).cap = true ∧ capSpace (t.reg 1).bits = 0 ∧ capBase (t.reg 1).bits = 2 ^ 51 + slot * 6144 ∧
    capTop (t.reg 1).bits = 2 ^ 51 + slot * 6144 + 16 * l.slice ∧ t.gf = Thread.blank.gf ∧ t.cp = 0 ∧ t.tl = 0 ∧ t.dist = 0) ∧
  (let g := s.graph d
   let t := g.task pick
   ∀ l ci kern ns, settled → g.state = .running → t.state = .placed → t.tile = false → t.next < t.width → s.mayPlace g.ctx g.die = true →
    pick < g.tasks.length → s.launchAt g.ctx t.launch true = .ok l → t.crew = some ci → s.kernelAt g.ctx l.entry = some kern →
    s.trackSlots g.ctx g.die t.track l.pair kern t.width (t.width - t.next) s.arg.value = some ns → ns.Nodup →
    ∃ s', exec .wavePlacement s = .next s' ∧ ((s'.graph d).task pick).next = t.next + ns.length ∧ t.next + ns.length ≤ t.width ∧
      s.threadsBegin s' d pick l t.width t.next ns) ∧
  (s.deadLandings.contains d = true ∨ s.now / 10000 ≤ Store.get 0 s.ticked d → exec .landingTick s = .next s) ∧
  (d < 4 → s.deadLandings.contains d = false → Store.get 0 s.ticked d < s.now / 10000 →
    (∃ s', exec .landingTick s = .next s' ∧ Store.get 0 s'.ticked d = s.now / 10000) ∧
    ((∀ e ∈ s.graphs, e.2.die ≠ d) → ∃ s', exec .landingTick s = .next s' ∧ s'.graphs = s.graphs ∧ s'.mem = s.mem ∧
      ∀ c, (s.ctx c).regs.weight ≠ 0 → s'.eff c d = (s.ctx c).regs.eff) ∧
    (∀ k g, (s.graphs.filter fun e => e.2.die == d) = [(k, g)] → g.state = .running → g.filler = false →
      let τ := g.time s.now
      let g1 := { g with rval := g.remaining τ, jrem := g.remainingEnergy }
      g.withDead τ = g → g.complete = false → (∀ t ∈ g.tasks, t.failed = false) → g1.abandonReason (s.ctx g.ctx).regs.kappa τ = 0 →
      ∃ s', exec .landingTick s = .next s' ∧ s'.mem = s.mem ∧ (s'.graph k).rval = g1.rval ∧ (s'.graph k).jrem = g1.jrem ∧
        (∀ i, (g.task i).state = .ready → ((s'.graph k).task i).key = keyOf (g.delayLoss τ i) (g.task i).energy) ∧
        ∀ i, (g.task i).state ≠ .ready → (s'.graph k).task i = g.task i)) ∧
  ((s.graph d).state = .abandoning → s.graphIdle d = true →
    ∃ s', exec .graphAbandoned s = .next s' ∧ s'.graph d = Graph.none)

/-- 22 R367 and R371, 23 R378, R381 and R382: a written save makes its continuation parked, or begins stage 1 where the wake came
first, which ends at once where nothing is to be promoted; a timer lists the blocks to be demoted, or starts the next; a page move
starts by dropping its translations, and ends, once the accesses made through them have been performed, with the page's bytes, tag bits
and leaf at the new level, with M clear where software has cleared it and dropped the page's translations; KVPOOL is set while no handle
of the context is live. -/
def Obligations.LayByEvents : Prop :=
  ∀ (s : State), s.Tidy →
  (∀ c, s.contArg = some c →
    let leaves := fun (i : Instr) (y : Continuation) => ∃ s', exec i s = .next s' ∧ s'.mem = s.mem ∧ s'.contAt c.ctx c.frame = some y
    (c.state = .parking → c.value = none → leaves .parkSaveWritten { c with state := .parked }) ∧
    (∀ v, c.state = .parking → c.value = some v →
      (s.toPromote c (s.stage1Count c) ≠ [] → ∃ y, leaves .parkSaveWritten y ∧ y.state = .stage1 ∧ y.up = s.toPromote c (s.stage1Count c)) ∧
      (s.toPromote c (s.stage1Count c) = [] → (∀ m ∈ s.moves, m.ctx = c.ctx → m.frame ≠ c.frame) →
        ∃ y, leaves .parkSaveWritten y ∧ y.state = .ready)) ∧
    (∀ due, c.dueHbm = some due → due ≤ s.now → (c.state = .parking ∨ c.state = .parked) →
      (s.dramFree ≠ [] → s.toDemote c 0 ≠ [] →
        leaves .thbmExpiry { c with down := s.toDemote c 0, downTgt := 4, dueHbm := none, dueCxl := none }) ∧
      (s.dramFree = [] ∨ s.toDemote c 0 = [] →
        leaves .thbmExpiry { c with down := [], downTgt := 4, dueHbm := none, dueCxl := c.tcxl.map fun d => s.now + 1000 * d })) ∧
    (∀ due, c.dueCxl = some due → due ≤ s.now → (c.state = .parking ∨ c.state = .parked) →
      (s.flashFree ≠ [] → s.toDemote c 4 ≠ [] →
        leaves .tcxlExpiry { c with down := s.toDemote c 4, downTgt := 5, dueHbm := none, dueCxl := none }) ∧
      (s.flashFree = [] ∨ s.toDemote c 4 = [] → leaves .tcxlExpiry { c with down := [], downTgt := 5, dueHbm := none, dueCxl := none })) ∧
    ((∀ m ∈ s.moves, m.ctx = c.ctx → m.frame ≠ c.frame) → ∀ p src, s.blockKey c.ctx p = some src → s.blockMoving c p = false →
      let starts := fun (s' : State) (dst : Nat) => exec .pageMoveStart s = .next s' ∧ s'.mem = s.mem ∧
        (∃ m, s'.moves = s.moves ++ [m] ∧ m.ctx = c.ctx ∧ m.va = s.poolVa c.ctx p ∧ m.src = src ∧ m.dst = dst ∧ m.word = c.word ∧
          m.frame = c.frame) ∧
        ∀ g x, x ∈ (s'.grove g).tlb ↔ x ∈ (s.grove g).tlb ∧ x.covers c.ctx (s.poolVa c.ctx p) 65536 = false
      (∀ l q, c.up = p :: l → keyTgt src ≠ 0 → s.graphOf c.gtid = none → s.promotionPage c.die c.turn = some q →
        ∃ s', starts s' (s.levelPage 0 q) ∧ s'.hbmFree = s.hbmFree.erase q ∧
          s'.contAt c.ctx c.frame = some { c with up := l, turn := c.turn + 1 }) ∧
      (∀ l q r, c.up = [] → c.down = p :: l → c.downTgt = 4 → keyTgt src = 0 → (s.poolPage c.ctx p).shared = false → s.dramFree = q :: r →
        ∃ s', starts s' (s.levelPage 4 q) ∧ s'.dramFree = r ∧ s'.contAt c.ctx c.frame = some { c with down := l, tier := 1 }))) ∧
  (∀ m, (s.moves.filter fun m => m.word == s.arg.addr)[s.arg.index]? = some m → s.staleLeft 2 m.ctx m.va 65536 = false →
    m.src % 65536 = 0 → m.dst % 65536 = 0 → m.src ≠ m.dst → keyTgt m.src ≤ 5 → keyTgt m.dst ≤ 5 → s.contAt m.ctx m.frame = none →
    s.leafKept m = true ∨ (m.obeyed = true ∧ s.leafCleared m = true) →
    (m.leaf + 128 ≤ m.dst ∨ m.dst + 65536 ≤ m.leaf) → s.tagsClear m.dst 65536 m.leaf 128 →
    s.tagsClear m.dst 65536 m.src 65536 → s.tagsClear m.dst 65536 m.dst 65536 → s.tagsClear m.src 65536 m.dst 65536 → s.cxlDram % 16 = 0 →
    ∃ s1 s' : State, exec .blockMoveComplete s = .next s' ∧ s'.moves = s.moves.erase m ∧
      s'.mem = (s1.rewriteLeaf { m with entry := if s.leafKept m then m.entry else clearM m.entry }).mem ∧
      s1.ctxs = s.ctxs ∧ s.bytesOutside s1 m.dst 65536 ∧
      ∀ i, i < 65536 → s1.byte (m.dst + i) = s.byte (m.src + i) ∧
        (keyTgt m.dst ≤ 3 ∨ (s.cxlGranule (m.dst + i)).isSome = true → s1.hasTag (m.dst + i) = s.hasTag (m.src + i))) ∧
  (∀ (m : PageMove), m.entry < 2 ^ 64 → keyPa m.dst + 65536 ≤ 2 ^ 52 → m.leaf % 128 = 0 → keyTgt m.leaf = 0 →
    ∀ i, i < 16 → (s.rewriteLeaf m).readNum (m.leaf + 8 * i) 8 =
      m.entry % 2 ^ 12 + m.entry / 2 ^ 56 * 2 ^ 56 + keyTgt m.dst * 2 ^ 52 + keyPa m.dst + 4096 * i) ∧
  (∀ u, s.userOf s.arg.writer = some u → u.priv = true → (s.ctx u.sel).mode ≠ .none →
    let base := s.arg.value / 65536 % 2 ^ 41 * 65536
    let n := s.arg.value % 65536
    ((∃ e ∈ s.handles, e.2.live = true ∧ e.2.tenant = u.sel) → exec .kvpoolWrite s = .next s) ∧
    (2 ^ 57 < base + 65536 * n → exec .kvpoolWrite s = .next s) ∧
    ((∀ e ∈ s.handles, e.2.live = true → e.2.tenant ≠ u.sel) → base + 65536 * n ≤ 2 ^ 57 →
      (∀ p, p < n → s.poolPageOk u.sel (base + 65536 * p) = true) →
      ∃ s', exec .kvpoolWrite s = .next s' ∧ (s'.ctx u.sel).poolBase = base ∧ (s'.ctx u.sel).poolCount = n ∧ s'.mem = s.mem) ∧
    (∀ p, p < n → s.poolPageOk u.sel (base + 65536 * p) = false → exec .kvpoolWrite s = .next s))

/-! ## Queue pairs, debug, power, links and start-up -/

/-- 25 R402 and R403: QPCMD creates, moves and destroys a pair of the context and reports it in QPRES; a doorbell of the owner moves an
index once its writer has released; a work request is taken and completes, or its pair enters Error; an incoming request is performed, or
refused, and answered; what waits for a page walk or for a peer package's reply is tried again. The model's own choices (log 34): the order
of QP_CREATE's checks, the check of a record's fields at RTR with result 2, and a responder that a NAK leaves as it was. -/
def Obligations.QueuePairEvents : Prop :=
  ∀ s : State, s.Tidy →
  let k := s.arg.index
  (∀ c v, s.qpRecord c v →
    let port := field v 4 1
    let dst := field v 5 1
    let qpn := field v 0 3
    (port < 4 → dst ≤ 1 → ∀ k, s.freeQp port = some k → ∃ s' q, exec .qpCreate s = .next s' ∧ s'.qp k = some q ∧ q.owner = c ∧
      q.state = dst ∧ s'.qpAnswered (0x1000 + k % 4096) 0 ∧ s'.mem = s.mem ∧ ∀ j, j ≠ k → s'.qp j = s.qp j) ∧
    (port < 4 → dst ≤ 1 → s.freeQp port = none → exec .qpCreate s = .next { s with qpres := 1 }) ∧
    (port < 4 → 2 ≤ dst → dst ≤ 3 → exec .qpCreate s = .next { s with qpres := 3 }) ∧
    (4 ≤ port → exec .qpCreate s = .next { s with qpres := 2 } ∧
      exec .qpModify s = .next { s with qpres := qpn * 2 ^ 40 + 2 } ∧ exec .qpDestroy s = .next { s with qpres := qpn * 2 ^ 40 + 2 }) ∧
    (port < 4 → dst ≤ 4 → s.ownedQp c v = none → exec .qpModify s = .next { s with qpres := qpn * 2 ^ 40 + 4 } ∧
      exec .qpDestroy s = .next { s with qpres := qpn * 2 ^ 40 + 4 }) ∧
    (∀ k q, port < 4 → s.ownedQp c v = some (k, q) →
      (dst = q.state + 1 → dst ≤ 3 → (dst = 2 → qpFieldsOk v = true) → ∃ s', exec .qpModify s = .next s' ∧ s'.mem = s.mem ∧
        s'.qp k = some { (if dst = 2 then q.take v else q) with state := dst } ∧ s'.qpAnswered qpn 0 ∧ ∀ j, j ≠ k → s'.qp j = s.qp j) ∧
      (dst = 2 → q.state = 1 → qpFieldsOk v = false → exec .qpModify s = .next { s with qpres := qpn * 2 ^ 40 + 2 }) ∧
      (dst ≠ 0 → dst ≠ q.state + 1 → dst ≤ 3 → exec .qpModify s = .next { s with qpres := qpn * 2 ^ 40 + 3 }) ∧
      (dst = 4 → ∃ s' q', exec .qpModify s = .next s' ∧ s'.qp k = some q' ∧ q'.state = 4 ∧ q'.left = 0 ∧ q'.busy = false ∧
        q'.completions = q.completions + q.left ∧ s'.qpAnswered qpn 0) ∧
      (∃ s', exec .qpDestroy s = .next s' ∧ s'.qp k = none ∧ s'.qpAnswered qpn 0 ∧ ∀ j, j ≠ k → s'.qp j = s.qp j))) ∧
  (∀ c q, s.writerCtx s.arg.writer = some c →
    let w := s.arg.value
    let qpn := w / 2 ^ 40 % 2 ^ 24
    let k := 4096 * (w / 2 ^ 36 % 4) + (qpn - 0x1000)
    0x1000 ≤ qpn → qpn ≤ 0x1FFF → s.qp k = some q →
    (s.writerReleased s.arg.writer = false → exec .qpDoorbellSend s = .next s ∧ exec .qpDoorbellRecv s = .next s) ∧
    (s.writerReleased s.arg.writer = true → q.owner = c → w / 2 ^ 16 % 2 = 0 → q.state = 3 →
      exec .qpDoorbellSend s = .next (s.setQp k (some { q with sendProd := w % 2 ^ 16 }))) ∧
    (s.writerReleased s.arg.writer = true → q.owner = c → w / 2 ^ 16 % 2 = 1 → q.state = 2 ∨ q.state = 3 →
      exec .qpDoorbellRecv s = .next (s.setQp k (some { q with recvProd := w % 2 ^ 16 }))) ∧
    (q.owner ≠ c → exec .qpDoorbellSend s = .next s ∧ exec .qpDoorbellRecv s = .next s)) ∧
  (∀ q, s.qp k = some q →
    let op := field q.wr 0 1
    let len := field q.wr 4 4
    let signalled := q.wr / 2 ^ 8 % 2 = 1
    let free := s.pairWaits q (field q.wr 8 8) len = false
    let ended := fun (i : Instr) (status : Nat) => ∃ s' q', exec i s = .next s' ∧ s'.qp k = some q' ∧ q'.busy = false ∧ q'.state = q.state ∧
      q'.sendCons = (q.sendCons + 1) % 2 ^ 16 ∧ q'.completions = q.completions + 1 ∧ s.completed k q q.sendCons op status 0 0 s'
    let failed := fun (i : Instr) => ∃ s' q', exec i s = .next s' ∧ s'.qp k = some q' ∧ q'.state = 4 ∧ q'.left = 0 ∧ q'.busy = false ∧
      q.completions < q'.completions
    (∀ s1, q.state = 3 → q.busy = false → q.left ≠ 0 → s.workAt k q q.sendCons = (.waits, s1) → exec .workRequest s = .next s1) ∧
    (∀ w s1, q.state = 3 → q.busy = false → q.left ≠ 0 → s.workAt k q q.sendCons = (.done w, s1) →
      s1.pairWaits q (field w 8 8) (field w 4 4) = false → (s1.workCheck k q w).1 ≠ .waits →
      ∃ s' f, exec .workRequest s = .next s' ∧ s'.qp k = some { q with busy := true, wr := w, fail := f, retries := 0 } ∧ (∀ j, s'.byte j = s1.byte j) ∧
        (4 < field w 0 1 ∨ 2 ^ 31 < field w 4 4 → f = 1) ∧ (field w 0 1 = 1 → field w 4 4 ≤ 2 ^ 31 → f = 0)) ∧
    (q.busy = true → free → q.fail = 0 → s.arg.ok = true → op = 0 ∨ op = 2 → ∃ s' q', exec .workRequestComplete s = .next s' ∧
      s'.qp k = some q' ∧ q'.busy = false ∧ q'.state = q.state ∧ q'.sendCons = (q.sendCons + 1) % 2 ^ 16 ∧
      (signalled → q'.completions = q.completions + 1 ∧ s.completed k q q.sendCons op 0 len 0 s') ∧
      (¬ signalled → q'.completions = q.completions ∧ s'.mem = s.mem)) ∧
    (∀ x s1, q.busy = true → free → q.fail = 0 → s.arg.ok = true → op ≠ 0 → op ≠ 2 →
      let got := numOf (s.arg.data.take len)
      s.portWrite q.owner k (field q.wr 8 8) len got = (.done x, s1) → ∃ s' q', exec .workRequestComplete s = .next s' ∧
        s'.qp k = some q' ∧ q'.busy = false ∧ q'.state = q.state ∧ q'.sendCons = (q.sendCons + 1) % 2 ^ 16 ∧
        (signalled → q'.completions = q.completions + 1 ∧ s1.completed k q q.sendCons op 0 len (if op = 1 then 0 else got) s') ∧
        (¬ signalled → q'.completions = q.completions ∧ s'.mem = s1.mem)) ∧
    (q.busy = true → free → q.fail ≠ 0 → ended .workRequestComplete 1) ∧
    (q.busy = true → free → q.fail = 0 → s.arg.ok = false → failed .workRequestComplete) ∧
    (q.busy = true → s.pairWaits q 0 0 = false → q.fail = 0 → s.arg.ok = false → failed .qpRetryTimeout) ∧
    (q.busy = true → s.pairWaits q 0 0 = false → q.fail = 0 → s.arg.ok = true →
      exec .qpRetryTimeout s = .next (s.setQp k (some { q with retries := q.retries + 1 }))) ∧
    (q.state = 2 ∨ q.state = 3 →
      let refused := fun (i : Instr) (b : Nat) => s.arg.index2 ≠ q.rkey ∨ q.access.testBit b = false →
        ∃ s', exec i s = .next s' ∧ s.answeredLast s' k false 1 ∧ s'.mem = s.mem ∧ s'.qps = s.qps
      let admitted := fun (b : Nat) => s.arg.index2 = q.rkey ∧ q.access.testBit b = true
      refused .rdmaWriteIn 0 ∧ refused .rdmaReadIn 1 ∧ refused .rdmaAtomicIn 2 ∧
      (∀ r s1, admitted 0 → s.portWaits q.owner s.arg.addr s.arg.data.length = false →
        s.portWrite q.owner k s.arg.addr s.arg.data.length (numOf s.arg.data) = (r, s1) →
        (r = .waits → exec .rdmaWriteIn s = .next s1) ∧
        (r = .fails → ∃ s', exec .rdmaWriteIn s = .next s' ∧ s.answeredLast s' k false 1 ∧ s'.mem = s.mem) ∧
        ∀ x, r = .done x → ∃ s', exec .rdmaWriteIn s = .next s' ∧ s1.answeredLast s' k true 0 ∧ s'.mem = s1.mem) ∧
      (∀ r s1, admitted 1 → s.portWaits q.owner s.arg.addr s.arg.value = false →
        s.portRead q.owner k s.arg.addr s.arg.value = (r, s1) →
        (r = .waits → exec .rdmaReadIn s = .next s1) ∧
        (r = .fails → ∃ s', exec .rdmaReadIn s = .next s' ∧ s1.answeredLast s' k false 1) ∧
        ∀ v, r = .done v → ∃ s', exec .rdmaReadIn s = .next s' ∧ s1.answeredLast s' k true v ∧ ∀ j, s'.byte j = s.byte j) ∧
      (∀ key s1, admitted 2 → s.portWaits q.owner s.arg.addr 8 = false → s.arg.addr % 8 = 0 →
        s.portOk q.owner s.arg.addr 8 .load = true → s.portOk q.owner s.arg.addr 8 .store = true →
        ((portOp q.owner k).key portReach s.arg.addr .store).run.run { s with opts := { s.opts with walk := s.arg.walk } } = (.ok key, s1) →
        let x := numOf (s.arg.data.take 8)
        let y := numOf ((s.arg.data.drop 8).take 8)
        (3 < keyTgt key → ∃ s', exec .rdmaAtomicIn s = .next s' ∧ s.answeredLast s' k false 1 ∧ ∀ j, s'.byte j = s.byte j) ∧
        (keyTgt key ≤ 3 → s1.isLocal key = true → s1.poisoned key = false → key % 8 = 0 →
        ∃ s', exec .rdmaAtomicIn s = .next s' ∧ s'.hostOut = s.hostOut ++ [{ requester := 2 ^ 16 + k, ok := true, value := s.readNum key 8 }] ∧
          s.bytesOutside s' key 8 ∧
          s'.readNum key 8 = if s.arg.value = 1 then (s.readNum key 8 + x) % 2 ^ 64 else if s.readNum key 8 = x then y else s.readNum key 8)) ∧
      (q.recvCons = q.recvProd → ∃ s', exec .sendIn s = .next s' ∧ s.answeredLast s' k false 2 ∧ s'.mem = s.mem ∧ s'.qps = s.qps) ∧
      (∀ v s1 x s2, q.recvCons ≠ q.recvProd → s.portRead q.owner k (q.rq + 16 * (q.recvCons % 2 ^ (q.rings / 16 % 16))) 16 = (.done v, s1) →
        s1.pairWaits q (field v 0 8) s.arg.data.length = false → s.arg.data.length ≤ field v 8 4 →
        s1.portWrite q.owner k (field v 0 8) s.arg.data.length (numOf s.arg.data) = (.done x, s2) →
        ∃ s' q', exec .sendIn s = .next s' ∧ s2.answeredLast s' k true 1 ∧ s'.qp k = some q' ∧ q'.recvCons = (q.recvCons + 1) % 2 ^ 16 ∧
          q'.completions = q.completions + 1 ∧ s2.completed k q q.recvCons 5 0 s.arg.data.length 0 s')))

/-- 27 R423 to R430: a thread whose turn is offered at a breakpoint stops at it with KIND 6; a debug command resumes, steps or stops its
target and reports in RESULT; a stepped thread stops when its work has drained; the log and the sampler begin their rings and write
their records with the count that includes them, hold 64 that die memory does not take, and drop those beyond. That a write of LOGCTL
whose rings do not fit and one of SMPCTL with ORDER above 12 have no effect is the model's reading (log 62). -/
def Obligations.DebugEvents : Prop :=
  ∀ s : State, s.Tidy →
  let n := s.arg.index
  let v := s.arg.value
  (∀ t i, s.thread n = some t → s.ready n = true → t.debugStop = false → t.skipBp = false → i < 8 → s.breakMatches t i →
    (∀ j, j < i → ¬ s.breakMatches t j) → ∃ s', exec .breakpointMatch s = .next s' ∧ s.stoppedAt s' n t 6 2 i) ∧
  (s.mayWrite s.arg.writer = true →
    let g := s.dbg.target.toNat
    let result := fun (i : Instr) (r : Nat) => exec i s = .next { s with dbg := { s.dbg with result := r } }
    let acts := [Instr.debugResume, .debugStep, .debugStop]
    (s.slotOf g = none → s.savedHas g = false → ∀ i ∈ acts, result i 1) ∧
    (s.slotOf g = none → s.savedHas g = true → ∀ i ∈ acts, result i 3) ∧
    (∀ m t, s.slotOf g = some m → s.thread m = some t →
      let sets := fun (i : Instr) (u : Thread) => exec i s = .next { s.setThread m u with dbg := { s.dbg with result := 0 } }
      (∀ x, t.stopped = some x → x.kind = 6 → sets .debugResume { t with stopped := none, skipBp := true } ∧
        sets .debugStep { t with stopped := none, skipBp := true, stepping := 1 } ∧ result .debugStop 2) ∧
      (t.stopped = none → result .debugResume 2 ∧ result .debugStep 2) ∧
      (t.frozen = true ∨ t.halted = true → result .debugStop 2) ∧
      (t.stopped = none → t.frozen = false → t.halted = false →
        (t.wait = .none → t.stepping ≠ 2 → sets .debugStop { t with debugStop := true }) ∧
        (t.wait = .memory → ∃ s', exec .debugStop s = .next s' ∧ s.stoppedAt s' m t 6 4 0 ∧ s'.dbg.result = 0)))) ∧
  (∀ t, s.thread n = some t → t.stepping = 2 → t.wait = .none → t.frozen = false → s.stepDone t = true →
    ∃ s', exec .stepStop s = .next s' ∧ s.stoppedAt s' n t 6 3 0) ∧
  (s.mayWrite s.arg.writer = true →
    let order := v / 2 ^ 8 % 16
    let base := v / 2 ^ 12 % 2 ^ 15 * 4096
    (v % 2 = 0 → s.dbg.logctl % 2 = 0 → exec .logEnable s = .next { s with dbg := { s.dbg with logctl := v % 2 ^ 27 - v % 256 } }) ∧
    (v % 2 = 0 → s.dbg.logctl % 2 = 1 → ∃ s', exec .logEnable s = .next s' ∧ s'.dbg.logctl = v % 2 ^ 27 - v % 256 ∧
      s'.slots = s.slots ∧ ∀ core, (s'.core core).logNow = []) ∧
    (v % 2 = 1 → order < 12 ∨ 16 < order ∨ 2 ^ 27 < base + 768 * 2 ^ order → exec .logEnable s = .next s) ∧
    (v % 2 = 1 → 12 ≤ order → order ≤ 16 → base + 768 * 2 ^ order ≤ 2 ^ 27 → ∃ s', exec .logEnable s = .next s' ∧
      s'.dbg.logctl = v % 2 ^ 27 - v % 256 + 1 ∧ s'.now = s.now ∧ ∀ core, core < 3072 → (s'.core core).logCount = 0 ∧
        (s'.core core).logHeld = [] ∧ (s'.core core).logCycle = s.cycle core ∧
        s'.readNum (s'.logRing core) 16 = s.now % 2 ^ 64 * 2 ^ 64) ∧
    (v / 2 ^ 32 % 2 ^ 32 < 256 ∨ 12 < order → exec .sampleEnable s = .next s) ∧
    (256 ≤ v / 2 ^ 32 % 2 ^ 32 → order ≤ 12 → v % 2 = 1 → ∃ s', exec .sampleEnable s = .next s' ∧ s'.dbg.samples = [0, 0, 0, 0] ∧ s'.dbg.held = [] ∧
      s'.dbg.smpctl = v / 2 ^ 32 % 2 ^ 32 * 2 ^ 32 + (v % 2 ^ 27 - v % 256 + 1) ∧
      ∀ d, d < 4 → s'.readNum (s.dieKey d base) 16 = 0)) ∧
  (s.dbg.logctl % 2 = 1 → (s.core n).logNow = [] → (s.core n).logCycle + 65535 ≤ s.cycle n →
    let x := s.core n
    let c := (2 ^ (s.dbg.logctl / 2 ^ 8 % 16) - 16) / 4
    let l := x.logHeld ++ (if x.logLost then [0xF001] else []) ++ [0xFFFFF000]
    (64 < l.length → exec .logDeltaOverflow s = .next (s.setCore n { x with logLost := true })) ∧
    (l.length ≤ 64 → s.busy = true → exec .logDeltaOverflow s =
      .next (s.setCore n { x with logHeld := l, logCycle := x.logCycle + 65535, logLost := false })) ∧
    (l.length ≤ 64 → s.busy = false → ∃ s', exec .logDeltaOverflow s = .next s' ∧ (s'.core n).logCycle = x.logCycle + 65535 ∧
      (s'.core n).logCount = x.logCount + l.length ∧ (s'.core n).logHeld = [] ∧
      s'.readNum (s.logRing n + 16 + 4 * ((x.logCount + l.length - 1) % c)) 4 = 0xFFFFF000 ∧
      s'.readNum (s.logRing n) 8 = (x.logCount + l.length) % 2 ^ 64)) ∧
  (s.dbg.smpctl % 2 = 1 → n < 3072 → s.sampleNow n = false → exec .pcSample s = .next s) ∧
  (s.dbg.smpctl % 2 = 1 → n < 3072 → s.sampleNow n = true →
    let d := n / 768
    let ring := s.dieKey d (s.dbg.smpctl / 2 ^ 12 % 2 ^ 15 * 4096)
    let k := s.dbg.samples.getD d 0
    let x := s.cycleNote n
    let l := s.heldSamples d
    let shows := fun (w : Nat) => w / 2 ^ 128 % 2 ^ 64 = s.now % 2 ^ 64 ∧
      w / 2 ^ 224 % 2 ^ 8 = n / 16 ∧ (x.slot < 16 → w / 2 ^ 232 % 2 ^ 8 = n % 16 * 16 + x.slot) ∧
      (x.flags % 2 = 0 → w % 2 ^ 64 = x.gtid.toNat ∧ w / 2 ^ 64 % 2 ^ 64 = x.pc.toNat) ∧ (x.flags % 2 = 1 → w % 2 ^ 128 = 0)
    (64 ≤ l.length → ∃ s', exec .pcSample s = .next s' ∧
      s'.readNum (ring + 8) 8 = (s.dbg.samplesLost.getD d 0 + 1) % 2 ^ 64 ∧ s'.dbg.samples = s.dbg.samples ∧ s'.heldSamples d = l) ∧
    (l.length < 64 → s.busy = true → ∃ (s' : State) (w : Nat), exec .pcSample s = .next s' ∧ s'.heldSamples d = l ++ [w] ∧ shows w ∧
      s'.mem = s.mem ∧ s'.dbg.samples = s.dbg.samples) ∧
    (l = [] → s.busy = false → ∃ (s' : State) (w : Nat), exec .pcSample s = .next s' ∧ s'.dbg.samples = s.dbg.samples.set d (k + 1) ∧
      s'.heldSamples d = [] ∧ s'.readNum ring 8 = (k + 1) % 2 ^ 64 ∧
      s'.readNum (ring + 32 + 32 * (k % (2 ^ (s.dbg.smpctl / 2 ^ 8 % 16 + 7) - 1))) 32 = w ∧ shows w))

/-- 26 R408 to R416 and R440: a refill, once for each microsecond, gives each occupied slot of the die its share of the budget less its deficit, and none to
the others, credits static power, and lifts the thermal masks of cool cores; the end of a window, once for each millisecond, corrects k, sets the target of the next
from the estimate and the demand, divides it, and emits the record, which a ring in host memory holds with PRODUCED, and which context
0's pair on the port of die 0 sends to a remote ring. The model's own readings: divisions that round down and engine budgets set anew
(log 49), static power in the charged energy (log 36), and a last millisecond of 1,000 whole microseconds (log 77); the demands, the
board power and CONSUMED come with the event (log 50). -/
def Obligations.PowerEvents : Prop :=
  ∀ s : State, s.Tidy →
  (∀ d, s.arg.index = d → s.refillDue d = false → exec .budgetRefill s = .next s) ∧
  (∀ d, s.arg.index = d → d < 4 → Store.get 0 s.refilled d < s.now / 1000 →
    let pj := 1000 * s.power.fixed.getD d 0
    let cores := s.busyCores d
    let units := s.busyUnits d
    let sum := sumOf (cores.map s.coreMs) + sumOf (units.map fun u => s.unitMs u.1 u.2)
    ∃ s', exec .budgetRefill s = .next s' ∧ s'.mem = s.mem ∧ s'.power.pkg = s.power.pkg + pj ∧
      (s'.ctx 0).energy = (s.ctx 0).energy + pj ∧ (∀ n, (s'.slot n).thread = (s.slot n).thread) ∧
      (∀ n, slotDie n ≠ d → s'.slot n = s.slot n) ∧
      (∀ n, slotDie n = d → s.slotUsed n = false → (s'.slot n).quota = 0) ∧
      (∀ n, slotDie n = d → s.slotUsed n = true →
        let q := budgetShare (s.power.dieBudget d) (cores.length + units.length) (s.coreMs (n / 16)) sum / (s.occupied (n / 16)).length
        let short := (s.slot n).deficit + (-(s.slot n).quota).toNat
        (short < q → (s'.slot n).quota = q - short ∧ (s'.slot n).deficit = 0) ∧
        (q ≤ short → (s'.slot n).quota = 1 ∧ (s'.slot n).deficit = short - (q - 1))) ∧
      (∀ n, slotDie n = d → (s.core (n / 16)).temp < coolTemp → (s'.slot n).thermal = false) ∧
      Store.get 0 s'.refilled d = s.now / 1000) ∧
  (s.dueWindow = false → exec .governorWindowEnd s = .next s) ∧
  (5 ≤ s.boot.stage → s.windowed < s.now / 1000000 → s.power.windowStart < s.power.pkg →
    let p := s.power
    let demands := demandsOf s.arg.addr
    let w := p.windowEnd s.arg.value demands
    let missed := p.asked = true ∧ w.estimate < p.target
    ∃ s', exec .governorWindowEnd s = .next s' ∧ s'.slots = s.slots ∧ s'.windowed = s.now / 1000000 ∧ s'.power.k = w.k ∧
      s'.power.estimate = w.estimate ∧ s'.power.target = w.target ∧ s'.power.seq = p.seq + 1 ∧ s'.power.window = 0 ∧
      s'.power.windowStart = p.pkg ∧ s'.power.pkg = p.pkg ∧
      (s'.power.asked = true ↔ w.demand < w.target) ∧ (s'.power.held = true ↔ w.target < w.demand) ∧
      (s'.power.filler = true ↔ w.demand < w.target ∧ p.fillerOk = true) ∧
      (missed → s'.power.misses = min 65535 (p.misses + 1)) ∧ (¬ missed → s'.power.misses = p.misses) ∧
      (∀ i x : Nat, demands[i]? = some x → s'.power.parts[i]? = some
        (if w.demand ≤ w.target then x + (w.target - w.demand) / 4 else w.target * x / w.demand)) ∧
      let sends := 0x1000 ≤ p.ringQpn ∧ p.ringQpn ≤ 0x1FFF ∧ ∃ q, s.qp (p.ringQpn - 0x1000) = some q ∧ q.owner = 0 ∧ q.state = 3
      let takes := s.arg.index2 ≠ 1 ∧ ((p.ringKind = 1 ∧ p.produced ≠ s.arg.index + 2 ^ p.ringLog) ∨ (p.ringKind = 2 ∧ sends))
      (¬ takes → s'.power.records = p.records ∧ s'.power.produced = p.produced) ∧ (¬ takes ∨ p.ringKind ≠ 1 → s'.mem = s.mem) ∧
      (takes →
        ∃ r, s'.power.records = r :: p.records ∧ s'.power.produced = p.seq + 1 ∧ r % 2 ^ 64 = s.now / 1000000 * 1000000 % 2 ^ 64 ∧
          r / 2 ^ 64 % 2 ^ 64 = p.seq % 2 ^ 64 ∧ r / 2 ^ 192 % 2 ^ 32 = s.arg.value % 2 ^ 32 ∧ r / 2 ^ 224 % 2 ^ 32 = w.estimate % 2 ^ 32 ∧
          r / 2 ^ 256 % 2 ^ 32 = p.target % 2 ^ 32 ∧ r / 2 ^ 352 % 2 ^ 32 = p.limit % 2 ^ 32 ∧
          (p.ringKind = 1 → p.ringBase + 64 + 64 * 2 ^ p.ringLog ≤ 2 ^ 52 →
            let top := memKey s.pkg 6 p.ringBase
            let place := top + 64 + 64 * (p.seq % 2 ^ p.ringLog)
            s'.readNum place 64 = r ∧ s'.readNum top 8 = (p.seq + 1) % 2 ^ 64 ∧
            ∀ k, (k < top ∨ top + 8 ≤ k) → (k < place ∨ place + 64 ≤ k) → s'.byte k = s.byte k)))

/-- 09 R207, 17 R302, R307 and R327, 26 R404, R405, R418 to R420: a write of RAS clears the fields it names; a plain register takes what is
written; the host reads a register in two halves, reads and writes memory, over CXL.mem too, and a violation freezes its function; the scrubber corrects a
word or finds it bad; a control fault takes a unit out of service; a 1588 message steers the clock. The model's own choices: what the
scrubber finds is an input (log 75); the message of a control fault, whose words for the unit are free (log 37), and what a Landing
out of service does to its graphs (log 53); how the clock is slewed (log 38); the key that a request of the host carries (log 51), and
what a register number without a register reads (log 31). -/
def Obligations.SystemEvents : Prop :=
  ∀ s : State, s.Tidy →
  let v := s.arg.value
  (∀ u, s.userOf s.arg.writer = some u →
    (u.priv = false → exec .rasClear s = .next s) ∧
    (u.priv = true → ∃ ras, exec .rasClear s = .next { s with ras := ras } ∧
      ras.cesram = (if v.testBit 48 then 0 else s.ras.cesram) ∧ ras.cehbm = (if v.testBit 32 then 0 else s.ras.cehbm) ∧
      ras.ue = (if v.testBit 24 then 0 else s.ras.ue) ∧ ras.resid = (if v.testBit 16 then 0 else s.ras.resid) ∧
      ras.lock = (if v.testBit 8 then 0 else s.ras.lock) ∧ ras.ctrl = (if v.testBit 0 then 0 else s.ras.ctrl)) ∧
    (u.priv = true → (s.ctx u.sel).mode = .suspended → s.arg.index2 = 0x21 → ∃ s', exec .systemRegisterWrite s = .next s' ∧
      s' = s.setCtx u.sel { s.ctx u.sel with regs := { (s.ctx u.sel).regs with ptroot := v / 4096 % 2 ^ 40 * 4096 } }) ∧
    (u.priv = true → (s.ctx u.sel).mode = .active →
      (s.arg.index2 = 0x21 → exec .systemRegisterWrite s = .next s) ∧
      (s.arg.index2 = 0x26 → exec .systemRegisterWrite s =
        .next (s.setCtx u.sel { s.ctx u.sel with regs := { (s.ctx u.sel).regs with limit := v % 2 ^ 32 } }))) ∧
    (u.priv = false → s.arg.index2 = 0x10 ∨ s.arg.index2 = 0x21 ∨ s.arg.index2 = 0x80 → exec .systemRegisterWrite s = .next s)) ∧
  (5 ≤ s.boot.stage → (∀ h ∈ s.hostFrozen, h.1 ≠ s.arg.index) →
    let r := s.arg.index
    let a := s.arg.addr
    let reads := if writeOnly (a / 8) then 0 else s.regValue { priv := true, ctx := 0, sel := s.hostCsel, slot := none } (a / 8)
    (a % 8 = 0 → exec .hostRegisterRead32 s = .next { s with
      hostLatch := Store.put none s.hostLatch r (some (a / 8, reads / 2 ^ 32)), hostOut := s.hostOut ++ [⟨r, true, reads % 2 ^ 32⟩] }) ∧
    (∀ h, a % 8 = 4 → Store.get none s.hostLatch r = some (a / 8, h) → exec .hostRegisterRead32 s = .next { s with
      hostLatch := Store.put none s.hostLatch r none, hostOut := s.hostOut ++ [⟨r, true, h⟩] }) ∧
    (∀ k, (s.arg.index2 = 0 ∧ k = a) ∨ (s.arg.index2 = 7 ∧ s.cxlMemKey a v = some k) →
      s.hostReaches k v = true → v ≤ 4096 → (∀ j, k ≤ j → j < k + v → s.poisoned j = false) →
      ∃ s', exec .hostRequest s = .next s' ∧ s'.hostOut = s.hostOut ++ [⟨r, true, s.readNum k v⟩] ∧ ∀ j, s'.byte j = s.byte j) ∧
    (∀ k, let n := s.arg.data.length
      (s.arg.index2 = 1 ∧ k = a) ∨ (s.arg.index2 = 8 ∧ s.cxlMemKey a n = some k) → s.hostReaches k n = true →
      (∀ j, k ≤ j → j < k + n → s.poisoned j = false) → s.tagsClear k n k n →
      ∃ s', exec .hostRequest s = .next s' ∧ s'.hostOut = s.hostOut ∧ s.bytesOutside s' k n ∧
        ∀ i x, s.arg.data[i]? = some x → s'.byte (k + i) = x) ∧
    (s.arg.index2 = 6 → let c := v % 4096
      ∃ s' e, exec .hostRequest s = .next s' ∧ s'.hostFrozen = s.hostFrozen ++ [(r, c)] ∧
        (s'.ctx c).messages = (s.ctx c).messages ++
          [⟨BitVec.ofNat 64 ((if s.arg.ok then 8 else 9) * 2 ^ 56 + 2 * 2 ^ 38) ++ BitVec.ofNat 64 (r % 2 ^ 16), e⟩] ∧
        e.toNat / 2 ^ 64 = a % 2 ^ 64 ∧ s'.mem = s.mem)) ∧
  ((∃ h ∈ s.hostFrozen, h.1 = s.arg.index) → s.arg.index2 ≤ 5 →
    exec .hostRequest s = .next (if s.arg.index2 % 2 = 0 then { s with hostOut := s.hostOut ++ [⟨s.arg.index, false, 0⟩] } else s)) ∧
  (let k := s.arg.addr
   keyTgt k < 4 → keyPkg k = s.pkg → s.beyond (keyTgt k) (keyPa k) = false → s.poisoned k = false →
    ∃ s', exec .scrubPass s = .next s' ∧ (∀ j, s'.byte j = s.byte j) ∧
      (s.arg.ok = true → s'.poisoned k = true ∧ s'.ras.ue = min 255 (s.ras.ue + 1)) ∧
      (s.arg.ok = false → s'.mem.single.mem (k / 8) = false ∧ s'.mem.poison = s.mem.poison)) ∧
  (let n := s.arg.index
   ∃ s', exec .controlFault s = .next s' ∧ s'.ras.ctrl = min 255 (s.ras.ctrl + 1) ∧
    (∃ m r, (s'.ctx 0).messages = r ++ [m] ∧ m.e0.toNat / 2 ^ 112 = 0x403) ∧
    (v = 0 → n < 3072 → (s'.core n).dead = true ∧ ∀ m t, slotCore m = n → s.thread m = some t → t.halted = false →
      ∃ u, s'.thread m = some u ∧ u.stopped = some ⟨4, 3, 0, 0⟩) ∧
    (v = 1 → n < 192 → s.arg.index2 ∈ (s'.grove n).dead) ∧
    (v = 2 → n < 4 → n ∈ s'.deadLandings)) ∧
  (s.arg.index < 4 → s.arg.index2 = s.ptpDomain →
    let x := signed 64 v
    let left := s.ptpHeld.del s.arg.index
    (s.arg.ok = false → left = [] → exec .ptpMessage s =
      .next { s with ptpHeld := [], ptpSync := false, slew := if s.ptpSync then 0 else s.slew }) ∧
    (∀ p r, s.arg.ok = false → left = p :: r → exec .ptpMessage s =
      .next { s with ptpHeld := left, ptpPort := if s.ptpPort = s.arg.index then p else s.ptpPort }) ∧
    (s.arg.ok = true → ∃ t : State, t = { s with ptpSync := true, ptpOnce := true, ptpPort := s.arg.index
                                                 ptpHeld := s.ptpHeld.add s.arg.index, ptpOffset := (x % 2 ^ 32).toNat } ∧
      (s.ptpOnce = true ∨ s.graphs ≠ [] ∨ s.nextGraph ≠ 0 ∨ (-1000000 ≤ x ∧ x ≤ 1000000) → exec .ptpMessage s = .next { t with slew := x }) ∧
      (s.ptpOnce = false → s.graphs = [] → s.nextGraph = 0 → x < -1000000 ∨ 1000000 < x →
        exec .ptpMessage s = .next { t.stepClock x with slew := 0 } ∧ (t.stepClock x).now = (s.now + x).toNat)))

/-- 25 R394 to R400: a link trains to its full or half width or goes down, loses lanes and is retrained; a flit is taken, acknowledges
what the replay buffer holds and may ask for its replay, or is counted and its replay awaited; a packet is delivered from an accepted
flit alone; the request of a peer package is performed once, in the order of its class, a 16-byte access whole or by halves, and its reply
kept until it is acknowledged; a reply completes its request, one that is late is sent again, and after eight times it is a data error.
The model's own choices: what RETRY counts, one packet in each flit sent (log 90) and a flit of another LSEQ that moves no counter (log
42); packets as inputs, and which missing SEQs are of other classes (logs 45, 91); a full reply cache (log 44); a duplicate of a request
that waits (log 46); and when the timer of a request runs (log 41). -/
def Obligations.LinkEvents : Prop :=
  ∀ s : State, s.Tidy →
  let n := s.arg.index
  let v := s.arg.value
  let l := s.link n
  let w := linkLanes n
  let sets := fun (i : Instr) (x : Link) => exec i s = .next (s.setLink n x)
  (n < 10 → 5 ≤ s.boot.stage → l.state = 0 →
    (w ≤ v → sets .linkTrainingEnd { l with state := 1, lanes := w }) ∧
    (v < w → w ≤ 2 * v → sets .linkTrainingEnd { l with state := 2, lanes := w / 2 }) ∧
    (2 * v < w → sets .linkTrainingEnd { l with state := 3, lanes := 0, since := s.now })) ∧
  (l.state = 1 → sets .laneFailure { l with state := 2, lanes := w / 2 }) ∧
  (l.state = 1 ∨ l.state = 2 → sets .linkLoss { l with state := 3, lanes := 0, since := s.now }) ∧
  (l.state = 3 → l.since + 10000000 ≤ s.now → sets .linkRetrain { l with state := 0 }) ∧
  (l.state = 2 → sets .degradedRetrain { l with state := 1, lanes := w }) ∧
  (l.state = 1 ∨ l.state = 2 →
    (s.arg.ok = true → n < 4 → v = l.expect → ∃ left,
      let x := { l with expect := (l.expect + 1) % 2 ^ 32, replay := false, holds := flitPackets, buffer := left }
      (∀ a f b, l.buffer = a ++ f :: b → f.lseq = s.arg.addr → (∀ y ∈ a, y.lseq ≠ s.arg.addr) → left = b) ∧
      ((∀ y ∈ l.buffer, y.lseq ≠ s.arg.addr) → left = l.buffer) ∧
      sets .flitReceive (if s.arg.index2 = 1 then
        { x with line := l.line ++ left.map fun f => .flit f.lseq, retry := min 65535 (l.retry + 1) } else x)) ∧
    (s.arg.ok = true → n < 4 → v ≠ l.expect → sets .flitReceive l) ∧
    (s.arg.ok = true → 4 ≤ n → exec .flitReceive s = .next s) ∧
    (s.arg.ok = false → n < 4 → sets .flitReceive { l with
      crcerr := min 65535 (l.crcerr + 1), replay := true, retry := if l.replay then l.retry else min 65535 (l.retry + 1), holds := 0
      line := l.line ++ [.report ((l.expect + 2 ^ 32 - 1) % 2 ^ 32)] }) ∧
    (s.arg.ok = false → 4 ≤ n → sets .flitReceive { l with crcerr := min 65535 (l.crcerr + 1) })) ∧
  (let seq := s.arg.index2
   let r : InRequest := { src := n, seq, cls := s.arg.peer.class (v % 2 == 1), op := s.arg.peer, alone := v / 2 % 2 == 1 }
   let half := Store.get none s.farHalf (n * 2 ^ 16 + seq)
   let kept := (s.replies.filter fun r => r.src == n).length
   let full := 64 ≤ kept
   let s0 := s.deliver s.arg.addr
   (s.delivers s.arg.addr = false → exec .packetRequest s = .next s) ∧
   (s.delivers s.arg.addr = true → n ≠ s.pkg → n < 4096 → seq < 65536 →
    (s.savedReply n seq ≠ none → exec .packetRequest s = .next (s0.sendPacket n (.reply n seq))) ∧
    (s.savedReply n seq = none → half = none → s.seen n seq = true ∨ full → exec .packetRequest s = .next s0) ∧
    (s.savedReply n seq = none → half = none → s.seen n seq = false → ¬ full → s.arrived = [] → s.seenAhead n = [] → r.alone = false →
      seq = (Store.get 0 s.seenTo n + 1) % 2 ^ 16 → ∃ s', exec .packetRequest s = .next s' ∧ s'.arrived = [r] ∧ s'.replies = s.replies ∧
        s'.mem = s.mem ∧ s'.slots = s.slots) ∧
    (s.savedReply n seq = none → half = none → s.seen n seq = false → ¬ full → s.arrived = [] → (∀ e ∈ s.farHalf, e.1 / 2 ^ 16 ≠ n) →
      r.alone = true ∨ (Store.get 0 s.seenTo n = seq ∧ s.seenAhead n = []) →
      (∀ ok status x s1, ({ s0.see n seq with arrived := [] } : State).peerPerform n seq s.arg.peer = (.reply ok status x, s1) →
        exec .packetRequest s = .next (s1.saveReply n seq ok status x) ∧ (s1.saveReply n seq ok status x).savedReply n seq ≠ none) ∧
      (∀ a, s.arg.peer = .access a → s.isLocal a.key = true →
        (a.halves = true → s.arg.ok = false ∧ a.key % 16 = 0) →
        (a.op = .load → s.badWord a false = none → ∃ s', exec .packetRequest s = .next s' ∧ (∀ j, s'.byte j = s.byte j) ∧
          s'.replies = s.replies ++ [⟨n, seq, true, 0, s.readNum a.key a.size⟩]) ∧
        (∀ k, a.halves = false → a.op = .load → s.badWord a false = some k → ∃ s', exec .packetRequest s = .next s' ∧
          (∀ j, s'.byte j = s.byte j) ∧ s'.replies = s.replies ++ [⟨n, seq, false, 0, 0⟩]) ∧
        (a.op = .store → s.badWord a true = none → (∀ i, i < a.size → ∀ w ∈ a.words, ¬ s.isTagByte w.1 (a.key + i)) →
          ∃ s', exec .packetRequest s = .next s' ∧ s.bytesOutside s' a.key a.size ∧
          ∀ i, i < 2 * a.size → lane (s'.readNum a.key a.size) 4 i =
            if bit a.mask.toNat i then lane a.data.bits.toNat 4 i else lane (s.readNum a.key a.size) 4 i)) ∧
      (∀ a, s.arg.peer = .access a → s.isLocal a.key = true → a.op = .load → a.size = 16 → a.key % 16 = 0 → s.badWord a false = none →
        s.arg.ok = true → ∃ s', exec .packetRequest s = .next s' ∧
          Store.get none s'.farHalf (n * 2 ^ 16 + seq) = some (s.readNum a.key 8, true) ∧ s'.replies = s.replies)) ∧
    (∀ a low, s.arg.peer = .access a → s.isLocal a.key = true → a.op = .load → a.size = 16 → a.key % 16 = 0 → s.badWord a false = none →
      s.savedReply n seq = none → s.arrived = [] → Store.rising s.farHalf = true → half = some (low, true) →
      ∃ s', exec .packetRequest s = .next s' ∧ Store.get none s'.farHalf (n * 2 ^ 16 + seq) = none ∧
        s'.replies = s.replies ++ [⟨n, seq, true, 0, low + 2 ^ 64 * s.readNum (a.key + 8) 8⟩]))) ∧
  (s.delivers s.arg.addr = false → exec .replyAck s = .next s ∧ exec .packetReply s = .next s) ∧
  (s.delivers s.arg.addr = true → ∃ s', exec .replyAck s = .next s' ∧ s'.savedReply n s.arg.index2 = none ∧
    (s'.link s.arg.addr).holds = (s.link s.arg.addr).holds - 1 ∧
    ∀ r ∈ s.replies, (r.src ≠ n ∨ r.seq ≠ s.arg.index2) → r ∈ s'.replies) ∧
  (∀ r, s.sentRequest n = some r →
    let closed := fun (s' : State) => ∀ x, x ∈ s'.requests ↔ x ∈ s.requests ∧ x.id ≠ n
    (∀ m t a e, r.who = .thread m → s.thread m = some t → t.wait = .remote a e → t.request = none →
      (s.delivers s.arg.addr = true → s.arg.index2 ≠ 4 → s.arg.ok = true → a.op = .load → v < 2 ^ (8 * a.size) → v < 2 ^ 128 → ∃ s', exec .packetReply s = .next s' ∧ closed s' ∧
        s'.mem = s.mem ∧ s'.thread m = some { t.complete e a v false with wait := .none }) ∧
      (s.delivers s.arg.addr = true → s.arg.index2 ≠ 4 → s.arg.ok = false → ∃ s' t', exec .packetReply s = .next s' ∧ r ∉ s'.requests ∧ s'.thread m = some t' ∧
        t'.stopped = some ⟨4, 0, 0, 0⟩ ∧ t'.pc = t.pc ∧ t'.q = t.q) ∧
      (r.since + 100000 ≤ s.now → 8 ≤ r.tries → ∃ s' t', exec .retransmitTimeout s = .next s' ∧ r ∉ s'.requests ∧
        s'.thread m = some t' ∧ t'.stopped = some ⟨4, 2, 0, 0⟩ ∧ t'.pc = t.pc ∧ t'.q = t.q)) ∧
    (r.since + 100000 ≤ s.now → r.tries < 8 → ∃ s', exec .retransmitTimeout s = .next s' ∧ s'.slots = s.slots ∧ s'.mem = s.mem ∧
      s'.sentRequest n = some { r with tries := r.tries + 1, since := s.now } ∧
      ∀ g, s.routeTo r.dest = some g → (s'.link g).e2e = min 65535 ((s.link g).e2e + 1) ∧
        (s'.link g).buffer = (s.link g).buffer ++ [⟨(s.link g).lseq, .request n⟩] ∧
        (s'.link g).line = (s.link g).line ++ [.flit (s.link g).lseq]))

/-- 28 R433 to R439 and 26 R440: at power-on the stages follow one another as far as the one that fails, whose number BOOTSTAT then shows and
which opens the window for an image or a record; from stage 1 on the identity key is derived, the same at every reset; a record in force gives the package its numbers and its first target; the doorbell starts a
verification, whose end goes on with the stages or refuses; an SPDM request is answered from stage 5 on, and Busy before. The model's own
choices: the outcome of a verification, the fields of a record and the certificate are inputs, and the key derivation and the signature
are opaque (log 52); the order of SPDM's requests, the capability flags and the measurement indexes 0 and 0xFF are taken from SPDM 1.3
(log 98, PRESUMED). -/
def Obligations.BootEvents : Prop :=
  ∀ s : State,
  let a := s.arg
  let f := a.index2
  let demand := (demandsOf a.addr).foldl (· + ·) 0
  let booted := fun (s' : State) =>
    s'.boot.stage = 5 ∧ s'.boot.err = 0 ∧ s'.pkg = a.cfg.pkg ∧ s'.domain = a.cfg.domain ∧ s'.cxlDram = a.cfg.cxlDram ∧
    s'.cxlFlash = a.cfg.cxlFlash ∧ s'.hbmFree = a.cfg.hbmPages ∧ s'.power.limit = a.cfg.limit ∧ s'.power.ramp = a.cfg.ramp ∧
    s'.power.fixed = a.cfg.fixed ∧ s'.power.k = 0x1000 ∧
    s'.power.target = min demand (min (a.cfg.fixed.foldl (· + ·) 0 + a.cfg.ramp) (92 * a.cfg.limit / 100))
  (∃ s', exec .powerOnReset s = .next s' ∧ s'.mem = Memory.empty ∧ s'.slots = [] ∧ s'.ctxs = State.reset.ctxs ∧
    s'.boot.certificate = a.data.drop 104 ∧
    s'.boot.key = (if f = 1 then none else some ⟨Config.identityPrivate Config.puf, Config.identityPublic Config.puf⟩) ∧
    (f = 1 → s'.boot.stage = 0 ∧ s'.boot.err = 1 ∧ s'.boot.window = false) ∧
    (f = 2 ∨ (f ≠ 1 ∧ a.value < s.boot.fused) → s'.boot.stage = 1 ∧ s'.boot.err = 2 ∧ s'.boot.window = true ∧ s'.boot.fused = s.boot.fused) ∧
    (s.boot.fused ≤ a.value →
      (f ≠ 1 → f ≠ 2 → s'.boot.fwver = a.value ∧ s'.boot.fused = if a.index = 1 then a.value else s.boot.fused) ∧
      (f = 3 ∨ (f ≠ 1 ∧ f ≠ 2 ∧ a.cfg.ok = false) → s'.boot.stage = 2 ∧ s'.boot.err = 3 ∧ s'.boot.window = true) ∧
      (f = 4 → a.cfg.ok = true → s'.boot.stage = 3 ∧ s'.boot.err = 4 ∧ s'.boot.window = false) ∧
      (f = 0 ∨ 4 < f → a.cfg.ok = true → booted s'))) ∧
  (∀ i v stage, (i = Instr.recoveryFirmware ∧ v = 1 ∧ stage = 2) ∨ (i = .recoveryConfig ∧ v = 2 ∧ stage = 3) →
    (s.boot.window = true → s.boot.result ≠ 1 → s.boot.failed = stage →
      exec i s = .next { s with boot := { s.boot with doorbell := v, result := 1 } }) ∧
    (s.boot.window = true → s.boot.result ≠ 1 → s.boot.failed ≠ stage → exec i s = .next { s with boot := { s.boot with result := 4 } }) ∧
    (s.boot.window = false ∨ s.boot.result = 1 → exec i s = .next s)) ∧
  (s.boot.result = 1 →
    let fits := a.ok = true ∧ 1 ≤ s.boot.length ∧ s.boot.length ≤ 67104768
    (¬ fits → exec .recoveryVerifyEnd s = .next { s with boot := { s.boot with doorbell := 0, result := 3 } }) ∧
    (s.boot.doorbell = 1 → a.value < s.boot.fused →
      exec .recoveryVerifyEnd s = .next { s with boot := { s.boot with doorbell := 0, result := 3 } }) ∧
    (fits → s.boot.doorbell = 1 → s.boot.fused ≤ a.value → ∃ s', exec .recoveryVerifyEnd s = .next s' ∧ s'.boot.result = 2 ∧
      s'.boot.doorbell = 0 ∧ s'.boot.src = 1 ∧ s'.boot.fwver = a.value ∧
      (f ≠ 3 → f ≠ 4 → a.cfg.ok = true → booted s') ∧ (f = 3 ∨ a.cfg.ok = false → s'.boot.stage = 2 ∧ s'.boot.err = 3)) ∧
    (s.boot.doorbell ≠ 1 → a.cfg.ok = false → exec .recoveryVerifyEnd s = .next { s with boot := { s.boot with doorbell := 0, result := 3 } }) ∧
    (fits → s.boot.doorbell = 2 → a.cfg.ok = true → ∃ s', exec .recoveryVerifyEnd s = .next s' ∧ s'.boot.result = 2 ∧
      (f ≠ 4 → booted s') ∧ (f = 4 → s'.boot.stage = 3 ∧ s'.boot.err = 4))) ∧
  (let step := s.boot.spdmStep
   let signed := Config.signature ((s.boot.key.map (·.secretHalf)).getD 0) a.value (Config.free s.fresh)
   let measured : Option (List Nat) := match a.index with
     | 0 => some [3] | 1 => some [s.boot.imageDigest] | 2 => some [s.boot.recordDigest] | 3 => some [s.boot.romver, s.boot.fused]
     | 0xFF => some [s.boot.imageDigest, s.boot.recordDigest, s.boot.romver, s.boot.fused] | _ => none
   ∀ i code lo hi next free v, (i, code, lo, hi, next, free, v) ∈ ([
       (.getVersion, 1, 0, 3, 1, 0, some [0x13]), (.getCapabilities, 2, 1, 2, 2, 0, some [0x16]),
       (.negotiateAlgorithms, 3, 2, 3, if a.ok then 3 else 2, 0, some (if a.ok then [384, 384] else [0, 0])),
       (.getCertificate, 4, 3, 3, 3, 1, some [Config.free s.fresh, numOf s.boot.certificate]), (.challenge, 5, 3, 3, 3, 1, some [signed]),
       (.getMeasurements, 6, 3, 3, 3, 1, measured.map fun l => if a.ok then l ++ [signed] else l)] :
       List (Instr × Nat × Nat × Nat × Nat × Nat × Option (List Nat))) →
     let answers := fun (n k : Nat) (l : List Nat) => exec i s = .next { s with fresh := s.fresh + free, boot := { s.boot with
       spdmStep := n, spdm := s.boot.spdm ++ [(code, k, l)] } }
     (s.boot.stage < 5 → answers step 0 []) ∧
     (5 ≤ s.boot.stage → step < lo ∨ hi < step → answers step 2 []) ∧
     (5 ≤ s.boot.stage → lo ≤ step → step ≤ hi → v = none → answers step 3 []) ∧
     ∀ l, 5 ≤ s.boot.stage → lo ≤ step → step ≤ hi → v = some l → answers next 1 l)

/-! ## The whole machine -/

/-- 06 R99 to R111: decoding the bytes of a well-formed instruction gives that instruction, whatever follows them; and what the decoder accepts
is well-formed and stands in the bytes as the encoder writes it. -/
def Obligations.DecodeRoundTrip : Prop :=
  (∀ i r e rest, i.row = some (r, e) → i.wf = true → decode (encodeBytes i ++ rest) = .ok i) ∧
  (∀ bytes i, decode bytes = .ok i → i.wf = true ∧ i.row ≠ none ∧ encodeBytes i = bytes.take (encodeBytes i).length)

/-- 06 R99 and R101: what a few words decode to: `fma q5, q6, q7`; `fadd.f32 q11, q10, q12`; `cmp.lt.ui32.and p4, q1, q2`; `call` of 20 words on;
`ret`; `cinc q6, q1, 64`; `qstat q5, 9`; and a reserved opcode is none. -/
def Obligations.SampleWords : Prop :=
  decodeWords [0x3FD194C7] = .ok (.fma (Fields.oneWord 0xFF 5 6 7)) ∧
  decodeWords [0x7FD02D4C, 0x00009000, 0] = .ok (.faddX
    { form := .ext, g := 0xFF, d := 11, a := 10, b := 12, c := 0, xop := 0, ty := 9, mod := 0, imm := 0, lit := 0 }) ∧
  decodeWords [0x7FD81022, 0x04807000, 0] = .ok (.cmp
    { form := .ext, g := 0xFF, d := 4, a := 1, b := 2, c := 0, xop := 18, ty := 7, mod := 0, imm := 0, lit := 0 }) ∧
  decodeWords [0x3FDD0014] = .ok (.call (Fields.oneWord 0xFF 0 0 20)) ∧
  decodeWords [0x3FDE03E0] = .ok (.ret (Fields.oneWord 0xFF 0 31 0)) ∧
  decodeWords [0xBFE91820, 0x40, 0] = .ok (.cincX
    { form := .lit, g := 0xFF, d := 6, a := 1, b := 0, c := 0, xop := 0, ty := 0, mod := 0, imm := 0, lit := 64 }) ∧
  decodeWords [0xFFF89400, 0x01400000, 0, 9, 0] = .ok (.qstat
    { form := .extLit, g := 0xFF, d := 5, a := 0, b := 0, c := 0, xop := 5, ty := 0, mod := 0, imm := 0, lit := 9 }) ∧
  decodeWords [0x3FFC0000] = .error (.cause 1)

/-- 06 R111, 02 R27 and R29: the turn of a core's cycle goes to slot (cycle mod 16), once, or is lent. Where the thread that takes it is
claimed by no debug stop and no breakpoint, the bytes at its PC are fetched, and the instruction they decode to is executed, with its
charge, counts and sample after it, but for a long one in a lent turn; bytes that are no instruction stop the thread as illegal with their
cause, a fetch fault with a translation fault, an error in them with a data error; a turn that no thread may take is a bubble; and a step
with an event executes it. That the next mover is the head of an agenda is the model's choice (log 1). -/
def Obligations.StepRunsInstruction : Prop :=
  ∀ (s : State) (x : Input) (r : List Input), s.agenda = x :: r →
  let later := (x.hits.foldl State.hitWord { s with agenda := r, busy := x.busy }).elapse x.elapsed
  (∀ core o, x.move = .turn core o →
    let c := later.cycle core
    let n := core * 16 + c % 16
    let s0 : State := { later.setCore core { later.core core with taken := c + 1 } with opts := o }
    let s1 := (s0.finishOwn n).finishOwn (lender n)
    let runs := fun (m : Nat) (lent : Bool) (s2 : State) => ∀ t, s2.thread m = some t → t.debugStop = false → o.ecc = 0 →
      (t.skipBp = true ∨ ∀ i, i < 8 → ¬ s2.breakMatches t i) →
      (∀ l buf s3, s2.fetch m t = (.bytes l buf, s3) →
        (∀ i, decode l = .ok i → lent = true → isLong i = true → step s = .next (State.settleStep s (s3.noteBubble n))) ∧
        (∀ i, decode l = .ok i → lent = false ∨ isLong i = false → t.pair = false →
          let t' := { t with wait := .none, fbuf := buf, lost := false, marked := false
                             mismatch := if t.mismatch = some t.pc then none else t.mismatch
                             dist := if t.reissue then t.dist else min 65535 (t.dist + 1) }
          ∀ s', exec i { s3.setThread m t' with spent := 0, cur := m } = .next s' →
            step s = .next (State.settleStep s (State.afterIssue s3 s' m t i lent n))) ∧
        (∀ c, decode l = .error (.cause c) → step s = .next (State.settleStep s ((s3.stopThread m 1 c 0 0 0).noteBubble n)))) ∧
      (∀ c d a s3, s2.fetch m t = (.fault c d a, s3) →
        step s = .next (State.settleStep s ((s3.stopThread m 3 c d 0 a).noteBubble n))) ∧
      (∀ a s3, s2.fetch m t = (.bad a, s3) →
        step s = .next (State.settleStep s ((s3.take m (.data 0 a (s3.ownCode m t a))).noteBubble n))) ∧
      (∀ y, t.pc.toNat % 4 = 0 → t.fbuf = [] → t.pc.toNat < 2 ^ 57 → s2.opts.late = false → t.absent = none →
        let block := t.pc.toNat / 64 * 64
        let off := t.pc.toNat % 64
        tlbFind (s2.grove (slotGrove m)).tlb t.ctx block = some y → s2.reaches y block = true → fetchable y.leaf = true →
        let key := y.key block
        let len := lengthOf (s2.byte (key + off + 3))
        off + len ≤ 64 →
        (s2.servedBy (slotGrove m) t.ctx block = none ∧ s2.isLocal key = true ∧
            ∀ j, key ≤ j → j < key + 64 → s2.poisoned j = false) ∨
          (∃ q i, s2.servedBy (slotGrove m) t.ctx block = some (q, i) ∧
            ∀ j, j < 8 → q.code[i + j]? = some (s2.readNum (key + 8 * j) 8, false)) →
        ∃ buf s3, s2.fetch m t = (.bytes (s2.readBytes (key + off) len) buf, s3) ∧ ∀ j, s3.byte j = s2.byte j)
    (c < (later.core core).taken → step s = .next (State.settleStep s later)) ∧
    ((later.core core).taken ≤ c → s1.ready n = false → s1.mayBorrow n = false →
      step s = .next (State.settleStep s (s1.noteBubble n))) ∧
    ((later.core core).taken ≤ c → s1.ready n = true → runs n false { s1 with cur := n }) ∧
    ((later.core core).taken ≤ c → s1.ready n = false → s1.mayBorrow n = true →
      runs (lender n) true { s1 with opts := { s1.opts with late := s1.opts.lateLent }, cur := lender n })) ∧
  (∀ i a, x.move = .event i a → i.row = none → isEvent i = true → ∀ s', exec i { later with arg := a } = .next s' →
    step s = .next (State.settleStep s s'))

/-- 28 R433 and the Reset columns of 25 R395, 26 R405, R406, R415 and R420, 27 R422, R429 and R430 and 28 R439, 17 R295 and R298: after power-on
no slot holds a thread, context 0 alone exists and holds system privilege, and the registers read as those columns say. The values that
no column gives are the model's (log 12 for context 0's tracks, log 3 for memory); the tables are in order. -/
def Obligations.ResetState : Prop :=
  let s := State.reset
  s.Tidy ∧ (∀ n, s.slot n = Slot.empty) ∧ (∀ k, s.queue k = Queue.empty) ∧ (∀ k, s.byte k = unwrittenByte) ∧
  (s.ctx 0).mode = .active ∧ (s.ctx 0).sys = true ∧ (∀ c, c ≠ 0 → (s.ctx c).mode = .none) ∧ s.conts = [] ∧ s.graphs = [] ∧
  ∀ u : RegUser, s.regValue u 0xF0 = 0 ∧ s.regValue u 0x78 = 0 ∧ s.regValue u 0x68 = 0x1000 * 2 ^ 24 ∧ s.regValue u 0x60 = 0 ∧
    s.regValue u 0x98 = 0xC00 ∧ s.regValue u 0x99 = 0xC00 ∧ (∀ i, i < 10 → s.regValue u (0x50 + i) = 0) ∧
    (∀ i, i < 6 → s.regValue u (0x70 + i) = 0) ∧ (∀ i, i < 8 → s.regValue u (0x89 + 2 * i) = 0)

/-- Every step keeps the tables in order and memory in its canonical form, from any state that has them so. -/
def Obligations.TidyKept : Prop := ∀ s s' : State, s.Tidy → step s = .next s' → s'.Tidy
end

