-- ==== Sys2Proof/Laws/Lanes.lean ====
section
/-!
SUPPORT. Lanes: reading a lane of a register that has been computed lane by lane, merged under a mask or written in one lane.
-/
namespace Sys2Proof.Machine

theorem testBit_lane (v w l i : Nat) : (lane v w l).testBit i = (decide (i < w) && v.testBit (w * l + i)) := by
  simp [lane, Nat.testBit_mod_two_pow, Nat.testBit_div_two_pow, Nat.add_comm]

theorem lane_lt (v w l : Nat) : lane v w l < 2 ^ w := Nat.mod_lt _ (Nat.two_pow_pos w)

/-- A lane below bit 128 does not see what is cut off above. -/
theorem lane_mod (v w l n : Nat) (h : w * l + w ≤ n) : lane (v % 2 ^ n) w l = lane v w l := by
  apply Nat.eq_of_testBit_eq; intro i
  rw [testBit_lane, testBit_lane, Nat.testBit_mod_two_pow]
  by_cases hi : i < w
  · have : w * l + i < n := by omega
    simp [this]
  · simp [hi]

theorem lane_ofNat (v w l : Nat) (h : w * l + w ≤ 128) : lane (BitVec.ofNat 128 v).toNat w l = lane v w l := by
  rw [BitVec.toNat_ofNat, lane_mod _ _ _ _ h]

/-- The number packed from `n` values of `w` bits. -/
def packed (w : Nat) (f : Nat → Nat) : Nat → Nat
  | 0 => 0
  | n + 1 => packed w f n + f n % 2 ^ w * 2 ^ (w * n)

theorem packed_lt (w : Nat) (f : Nat → Nat) (n : Nat) : packed w f n < 2 ^ (w * n) := by
  induction n with
  | zero => simp [packed]
  | succ n ih =>
    have h1 : f n % 2 ^ w + 1 ≤ 2 ^ w := Nat.mod_lt _ (Nat.two_pow_pos w)
    have h2 : (f n % 2 ^ w + 1) * 2 ^ (w * n) ≤ 2 ^ w * 2 ^ (w * n) := Nat.mul_le_mul_right _ h1
    have h3 : 2 ^ (w * (n + 1)) = 2 ^ w * 2 ^ (w * n) := by rw [← Nat.pow_add]; ring_nf
    simp only [packed]; rw [h3]; rw [Nat.add_mul, Nat.one_mul] at h2; omega

theorem lane_packed (w : Nat) (f : Nat → Nat) (n l : Nat) (h : l < n) : lane (packed w f n) w l = f l % 2 ^ w := by
  induction n with
  | zero => omega
  | succ n ih =>
    simp only [packed, lane]
    rcases Nat.lt_succ_iff_lt_or_eq.1 h with h | rfl
    · have e : f n % 2 ^ w * 2 ^ (w * n) = 2 ^ (w * l) * (2 ^ w * (f n % 2 ^ w * 2 ^ (w * (n - l - 1)))) := by
        have : w * n = w * l + w + w * (n - l - 1) := by
          obtain ⟨k, rfl⟩ : ∃ k, n = l + 1 + k := ⟨n - l - 1, by omega⟩
          rw [show l + 1 + k - l - 1 = k by omega]; ring
        rw [this, Nat.pow_add, Nat.pow_add]; ring
      rw [e, Nat.add_mul_div_left _ _ (Nat.two_pow_pos _), Nat.add_mul_mod_self_left]
      exact ih h
    · rw [Nat.add_mul_div_right _ _ (Nat.two_pow_pos _), Nat.div_eq_of_lt (packed_lt w f l), Nat.zero_add, Nat.mod_mod]

theorem mapLanes_eq (w : Nat) (f : Nat → Nat) : mapLanes w f = packed w f (128 / w) := by
  unfold mapLanes
  generalize 128 / w = n
  induction n with
  | zero => rfl
  | succ n ih => simp only [loopUp, packed, ih]

theorem lane_mapLanes (w : Nat) (f : Nat → Nat) (l : Nat) (h : l < 128 / w) : lane (mapLanes w f) w l = f l % 2 ^ w := by
  rw [mapLanes_eq, lane_packed _ _ _ _ h]

/-- Writing a lane: that lane is the value, cut to its width. -/
theorem lane_setLane_self (v w l x : Nat) : lane (setLane v w l x) w l = x % 2 ^ w := by
  have hd : v = 2 ^ (w * l) * (2 ^ w * (v / 2 ^ (w * l) / 2 ^ w) + lane v w l) + v % 2 ^ (w * l) := by
    simp only [lane]; rw [Nat.div_add_mod, Nat.div_add_mod]
  have hm : v % 2 ^ (w * l) < 2 ^ (w * l) := Nat.mod_lt _ (Nat.two_pow_pos _)
  have : v - lane v w l * 2 ^ (w * l) = 2 ^ (w * l) * (2 ^ w * (v / 2 ^ (w * l) / 2 ^ w)) + v % 2 ^ (w * l) := by
    rw [Nat.mul_add, Nat.mul_comm (2 ^ (w * l)) (lane v w l)] at hd; omega
  unfold setLane
  rw [this]
  simp only [lane]
  rw [show 2 ^ (w * l) * (2 ^ w * (v / 2 ^ (w * l) / 2 ^ w)) + v % 2 ^ (w * l) + x % 2 ^ w * 2 ^ (w * l) =
    2 ^ (w * l) * (2 ^ w * (v / 2 ^ (w * l) / 2 ^ w) + x % 2 ^ w) + v % 2 ^ (w * l) by ring]
  rw [Nat.mul_add_div (Nat.two_pow_pos _), Nat.div_eq_of_lt hm, Nat.add_zero, Nat.mul_add_mod, Nat.mod_mod]

theorem testBit_setLane_other (v w l x i : Nat) (h : i < w * l ∨ w * l + w ≤ i) :
    (setLane v w l x).testBit i = v.testBit i := by
  have hd : v = 2 ^ (w * l) * (2 ^ w * (v / 2 ^ (w * l) / 2 ^ w) + lane v w l) + v % 2 ^ (w * l) := by
    simp only [lane]; rw [Nat.div_add_mod, Nat.div_add_mod]
  have hm : v % 2 ^ (w * l) < 2 ^ (w * l) := Nat.mod_lt _ (Nat.two_pow_pos _)
  have e : setLane v w l x = 2 ^ (w * l) * (2 ^ w * (v / 2 ^ (w * l) / 2 ^ w) + x % 2 ^ w) + v % 2 ^ (w * l) := by
    have : v - lane v w l * 2 ^ (w * l) = 2 ^ (w * l) * (2 ^ w * (v / 2 ^ (w * l) / 2 ^ w)) + v % 2 ^ (w * l) := by
      rw [Nat.mul_add, Nat.mul_comm (2 ^ (w * l)) (lane v w l)] at hd; omega
    unfold setLane; rw [this]; ring
  rw [e]
  rcases h with h | h
  · rw [Nat.testBit_two_pow_mul_add _ hm, if_pos h, Nat.testBit_mod_two_pow]; simp [h]
  · rw [Nat.testBit_two_pow_mul_add _ hm, if_neg (by omega),
      Nat.testBit_two_pow_mul_add _ (Nat.mod_lt _ (Nat.two_pow_pos w)), if_neg (by omega),
      Nat.testBit_div_two_pow, Nat.testBit_div_two_pow]
    congr 1; omega

theorem lane_setLane_other (v w l j x : Nat) (h : j ≠ l) : lane (setLane v w l x) w j = lane v w j := by
  apply Nat.eq_of_testBit_eq; intro i
  rw [testBit_lane, testBit_lane]
  by_cases hi : i < w
  · rw [testBit_setLane_other]
    rcases Nat.lt_or_gt_of_ne h with h | h
    · left; have := Nat.mul_le_mul_left w (show j + 1 ≤ l from h); rw [Nat.mul_add, Nat.mul_one] at this; omega
    · right; have := Nat.mul_le_mul_left w (show l + 1 ≤ j from h); rw [Nat.mul_add, Nat.mul_one] at this; omega
  · simp [hi]

theorem lane_merge_loop (old new mask n i : Nat) :
    lane (loopUp n (fun i v => if bit mask i then setLane v 4 i (lane new 4 i) else v) old) 4 i =
      if decide (i < n) && bit mask i then lane new 4 i else lane old 4 i := by
  induction n with
  | zero => simp [loopUp]
  | succ n ih =>
    simp only [loopUp]
    by_cases hn : i = n
    · subst hn
      by_cases hb : bit mask i = true
      · simp [hb, lane_setLane_self]; exact lane_lt new 4 i
      · simp only [hb]; simp; rw [ih]; simp [hb]
    · have h2 : decide (i < n + 1) = decide (i < n) := by simp; omega
      rw [h2, ← ih]
      split
      · rw [lane_setLane_other _ _ _ _ _ hn]
      · rfl

/-- A merge takes the nibbles of its mask. -/
theorem lane_mergeNibbles (old new mask i : Nat) (h : i < 32) :
    lane (mergeNibbles old new mask) 4 i = if bit mask i then lane new 4 i else lane old 4 i := by
  unfold mergeNibbles; rw [lane_merge_loop]; simp [h]

/-- Two numbers agree in a lane when they agree in its nibbles. -/
theorem lane_ext (a b q l : Nat) (h : ∀ j, j < q → lane a 4 (l * q + j) = lane b 4 (l * q + j)) :
    lane a (4 * q) l = lane b (4 * q) l := by
  apply Nat.eq_of_testBit_eq; intro i
  rw [testBit_lane, testBit_lane]
  by_cases hi : i < 4 * q
  · have := congrArg (fun v => v.testBit (i % 4)) (h (i / 4) (by omega))
    simp only [testBit_lane] at this
    have h4 : i % 4 < 4 := Nat.mod_lt _ (by decide)
    have e : 4 * (l * q + i / 4) + i % 4 = 4 * q * l + i := by
      rw [Nat.mul_add, show 4 * (l * q) = 4 * q * l by ring]; omega
    simpa [h4, hi, e] using this
  · simp [hi]

theorem bit_maskLoop (c : Nat → Bool) (n i : Nat) :
    bit (loopUp n (fun i m => if c i then m + 2 ^ i else m) 0) i = (decide (i < n) && c i) := by
  have key : ∀ n, loopUp n (fun i m => if c i then m + 2 ^ i else m) 0 < 2 ^ n ∧
      ∀ i, (loopUp n (fun i m => if c i then m + 2 ^ i else m) 0).testBit i = (decide (i < n) && c i) := by
    intro n
    induction n with
    | zero => simp [loopUp]
    | succ n ih =>
      simp only [loopUp]
      generalize loopUp n (fun i m => if c i then m + 2 ^ i else m) 0 = v at ih
      refine ⟨?_, fun i => ?_⟩
      · split <;> rw [Nat.pow_succ] <;> omega
      · by_cases hn : c n = true
        · simp only [hn, if_true]
          have e : v + 2 ^ n = 2 ^ n * 1 + v := by omega
          rw [e, Nat.testBit_two_pow_mul_add _ ih.1]
          by_cases hi : i < n
          · simp [hi, ih.2, Nat.lt_succ_of_lt hi]
          · simp only [hi, if_false]
            by_cases h2 : i = n
            · subst h2; simp [hn]
            · have : i - n ≠ 0 := by omega
              rw [show (1 : Nat) = 2 ^ 0 from rfl, Nat.testBit_two_pow]
              have h3 : ¬ i < n + 1 := by omega
              simp [h3]; omega
        · simp only [hn]
          simp only [Bool.false_eq_true, if_false, ih.2]
          by_cases h2 : i = n
          · subst h2; simp [hn]
          · have : decide (i < n + 1) = decide (i < n) := by simp; omega
            rw [this]
  rw [← (key n).2 i]
  simp only [bit]
  rw [Nat.testBit_eq_decide_div_mod_eq]
  simp [Bool.beq_eq_decide_eq]

/-- The nibbles of the active lanes. -/
theorem bit_nibbleMask (t : Thread) (g : BitVec 8) (w i : Nat) :
    bit (t.nibbleMask g w) i = (decide (i < 32) && t.guardBit g (i / (w / 4) * (w / 4))) := by
  unfold Thread.nibbleMask; rw [bit_maskLoop (fun i => t.guardBit g (i / (w / 4) * (w / 4)))]

/-- A lane of a merge under the active lanes is the new one where the lane is active, else the old one. -/
theorem lane_merge_active (t : Thread) (g : BitVec 8) (old new q l : Nat) (hq : 0 < q) (hl : l * q + q ≤ 32) :
    lane (mergeNibbles old new (t.nibbleMask g (4 * q))) (4 * q) l =
      if t.active g (4 * q) l then lane new (4 * q) l else lane old (4 * q) l := by
  have ha : t.active g (4 * q) l = t.guardBit g (l * q) := by
    unfold Thread.active; congr 1
    rw [show l * (4 * q) = 4 * (l * q) by ring]; omega
  have hb : ∀ j, j < q → bit (t.nibbleMask g (4 * q)) (l * q + j) = t.active g (4 * q) l := by
    intro j hj
    rw [bit_nibbleMask, ha, show 4 * q / 4 = q by omega]
    have h1 : (l * q + j) / q = l := by
      rw [Nat.mul_comm, Nat.mul_add_div hq, Nat.div_eq_of_lt hj, Nat.add_zero]
    have h2 : l * q + j < 32 := by omega
    rw [h1]; simp [h2]
  have key : ∀ c : Bool, c = t.active g (4 * q) l →
      lane (mergeNibbles old new (t.nibbleMask g (4 * q))) (4 * q) l = lane (if c then new else old) (4 * q) l := by
    intro c hc
    apply lane_ext
    intro j hj
    rw [lane_mergeNibbles _ _ _ _ (by omega), hb j hj, ← hc]
    cases c <;> rfl
  rw [key _ rfl]; split <;> simp_all

end Sys2Proof.Machine
end

