-- ==== Sys2Proof/Laws/Store.lean ====
section
/-!
SUPPORT. Tables and sets: reading after writing, and the canonical form that every operation keeps.
-/
namespace Sys2Proof.Machine

theorem Store.get_put_self {α : Type} [DecidableEq α] (d : α) (m : Store α) (k : Nat) (v : α) (h : Store.wf d m = true) :
    Store.get d (Store.put d m k v) k = v := by
  induction m with
  | nil => by_cases hv : v = d <;> simp [Store.put, Store.get, hv]
  | cons e r ih =>
    obtain ⟨j, w⟩ := e
    simp only [Store.wf, Bool.and_eq_true, bne_iff_ne, ne_eq] at h
    have hr : ∀ n, n ≤ j → Store.get d r n = d := by
      intro n hn
      have := h.1.2
      clear ih h
      induction r with
      | nil => rfl
      | cons x q ih =>
        simp only [Store.above, List.all_cons, Bool.and_eq_true, decide_eq_true_eq] at this
        simp only [Store.get]
        rw [if_neg (by omega)]
        exact ih this.2
    simp only [Store.put]
    split
    · split
      · subst v; simp only [Store.get]; rw [if_neg (by omega)]; exact hr k (by omega)
      · simp [Store.get]
    · split
      · split
        · subst v; exact hr k (by omega)
        · simp [Store.get]
      · simp only [Store.get]; rw [if_neg (by omega)]; exact ih h.2

/-- A value other than the default reads back from any table. -/
theorem Store.get_put_ne {α : Type} [DecidableEq α] (d : α) (m : Store α) (k : Nat) (v : α) (h : v ≠ d) :
    Store.get d (Store.put d m k v) k = v := by
  induction m with
  | nil => simp [Store.put, Store.get, h]
  | cons e r ih =>
    obtain ⟨j, w⟩ := e
    simp only [Store.put, h, if_false]
    split
    · simp [Store.get]
    · split
      · simp [Store.get]
      · simp only [Store.get]; rw [if_neg (by omega)]; exact ih

/-- A write leaves every other key alone, in any table. -/
theorem Store.get_put_other {α : Type} [DecidableEq α] (d : α) (m : Store α) (k n : Nat) (v : α) (h : n ≠ k) :
    Store.get d (Store.put d m k v) n = Store.get d m n := by
  induction m with
  | nil => by_cases hv : v = d <;> simp [Store.put, Store.get, hv]; omega
  | cons e r ih =>
    obtain ⟨j, w⟩ := e
    simp only [Store.put]
    split
    · split
      · rfl
      · simp only [Store.get]; rw [if_neg (by omega)]
    · split
      · split
        · simp only [Store.get]; rw [if_neg (by omega)]
        · simp only [Store.get]; rw [if_neg (by omega), if_neg (by omega)]
      · simp only [Store.get]; rw [ih]

theorem Store.above_cons {α : Type} (n : Nat) (e : Nat × α) (r : Store α) :
    Store.above n (e :: r) = (decide (n < e.1) && Store.above n r) := rfl

theorem Store.above_put {α : Type} [DecidableEq α] (d : α) (m : Store α) (n k : Nat) (v : α) (hn : n < k)
    (h : Store.above n m = true) : Store.above n (Store.put d m k v) = true := by
  induction m with
  | nil => by_cases hv : v = d <;> simp [Store.put, Store.above, hv, hn]
  | cons e r ih =>
    rw [Store.above_cons, Bool.and_eq_true, decide_eq_true_eq] at h
    obtain ⟨j, w⟩ := e
    simp only [Store.put]
    split_ifs <;> (try simp only [Store.above_cons, Bool.and_eq_true, decide_eq_true_eq]) <;>
      first | exact h | exact ⟨hn, h⟩ | exact h.2 | exact ⟨hn, h.2⟩ | exact ⟨h.1, ih h.2⟩

/-- A write keeps the canonical form. -/
theorem Store.wf_put {α : Type} [DecidableEq α] (d : α) (m : Store α) (k : Nat) (v : α) (h : Store.wf d m = true) :
    Store.wf d (Store.put d m k v) = true := by
  induction m with
  | nil => by_cases hv : v = d <;> simp [Store.put, Store.wf, Store.above, hv]
  | cons e r ih =>
    obtain ⟨j, w⟩ := e
    simp only [Store.wf, Bool.and_eq_true, bne_iff_ne, ne_eq] at h
    have tr : ∀ n, n < j → Store.above n r = true := by
      intro n hn
      have := h.1.2
      simp only [Store.above, List.all_eq_true, decide_eq_true_eq] at this ⊢
      intro x hx; have := this x hx; omega
    simp only [Store.put]
    split
    · split
      · simp [Store.wf, h]
      · rename_i h1 h2
        simp only [Store.wf, Bool.and_eq_true, bne_iff_ne, ne_eq]
        refine ⟨⟨h2, ?_⟩, h⟩
        simp only [Store.above, List.all_cons, Bool.and_eq_true, decide_eq_true_eq]
        exact ⟨h1, tr k h1⟩
    · split
      · rename_i h2
        subst h2
        split
        · exact h.2
        · rename_i h3; simp [Store.wf, h3, h]
      · simp only [Store.wf, Bool.and_eq_true, bne_iff_ne, ne_eq]
        exact ⟨⟨h.1.1, Store.above_put d r j k v (by omega) h.1.2⟩, ih h.2⟩

theorem NatSet.mem_iff (s : NatSet) (n : Nat) : s.mem n = true ↔ n ∈ s := by simp [NatSet.mem]

theorem NatSet.mem_add_iff (s : NatSet) (k n : Nat) : n ∈ s.add k ↔ n = k ∨ n ∈ s := by
  induction s with
  | nil => simp [NatSet.add]
  | cons j r ih =>
    simp only [NatSet.add]
    split_ifs with h1 h2
    · simp
    · subst h2; simp
    · simp only [List.mem_cons, ih]; tauto

theorem NatSet.mem_del_iff (s : NatSet) (k n : Nat) (h : s.wf = true) : n ∈ s.del k ↔ n ≠ k ∧ n ∈ s := by
  induction s with
  | nil => simp [NatSet.del]
  | cons j r ih =>
    simp only [NatSet.wf, Bool.and_eq_true, List.all_eq_true, decide_eq_true_eq] at h
    simp only [NatSet.del]
    split_ifs with h1
    · subst h1
      constructor
      · intro hn; have := h.1 n hn; exact ⟨by omega, List.mem_cons_of_mem _ hn⟩
      · rintro ⟨hn, hm⟩; exact (List.mem_cons.1 hm).resolve_left hn
    · simp only [List.mem_cons, ih h.2]
      constructor
      · rintro (rfl | ⟨hn, hm⟩)
        · exact ⟨fun e => h1 e.symm, .inl rfl⟩
        · exact ⟨hn, .inr hm⟩
      · rintro ⟨hn, rfl | hm⟩
        · exact .inl rfl
        · exact .inr ⟨hn, hm⟩

/-- A deletion leaves every other member alone, in any set. -/
theorem NatSet.mem_del_other (s : NatSet) (k n : Nat) (h : n ≠ k) : n ∈ s.del k ↔ n ∈ s := by
  induction s with
  | nil => rfl
  | cons j r ih =>
    simp only [NatSet.del]
    split_ifs with h1
    · subst h1; simp [h]
    · simp [ih]

@[simp] theorem NatSet.mem_add_self (s : NatSet) (k : Nat) : (s.add k).mem k = true := by
  rw [NatSet.mem_iff, NatSet.mem_add_iff]; exact .inl rfl

theorem NatSet.mem_add_ne (s : NatSet) (k n : Nat) (h : n ≠ k) : (s.add k).mem n = s.mem n := by
  rw [Bool.eq_iff_iff, NatSet.mem_iff, NatSet.mem_iff, NatSet.mem_add_iff]; simp [h]

theorem NatSet.mem_del_ne (s : NatSet) (k n : Nat) (h : n ≠ k) : (s.del k).mem n = s.mem n := by
  rw [Bool.eq_iff_iff, NatSet.mem_iff, NatSet.mem_iff, NatSet.mem_del_other s k n h]

theorem NatSet.mem_del_self (s : NatSet) (k : Nat) (h : s.wf = true) : (s.del k).mem k = false := by
  rw [Bool.eq_false_iff, ne_eq, NatSet.mem_iff, NatSet.mem_del_iff s k k h]; simp

theorem NatSet.all_add (s : NatSet) (j k : Nat) (hk : j < k) (h : s.all (fun n => j < n) = true) :
    (s.add k).all (fun n => j < n) = true := by
  induction s with
  | nil => simp [NatSet.add, hk]
  | cons i r ih =>
    simp only [List.all_cons, Bool.and_eq_true, decide_eq_true_eq] at h ih ⊢
    simp only [NatSet.add]
    split
    · simp_all
    · split <;> simp_all

theorem NatSet.wf_add (s : NatSet) (k : Nat) (h : s.wf = true) : (s.add k).wf = true := by
  induction s with
  | nil => rfl
  | cons j r ih =>
    simp only [NatSet.wf, Bool.and_eq_true] at h
    simp only [NatSet.add]
    split
    · rename_i hk
      simp only [NatSet.wf, List.all_cons, Bool.and_eq_true, decide_eq_true_eq]
      refine ⟨⟨hk, ?_⟩, h⟩
      have := h.1
      simp only [List.all_eq_true, decide_eq_true_eq] at this ⊢
      intro x hx; have := this x hx; omega
    · split
      · simp [NatSet.wf, h]
      · simp only [NatSet.wf, Bool.and_eq_true]
        exact ⟨NatSet.all_add r j k (by omega) h.1, ih h.2⟩

theorem NatSet.mem_of_mem_del (s : NatSet) (k n : Nat) (h : n ∈ s.del k) : n ∈ s := by
  induction s with
  | nil => exact h
  | cons j r ih =>
    simp only [NatSet.del] at h
    split at h
    · exact List.mem_cons_of_mem _ h
    · rcases List.mem_cons.1 h with h | h
      · simp [h]
      · exact List.mem_cons_of_mem _ (ih h)

theorem NatSet.wf_del (s : NatSet) (k : Nat) (h : s.wf = true) : (s.del k).wf = true := by
  induction s with
  | nil => rfl
  | cons j r ih =>
    simp only [NatSet.wf, Bool.and_eq_true] at h
    simp only [NatSet.del]
    split
    · exact h.2
    · simp only [NatSet.wf, Bool.and_eq_true]
      refine ⟨?_, ih h.2⟩
      have := h.1
      simp only [List.all_eq_true, decide_eq_true_eq] at this ⊢
      intro x hx; exact this x (NatSet.mem_of_mem_del r k x hx)

end Sys2Proof.Machine
end

