-- ==== Sys2Proof/Laws/State.lean ====
section
/-!
SUPPORT. What an update of a part of State leaves: one lemma for each field and update, and reading the part back.
-/
namespace Sys2Proof.Machine

/-! ## State.setSlot -/

@[simp] theorem State.setSlot_mem (s : State) (n : Nat) (v : Slot) : (s.setSlot n v).mem = s.mem := rfl
@[simp] theorem State.setSlot_ctxs (s : State) (n : Nat) (v : Slot) : (s.setSlot n v).ctxs = s.ctxs := rfl
@[simp] theorem State.setSlot_queues (s : State) (n : Nat) (v : Slot) : (s.setSlot n v).queues = s.queues := rfl
@[simp] theorem State.setSlot_crews (s : State) (n : Nat) (v : Slot) : (s.setSlot n v).crews = s.crews := rfl
@[simp] theorem State.setSlot_hostErrors (s : State) (n : Nat) (v : Slot) : (s.setSlot n v).hostErrors = s.hostErrors := rfl
@[simp] theorem State.setSlot_groves (s : State) (n : Nat) (v : Slot) : (s.setSlot n v).groves = s.groves := rfl
@[simp] theorem State.setSlot_cores (s : State) (n : Nat) (v : Slot) : (s.setSlot n v).cores = s.cores := rfl
@[simp] theorem State.setSlot_power (s : State) (n : Nat) (v : Slot) : (s.setSlot n v).power = s.power := rfl
@[simp] theorem State.setSlot_graphs (s : State) (n : Nat) (v : Slot) : (s.setSlot n v).graphs = s.graphs := rfl
@[simp] theorem State.setSlot_nextGraph (s : State) (n : Nat) (v : Slot) : (s.setSlot n v).nextGraph = s.nextGraph := rfl
@[simp] theorem State.setSlot_handles (s : State) (n : Nat) (v : Slot) : (s.setSlot n v).handles = s.handles := rfl
@[simp] theorem State.setSlot_conts (s : State) (n : Nat) (v : Slot) : (s.setSlot n v).conts = s.conts := rfl
@[simp] theorem State.setSlot_moves (s : State) (n : Nat) (v : Slot) : (s.setSlot n v).moves = s.moves := rfl
@[simp] theorem State.setSlot_migrations (s : State) (n : Nat) (v : Slot) : (s.setSlot n v).migrations = s.migrations := rfl
@[simp] theorem State.setSlot_dramFree (s : State) (n : Nat) (v : Slot) : (s.setSlot n v).dramFree = s.dramFree := rfl
@[simp] theorem State.setSlot_flashFree (s : State) (n : Nat) (v : Slot) : (s.setSlot n v).flashFree = s.flashFree := rfl
@[simp] theorem State.setSlot_hbmFree (s : State) (n : Nat) (v : Slot) : (s.setSlot n v).hbmFree = s.hbmFree := rfl
@[simp] theorem State.setSlot_ras (s : State) (n : Nat) (v : Slot) : (s.setSlot n v).ras = s.ras := rfl
@[simp] theorem State.setSlot_deadLandings (s : State) (n : Nat) (v : Slot) : (s.setSlot n v).deadLandings = s.deadLandings := rfl
@[simp] theorem State.setSlot_links (s : State) (n : Nat) (v : Slot) : (s.setSlot n v).links = s.links := rfl
@[simp] theorem State.setSlot_groups (s : State) (n : Nat) (v : Slot) : (s.setSlot n v).groups = s.groups := rfl
@[simp] theorem State.setSlot_replies (s : State) (n : Nat) (v : Slot) : (s.setSlot n v).replies = s.replies := rfl
@[simp] theorem State.setSlot_noticesDue (s : State) (n : Nat) (v : Slot) : (s.setSlot n v).noticesDue = s.noticesDue := rfl
@[simp] theorem State.setSlot_arrived (s : State) (n : Nat) (v : Slot) : (s.setSlot n v).arrived = s.arrived := rfl
@[simp] theorem State.setSlot_heldOver (s : State) (n : Nat) (v : Slot) : (s.setSlot n v).heldOver = s.heldOver := rfl
@[simp] theorem State.setSlot_seenTo (s : State) (n : Nat) (v : Slot) : (s.setSlot n v).seenTo = s.seenTo := rfl
@[simp] theorem State.setSlot_seenPast (s : State) (n : Nat) (v : Slot) : (s.setSlot n v).seenPast = s.seenPast := rfl
@[simp] theorem State.setSlot_ptpHeld (s : State) (n : Nat) (v : Slot) : (s.setSlot n v).ptpHeld = s.ptpHeld := rfl
@[simp] theorem State.setSlot_far (s : State) (n : Nat) (v : Slot) : (s.setSlot n v).far = s.far := rfl
@[simp] theorem State.setSlot_ticked (s : State) (n : Nat) (v : Slot) : (s.setSlot n v).ticked = s.ticked := rfl
@[simp] theorem State.setSlot_peerOut (s : State) (n : Nat) (v : Slot) : (s.setSlot n v).peerOut = s.peerOut := rfl
@[simp] theorem State.setSlot_farCrews (s : State) (n : Nat) (v : Slot) : (s.setSlot n v).farCrews = s.farCrews := rfl
@[simp] theorem State.setSlot_qps (s : State) (n : Nat) (v : Slot) : (s.setSlot n v).qps = s.qps := rfl
@[simp] theorem State.setSlot_qpres (s : State) (n : Nat) (v : Slot) : (s.setSlot n v).qpres = s.qpres := rfl
@[simp] theorem State.setSlot_dbg (s : State) (n : Nat) (v : Slot) : (s.setSlot n v).dbg = s.dbg := rfl
@[simp] theorem State.setSlot_boot (s : State) (n : Nat) (v : Slot) : (s.setSlot n v).boot = s.boot := rfl
@[simp] theorem State.setSlot_hostFrozen (s : State) (n : Nat) (v : Slot) : (s.setSlot n v).hostFrozen = s.hostFrozen := rfl
@[simp] theorem State.setSlot_hostOut (s : State) (n : Nat) (v : Slot) : (s.setSlot n v).hostOut = s.hostOut := rfl
@[simp] theorem State.setSlot_hostLatch (s : State) (n : Nat) (v : Slot) : (s.setSlot n v).hostLatch = s.hostLatch := rfl
@[simp] theorem State.setSlot_ptpSync (s : State) (n : Nat) (v : Slot) : (s.setSlot n v).ptpSync = s.ptpSync := rfl
@[simp] theorem State.setSlot_ptpOnce (s : State) (n : Nat) (v : Slot) : (s.setSlot n v).ptpOnce = s.ptpOnce := rfl
@[simp] theorem State.setSlot_ptpPort (s : State) (n : Nat) (v : Slot) : (s.setSlot n v).ptpPort = s.ptpPort := rfl
@[simp] theorem State.setSlot_ptpOffset (s : State) (n : Nat) (v : Slot) : (s.setSlot n v).ptpOffset = s.ptpOffset := rfl
@[simp] theorem State.setSlot_slew (s : State) (n : Nat) (v : Slot) : (s.setSlot n v).slew = s.slew := rfl
@[simp] theorem State.setSlot_ptpDomain (s : State) (n : Nat) (v : Slot) : (s.setSlot n v).ptpDomain = s.ptpDomain := rfl
@[simp] theorem State.setSlot_memBase (s : State) (n : Nat) (v : Slot) : (s.setSlot n v).memBase = s.memBase := rfl
@[simp] theorem State.setSlot_memSize (s : State) (n : Nat) (v : Slot) : (s.setSlot n v).memSize = s.memSize := rfl
@[simp] theorem State.setSlot_stamp (s : State) (n : Nat) (v : Slot) : (s.setSlot n v).stamp = s.stamp := rfl
@[simp] theorem State.setSlot_spent (s : State) (n : Nat) (v : Slot) : (s.setSlot n v).spent = s.spent := rfl
@[simp] theorem State.setSlot_requests (s : State) (n : Nat) (v : Slot) : (s.setSlot n v).requests = s.requests := rfl
@[simp] theorem State.setSlot_nextSeq (s : State) (n : Nat) (v : Slot) : (s.setSlot n v).nextSeq = s.nextSeq := rfl
@[simp] theorem State.setSlot_nextReq (s : State) (n : Nat) (v : Slot) : (s.setSlot n v).nextReq = s.nextReq := rfl
@[simp] theorem State.setSlot_feWait (s : State) (n : Nat) (v : Slot) : (s.setSlot n v).feWait = s.feWait := rfl
@[simp] theorem State.setSlot_farWait (s : State) (n : Nat) (v : Slot) : (s.setSlot n v).farWait = s.farWait := rfl
@[simp] theorem State.setSlot_farHalf (s : State) (n : Nat) (v : Slot) : (s.setSlot n v).farHalf = s.farHalf := rfl
@[simp] theorem State.setSlot_sendWait (s : State) (n : Nat) (v : Slot) : (s.setSlot n v).sendWait = s.sendWait := rfl
@[simp] theorem State.setSlot_now (s : State) (n : Nat) (v : Slot) : (s.setSlot n v).now = s.now := rfl
@[simp] theorem State.setSlot_osc (s : State) (n : Nat) (v : Slot) : (s.setSlot n v).osc = s.osc := rfl
@[simp] theorem State.setSlot_refilled (s : State) (n : Nat) (v : Slot) : (s.setSlot n v).refilled = s.refilled := rfl
@[simp] theorem State.setSlot_windowed (s : State) (n : Nat) (v : Slot) : (s.setSlot n v).windowed = s.windowed := rfl
@[simp] theorem State.setSlot_slewed (s : State) (n : Nat) (v : Slot) : (s.setSlot n v).slewed = s.slewed := rfl
@[simp] theorem State.setSlot_pkg (s : State) (n : Nat) (v : Slot) : (s.setSlot n v).pkg = s.pkg := rfl
@[simp] theorem State.setSlot_domain (s : State) (n : Nat) (v : Slot) : (s.setSlot n v).domain = s.domain := rfl
@[simp] theorem State.setSlot_cxlDram (s : State) (n : Nat) (v : Slot) : (s.setSlot n v).cxlDram = s.cxlDram := rfl
@[simp] theorem State.setSlot_cxlFlash (s : State) (n : Nat) (v : Slot) : (s.setSlot n v).cxlFlash = s.cxlFlash := rfl
@[simp] theorem State.setSlot_tagBase (s : State) (n : Nat) (v : Slot) : (s.setSlot n v).tagBase = s.tagBase := rfl
@[simp] theorem State.setSlot_csel (s : State) (n : Nat) (v : Slot) : (s.setSlot n v).csel = s.csel := rfl
@[simp] theorem State.setSlot_hostCsel (s : State) (n : Nat) (v : Slot) : (s.setSlot n v).hostCsel = s.hostCsel := rfl
@[simp] theorem State.setSlot_cur (s : State) (n : Nat) (v : Slot) : (s.setSlot n v).cur = s.cur := rfl
@[simp] theorem State.setSlot_opts (s : State) (n : Nat) (v : Slot) : (s.setSlot n v).opts = s.opts := rfl
@[simp] theorem State.setSlot_busy (s : State) (n : Nat) (v : Slot) : (s.setSlot n v).busy = s.busy := rfl
@[simp] theorem State.setSlot_arg (s : State) (n : Nat) (v : Slot) : (s.setSlot n v).arg = s.arg := rfl
@[simp] theorem State.setSlot_agenda (s : State) (n : Nat) (v : Slot) : (s.setSlot n v).agenda = s.agenda := rfl
@[simp] theorem State.setSlot_fresh (s : State) (n : Nat) (v : Slot) : (s.setSlot n v).fresh = s.fresh := rfl

/-! ## State.setThread -/

@[simp] theorem State.setThread_mem (s : State) (n : Nat) (t : Thread) : (s.setThread n t).mem = s.mem := rfl
@[simp] theorem State.setThread_ctxs (s : State) (n : Nat) (t : Thread) : (s.setThread n t).ctxs = s.ctxs := rfl
@[simp] theorem State.setThread_queues (s : State) (n : Nat) (t : Thread) : (s.setThread n t).queues = s.queues := rfl
@[simp] theorem State.setThread_crews (s : State) (n : Nat) (t : Thread) : (s.setThread n t).crews = s.crews := rfl
@[simp] theorem State.setThread_hostErrors (s : State) (n : Nat) (t : Thread) : (s.setThread n t).hostErrors = s.hostErrors := rfl
@[simp] theorem State.setThread_groves (s : State) (n : Nat) (t : Thread) : (s.setThread n t).groves = s.groves := rfl
@[simp] theorem State.setThread_cores (s : State) (n : Nat) (t : Thread) : (s.setThread n t).cores = s.cores := rfl
@[simp] theorem State.setThread_power (s : State) (n : Nat) (t : Thread) : (s.setThread n t).power = s.power := rfl
@[simp] theorem State.setThread_graphs (s : State) (n : Nat) (t : Thread) : (s.setThread n t).graphs = s.graphs := rfl
@[simp] theorem State.setThread_nextGraph (s : State) (n : Nat) (t : Thread) : (s.setThread n t).nextGraph = s.nextGraph := rfl
@[simp] theorem State.setThread_handles (s : State) (n : Nat) (t : Thread) : (s.setThread n t).handles = s.handles := rfl
@[simp] theorem State.setThread_conts (s : State) (n : Nat) (t : Thread) : (s.setThread n t).conts = s.conts := rfl
@[simp] theorem State.setThread_moves (s : State) (n : Nat) (t : Thread) : (s.setThread n t).moves = s.moves := rfl
@[simp] theorem State.setThread_migrations (s : State) (n : Nat) (t : Thread) : (s.setThread n t).migrations = s.migrations := rfl
@[simp] theorem State.setThread_dramFree (s : State) (n : Nat) (t : Thread) : (s.setThread n t).dramFree = s.dramFree := rfl
@[simp] theorem State.setThread_flashFree (s : State) (n : Nat) (t : Thread) : (s.setThread n t).flashFree = s.flashFree := rfl
@[simp] theorem State.setThread_hbmFree (s : State) (n : Nat) (t : Thread) : (s.setThread n t).hbmFree = s.hbmFree := rfl
@[simp] theorem State.setThread_ras (s : State) (n : Nat) (t : Thread) : (s.setThread n t).ras = s.ras := rfl
@[simp] theorem State.setThread_deadLandings (s : State) (n : Nat) (t : Thread) : (s.setThread n t).deadLandings = s.deadLandings := rfl
@[simp] theorem State.setThread_links (s : State) (n : Nat) (t : Thread) : (s.setThread n t).links = s.links := rfl
@[simp] theorem State.setThread_groups (s : State) (n : Nat) (t : Thread) : (s.setThread n t).groups = s.groups := rfl
@[simp] theorem State.setThread_replies (s : State) (n : Nat) (t : Thread) : (s.setThread n t).replies = s.replies := rfl
@[simp] theorem State.setThread_noticesDue (s : State) (n : Nat) (t : Thread) : (s.setThread n t).noticesDue = s.noticesDue := rfl
@[simp] theorem State.setThread_arrived (s : State) (n : Nat) (t : Thread) : (s.setThread n t).arrived = s.arrived := rfl
@[simp] theorem State.setThread_heldOver (s : State) (n : Nat) (t : Thread) : (s.setThread n t).heldOver = s.heldOver := rfl
@[simp] theorem State.setThread_seenTo (s : State) (n : Nat) (t : Thread) : (s.setThread n t).seenTo = s.seenTo := rfl
@[simp] theorem State.setThread_seenPast (s : State) (n : Nat) (t : Thread) : (s.setThread n t).seenPast = s.seenPast := rfl
@[simp] theorem State.setThread_ptpHeld (s : State) (n : Nat) (t : Thread) : (s.setThread n t).ptpHeld = s.ptpHeld := rfl
@[simp] theorem State.setThread_far (s : State) (n : Nat) (t : Thread) : (s.setThread n t).far = s.far := rfl
@[simp] theorem State.setThread_ticked (s : State) (n : Nat) (t : Thread) : (s.setThread n t).ticked = s.ticked := rfl
@[simp] theorem State.setThread_peerOut (s : State) (n : Nat) (t : Thread) : (s.setThread n t).peerOut = s.peerOut := rfl
@[simp] theorem State.setThread_farCrews (s : State) (n : Nat) (t : Thread) : (s.setThread n t).farCrews = s.farCrews := rfl
@[simp] theorem State.setThread_qps (s : State) (n : Nat) (t : Thread) : (s.setThread n t).qps = s.qps := rfl
@[simp] theorem State.setThread_qpres (s : State) (n : Nat) (t : Thread) : (s.setThread n t).qpres = s.qpres := rfl
@[simp] theorem State.setThread_dbg (s : State) (n : Nat) (t : Thread) : (s.setThread n t).dbg = s.dbg := rfl
@[simp] theorem State.setThread_boot (s : State) (n : Nat) (t : Thread) : (s.setThread n t).boot = s.boot := rfl
@[simp] theorem State.setThread_hostFrozen (s : State) (n : Nat) (t : Thread) : (s.setThread n t).hostFrozen = s.hostFrozen := rfl
@[simp] theorem State.setThread_hostOut (s : State) (n : Nat) (t : Thread) : (s.setThread n t).hostOut = s.hostOut := rfl
@[simp] theorem State.setThread_hostLatch (s : State) (n : Nat) (t : Thread) : (s.setThread n t).hostLatch = s.hostLatch := rfl
@[simp] theorem State.setThread_ptpSync (s : State) (n : Nat) (t : Thread) : (s.setThread n t).ptpSync = s.ptpSync := rfl
@[simp] theorem State.setThread_ptpOnce (s : State) (n : Nat) (t : Thread) : (s.setThread n t).ptpOnce = s.ptpOnce := rfl
@[simp] theorem State.setThread_ptpPort (s : State) (n : Nat) (t : Thread) : (s.setThread n t).ptpPort = s.ptpPort := rfl
@[simp] theorem State.setThread_ptpOffset (s : State) (n : Nat) (t : Thread) : (s.setThread n t).ptpOffset = s.ptpOffset := rfl
@[simp] theorem State.setThread_slew (s : State) (n : Nat) (t : Thread) : (s.setThread n t).slew = s.slew := rfl
@[simp] theorem State.setThread_ptpDomain (s : State) (n : Nat) (t : Thread) : (s.setThread n t).ptpDomain = s.ptpDomain := rfl
@[simp] theorem State.setThread_memBase (s : State) (n : Nat) (t : Thread) : (s.setThread n t).memBase = s.memBase := rfl
@[simp] theorem State.setThread_memSize (s : State) (n : Nat) (t : Thread) : (s.setThread n t).memSize = s.memSize := rfl
@[simp] theorem State.setThread_stamp (s : State) (n : Nat) (t : Thread) : (s.setThread n t).stamp = s.stamp := rfl
@[simp] theorem State.setThread_spent (s : State) (n : Nat) (t : Thread) : (s.setThread n t).spent = s.spent := rfl
@[simp] theorem State.setThread_requests (s : State) (n : Nat) (t : Thread) : (s.setThread n t).requests = s.requests := rfl
@[simp] theorem State.setThread_nextSeq (s : State) (n : Nat) (t : Thread) : (s.setThread n t).nextSeq = s.nextSeq := rfl
@[simp] theorem State.setThread_nextReq (s : State) (n : Nat) (t : Thread) : (s.setThread n t).nextReq = s.nextReq := rfl
@[simp] theorem State.setThread_feWait (s : State) (n : Nat) (t : Thread) : (s.setThread n t).feWait = s.feWait := rfl
@[simp] theorem State.setThread_farWait (s : State) (n : Nat) (t : Thread) : (s.setThread n t).farWait = s.farWait := rfl
@[simp] theorem State.setThread_farHalf (s : State) (n : Nat) (t : Thread) : (s.setThread n t).farHalf = s.farHalf := rfl
@[simp] theorem State.setThread_sendWait (s : State) (n : Nat) (t : Thread) : (s.setThread n t).sendWait = s.sendWait := rfl
@[simp] theorem State.setThread_now (s : State) (n : Nat) (t : Thread) : (s.setThread n t).now = s.now := rfl
@[simp] theorem State.setThread_osc (s : State) (n : Nat) (t : Thread) : (s.setThread n t).osc = s.osc := rfl
@[simp] theorem State.setThread_refilled (s : State) (n : Nat) (t : Thread) : (s.setThread n t).refilled = s.refilled := rfl
@[simp] theorem State.setThread_windowed (s : State) (n : Nat) (t : Thread) : (s.setThread n t).windowed = s.windowed := rfl
@[simp] theorem State.setThread_slewed (s : State) (n : Nat) (t : Thread) : (s.setThread n t).slewed = s.slewed := rfl
@[simp] theorem State.setThread_pkg (s : State) (n : Nat) (t : Thread) : (s.setThread n t).pkg = s.pkg := rfl
@[simp] theorem State.setThread_domain (s : State) (n : Nat) (t : Thread) : (s.setThread n t).domain = s.domain := rfl
@[simp] theorem State.setThread_cxlDram (s : State) (n : Nat) (t : Thread) : (s.setThread n t).cxlDram = s.cxlDram := rfl
@[simp] theorem State.setThread_cxlFlash (s : State) (n : Nat) (t : Thread) : (s.setThread n t).cxlFlash = s.cxlFlash := rfl
@[simp] theorem State.setThread_tagBase (s : State) (n : Nat) (t : Thread) : (s.setThread n t).tagBase = s.tagBase := rfl
@[simp] theorem State.setThread_csel (s : State) (n : Nat) (t : Thread) : (s.setThread n t).csel = s.csel := rfl
@[simp] theorem State.setThread_hostCsel (s : State) (n : Nat) (t : Thread) : (s.setThread n t).hostCsel = s.hostCsel := rfl
@[simp] theorem State.setThread_cur (s : State) (n : Nat) (t : Thread) : (s.setThread n t).cur = s.cur := rfl
@[simp] theorem State.setThread_opts (s : State) (n : Nat) (t : Thread) : (s.setThread n t).opts = s.opts := rfl
@[simp] theorem State.setThread_busy (s : State) (n : Nat) (t : Thread) : (s.setThread n t).busy = s.busy := rfl
@[simp] theorem State.setThread_arg (s : State) (n : Nat) (t : Thread) : (s.setThread n t).arg = s.arg := rfl
@[simp] theorem State.setThread_agenda (s : State) (n : Nat) (t : Thread) : (s.setThread n t).agenda = s.agenda := rfl
@[simp] theorem State.setThread_fresh (s : State) (n : Nat) (t : Thread) : (s.setThread n t).fresh = s.fresh := rfl

/-! ## State.put -/

@[simp] theorem State.put_mem (s : State) (t : Thread) : (s.put t).mem = s.mem := rfl
@[simp] theorem State.put_ctxs (s : State) (t : Thread) : (s.put t).ctxs = s.ctxs := rfl
@[simp] theorem State.put_queues (s : State) (t : Thread) : (s.put t).queues = s.queues := rfl
@[simp] theorem State.put_crews (s : State) (t : Thread) : (s.put t).crews = s.crews := rfl
@[simp] theorem State.put_hostErrors (s : State) (t : Thread) : (s.put t).hostErrors = s.hostErrors := rfl
@[simp] theorem State.put_groves (s : State) (t : Thread) : (s.put t).groves = s.groves := rfl
@[simp] theorem State.put_cores (s : State) (t : Thread) : (s.put t).cores = s.cores := rfl
@[simp] theorem State.put_power (s : State) (t : Thread) : (s.put t).power = s.power := rfl
@[simp] theorem State.put_graphs (s : State) (t : Thread) : (s.put t).graphs = s.graphs := rfl
@[simp] theorem State.put_nextGraph (s : State) (t : Thread) : (s.put t).nextGraph = s.nextGraph := rfl
@[simp] theorem State.put_handles (s : State) (t : Thread) : (s.put t).handles = s.handles := rfl
@[simp] theorem State.put_conts (s : State) (t : Thread) : (s.put t).conts = s.conts := rfl
@[simp] theorem State.put_moves (s : State) (t : Thread) : (s.put t).moves = s.moves := rfl
@[simp] theorem State.put_migrations (s : State) (t : Thread) : (s.put t).migrations = s.migrations := rfl
@[simp] theorem State.put_dramFree (s : State) (t : Thread) : (s.put t).dramFree = s.dramFree := rfl
@[simp] theorem State.put_flashFree (s : State) (t : Thread) : (s.put t).flashFree = s.flashFree := rfl
@[simp] theorem State.put_hbmFree (s : State) (t : Thread) : (s.put t).hbmFree = s.hbmFree := rfl
@[simp] theorem State.put_ras (s : State) (t : Thread) : (s.put t).ras = s.ras := rfl
@[simp] theorem State.put_deadLandings (s : State) (t : Thread) : (s.put t).deadLandings = s.deadLandings := rfl
@[simp] theorem State.put_links (s : State) (t : Thread) : (s.put t).links = s.links := rfl
@[simp] theorem State.put_groups (s : State) (t : Thread) : (s.put t).groups = s.groups := rfl
@[simp] theorem State.put_replies (s : State) (t : Thread) : (s.put t).replies = s.replies := rfl
@[simp] theorem State.put_noticesDue (s : State) (t : Thread) : (s.put t).noticesDue = s.noticesDue := rfl
@[simp] theorem State.put_arrived (s : State) (t : Thread) : (s.put t).arrived = s.arrived := rfl
@[simp] theorem State.put_heldOver (s : State) (t : Thread) : (s.put t).heldOver = s.heldOver := rfl
@[simp] theorem State.put_seenTo (s : State) (t : Thread) : (s.put t).seenTo = s.seenTo := rfl
@[simp] theorem State.put_seenPast (s : State) (t : Thread) : (s.put t).seenPast = s.seenPast := rfl
@[simp] theorem State.put_ptpHeld (s : State) (t : Thread) : (s.put t).ptpHeld = s.ptpHeld := rfl
@[simp] theorem State.put_far (s : State) (t : Thread) : (s.put t).far = s.far := rfl
@[simp] theorem State.put_ticked (s : State) (t : Thread) : (s.put t).ticked = s.ticked := rfl
@[simp] theorem State.put_peerOut (s : State) (t : Thread) : (s.put t).peerOut = s.peerOut := rfl
@[simp] theorem State.put_farCrews (s : State) (t : Thread) : (s.put t).farCrews = s.farCrews := rfl
@[simp] theorem State.put_qps (s : State) (t : Thread) : (s.put t).qps = s.qps := rfl
@[simp] theorem State.put_qpres (s : State) (t : Thread) : (s.put t).qpres = s.qpres := rfl
@[simp] theorem State.put_dbg (s : State) (t : Thread) : (s.put t).dbg = s.dbg := rfl
@[simp] theorem State.put_boot (s : State) (t : Thread) : (s.put t).boot = s.boot := rfl
@[simp] theorem State.put_hostFrozen (s : State) (t : Thread) : (s.put t).hostFrozen = s.hostFrozen := rfl
@[simp] theorem State.put_hostOut (s : State) (t : Thread) : (s.put t).hostOut = s.hostOut := rfl
@[simp] theorem State.put_hostLatch (s : State) (t : Thread) : (s.put t).hostLatch = s.hostLatch := rfl
@[simp] theorem State.put_ptpSync (s : State) (t : Thread) : (s.put t).ptpSync = s.ptpSync := rfl
@[simp] theorem State.put_ptpOnce (s : State) (t : Thread) : (s.put t).ptpOnce = s.ptpOnce := rfl
@[simp] theorem State.put_ptpPort (s : State) (t : Thread) : (s.put t).ptpPort = s.ptpPort := rfl
@[simp] theorem State.put_ptpOffset (s : State) (t : Thread) : (s.put t).ptpOffset = s.ptpOffset := rfl
@[simp] theorem State.put_slew (s : State) (t : Thread) : (s.put t).slew = s.slew := rfl
@[simp] theorem State.put_ptpDomain (s : State) (t : Thread) : (s.put t).ptpDomain = s.ptpDomain := rfl
@[simp] theorem State.put_memBase (s : State) (t : Thread) : (s.put t).memBase = s.memBase := rfl
@[simp] theorem State.put_memSize (s : State) (t : Thread) : (s.put t).memSize = s.memSize := rfl
@[simp] theorem State.put_stamp (s : State) (t : Thread) : (s.put t).stamp = s.stamp := rfl
@[simp] theorem State.put_spent (s : State) (t : Thread) : (s.put t).spent = s.spent := rfl
@[simp] theorem State.put_requests (s : State) (t : Thread) : (s.put t).requests = s.requests := rfl
@[simp] theorem State.put_nextSeq (s : State) (t : Thread) : (s.put t).nextSeq = s.nextSeq := rfl
@[simp] theorem State.put_nextReq (s : State) (t : Thread) : (s.put t).nextReq = s.nextReq := rfl
@[simp] theorem State.put_feWait (s : State) (t : Thread) : (s.put t).feWait = s.feWait := rfl
@[simp] theorem State.put_farWait (s : State) (t : Thread) : (s.put t).farWait = s.farWait := rfl
@[simp] theorem State.put_farHalf (s : State) (t : Thread) : (s.put t).farHalf = s.farHalf := rfl
@[simp] theorem State.put_sendWait (s : State) (t : Thread) : (s.put t).sendWait = s.sendWait := rfl
@[simp] theorem State.put_now (s : State) (t : Thread) : (s.put t).now = s.now := rfl
@[simp] theorem State.put_osc (s : State) (t : Thread) : (s.put t).osc = s.osc := rfl
@[simp] theorem State.put_refilled (s : State) (t : Thread) : (s.put t).refilled = s.refilled := rfl
@[simp] theorem State.put_windowed (s : State) (t : Thread) : (s.put t).windowed = s.windowed := rfl
@[simp] theorem State.put_slewed (s : State) (t : Thread) : (s.put t).slewed = s.slewed := rfl
@[simp] theorem State.put_pkg (s : State) (t : Thread) : (s.put t).pkg = s.pkg := rfl
@[simp] theorem State.put_domain (s : State) (t : Thread) : (s.put t).domain = s.domain := rfl
@[simp] theorem State.put_cxlDram (s : State) (t : Thread) : (s.put t).cxlDram = s.cxlDram := rfl
@[simp] theorem State.put_cxlFlash (s : State) (t : Thread) : (s.put t).cxlFlash = s.cxlFlash := rfl
@[simp] theorem State.put_tagBase (s : State) (t : Thread) : (s.put t).tagBase = s.tagBase := rfl
@[simp] theorem State.put_csel (s : State) (t : Thread) : (s.put t).csel = s.csel := rfl
@[simp] theorem State.put_hostCsel (s : State) (t : Thread) : (s.put t).hostCsel = s.hostCsel := rfl
@[simp] theorem State.put_cur (s : State) (t : Thread) : (s.put t).cur = s.cur := rfl
@[simp] theorem State.put_opts (s : State) (t : Thread) : (s.put t).opts = s.opts := rfl
@[simp] theorem State.put_busy (s : State) (t : Thread) : (s.put t).busy = s.busy := rfl
@[simp] theorem State.put_arg (s : State) (t : Thread) : (s.put t).arg = s.arg := rfl
@[simp] theorem State.put_agenda (s : State) (t : Thread) : (s.put t).agenda = s.agenda := rfl
@[simp] theorem State.put_fresh (s : State) (t : Thread) : (s.put t).fresh = s.fresh := rfl

/-! ## State.setCtx -/

@[simp] theorem State.setCtx_mem (s : State) (c : Nat) (v : Ctx) : (s.setCtx c v).mem = s.mem := rfl
@[simp] theorem State.setCtx_slots (s : State) (c : Nat) (v : Ctx) : (s.setCtx c v).slots = s.slots := rfl
@[simp] theorem State.setCtx_queues (s : State) (c : Nat) (v : Ctx) : (s.setCtx c v).queues = s.queues := rfl
@[simp] theorem State.setCtx_crews (s : State) (c : Nat) (v : Ctx) : (s.setCtx c v).crews = s.crews := rfl
@[simp] theorem State.setCtx_hostErrors (s : State) (c : Nat) (v : Ctx) : (s.setCtx c v).hostErrors = s.hostErrors := rfl
@[simp] theorem State.setCtx_groves (s : State) (c : Nat) (v : Ctx) : (s.setCtx c v).groves = s.groves := rfl
@[simp] theorem State.setCtx_cores (s : State) (c : Nat) (v : Ctx) : (s.setCtx c v).cores = s.cores := rfl
@[simp] theorem State.setCtx_power (s : State) (c : Nat) (v : Ctx) : (s.setCtx c v).power = s.power := rfl
@[simp] theorem State.setCtx_graphs (s : State) (c : Nat) (v : Ctx) : (s.setCtx c v).graphs = s.graphs := rfl
@[simp] theorem State.setCtx_nextGraph (s : State) (c : Nat) (v : Ctx) : (s.setCtx c v).nextGraph = s.nextGraph := rfl
@[simp] theorem State.setCtx_handles (s : State) (c : Nat) (v : Ctx) : (s.setCtx c v).handles = s.handles := rfl
@[simp] theorem State.setCtx_conts (s : State) (c : Nat) (v : Ctx) : (s.setCtx c v).conts = s.conts := rfl
@[simp] theorem State.setCtx_moves (s : State) (c : Nat) (v : Ctx) : (s.setCtx c v).moves = s.moves := rfl
@[simp] theorem State.setCtx_migrations (s : State) (c : Nat) (v : Ctx) : (s.setCtx c v).migrations = s.migrations := rfl
@[simp] theorem State.setCtx_dramFree (s : State) (c : Nat) (v : Ctx) : (s.setCtx c v).dramFree = s.dramFree := rfl
@[simp] theorem State.setCtx_flashFree (s : State) (c : Nat) (v : Ctx) : (s.setCtx c v).flashFree = s.flashFree := rfl
@[simp] theorem State.setCtx_hbmFree (s : State) (c : Nat) (v : Ctx) : (s.setCtx c v).hbmFree = s.hbmFree := rfl
@[simp] theorem State.setCtx_ras (s : State) (c : Nat) (v : Ctx) : (s.setCtx c v).ras = s.ras := rfl
@[simp] theorem State.setCtx_deadLandings (s : State) (c : Nat) (v : Ctx) : (s.setCtx c v).deadLandings = s.deadLandings := rfl
@[simp] theorem State.setCtx_links (s : State) (c : Nat) (v : Ctx) : (s.setCtx c v).links = s.links := rfl
@[simp] theorem State.setCtx_groups (s : State) (c : Nat) (v : Ctx) : (s.setCtx c v).groups = s.groups := rfl
@[simp] theorem State.setCtx_replies (s : State) (c : Nat) (v : Ctx) : (s.setCtx c v).replies = s.replies := rfl
@[simp] theorem State.setCtx_noticesDue (s : State) (c : Nat) (v : Ctx) : (s.setCtx c v).noticesDue = s.noticesDue := rfl
@[simp] theorem State.setCtx_arrived (s : State) (c : Nat) (v : Ctx) : (s.setCtx c v).arrived = s.arrived := rfl
@[simp] theorem State.setCtx_heldOver (s : State) (c : Nat) (v : Ctx) : (s.setCtx c v).heldOver = s.heldOver := rfl
@[simp] theorem State.setCtx_seenTo (s : State) (c : Nat) (v : Ctx) : (s.setCtx c v).seenTo = s.seenTo := rfl
@[simp] theorem State.setCtx_seenPast (s : State) (c : Nat) (v : Ctx) : (s.setCtx c v).seenPast = s.seenPast := rfl
@[simp] theorem State.setCtx_ptpHeld (s : State) (c : Nat) (v : Ctx) : (s.setCtx c v).ptpHeld = s.ptpHeld := rfl
@[simp] theorem State.setCtx_far (s : State) (c : Nat) (v : Ctx) : (s.setCtx c v).far = s.far := rfl
@[simp] theorem State.setCtx_ticked (s : State) (c : Nat) (v : Ctx) : (s.setCtx c v).ticked = s.ticked := rfl
@[simp] theorem State.setCtx_peerOut (s : State) (c : Nat) (v : Ctx) : (s.setCtx c v).peerOut = s.peerOut := rfl
@[simp] theorem State.setCtx_farCrews (s : State) (c : Nat) (v : Ctx) : (s.setCtx c v).farCrews = s.farCrews := rfl
@[simp] theorem State.setCtx_qps (s : State) (c : Nat) (v : Ctx) : (s.setCtx c v).qps = s.qps := rfl
@[simp] theorem State.setCtx_qpres (s : State) (c : Nat) (v : Ctx) : (s.setCtx c v).qpres = s.qpres := rfl
@[simp] theorem State.setCtx_dbg (s : State) (c : Nat) (v : Ctx) : (s.setCtx c v).dbg = s.dbg := rfl
@[simp] theorem State.setCtx_boot (s : State) (c : Nat) (v : Ctx) : (s.setCtx c v).boot = s.boot := rfl
@[simp] theorem State.setCtx_hostFrozen (s : State) (c : Nat) (v : Ctx) : (s.setCtx c v).hostFrozen = s.hostFrozen := rfl
@[simp] theorem State.setCtx_hostOut (s : State) (c : Nat) (v : Ctx) : (s.setCtx c v).hostOut = s.hostOut := rfl
@[simp] theorem State.setCtx_hostLatch (s : State) (c : Nat) (v : Ctx) : (s.setCtx c v).hostLatch = s.hostLatch := rfl
@[simp] theorem State.setCtx_ptpSync (s : State) (c : Nat) (v : Ctx) : (s.setCtx c v).ptpSync = s.ptpSync := rfl
@[simp] theorem State.setCtx_ptpOnce (s : State) (c : Nat) (v : Ctx) : (s.setCtx c v).ptpOnce = s.ptpOnce := rfl
@[simp] theorem State.setCtx_ptpPort (s : State) (c : Nat) (v : Ctx) : (s.setCtx c v).ptpPort = s.ptpPort := rfl
@[simp] theorem State.setCtx_ptpOffset (s : State) (c : Nat) (v : Ctx) : (s.setCtx c v).ptpOffset = s.ptpOffset := rfl
@[simp] theorem State.setCtx_slew (s : State) (c : Nat) (v : Ctx) : (s.setCtx c v).slew = s.slew := rfl
@[simp] theorem State.setCtx_ptpDomain (s : State) (c : Nat) (v : Ctx) : (s.setCtx c v).ptpDomain = s.ptpDomain := rfl
@[simp] theorem State.setCtx_memBase (s : State) (c : Nat) (v : Ctx) : (s.setCtx c v).memBase = s.memBase := rfl
@[simp] theorem State.setCtx_memSize (s : State) (c : Nat) (v : Ctx) : (s.setCtx c v).memSize = s.memSize := rfl
@[simp] theorem State.setCtx_stamp (s : State) (c : Nat) (v : Ctx) : (s.setCtx c v).stamp = s.stamp := rfl
@[simp] theorem State.setCtx_spent (s : State) (c : Nat) (v : Ctx) : (s.setCtx c v).spent = s.spent := rfl
@[simp] theorem State.setCtx_requests (s : State) (c : Nat) (v : Ctx) : (s.setCtx c v).requests = s.requests := rfl
@[simp] theorem State.setCtx_nextSeq (s : State) (c : Nat) (v : Ctx) : (s.setCtx c v).nextSeq = s.nextSeq := rfl
@[simp] theorem State.setCtx_nextReq (s : State) (c : Nat) (v : Ctx) : (s.setCtx c v).nextReq = s.nextReq := rfl
@[simp] theorem State.setCtx_feWait (s : State) (c : Nat) (v : Ctx) : (s.setCtx c v).feWait = s.feWait := rfl
@[simp] theorem State.setCtx_farWait (s : State) (c : Nat) (v : Ctx) : (s.setCtx c v).farWait = s.farWait := rfl
@[simp] theorem State.setCtx_farHalf (s : State) (c : Nat) (v : Ctx) : (s.setCtx c v).farHalf = s.farHalf := rfl
@[simp] theorem State.setCtx_sendWait (s : State) (c : Nat) (v : Ctx) : (s.setCtx c v).sendWait = s.sendWait := rfl
@[simp] theorem State.setCtx_now (s : State) (c : Nat) (v : Ctx) : (s.setCtx c v).now = s.now := rfl
@[simp] theorem State.setCtx_osc (s : State) (c : Nat) (v : Ctx) : (s.setCtx c v).osc = s.osc := rfl
@[simp] theorem State.setCtx_refilled (s : State) (c : Nat) (v : Ctx) : (s.setCtx c v).refilled = s.refilled := rfl
@[simp] theorem State.setCtx_windowed (s : State) (c : Nat) (v : Ctx) : (s.setCtx c v).windowed = s.windowed := rfl
@[simp] theorem State.setCtx_slewed (s : State) (c : Nat) (v : Ctx) : (s.setCtx c v).slewed = s.slewed := rfl
@[simp] theorem State.setCtx_pkg (s : State) (c : Nat) (v : Ctx) : (s.setCtx c v).pkg = s.pkg := rfl
@[simp] theorem State.setCtx_domain (s : State) (c : Nat) (v : Ctx) : (s.setCtx c v).domain = s.domain := rfl
@[simp] theorem State.setCtx_cxlDram (s : State) (c : Nat) (v : Ctx) : (s.setCtx c v).cxlDram = s.cxlDram := rfl
@[simp] theorem State.setCtx_cxlFlash (s : State) (c : Nat) (v : Ctx) : (s.setCtx c v).cxlFlash = s.cxlFlash := rfl
@[simp] theorem State.setCtx_tagBase (s : State) (c : Nat) (v : Ctx) : (s.setCtx c v).tagBase = s.tagBase := rfl
@[simp] theorem State.setCtx_csel (s : State) (c : Nat) (v : Ctx) : (s.setCtx c v).csel = s.csel := rfl
@[simp] theorem State.setCtx_hostCsel (s : State) (c : Nat) (v : Ctx) : (s.setCtx c v).hostCsel = s.hostCsel := rfl
@[simp] theorem State.setCtx_cur (s : State) (c : Nat) (v : Ctx) : (s.setCtx c v).cur = s.cur := rfl
@[simp] theorem State.setCtx_opts (s : State) (c : Nat) (v : Ctx) : (s.setCtx c v).opts = s.opts := rfl
@[simp] theorem State.setCtx_busy (s : State) (c : Nat) (v : Ctx) : (s.setCtx c v).busy = s.busy := rfl
@[simp] theorem State.setCtx_arg (s : State) (c : Nat) (v : Ctx) : (s.setCtx c v).arg = s.arg := rfl
@[simp] theorem State.setCtx_agenda (s : State) (c : Nat) (v : Ctx) : (s.setCtx c v).agenda = s.agenda := rfl
@[simp] theorem State.setCtx_fresh (s : State) (c : Nat) (v : Ctx) : (s.setCtx c v).fresh = s.fresh := rfl

/-! ## State.setQueue -/

@[simp] theorem State.setQueue_mem (s : State) (k : Nat) (v : Queue) : (s.setQueue k v).mem = s.mem := rfl
@[simp] theorem State.setQueue_slots (s : State) (k : Nat) (v : Queue) : (s.setQueue k v).slots = s.slots := rfl
@[simp] theorem State.setQueue_ctxs (s : State) (k : Nat) (v : Queue) : (s.setQueue k v).ctxs = s.ctxs := rfl
@[simp] theorem State.setQueue_crews (s : State) (k : Nat) (v : Queue) : (s.setQueue k v).crews = s.crews := rfl
@[simp] theorem State.setQueue_hostErrors (s : State) (k : Nat) (v : Queue) : (s.setQueue k v).hostErrors = s.hostErrors := rfl
@[simp] theorem State.setQueue_groves (s : State) (k : Nat) (v : Queue) : (s.setQueue k v).groves = s.groves := rfl
@[simp] theorem State.setQueue_cores (s : State) (k : Nat) (v : Queue) : (s.setQueue k v).cores = s.cores := rfl
@[simp] theorem State.setQueue_power (s : State) (k : Nat) (v : Queue) : (s.setQueue k v).power = s.power := rfl
@[simp] theorem State.setQueue_graphs (s : State) (k : Nat) (v : Queue) : (s.setQueue k v).graphs = s.graphs := rfl
@[simp] theorem State.setQueue_nextGraph (s : State) (k : Nat) (v : Queue) : (s.setQueue k v).nextGraph = s.nextGraph := rfl
@[simp] theorem State.setQueue_handles (s : State) (k : Nat) (v : Queue) : (s.setQueue k v).handles = s.handles := rfl
@[simp] theorem State.setQueue_conts (s : State) (k : Nat) (v : Queue) : (s.setQueue k v).conts = s.conts := rfl
@[simp] theorem State.setQueue_moves (s : State) (k : Nat) (v : Queue) : (s.setQueue k v).moves = s.moves := rfl
@[simp] theorem State.setQueue_migrations (s : State) (k : Nat) (v : Queue) : (s.setQueue k v).migrations = s.migrations := rfl
@[simp] theorem State.setQueue_dramFree (s : State) (k : Nat) (v : Queue) : (s.setQueue k v).dramFree = s.dramFree := rfl
@[simp] theorem State.setQueue_flashFree (s : State) (k : Nat) (v : Queue) : (s.setQueue k v).flashFree = s.flashFree := rfl
@[simp] theorem State.setQueue_hbmFree (s : State) (k : Nat) (v : Queue) : (s.setQueue k v).hbmFree = s.hbmFree := rfl
@[simp] theorem State.setQueue_ras (s : State) (k : Nat) (v : Queue) : (s.setQueue k v).ras = s.ras := rfl
@[simp] theorem State.setQueue_deadLandings (s : State) (k : Nat) (v : Queue) : (s.setQueue k v).deadLandings = s.deadLandings := rfl
@[simp] theorem State.setQueue_links (s : State) (k : Nat) (v : Queue) : (s.setQueue k v).links = s.links := rfl
@[simp] theorem State.setQueue_groups (s : State) (k : Nat) (v : Queue) : (s.setQueue k v).groups = s.groups := rfl
@[simp] theorem State.setQueue_replies (s : State) (k : Nat) (v : Queue) : (s.setQueue k v).replies = s.replies := rfl
@[simp] theorem State.setQueue_noticesDue (s : State) (k : Nat) (v : Queue) : (s.setQueue k v).noticesDue = s.noticesDue := rfl
@[simp] theorem State.setQueue_arrived (s : State) (k : Nat) (v : Queue) : (s.setQueue k v).arrived = s.arrived := rfl
@[simp] theorem State.setQueue_heldOver (s : State) (k : Nat) (v : Queue) : (s.setQueue k v).heldOver = s.heldOver := rfl
@[simp] theorem State.setQueue_seenTo (s : State) (k : Nat) (v : Queue) : (s.setQueue k v).seenTo = s.seenTo := rfl
@[simp] theorem State.setQueue_seenPast (s : State) (k : Nat) (v : Queue) : (s.setQueue k v).seenPast = s.seenPast := rfl
@[simp] theorem State.setQueue_ptpHeld (s : State) (k : Nat) (v : Queue) : (s.setQueue k v).ptpHeld = s.ptpHeld := rfl
@[simp] theorem State.setQueue_far (s : State) (k : Nat) (v : Queue) : (s.setQueue k v).far = s.far := rfl
@[simp] theorem State.setQueue_ticked (s : State) (k : Nat) (v : Queue) : (s.setQueue k v).ticked = s.ticked := rfl
@[simp] theorem State.setQueue_peerOut (s : State) (k : Nat) (v : Queue) : (s.setQueue k v).peerOut = s.peerOut := rfl
@[simp] theorem State.setQueue_farCrews (s : State) (k : Nat) (v : Queue) : (s.setQueue k v).farCrews = s.farCrews := rfl
@[simp] theorem State.setQueue_qps (s : State) (k : Nat) (v : Queue) : (s.setQueue k v).qps = s.qps := rfl
@[simp] theorem State.setQueue_qpres (s : State) (k : Nat) (v : Queue) : (s.setQueue k v).qpres = s.qpres := rfl
@[simp] theorem State.setQueue_dbg (s : State) (k : Nat) (v : Queue) : (s.setQueue k v).dbg = s.dbg := rfl
@[simp] theorem State.setQueue_boot (s : State) (k : Nat) (v : Queue) : (s.setQueue k v).boot = s.boot := rfl
@[simp] theorem State.setQueue_hostFrozen (s : State) (k : Nat) (v : Queue) : (s.setQueue k v).hostFrozen = s.hostFrozen := rfl
@[simp] theorem State.setQueue_hostOut (s : State) (k : Nat) (v : Queue) : (s.setQueue k v).hostOut = s.hostOut := rfl
@[simp] theorem State.setQueue_hostLatch (s : State) (k : Nat) (v : Queue) : (s.setQueue k v).hostLatch = s.hostLatch := rfl
@[simp] theorem State.setQueue_ptpSync (s : State) (k : Nat) (v : Queue) : (s.setQueue k v).ptpSync = s.ptpSync := rfl
@[simp] theorem State.setQueue_ptpOnce (s : State) (k : Nat) (v : Queue) : (s.setQueue k v).ptpOnce = s.ptpOnce := rfl
@[simp] theorem State.setQueue_ptpPort (s : State) (k : Nat) (v : Queue) : (s.setQueue k v).ptpPort = s.ptpPort := rfl
@[simp] theorem State.setQueue_ptpOffset (s : State) (k : Nat) (v : Queue) : (s.setQueue k v).ptpOffset = s.ptpOffset := rfl
@[simp] theorem State.setQueue_slew (s : State) (k : Nat) (v : Queue) : (s.setQueue k v).slew = s.slew := rfl
@[simp] theorem State.setQueue_ptpDomain (s : State) (k : Nat) (v : Queue) : (s.setQueue k v).ptpDomain = s.ptpDomain := rfl
@[simp] theorem State.setQueue_memBase (s : State) (k : Nat) (v : Queue) : (s.setQueue k v).memBase = s.memBase := rfl
@[simp] theorem State.setQueue_memSize (s : State) (k : Nat) (v : Queue) : (s.setQueue k v).memSize = s.memSize := rfl
@[simp] theorem State.setQueue_stamp (s : State) (k : Nat) (v : Queue) : (s.setQueue k v).stamp = s.stamp := rfl
@[simp] theorem State.setQueue_spent (s : State) (k : Nat) (v : Queue) : (s.setQueue k v).spent = s.spent := rfl
@[simp] theorem State.setQueue_requests (s : State) (k : Nat) (v : Queue) : (s.setQueue k v).requests = s.requests := rfl
@[simp] theorem State.setQueue_nextSeq (s : State) (k : Nat) (v : Queue) : (s.setQueue k v).nextSeq = s.nextSeq := rfl
@[simp] theorem State.setQueue_nextReq (s : State) (k : Nat) (v : Queue) : (s.setQueue k v).nextReq = s.nextReq := rfl
@[simp] theorem State.setQueue_feWait (s : State) (k : Nat) (v : Queue) : (s.setQueue k v).feWait = s.feWait := rfl
@[simp] theorem State.setQueue_farWait (s : State) (k : Nat) (v : Queue) : (s.setQueue k v).farWait = s.farWait := rfl
@[simp] theorem State.setQueue_farHalf (s : State) (k : Nat) (v : Queue) : (s.setQueue k v).farHalf = s.farHalf := rfl
@[simp] theorem State.setQueue_sendWait (s : State) (k : Nat) (v : Queue) : (s.setQueue k v).sendWait = s.sendWait := rfl
@[simp] theorem State.setQueue_now (s : State) (k : Nat) (v : Queue) : (s.setQueue k v).now = s.now := rfl
@[simp] theorem State.setQueue_osc (s : State) (k : Nat) (v : Queue) : (s.setQueue k v).osc = s.osc := rfl
@[simp] theorem State.setQueue_refilled (s : State) (k : Nat) (v : Queue) : (s.setQueue k v).refilled = s.refilled := rfl
@[simp] theorem State.setQueue_windowed (s : State) (k : Nat) (v : Queue) : (s.setQueue k v).windowed = s.windowed := rfl
@[simp] theorem State.setQueue_slewed (s : State) (k : Nat) (v : Queue) : (s.setQueue k v).slewed = s.slewed := rfl
@[simp] theorem State.setQueue_pkg (s : State) (k : Nat) (v : Queue) : (s.setQueue k v).pkg = s.pkg := rfl
@[simp] theorem State.setQueue_domain (s : State) (k : Nat) (v : Queue) : (s.setQueue k v).domain = s.domain := rfl
@[simp] theorem State.setQueue_cxlDram (s : State) (k : Nat) (v : Queue) : (s.setQueue k v).cxlDram = s.cxlDram := rfl
@[simp] theorem State.setQueue_cxlFlash (s : State) (k : Nat) (v : Queue) : (s.setQueue k v).cxlFlash = s.cxlFlash := rfl
@[simp] theorem State.setQueue_tagBase (s : State) (k : Nat) (v : Queue) : (s.setQueue k v).tagBase = s.tagBase := rfl
@[simp] theorem State.setQueue_csel (s : State) (k : Nat) (v : Queue) : (s.setQueue k v).csel = s.csel := rfl
@[simp] theorem State.setQueue_hostCsel (s : State) (k : Nat) (v : Queue) : (s.setQueue k v).hostCsel = s.hostCsel := rfl
@[simp] theorem State.setQueue_cur (s : State) (k : Nat) (v : Queue) : (s.setQueue k v).cur = s.cur := rfl
@[simp] theorem State.setQueue_opts (s : State) (k : Nat) (v : Queue) : (s.setQueue k v).opts = s.opts := rfl
@[simp] theorem State.setQueue_busy (s : State) (k : Nat) (v : Queue) : (s.setQueue k v).busy = s.busy := rfl
@[simp] theorem State.setQueue_arg (s : State) (k : Nat) (v : Queue) : (s.setQueue k v).arg = s.arg := rfl
@[simp] theorem State.setQueue_agenda (s : State) (k : Nat) (v : Queue) : (s.setQueue k v).agenda = s.agenda := rfl
@[simp] theorem State.setQueue_fresh (s : State) (k : Nat) (v : Queue) : (s.setQueue k v).fresh = s.fresh := rfl

/-! ## State.setGrove -/

@[simp] theorem State.setGrove_mem (s : State) (g : Nat) (v : Grove) : (s.setGrove g v).mem = s.mem := rfl
@[simp] theorem State.setGrove_slots (s : State) (g : Nat) (v : Grove) : (s.setGrove g v).slots = s.slots := rfl
@[simp] theorem State.setGrove_ctxs (s : State) (g : Nat) (v : Grove) : (s.setGrove g v).ctxs = s.ctxs := rfl
@[simp] theorem State.setGrove_queues (s : State) (g : Nat) (v : Grove) : (s.setGrove g v).queues = s.queues := rfl
@[simp] theorem State.setGrove_crews (s : State) (g : Nat) (v : Grove) : (s.setGrove g v).crews = s.crews := rfl
@[simp] theorem State.setGrove_hostErrors (s : State) (g : Nat) (v : Grove) : (s.setGrove g v).hostErrors = s.hostErrors := rfl
@[simp] theorem State.setGrove_cores (s : State) (g : Nat) (v : Grove) : (s.setGrove g v).cores = s.cores := rfl
@[simp] theorem State.setGrove_power (s : State) (g : Nat) (v : Grove) : (s.setGrove g v).power = s.power := rfl
@[simp] theorem State.setGrove_graphs (s : State) (g : Nat) (v : Grove) : (s.setGrove g v).graphs = s.graphs := rfl
@[simp] theorem State.setGrove_nextGraph (s : State) (g : Nat) (v : Grove) : (s.setGrove g v).nextGraph = s.nextGraph := rfl
@[simp] theorem State.setGrove_handles (s : State) (g : Nat) (v : Grove) : (s.setGrove g v).handles = s.handles := rfl
@[simp] theorem State.setGrove_conts (s : State) (g : Nat) (v : Grove) : (s.setGrove g v).conts = s.conts := rfl
@[simp] theorem State.setGrove_moves (s : State) (g : Nat) (v : Grove) : (s.setGrove g v).moves = s.moves := rfl
@[simp] theorem State.setGrove_migrations (s : State) (g : Nat) (v : Grove) : (s.setGrove g v).migrations = s.migrations := rfl
@[simp] theorem State.setGrove_dramFree (s : State) (g : Nat) (v : Grove) : (s.setGrove g v).dramFree = s.dramFree := rfl
@[simp] theorem State.setGrove_flashFree (s : State) (g : Nat) (v : Grove) : (s.setGrove g v).flashFree = s.flashFree := rfl
@[simp] theorem State.setGrove_hbmFree (s : State) (g : Nat) (v : Grove) : (s.setGrove g v).hbmFree = s.hbmFree := rfl
@[simp] theorem State.setGrove_ras (s : State) (g : Nat) (v : Grove) : (s.setGrove g v).ras = s.ras := rfl
@[simp] theorem State.setGrove_deadLandings (s : State) (g : Nat) (v : Grove) : (s.setGrove g v).deadLandings = s.deadLandings := rfl
@[simp] theorem State.setGrove_links (s : State) (g : Nat) (v : Grove) : (s.setGrove g v).links = s.links := rfl
@[simp] theorem State.setGrove_groups (s : State) (g : Nat) (v : Grove) : (s.setGrove g v).groups = s.groups := rfl
@[simp] theorem State.setGrove_replies (s : State) (g : Nat) (v : Grove) : (s.setGrove g v).replies = s.replies := rfl
@[simp] theorem State.setGrove_noticesDue (s : State) (g : Nat) (v : Grove) : (s.setGrove g v).noticesDue = s.noticesDue := rfl
@[simp] theorem State.setGrove_arrived (s : State) (g : Nat) (v : Grove) : (s.setGrove g v).arrived = s.arrived := rfl
@[simp] theorem State.setGrove_heldOver (s : State) (g : Nat) (v : Grove) : (s.setGrove g v).heldOver = s.heldOver := rfl
@[simp] theorem State.setGrove_seenTo (s : State) (g : Nat) (v : Grove) : (s.setGrove g v).seenTo = s.seenTo := rfl
@[simp] theorem State.setGrove_seenPast (s : State) (g : Nat) (v : Grove) : (s.setGrove g v).seenPast = s.seenPast := rfl
@[simp] theorem State.setGrove_ptpHeld (s : State) (g : Nat) (v : Grove) : (s.setGrove g v).ptpHeld = s.ptpHeld := rfl
@[simp] theorem State.setGrove_far (s : State) (g : Nat) (v : Grove) : (s.setGrove g v).far = s.far := rfl
@[simp] theorem State.setGrove_ticked (s : State) (g : Nat) (v : Grove) : (s.setGrove g v).ticked = s.ticked := rfl
@[simp] theorem State.setGrove_peerOut (s : State) (g : Nat) (v : Grove) : (s.setGrove g v).peerOut = s.peerOut := rfl
@[simp] theorem State.setGrove_farCrews (s : State) (g : Nat) (v : Grove) : (s.setGrove g v).farCrews = s.farCrews := rfl
@[simp] theorem State.setGrove_qps (s : State) (g : Nat) (v : Grove) : (s.setGrove g v).qps = s.qps := rfl
@[simp] theorem State.setGrove_qpres (s : State) (g : Nat) (v : Grove) : (s.setGrove g v).qpres = s.qpres := rfl
@[simp] theorem State.setGrove_dbg (s : State) (g : Nat) (v : Grove) : (s.setGrove g v).dbg = s.dbg := rfl
@[simp] theorem State.setGrove_boot (s : State) (g : Nat) (v : Grove) : (s.setGrove g v).boot = s.boot := rfl
@[simp] theorem State.setGrove_hostFrozen (s : State) (g : Nat) (v : Grove) : (s.setGrove g v).hostFrozen = s.hostFrozen := rfl
@[simp] theorem State.setGrove_hostOut (s : State) (g : Nat) (v : Grove) : (s.setGrove g v).hostOut = s.hostOut := rfl
@[simp] theorem State.setGrove_hostLatch (s : State) (g : Nat) (v : Grove) : (s.setGrove g v).hostLatch = s.hostLatch := rfl
@[simp] theorem State.setGrove_ptpSync (s : State) (g : Nat) (v : Grove) : (s.setGrove g v).ptpSync = s.ptpSync := rfl
@[simp] theorem State.setGrove_ptpOnce (s : State) (g : Nat) (v : Grove) : (s.setGrove g v).ptpOnce = s.ptpOnce := rfl
@[simp] theorem State.setGrove_ptpPort (s : State) (g : Nat) (v : Grove) : (s.setGrove g v).ptpPort = s.ptpPort := rfl
@[simp] theorem State.setGrove_ptpOffset (s : State) (g : Nat) (v : Grove) : (s.setGrove g v).ptpOffset = s.ptpOffset := rfl
@[simp] theorem State.setGrove_slew (s : State) (g : Nat) (v : Grove) : (s.setGrove g v).slew = s.slew := rfl
@[simp] theorem State.setGrove_ptpDomain (s : State) (g : Nat) (v : Grove) : (s.setGrove g v).ptpDomain = s.ptpDomain := rfl
@[simp] theorem State.setGrove_memBase (s : State) (g : Nat) (v : Grove) : (s.setGrove g v).memBase = s.memBase := rfl
@[simp] theorem State.setGrove_memSize (s : State) (g : Nat) (v : Grove) : (s.setGrove g v).memSize = s.memSize := rfl
@[simp] theorem State.setGrove_stamp (s : State) (g : Nat) (v : Grove) : (s.setGrove g v).stamp = s.stamp := rfl
@[simp] theorem State.setGrove_spent (s : State) (g : Nat) (v : Grove) : (s.setGrove g v).spent = s.spent := rfl
@[simp] theorem State.setGrove_requests (s : State) (g : Nat) (v : Grove) : (s.setGrove g v).requests = s.requests := rfl
@[simp] theorem State.setGrove_nextSeq (s : State) (g : Nat) (v : Grove) : (s.setGrove g v).nextSeq = s.nextSeq := rfl
@[simp] theorem State.setGrove_nextReq (s : State) (g : Nat) (v : Grove) : (s.setGrove g v).nextReq = s.nextReq := rfl
@[simp] theorem State.setGrove_feWait (s : State) (g : Nat) (v : Grove) : (s.setGrove g v).feWait = s.feWait := rfl
@[simp] theorem State.setGrove_farWait (s : State) (g : Nat) (v : Grove) : (s.setGrove g v).farWait = s.farWait := rfl
@[simp] theorem State.setGrove_farHalf (s : State) (g : Nat) (v : Grove) : (s.setGrove g v).farHalf = s.farHalf := rfl
@[simp] theorem State.setGrove_sendWait (s : State) (g : Nat) (v : Grove) : (s.setGrove g v).sendWait = s.sendWait := rfl
@[simp] theorem State.setGrove_now (s : State) (g : Nat) (v : Grove) : (s.setGrove g v).now = s.now := rfl
@[simp] theorem State.setGrove_osc (s : State) (g : Nat) (v : Grove) : (s.setGrove g v).osc = s.osc := rfl
@[simp] theorem State.setGrove_refilled (s : State) (g : Nat) (v : Grove) : (s.setGrove g v).refilled = s.refilled := rfl
@[simp] theorem State.setGrove_windowed (s : State) (g : Nat) (v : Grove) : (s.setGrove g v).windowed = s.windowed := rfl
@[simp] theorem State.setGrove_slewed (s : State) (g : Nat) (v : Grove) : (s.setGrove g v).slewed = s.slewed := rfl
@[simp] theorem State.setGrove_pkg (s : State) (g : Nat) (v : Grove) : (s.setGrove g v).pkg = s.pkg := rfl
@[simp] theorem State.setGrove_domain (s : State) (g : Nat) (v : Grove) : (s.setGrove g v).domain = s.domain := rfl
@[simp] theorem State.setGrove_cxlDram (s : State) (g : Nat) (v : Grove) : (s.setGrove g v).cxlDram = s.cxlDram := rfl
@[simp] theorem State.setGrove_cxlFlash (s : State) (g : Nat) (v : Grove) : (s.setGrove g v).cxlFlash = s.cxlFlash := rfl
@[simp] theorem State.setGrove_tagBase (s : State) (g : Nat) (v : Grove) : (s.setGrove g v).tagBase = s.tagBase := rfl
@[simp] theorem State.setGrove_csel (s : State) (g : Nat) (v : Grove) : (s.setGrove g v).csel = s.csel := rfl
@[simp] theorem State.setGrove_hostCsel (s : State) (g : Nat) (v : Grove) : (s.setGrove g v).hostCsel = s.hostCsel := rfl
@[simp] theorem State.setGrove_cur (s : State) (g : Nat) (v : Grove) : (s.setGrove g v).cur = s.cur := rfl
@[simp] theorem State.setGrove_opts (s : State) (g : Nat) (v : Grove) : (s.setGrove g v).opts = s.opts := rfl
@[simp] theorem State.setGrove_busy (s : State) (g : Nat) (v : Grove) : (s.setGrove g v).busy = s.busy := rfl
@[simp] theorem State.setGrove_arg (s : State) (g : Nat) (v : Grove) : (s.setGrove g v).arg = s.arg := rfl
@[simp] theorem State.setGrove_agenda (s : State) (g : Nat) (v : Grove) : (s.setGrove g v).agenda = s.agenda := rfl
@[simp] theorem State.setGrove_fresh (s : State) (g : Nat) (v : Grove) : (s.setGrove g v).fresh = s.fresh := rfl

/-! ## State.setCore -/

@[simp] theorem State.setCore_mem (s : State) (n : Nat) (v : CoreState) : (s.setCore n v).mem = s.mem := rfl
@[simp] theorem State.setCore_slots (s : State) (n : Nat) (v : CoreState) : (s.setCore n v).slots = s.slots := rfl
@[simp] theorem State.setCore_ctxs (s : State) (n : Nat) (v : CoreState) : (s.setCore n v).ctxs = s.ctxs := rfl
@[simp] theorem State.setCore_queues (s : State) (n : Nat) (v : CoreState) : (s.setCore n v).queues = s.queues := rfl
@[simp] theorem State.setCore_crews (s : State) (n : Nat) (v : CoreState) : (s.setCore n v).crews = s.crews := rfl
@[simp] theorem State.setCore_hostErrors (s : State) (n : Nat) (v : CoreState) : (s.setCore n v).hostErrors = s.hostErrors := rfl
@[simp] theorem State.setCore_groves (s : State) (n : Nat) (v : CoreState) : (s.setCore n v).groves = s.groves := rfl
@[simp] theorem State.setCore_power (s : State) (n : Nat) (v : CoreState) : (s.setCore n v).power = s.power := rfl
@[simp] theorem State.setCore_graphs (s : State) (n : Nat) (v : CoreState) : (s.setCore n v).graphs = s.graphs := rfl
@[simp] theorem State.setCore_nextGraph (s : State) (n : Nat) (v : CoreState) : (s.setCore n v).nextGraph = s.nextGraph := rfl
@[simp] theorem State.setCore_handles (s : State) (n : Nat) (v : CoreState) : (s.setCore n v).handles = s.handles := rfl
@[simp] theorem State.setCore_conts (s : State) (n : Nat) (v : CoreState) : (s.setCore n v).conts = s.conts := rfl
@[simp] theorem State.setCore_moves (s : State) (n : Nat) (v : CoreState) : (s.setCore n v).moves = s.moves := rfl
@[simp] theorem State.setCore_migrations (s : State) (n : Nat) (v : CoreState) : (s.setCore n v).migrations = s.migrations := rfl
@[simp] theorem State.setCore_dramFree (s : State) (n : Nat) (v : CoreState) : (s.setCore n v).dramFree = s.dramFree := rfl
@[simp] theorem State.setCore_flashFree (s : State) (n : Nat) (v : CoreState) : (s.setCore n v).flashFree = s.flashFree := rfl
@[simp] theorem State.setCore_hbmFree (s : State) (n : Nat) (v : CoreState) : (s.setCore n v).hbmFree = s.hbmFree := rfl
@[simp] theorem State.setCore_ras (s : State) (n : Nat) (v : CoreState) : (s.setCore n v).ras = s.ras := rfl
@[simp] theorem State.setCore_deadLandings (s : State) (n : Nat) (v : CoreState) : (s.setCore n v).deadLandings = s.deadLandings := rfl
@[simp] theorem State.setCore_links (s : State) (n : Nat) (v : CoreState) : (s.setCore n v).links = s.links := rfl
@[simp] theorem State.setCore_groups (s : State) (n : Nat) (v : CoreState) : (s.setCore n v).groups = s.groups := rfl
@[simp] theorem State.setCore_replies (s : State) (n : Nat) (v : CoreState) : (s.setCore n v).replies = s.replies := rfl
@[simp] theorem State.setCore_noticesDue (s : State) (n : Nat) (v : CoreState) : (s.setCore n v).noticesDue = s.noticesDue := rfl
@[simp] theorem State.setCore_arrived (s : State) (n : Nat) (v : CoreState) : (s.setCore n v).arrived = s.arrived := rfl
@[simp] theorem State.setCore_heldOver (s : State) (n : Nat) (v : CoreState) : (s.setCore n v).heldOver = s.heldOver := rfl
@[simp] theorem State.setCore_seenTo (s : State) (n : Nat) (v : CoreState) : (s.setCore n v).seenTo = s.seenTo := rfl
@[simp] theorem State.setCore_seenPast (s : State) (n : Nat) (v : CoreState) : (s.setCore n v).seenPast = s.seenPast := rfl
@[simp] theorem State.setCore_ptpHeld (s : State) (n : Nat) (v : CoreState) : (s.setCore n v).ptpHeld = s.ptpHeld := rfl
@[simp] theorem State.setCore_far (s : State) (n : Nat) (v : CoreState) : (s.setCore n v).far = s.far := rfl
@[simp] theorem State.setCore_ticked (s : State) (n : Nat) (v : CoreState) : (s.setCore n v).ticked = s.ticked := rfl
@[simp] theorem State.setCore_peerOut (s : State) (n : Nat) (v : CoreState) : (s.setCore n v).peerOut = s.peerOut := rfl
@[simp] theorem State.setCore_farCrews (s : State) (n : Nat) (v : CoreState) : (s.setCore n v).farCrews = s.farCrews := rfl
@[simp] theorem State.setCore_qps (s : State) (n : Nat) (v : CoreState) : (s.setCore n v).qps = s.qps := rfl
@[simp] theorem State.setCore_qpres (s : State) (n : Nat) (v : CoreState) : (s.setCore n v).qpres = s.qpres := rfl
@[simp] theorem State.setCore_dbg (s : State) (n : Nat) (v : CoreState) : (s.setCore n v).dbg = s.dbg := rfl
@[simp] theorem State.setCore_boot (s : State) (n : Nat) (v : CoreState) : (s.setCore n v).boot = s.boot := rfl
@[simp] theorem State.setCore_hostFrozen (s : State) (n : Nat) (v : CoreState) : (s.setCore n v).hostFrozen = s.hostFrozen := rfl
@[simp] theorem State.setCore_hostOut (s : State) (n : Nat) (v : CoreState) : (s.setCore n v).hostOut = s.hostOut := rfl
@[simp] theorem State.setCore_hostLatch (s : State) (n : Nat) (v : CoreState) : (s.setCore n v).hostLatch = s.hostLatch := rfl
@[simp] theorem State.setCore_ptpSync (s : State) (n : Nat) (v : CoreState) : (s.setCore n v).ptpSync = s.ptpSync := rfl
@[simp] theorem State.setCore_ptpOnce (s : State) (n : Nat) (v : CoreState) : (s.setCore n v).ptpOnce = s.ptpOnce := rfl
@[simp] theorem State.setCore_ptpPort (s : State) (n : Nat) (v : CoreState) : (s.setCore n v).ptpPort = s.ptpPort := rfl
@[simp] theorem State.setCore_ptpOffset (s : State) (n : Nat) (v : CoreState) : (s.setCore n v).ptpOffset = s.ptpOffset := rfl
@[simp] theorem State.setCore_slew (s : State) (n : Nat) (v : CoreState) : (s.setCore n v).slew = s.slew := rfl
@[simp] theorem State.setCore_ptpDomain (s : State) (n : Nat) (v : CoreState) : (s.setCore n v).ptpDomain = s.ptpDomain := rfl
@[simp] theorem State.setCore_memBase (s : State) (n : Nat) (v : CoreState) : (s.setCore n v).memBase = s.memBase := rfl
@[simp] theorem State.setCore_memSize (s : State) (n : Nat) (v : CoreState) : (s.setCore n v).memSize = s.memSize := rfl
@[simp] theorem State.setCore_stamp (s : State) (n : Nat) (v : CoreState) : (s.setCore n v).stamp = s.stamp := rfl
@[simp] theorem State.setCore_spent (s : State) (n : Nat) (v : CoreState) : (s.setCore n v).spent = s.spent := rfl
@[simp] theorem State.setCore_requests (s : State) (n : Nat) (v : CoreState) : (s.setCore n v).requests = s.requests := rfl
@[simp] theorem State.setCore_nextSeq (s : State) (n : Nat) (v : CoreState) : (s.setCore n v).nextSeq = s.nextSeq := rfl
@[simp] theorem State.setCore_nextReq (s : State) (n : Nat) (v : CoreState) : (s.setCore n v).nextReq = s.nextReq := rfl
@[simp] theorem State.setCore_feWait (s : State) (n : Nat) (v : CoreState) : (s.setCore n v).feWait = s.feWait := rfl
@[simp] theorem State.setCore_farWait (s : State) (n : Nat) (v : CoreState) : (s.setCore n v).farWait = s.farWait := rfl
@[simp] theorem State.setCore_farHalf (s : State) (n : Nat) (v : CoreState) : (s.setCore n v).farHalf = s.farHalf := rfl
@[simp] theorem State.setCore_sendWait (s : State) (n : Nat) (v : CoreState) : (s.setCore n v).sendWait = s.sendWait := rfl
@[simp] theorem State.setCore_now (s : State) (n : Nat) (v : CoreState) : (s.setCore n v).now = s.now := rfl
@[simp] theorem State.setCore_osc (s : State) (n : Nat) (v : CoreState) : (s.setCore n v).osc = s.osc := rfl
@[simp] theorem State.setCore_refilled (s : State) (n : Nat) (v : CoreState) : (s.setCore n v).refilled = s.refilled := rfl
@[simp] theorem State.setCore_windowed (s : State) (n : Nat) (v : CoreState) : (s.setCore n v).windowed = s.windowed := rfl
@[simp] theorem State.setCore_slewed (s : State) (n : Nat) (v : CoreState) : (s.setCore n v).slewed = s.slewed := rfl
@[simp] theorem State.setCore_pkg (s : State) (n : Nat) (v : CoreState) : (s.setCore n v).pkg = s.pkg := rfl
@[simp] theorem State.setCore_domain (s : State) (n : Nat) (v : CoreState) : (s.setCore n v).domain = s.domain := rfl
@[simp] theorem State.setCore_cxlDram (s : State) (n : Nat) (v : CoreState) : (s.setCore n v).cxlDram = s.cxlDram := rfl
@[simp] theorem State.setCore_cxlFlash (s : State) (n : Nat) (v : CoreState) : (s.setCore n v).cxlFlash = s.cxlFlash := rfl
@[simp] theorem State.setCore_tagBase (s : State) (n : Nat) (v : CoreState) : (s.setCore n v).tagBase = s.tagBase := rfl
@[simp] theorem State.setCore_csel (s : State) (n : Nat) (v : CoreState) : (s.setCore n v).csel = s.csel := rfl
@[simp] theorem State.setCore_hostCsel (s : State) (n : Nat) (v : CoreState) : (s.setCore n v).hostCsel = s.hostCsel := rfl
@[simp] theorem State.setCore_cur (s : State) (n : Nat) (v : CoreState) : (s.setCore n v).cur = s.cur := rfl
@[simp] theorem State.setCore_opts (s : State) (n : Nat) (v : CoreState) : (s.setCore n v).opts = s.opts := rfl
@[simp] theorem State.setCore_busy (s : State) (n : Nat) (v : CoreState) : (s.setCore n v).busy = s.busy := rfl
@[simp] theorem State.setCore_arg (s : State) (n : Nat) (v : CoreState) : (s.setCore n v).arg = s.arg := rfl
@[simp] theorem State.setCore_agenda (s : State) (n : Nat) (v : CoreState) : (s.setCore n v).agenda = s.agenda := rfl
@[simp] theorem State.setCore_fresh (s : State) (n : Nat) (v : CoreState) : (s.setCore n v).fresh = s.fresh := rfl

/-! ## State.setGraph -/

@[simp] theorem State.setGraph_mem (s : State) (k : Nat) (v : Graph) : (s.setGraph k v).mem = s.mem := rfl
@[simp] theorem State.setGraph_slots (s : State) (k : Nat) (v : Graph) : (s.setGraph k v).slots = s.slots := rfl
@[simp] theorem State.setGraph_ctxs (s : State) (k : Nat) (v : Graph) : (s.setGraph k v).ctxs = s.ctxs := rfl
@[simp] theorem State.setGraph_queues (s : State) (k : Nat) (v : Graph) : (s.setGraph k v).queues = s.queues := rfl
@[simp] theorem State.setGraph_crews (s : State) (k : Nat) (v : Graph) : (s.setGraph k v).crews = s.crews := rfl
@[simp] theorem State.setGraph_hostErrors (s : State) (k : Nat) (v : Graph) : (s.setGraph k v).hostErrors = s.hostErrors := rfl
@[simp] theorem State.setGraph_groves (s : State) (k : Nat) (v : Graph) : (s.setGraph k v).groves = s.groves := rfl
@[simp] theorem State.setGraph_cores (s : State) (k : Nat) (v : Graph) : (s.setGraph k v).cores = s.cores := rfl
@[simp] theorem State.setGraph_power (s : State) (k : Nat) (v : Graph) : (s.setGraph k v).power = s.power := rfl
@[simp] theorem State.setGraph_nextGraph (s : State) (k : Nat) (v : Graph) : (s.setGraph k v).nextGraph = s.nextGraph := rfl
@[simp] theorem State.setGraph_handles (s : State) (k : Nat) (v : Graph) : (s.setGraph k v).handles = s.handles := rfl
@[simp] theorem State.setGraph_conts (s : State) (k : Nat) (v : Graph) : (s.setGraph k v).conts = s.conts := rfl
@[simp] theorem State.setGraph_moves (s : State) (k : Nat) (v : Graph) : (s.setGraph k v).moves = s.moves := rfl
@[simp] theorem State.setGraph_migrations (s : State) (k : Nat) (v : Graph) : (s.setGraph k v).migrations = s.migrations := rfl
@[simp] theorem State.setGraph_dramFree (s : State) (k : Nat) (v : Graph) : (s.setGraph k v).dramFree = s.dramFree := rfl
@[simp] theorem State.setGraph_flashFree (s : State) (k : Nat) (v : Graph) : (s.setGraph k v).flashFree = s.flashFree := rfl
@[simp] theorem State.setGraph_hbmFree (s : State) (k : Nat) (v : Graph) : (s.setGraph k v).hbmFree = s.hbmFree := rfl
@[simp] theorem State.setGraph_ras (s : State) (k : Nat) (v : Graph) : (s.setGraph k v).ras = s.ras := rfl
@[simp] theorem State.setGraph_deadLandings (s : State) (k : Nat) (v : Graph) : (s.setGraph k v).deadLandings = s.deadLandings := rfl
@[simp] theorem State.setGraph_links (s : State) (k : Nat) (v : Graph) : (s.setGraph k v).links = s.links := rfl
@[simp] theorem State.setGraph_groups (s : State) (k : Nat) (v : Graph) : (s.setGraph k v).groups = s.groups := rfl
@[simp] theorem State.setGraph_replies (s : State) (k : Nat) (v : Graph) : (s.setGraph k v).replies = s.replies := rfl
@[simp] theorem State.setGraph_noticesDue (s : State) (k : Nat) (v : Graph) : (s.setGraph k v).noticesDue = s.noticesDue := rfl
@[simp] theorem State.setGraph_arrived (s : State) (k : Nat) (v : Graph) : (s.setGraph k v).arrived = s.arrived := rfl
@[simp] theorem State.setGraph_heldOver (s : State) (k : Nat) (v : Graph) : (s.setGraph k v).heldOver = s.heldOver := rfl
@[simp] theorem State.setGraph_seenTo (s : State) (k : Nat) (v : Graph) : (s.setGraph k v).seenTo = s.seenTo := rfl
@[simp] theorem State.setGraph_seenPast (s : State) (k : Nat) (v : Graph) : (s.setGraph k v).seenPast = s.seenPast := rfl
@[simp] theorem State.setGraph_ptpHeld (s : State) (k : Nat) (v : Graph) : (s.setGraph k v).ptpHeld = s.ptpHeld := rfl
@[simp] theorem State.setGraph_far (s : State) (k : Nat) (v : Graph) : (s.setGraph k v).far = s.far := rfl
@[simp] theorem State.setGraph_ticked (s : State) (k : Nat) (v : Graph) : (s.setGraph k v).ticked = s.ticked := rfl
@[simp] theorem State.setGraph_peerOut (s : State) (k : Nat) (v : Graph) : (s.setGraph k v).peerOut = s.peerOut := rfl
@[simp] theorem State.setGraph_farCrews (s : State) (k : Nat) (v : Graph) : (s.setGraph k v).farCrews = s.farCrews := rfl
@[simp] theorem State.setGraph_qps (s : State) (k : Nat) (v : Graph) : (s.setGraph k v).qps = s.qps := rfl
@[simp] theorem State.setGraph_qpres (s : State) (k : Nat) (v : Graph) : (s.setGraph k v).qpres = s.qpres := rfl
@[simp] theorem State.setGraph_dbg (s : State) (k : Nat) (v : Graph) : (s.setGraph k v).dbg = s.dbg := rfl
@[simp] theorem State.setGraph_boot (s : State) (k : Nat) (v : Graph) : (s.setGraph k v).boot = s.boot := rfl
@[simp] theorem State.setGraph_hostFrozen (s : State) (k : Nat) (v : Graph) : (s.setGraph k v).hostFrozen = s.hostFrozen := rfl
@[simp] theorem State.setGraph_hostOut (s : State) (k : Nat) (v : Graph) : (s.setGraph k v).hostOut = s.hostOut := rfl
@[simp] theorem State.setGraph_hostLatch (s : State) (k : Nat) (v : Graph) : (s.setGraph k v).hostLatch = s.hostLatch := rfl
@[simp] theorem State.setGraph_ptpSync (s : State) (k : Nat) (v : Graph) : (s.setGraph k v).ptpSync = s.ptpSync := rfl
@[simp] theorem State.setGraph_ptpOnce (s : State) (k : Nat) (v : Graph) : (s.setGraph k v).ptpOnce = s.ptpOnce := rfl
@[simp] theorem State.setGraph_ptpPort (s : State) (k : Nat) (v : Graph) : (s.setGraph k v).ptpPort = s.ptpPort := rfl
@[simp] theorem State.setGraph_ptpOffset (s : State) (k : Nat) (v : Graph) : (s.setGraph k v).ptpOffset = s.ptpOffset := rfl
@[simp] theorem State.setGraph_slew (s : State) (k : Nat) (v : Graph) : (s.setGraph k v).slew = s.slew := rfl
@[simp] theorem State.setGraph_ptpDomain (s : State) (k : Nat) (v : Graph) : (s.setGraph k v).ptpDomain = s.ptpDomain := rfl
@[simp] theorem State.setGraph_memBase (s : State) (k : Nat) (v : Graph) : (s.setGraph k v).memBase = s.memBase := rfl
@[simp] theorem State.setGraph_memSize (s : State) (k : Nat) (v : Graph) : (s.setGraph k v).memSize = s.memSize := rfl
@[simp] theorem State.setGraph_stamp (s : State) (k : Nat) (v : Graph) : (s.setGraph k v).stamp = s.stamp := rfl
@[simp] theorem State.setGraph_spent (s : State) (k : Nat) (v : Graph) : (s.setGraph k v).spent = s.spent := rfl
@[simp] theorem State.setGraph_requests (s : State) (k : Nat) (v : Graph) : (s.setGraph k v).requests = s.requests := rfl
@[simp] theorem State.setGraph_nextSeq (s : State) (k : Nat) (v : Graph) : (s.setGraph k v).nextSeq = s.nextSeq := rfl
@[simp] theorem State.setGraph_nextReq (s : State) (k : Nat) (v : Graph) : (s.setGraph k v).nextReq = s.nextReq := rfl
@[simp] theorem State.setGraph_feWait (s : State) (k : Nat) (v : Graph) : (s.setGraph k v).feWait = s.feWait := rfl
@[simp] theorem State.setGraph_farWait (s : State) (k : Nat) (v : Graph) : (s.setGraph k v).farWait = s.farWait := rfl
@[simp] theorem State.setGraph_farHalf (s : State) (k : Nat) (v : Graph) : (s.setGraph k v).farHalf = s.farHalf := rfl
@[simp] theorem State.setGraph_sendWait (s : State) (k : Nat) (v : Graph) : (s.setGraph k v).sendWait = s.sendWait := rfl
@[simp] theorem State.setGraph_now (s : State) (k : Nat) (v : Graph) : (s.setGraph k v).now = s.now := rfl
@[simp] theorem State.setGraph_osc (s : State) (k : Nat) (v : Graph) : (s.setGraph k v).osc = s.osc := rfl
@[simp] theorem State.setGraph_refilled (s : State) (k : Nat) (v : Graph) : (s.setGraph k v).refilled = s.refilled := rfl
@[simp] theorem State.setGraph_windowed (s : State) (k : Nat) (v : Graph) : (s.setGraph k v).windowed = s.windowed := rfl
@[simp] theorem State.setGraph_slewed (s : State) (k : Nat) (v : Graph) : (s.setGraph k v).slewed = s.slewed := rfl
@[simp] theorem State.setGraph_pkg (s : State) (k : Nat) (v : Graph) : (s.setGraph k v).pkg = s.pkg := rfl
@[simp] theorem State.setGraph_domain (s : State) (k : Nat) (v : Graph) : (s.setGraph k v).domain = s.domain := rfl
@[simp] theorem State.setGraph_cxlDram (s : State) (k : Nat) (v : Graph) : (s.setGraph k v).cxlDram = s.cxlDram := rfl
@[simp] theorem State.setGraph_cxlFlash (s : State) (k : Nat) (v : Graph) : (s.setGraph k v).cxlFlash = s.cxlFlash := rfl
@[simp] theorem State.setGraph_tagBase (s : State) (k : Nat) (v : Graph) : (s.setGraph k v).tagBase = s.tagBase := rfl
@[simp] theorem State.setGraph_csel (s : State) (k : Nat) (v : Graph) : (s.setGraph k v).csel = s.csel := rfl
@[simp] theorem State.setGraph_hostCsel (s : State) (k : Nat) (v : Graph) : (s.setGraph k v).hostCsel = s.hostCsel := rfl
@[simp] theorem State.setGraph_cur (s : State) (k : Nat) (v : Graph) : (s.setGraph k v).cur = s.cur := rfl
@[simp] theorem State.setGraph_opts (s : State) (k : Nat) (v : Graph) : (s.setGraph k v).opts = s.opts := rfl
@[simp] theorem State.setGraph_busy (s : State) (k : Nat) (v : Graph) : (s.setGraph k v).busy = s.busy := rfl
@[simp] theorem State.setGraph_arg (s : State) (k : Nat) (v : Graph) : (s.setGraph k v).arg = s.arg := rfl
@[simp] theorem State.setGraph_agenda (s : State) (k : Nat) (v : Graph) : (s.setGraph k v).agenda = s.agenda := rfl
@[simp] theorem State.setGraph_fresh (s : State) (k : Nat) (v : Graph) : (s.setGraph k v).fresh = s.fresh := rfl

/-! ## State.setHandle -/

@[simp] theorem State.setHandle_mem (s : State) (i : Nat) (v : Handle) : (s.setHandle i v).mem = s.mem := rfl
@[simp] theorem State.setHandle_slots (s : State) (i : Nat) (v : Handle) : (s.setHandle i v).slots = s.slots := rfl
@[simp] theorem State.setHandle_ctxs (s : State) (i : Nat) (v : Handle) : (s.setHandle i v).ctxs = s.ctxs := rfl
@[simp] theorem State.setHandle_queues (s : State) (i : Nat) (v : Handle) : (s.setHandle i v).queues = s.queues := rfl
@[simp] theorem State.setHandle_crews (s : State) (i : Nat) (v : Handle) : (s.setHandle i v).crews = s.crews := rfl
@[simp] theorem State.setHandle_hostErrors (s : State) (i : Nat) (v : Handle) : (s.setHandle i v).hostErrors = s.hostErrors := rfl
@[simp] theorem State.setHandle_groves (s : State) (i : Nat) (v : Handle) : (s.setHandle i v).groves = s.groves := rfl
@[simp] theorem State.setHandle_cores (s : State) (i : Nat) (v : Handle) : (s.setHandle i v).cores = s.cores := rfl
@[simp] theorem State.setHandle_power (s : State) (i : Nat) (v : Handle) : (s.setHandle i v).power = s.power := rfl
@[simp] theorem State.setHandle_graphs (s : State) (i : Nat) (v : Handle) : (s.setHandle i v).graphs = s.graphs := rfl
@[simp] theorem State.setHandle_nextGraph (s : State) (i : Nat) (v : Handle) : (s.setHandle i v).nextGraph = s.nextGraph := rfl
@[simp] theorem State.setHandle_conts (s : State) (i : Nat) (v : Handle) : (s.setHandle i v).conts = s.conts := rfl
@[simp] theorem State.setHandle_moves (s : State) (i : Nat) (v : Handle) : (s.setHandle i v).moves = s.moves := rfl
@[simp] theorem State.setHandle_migrations (s : State) (i : Nat) (v : Handle) : (s.setHandle i v).migrations = s.migrations := rfl
@[simp] theorem State.setHandle_dramFree (s : State) (i : Nat) (v : Handle) : (s.setHandle i v).dramFree = s.dramFree := rfl
@[simp] theorem State.setHandle_flashFree (s : State) (i : Nat) (v : Handle) : (s.setHandle i v).flashFree = s.flashFree := rfl
@[simp] theorem State.setHandle_hbmFree (s : State) (i : Nat) (v : Handle) : (s.setHandle i v).hbmFree = s.hbmFree := rfl
@[simp] theorem State.setHandle_ras (s : State) (i : Nat) (v : Handle) : (s.setHandle i v).ras = s.ras := rfl
@[simp] theorem State.setHandle_deadLandings (s : State) (i : Nat) (v : Handle) : (s.setHandle i v).deadLandings = s.deadLandings := rfl
@[simp] theorem State.setHandle_links (s : State) (i : Nat) (v : Handle) : (s.setHandle i v).links = s.links := rfl
@[simp] theorem State.setHandle_groups (s : State) (i : Nat) (v : Handle) : (s.setHandle i v).groups = s.groups := rfl
@[simp] theorem State.setHandle_replies (s : State) (i : Nat) (v : Handle) : (s.setHandle i v).replies = s.replies := rfl
@[simp] theorem State.setHandle_noticesDue (s : State) (i : Nat) (v : Handle) : (s.setHandle i v).noticesDue = s.noticesDue := rfl
@[simp] theorem State.setHandle_arrived (s : State) (i : Nat) (v : Handle) : (s.setHandle i v).arrived = s.arrived := rfl
@[simp] theorem State.setHandle_heldOver (s : State) (i : Nat) (v : Handle) : (s.setHandle i v).heldOver = s.heldOver := rfl
@[simp] theorem State.setHandle_seenTo (s : State) (i : Nat) (v : Handle) : (s.setHandle i v).seenTo = s.seenTo := rfl
@[simp] theorem State.setHandle_seenPast (s : State) (i : Nat) (v : Handle) : (s.setHandle i v).seenPast = s.seenPast := rfl
@[simp] theorem State.setHandle_ptpHeld (s : State) (i : Nat) (v : Handle) : (s.setHandle i v).ptpHeld = s.ptpHeld := rfl
@[simp] theorem State.setHandle_far (s : State) (i : Nat) (v : Handle) : (s.setHandle i v).far = s.far := rfl
@[simp] theorem State.setHandle_ticked (s : State) (i : Nat) (v : Handle) : (s.setHandle i v).ticked = s.ticked := rfl
@[simp] theorem State.setHandle_peerOut (s : State) (i : Nat) (v : Handle) : (s.setHandle i v).peerOut = s.peerOut := rfl
@[simp] theorem State.setHandle_farCrews (s : State) (i : Nat) (v : Handle) : (s.setHandle i v).farCrews = s.farCrews := rfl
@[simp] theorem State.setHandle_qps (s : State) (i : Nat) (v : Handle) : (s.setHandle i v).qps = s.qps := rfl
@[simp] theorem State.setHandle_qpres (s : State) (i : Nat) (v : Handle) : (s.setHandle i v).qpres = s.qpres := rfl
@[simp] theorem State.setHandle_dbg (s : State) (i : Nat) (v : Handle) : (s.setHandle i v).dbg = s.dbg := rfl
@[simp] theorem State.setHandle_boot (s : State) (i : Nat) (v : Handle) : (s.setHandle i v).boot = s.boot := rfl
@[simp] theorem State.setHandle_hostFrozen (s : State) (i : Nat) (v : Handle) : (s.setHandle i v).hostFrozen = s.hostFrozen := rfl
@[simp] theorem State.setHandle_hostOut (s : State) (i : Nat) (v : Handle) : (s.setHandle i v).hostOut = s.hostOut := rfl
@[simp] theorem State.setHandle_hostLatch (s : State) (i : Nat) (v : Handle) : (s.setHandle i v).hostLatch = s.hostLatch := rfl
@[simp] theorem State.setHandle_ptpSync (s : State) (i : Nat) (v : Handle) : (s.setHandle i v).ptpSync = s.ptpSync := rfl
@[simp] theorem State.setHandle_ptpOnce (s : State) (i : Nat) (v : Handle) : (s.setHandle i v).ptpOnce = s.ptpOnce := rfl
@[simp] theorem State.setHandle_ptpPort (s : State) (i : Nat) (v : Handle) : (s.setHandle i v).ptpPort = s.ptpPort := rfl
@[simp] theorem State.setHandle_ptpOffset (s : State) (i : Nat) (v : Handle) : (s.setHandle i v).ptpOffset = s.ptpOffset := rfl
@[simp] theorem State.setHandle_slew (s : State) (i : Nat) (v : Handle) : (s.setHandle i v).slew = s.slew := rfl
@[simp] theorem State.setHandle_ptpDomain (s : State) (i : Nat) (v : Handle) : (s.setHandle i v).ptpDomain = s.ptpDomain := rfl
@[simp] theorem State.setHandle_memBase (s : State) (i : Nat) (v : Handle) : (s.setHandle i v).memBase = s.memBase := rfl
@[simp] theorem State.setHandle_memSize (s : State) (i : Nat) (v : Handle) : (s.setHandle i v).memSize = s.memSize := rfl
@[simp] theorem State.setHandle_stamp (s : State) (i : Nat) (v : Handle) : (s.setHandle i v).stamp = s.stamp := rfl
@[simp] theorem State.setHandle_spent (s : State) (i : Nat) (v : Handle) : (s.setHandle i v).spent = s.spent := rfl
@[simp] theorem State.setHandle_requests (s : State) (i : Nat) (v : Handle) : (s.setHandle i v).requests = s.requests := rfl
@[simp] theorem State.setHandle_nextSeq (s : State) (i : Nat) (v : Handle) : (s.setHandle i v).nextSeq = s.nextSeq := rfl
@[simp] theorem State.setHandle_nextReq (s : State) (i : Nat) (v : Handle) : (s.setHandle i v).nextReq = s.nextReq := rfl
@[simp] theorem State.setHandle_feWait (s : State) (i : Nat) (v : Handle) : (s.setHandle i v).feWait = s.feWait := rfl
@[simp] theorem State.setHandle_farWait (s : State) (i : Nat) (v : Handle) : (s.setHandle i v).farWait = s.farWait := rfl
@[simp] theorem State.setHandle_farHalf (s : State) (i : Nat) (v : Handle) : (s.setHandle i v).farHalf = s.farHalf := rfl
@[simp] theorem State.setHandle_sendWait (s : State) (i : Nat) (v : Handle) : (s.setHandle i v).sendWait = s.sendWait := rfl
@[simp] theorem State.setHandle_now (s : State) (i : Nat) (v : Handle) : (s.setHandle i v).now = s.now := rfl
@[simp] theorem State.setHandle_osc (s : State) (i : Nat) (v : Handle) : (s.setHandle i v).osc = s.osc := rfl
@[simp] theorem State.setHandle_refilled (s : State) (i : Nat) (v : Handle) : (s.setHandle i v).refilled = s.refilled := rfl
@[simp] theorem State.setHandle_windowed (s : State) (i : Nat) (v : Handle) : (s.setHandle i v).windowed = s.windowed := rfl
@[simp] theorem State.setHandle_slewed (s : State) (i : Nat) (v : Handle) : (s.setHandle i v).slewed = s.slewed := rfl
@[simp] theorem State.setHandle_pkg (s : State) (i : Nat) (v : Handle) : (s.setHandle i v).pkg = s.pkg := rfl
@[simp] theorem State.setHandle_domain (s : State) (i : Nat) (v : Handle) : (s.setHandle i v).domain = s.domain := rfl
@[simp] theorem State.setHandle_cxlDram (s : State) (i : Nat) (v : Handle) : (s.setHandle i v).cxlDram = s.cxlDram := rfl
@[simp] theorem State.setHandle_cxlFlash (s : State) (i : Nat) (v : Handle) : (s.setHandle i v).cxlFlash = s.cxlFlash := rfl
@[simp] theorem State.setHandle_tagBase (s : State) (i : Nat) (v : Handle) : (s.setHandle i v).tagBase = s.tagBase := rfl
@[simp] theorem State.setHandle_csel (s : State) (i : Nat) (v : Handle) : (s.setHandle i v).csel = s.csel := rfl
@[simp] theorem State.setHandle_hostCsel (s : State) (i : Nat) (v : Handle) : (s.setHandle i v).hostCsel = s.hostCsel := rfl
@[simp] theorem State.setHandle_cur (s : State) (i : Nat) (v : Handle) : (s.setHandle i v).cur = s.cur := rfl
@[simp] theorem State.setHandle_opts (s : State) (i : Nat) (v : Handle) : (s.setHandle i v).opts = s.opts := rfl
@[simp] theorem State.setHandle_busy (s : State) (i : Nat) (v : Handle) : (s.setHandle i v).busy = s.busy := rfl
@[simp] theorem State.setHandle_arg (s : State) (i : Nat) (v : Handle) : (s.setHandle i v).arg = s.arg := rfl
@[simp] theorem State.setHandle_agenda (s : State) (i : Nat) (v : Handle) : (s.setHandle i v).agenda = s.agenda := rfl
@[simp] theorem State.setHandle_fresh (s : State) (i : Nat) (v : Handle) : (s.setHandle i v).fresh = s.fresh := rfl

/-! ## State.setByte -/

@[simp] theorem State.setByte_slots (s : State) (k : Nat) (v : Byte) : (s.setByte k v).slots = s.slots := rfl
@[simp] theorem State.setByte_ctxs (s : State) (k : Nat) (v : Byte) : (s.setByte k v).ctxs = s.ctxs := rfl
@[simp] theorem State.setByte_queues (s : State) (k : Nat) (v : Byte) : (s.setByte k v).queues = s.queues := rfl
@[simp] theorem State.setByte_crews (s : State) (k : Nat) (v : Byte) : (s.setByte k v).crews = s.crews := rfl
@[simp] theorem State.setByte_hostErrors (s : State) (k : Nat) (v : Byte) : (s.setByte k v).hostErrors = s.hostErrors := rfl
@[simp] theorem State.setByte_groves (s : State) (k : Nat) (v : Byte) : (s.setByte k v).groves = s.groves := rfl
@[simp] theorem State.setByte_cores (s : State) (k : Nat) (v : Byte) : (s.setByte k v).cores = s.cores := rfl
@[simp] theorem State.setByte_power (s : State) (k : Nat) (v : Byte) : (s.setByte k v).power = s.power := rfl
@[simp] theorem State.setByte_graphs (s : State) (k : Nat) (v : Byte) : (s.setByte k v).graphs = s.graphs := rfl
@[simp] theorem State.setByte_nextGraph (s : State) (k : Nat) (v : Byte) : (s.setByte k v).nextGraph = s.nextGraph := rfl
@[simp] theorem State.setByte_handles (s : State) (k : Nat) (v : Byte) : (s.setByte k v).handles = s.handles := rfl
@[simp] theorem State.setByte_conts (s : State) (k : Nat) (v : Byte) : (s.setByte k v).conts = s.conts := rfl
@[simp] theorem State.setByte_moves (s : State) (k : Nat) (v : Byte) : (s.setByte k v).moves = s.moves := rfl
@[simp] theorem State.setByte_migrations (s : State) (k : Nat) (v : Byte) : (s.setByte k v).migrations = s.migrations := rfl
@[simp] theorem State.setByte_dramFree (s : State) (k : Nat) (v : Byte) : (s.setByte k v).dramFree = s.dramFree := rfl
@[simp] theorem State.setByte_flashFree (s : State) (k : Nat) (v : Byte) : (s.setByte k v).flashFree = s.flashFree := rfl
@[simp] theorem State.setByte_hbmFree (s : State) (k : Nat) (v : Byte) : (s.setByte k v).hbmFree = s.hbmFree := rfl
@[simp] theorem State.setByte_ras (s : State) (k : Nat) (v : Byte) : (s.setByte k v).ras = s.ras := rfl
@[simp] theorem State.setByte_deadLandings (s : State) (k : Nat) (v : Byte) : (s.setByte k v).deadLandings = s.deadLandings := rfl
@[simp] theorem State.setByte_links (s : State) (k : Nat) (v : Byte) : (s.setByte k v).links = s.links := rfl
@[simp] theorem State.setByte_groups (s : State) (k : Nat) (v : Byte) : (s.setByte k v).groups = s.groups := rfl
@[simp] theorem State.setByte_replies (s : State) (k : Nat) (v : Byte) : (s.setByte k v).replies = s.replies := rfl
@[simp] theorem State.setByte_noticesDue (s : State) (k : Nat) (v : Byte) : (s.setByte k v).noticesDue = s.noticesDue := rfl
@[simp] theorem State.setByte_arrived (s : State) (k : Nat) (v : Byte) : (s.setByte k v).arrived = s.arrived := rfl
@[simp] theorem State.setByte_heldOver (s : State) (k : Nat) (v : Byte) : (s.setByte k v).heldOver = s.heldOver := rfl
@[simp] theorem State.setByte_seenTo (s : State) (k : Nat) (v : Byte) : (s.setByte k v).seenTo = s.seenTo := rfl
@[simp] theorem State.setByte_seenPast (s : State) (k : Nat) (v : Byte) : (s.setByte k v).seenPast = s.seenPast := rfl
@[simp] theorem State.setByte_ptpHeld (s : State) (k : Nat) (v : Byte) : (s.setByte k v).ptpHeld = s.ptpHeld := rfl
@[simp] theorem State.setByte_far (s : State) (k : Nat) (v : Byte) : (s.setByte k v).far = s.far := rfl
@[simp] theorem State.setByte_ticked (s : State) (k : Nat) (v : Byte) : (s.setByte k v).ticked = s.ticked := rfl
@[simp] theorem State.setByte_peerOut (s : State) (k : Nat) (v : Byte) : (s.setByte k v).peerOut = s.peerOut := rfl
@[simp] theorem State.setByte_farCrews (s : State) (k : Nat) (v : Byte) : (s.setByte k v).farCrews = s.farCrews := rfl
@[simp] theorem State.setByte_qps (s : State) (k : Nat) (v : Byte) : (s.setByte k v).qps = s.qps := rfl
@[simp] theorem State.setByte_qpres (s : State) (k : Nat) (v : Byte) : (s.setByte k v).qpres = s.qpres := rfl
@[simp] theorem State.setByte_dbg (s : State) (k : Nat) (v : Byte) : (s.setByte k v).dbg = s.dbg := rfl
@[simp] theorem State.setByte_boot (s : State) (k : Nat) (v : Byte) : (s.setByte k v).boot = s.boot := rfl
@[simp] theorem State.setByte_hostFrozen (s : State) (k : Nat) (v : Byte) : (s.setByte k v).hostFrozen = s.hostFrozen := rfl
@[simp] theorem State.setByte_hostOut (s : State) (k : Nat) (v : Byte) : (s.setByte k v).hostOut = s.hostOut := rfl
@[simp] theorem State.setByte_hostLatch (s : State) (k : Nat) (v : Byte) : (s.setByte k v).hostLatch = s.hostLatch := rfl
@[simp] theorem State.setByte_ptpSync (s : State) (k : Nat) (v : Byte) : (s.setByte k v).ptpSync = s.ptpSync := rfl
@[simp] theorem State.setByte_ptpOnce (s : State) (k : Nat) (v : Byte) : (s.setByte k v).ptpOnce = s.ptpOnce := rfl
@[simp] theorem State.setByte_ptpPort (s : State) (k : Nat) (v : Byte) : (s.setByte k v).ptpPort = s.ptpPort := rfl
@[simp] theorem State.setByte_ptpOffset (s : State) (k : Nat) (v : Byte) : (s.setByte k v).ptpOffset = s.ptpOffset := rfl
@[simp] theorem State.setByte_slew (s : State) (k : Nat) (v : Byte) : (s.setByte k v).slew = s.slew := rfl
@[simp] theorem State.setByte_ptpDomain (s : State) (k : Nat) (v : Byte) : (s.setByte k v).ptpDomain = s.ptpDomain := rfl
@[simp] theorem State.setByte_memBase (s : State) (k : Nat) (v : Byte) : (s.setByte k v).memBase = s.memBase := rfl
@[simp] theorem State.setByte_memSize (s : State) (k : Nat) (v : Byte) : (s.setByte k v).memSize = s.memSize := rfl
@[simp] theorem State.setByte_stamp (s : State) (k : Nat) (v : Byte) : (s.setByte k v).stamp = s.stamp := rfl
@[simp] theorem State.setByte_spent (s : State) (k : Nat) (v : Byte) : (s.setByte k v).spent = s.spent := rfl
@[simp] theorem State.setByte_requests (s : State) (k : Nat) (v : Byte) : (s.setByte k v).requests = s.requests := rfl
@[simp] theorem State.setByte_nextSeq (s : State) (k : Nat) (v : Byte) : (s.setByte k v).nextSeq = s.nextSeq := rfl
@[simp] theorem State.setByte_nextReq (s : State) (k : Nat) (v : Byte) : (s.setByte k v).nextReq = s.nextReq := rfl
@[simp] theorem State.setByte_feWait (s : State) (k : Nat) (v : Byte) : (s.setByte k v).feWait = s.feWait := rfl
@[simp] theorem State.setByte_farWait (s : State) (k : Nat) (v : Byte) : (s.setByte k v).farWait = s.farWait := rfl
@[simp] theorem State.setByte_farHalf (s : State) (k : Nat) (v : Byte) : (s.setByte k v).farHalf = s.farHalf := rfl
@[simp] theorem State.setByte_sendWait (s : State) (k : Nat) (v : Byte) : (s.setByte k v).sendWait = s.sendWait := rfl
@[simp] theorem State.setByte_now (s : State) (k : Nat) (v : Byte) : (s.setByte k v).now = s.now := rfl
@[simp] theorem State.setByte_osc (s : State) (k : Nat) (v : Byte) : (s.setByte k v).osc = s.osc := rfl
@[simp] theorem State.setByte_refilled (s : State) (k : Nat) (v : Byte) : (s.setByte k v).refilled = s.refilled := rfl
@[simp] theorem State.setByte_windowed (s : State) (k : Nat) (v : Byte) : (s.setByte k v).windowed = s.windowed := rfl
@[simp] theorem State.setByte_slewed (s : State) (k : Nat) (v : Byte) : (s.setByte k v).slewed = s.slewed := rfl
@[simp] theorem State.setByte_pkg (s : State) (k : Nat) (v : Byte) : (s.setByte k v).pkg = s.pkg := rfl
@[simp] theorem State.setByte_domain (s : State) (k : Nat) (v : Byte) : (s.setByte k v).domain = s.domain := rfl
@[simp] theorem State.setByte_cxlDram (s : State) (k : Nat) (v : Byte) : (s.setByte k v).cxlDram = s.cxlDram := rfl
@[simp] theorem State.setByte_cxlFlash (s : State) (k : Nat) (v : Byte) : (s.setByte k v).cxlFlash = s.cxlFlash := rfl
@[simp] theorem State.setByte_tagBase (s : State) (k : Nat) (v : Byte) : (s.setByte k v).tagBase = s.tagBase := rfl
@[simp] theorem State.setByte_csel (s : State) (k : Nat) (v : Byte) : (s.setByte k v).csel = s.csel := rfl
@[simp] theorem State.setByte_hostCsel (s : State) (k : Nat) (v : Byte) : (s.setByte k v).hostCsel = s.hostCsel := rfl
@[simp] theorem State.setByte_cur (s : State) (k : Nat) (v : Byte) : (s.setByte k v).cur = s.cur := rfl
@[simp] theorem State.setByte_opts (s : State) (k : Nat) (v : Byte) : (s.setByte k v).opts = s.opts := rfl
@[simp] theorem State.setByte_busy (s : State) (k : Nat) (v : Byte) : (s.setByte k v).busy = s.busy := rfl
@[simp] theorem State.setByte_arg (s : State) (k : Nat) (v : Byte) : (s.setByte k v).arg = s.arg := rfl
@[simp] theorem State.setByte_agenda (s : State) (k : Nat) (v : Byte) : (s.setByte k v).agenda = s.agenda := rfl
@[simp] theorem State.setByte_fresh (s : State) (k : Nat) (v : Byte) : (s.setByte k v).fresh = s.fresh := rfl

/-! ## State.setFull -/

@[simp] theorem State.setFull_slots (s : State) (k : Nat) (v : Bool) : (s.setFull k v).slots = s.slots := rfl
@[simp] theorem State.setFull_ctxs (s : State) (k : Nat) (v : Bool) : (s.setFull k v).ctxs = s.ctxs := rfl
@[simp] theorem State.setFull_queues (s : State) (k : Nat) (v : Bool) : (s.setFull k v).queues = s.queues := rfl
@[simp] theorem State.setFull_crews (s : State) (k : Nat) (v : Bool) : (s.setFull k v).crews = s.crews := rfl
@[simp] theorem State.setFull_hostErrors (s : State) (k : Nat) (v : Bool) : (s.setFull k v).hostErrors = s.hostErrors := rfl
@[simp] theorem State.setFull_groves (s : State) (k : Nat) (v : Bool) : (s.setFull k v).groves = s.groves := rfl
@[simp] theorem State.setFull_cores (s : State) (k : Nat) (v : Bool) : (s.setFull k v).cores = s.cores := rfl
@[simp] theorem State.setFull_power (s : State) (k : Nat) (v : Bool) : (s.setFull k v).power = s.power := rfl
@[simp] theorem State.setFull_graphs (s : State) (k : Nat) (v : Bool) : (s.setFull k v).graphs = s.graphs := rfl
@[simp] theorem State.setFull_nextGraph (s : State) (k : Nat) (v : Bool) : (s.setFull k v).nextGraph = s.nextGraph := rfl
@[simp] theorem State.setFull_handles (s : State) (k : Nat) (v : Bool) : (s.setFull k v).handles = s.handles := rfl
@[simp] theorem State.setFull_conts (s : State) (k : Nat) (v : Bool) : (s.setFull k v).conts = s.conts := rfl
@[simp] theorem State.setFull_moves (s : State) (k : Nat) (v : Bool) : (s.setFull k v).moves = s.moves := rfl
@[simp] theorem State.setFull_migrations (s : State) (k : Nat) (v : Bool) : (s.setFull k v).migrations = s.migrations := rfl
@[simp] theorem State.setFull_dramFree (s : State) (k : Nat) (v : Bool) : (s.setFull k v).dramFree = s.dramFree := rfl
@[simp] theorem State.setFull_flashFree (s : State) (k : Nat) (v : Bool) : (s.setFull k v).flashFree = s.flashFree := rfl
@[simp] theorem State.setFull_hbmFree (s : State) (k : Nat) (v : Bool) : (s.setFull k v).hbmFree = s.hbmFree := rfl
@[simp] theorem State.setFull_ras (s : State) (k : Nat) (v : Bool) : (s.setFull k v).ras = s.ras := rfl
@[simp] theorem State.setFull_deadLandings (s : State) (k : Nat) (v : Bool) : (s.setFull k v).deadLandings = s.deadLandings := rfl
@[simp] theorem State.setFull_links (s : State) (k : Nat) (v : Bool) : (s.setFull k v).links = s.links := rfl
@[simp] theorem State.setFull_groups (s : State) (k : Nat) (v : Bool) : (s.setFull k v).groups = s.groups := rfl
@[simp] theorem State.setFull_replies (s : State) (k : Nat) (v : Bool) : (s.setFull k v).replies = s.replies := rfl
@[simp] theorem State.setFull_noticesDue (s : State) (k : Nat) (v : Bool) : (s.setFull k v).noticesDue = s.noticesDue := rfl
@[simp] theorem State.setFull_arrived (s : State) (k : Nat) (v : Bool) : (s.setFull k v).arrived = s.arrived := rfl
@[simp] theorem State.setFull_heldOver (s : State) (k : Nat) (v : Bool) : (s.setFull k v).heldOver = s.heldOver := rfl
@[simp] theorem State.setFull_seenTo (s : State) (k : Nat) (v : Bool) : (s.setFull k v).seenTo = s.seenTo := rfl
@[simp] theorem State.setFull_seenPast (s : State) (k : Nat) (v : Bool) : (s.setFull k v).seenPast = s.seenPast := rfl
@[simp] theorem State.setFull_ptpHeld (s : State) (k : Nat) (v : Bool) : (s.setFull k v).ptpHeld = s.ptpHeld := rfl
@[simp] theorem State.setFull_far (s : State) (k : Nat) (v : Bool) : (s.setFull k v).far = s.far := rfl
@[simp] theorem State.setFull_ticked (s : State) (k : Nat) (v : Bool) : (s.setFull k v).ticked = s.ticked := rfl
@[simp] theorem State.setFull_peerOut (s : State) (k : Nat) (v : Bool) : (s.setFull k v).peerOut = s.peerOut := rfl
@[simp] theorem State.setFull_farCrews (s : State) (k : Nat) (v : Bool) : (s.setFull k v).farCrews = s.farCrews := rfl
@[simp] theorem State.setFull_qps (s : State) (k : Nat) (v : Bool) : (s.setFull k v).qps = s.qps := rfl
@[simp] theorem State.setFull_qpres (s : State) (k : Nat) (v : Bool) : (s.setFull k v).qpres = s.qpres := rfl
@[simp] theorem State.setFull_dbg (s : State) (k : Nat) (v : Bool) : (s.setFull k v).dbg = s.dbg := rfl
@[simp] theorem State.setFull_boot (s : State) (k : Nat) (v : Bool) : (s.setFull k v).boot = s.boot := rfl
@[simp] theorem State.setFull_hostFrozen (s : State) (k : Nat) (v : Bool) : (s.setFull k v).hostFrozen = s.hostFrozen := rfl
@[simp] theorem State.setFull_hostOut (s : State) (k : Nat) (v : Bool) : (s.setFull k v).hostOut = s.hostOut := rfl
@[simp] theorem State.setFull_hostLatch (s : State) (k : Nat) (v : Bool) : (s.setFull k v).hostLatch = s.hostLatch := rfl
@[simp] theorem State.setFull_ptpSync (s : State) (k : Nat) (v : Bool) : (s.setFull k v).ptpSync = s.ptpSync := rfl
@[simp] theorem State.setFull_ptpOnce (s : State) (k : Nat) (v : Bool) : (s.setFull k v).ptpOnce = s.ptpOnce := rfl
@[simp] theorem State.setFull_ptpPort (s : State) (k : Nat) (v : Bool) : (s.setFull k v).ptpPort = s.ptpPort := rfl
@[simp] theorem State.setFull_ptpOffset (s : State) (k : Nat) (v : Bool) : (s.setFull k v).ptpOffset = s.ptpOffset := rfl
@[simp] theorem State.setFull_slew (s : State) (k : Nat) (v : Bool) : (s.setFull k v).slew = s.slew := rfl
@[simp] theorem State.setFull_ptpDomain (s : State) (k : Nat) (v : Bool) : (s.setFull k v).ptpDomain = s.ptpDomain := rfl
@[simp] theorem State.setFull_memBase (s : State) (k : Nat) (v : Bool) : (s.setFull k v).memBase = s.memBase := rfl
@[simp] theorem State.setFull_memSize (s : State) (k : Nat) (v : Bool) : (s.setFull k v).memSize = s.memSize := rfl
@[simp] theorem State.setFull_stamp (s : State) (k : Nat) (v : Bool) : (s.setFull k v).stamp = s.stamp := rfl
@[simp] theorem State.setFull_spent (s : State) (k : Nat) (v : Bool) : (s.setFull k v).spent = s.spent := rfl
@[simp] theorem State.setFull_requests (s : State) (k : Nat) (v : Bool) : (s.setFull k v).requests = s.requests := rfl
@[simp] theorem State.setFull_nextSeq (s : State) (k : Nat) (v : Bool) : (s.setFull k v).nextSeq = s.nextSeq := rfl
@[simp] theorem State.setFull_nextReq (s : State) (k : Nat) (v : Bool) : (s.setFull k v).nextReq = s.nextReq := rfl
@[simp] theorem State.setFull_feWait (s : State) (k : Nat) (v : Bool) : (s.setFull k v).feWait = s.feWait := rfl
@[simp] theorem State.setFull_farWait (s : State) (k : Nat) (v : Bool) : (s.setFull k v).farWait = s.farWait := rfl
@[simp] theorem State.setFull_farHalf (s : State) (k : Nat) (v : Bool) : (s.setFull k v).farHalf = s.farHalf := rfl
@[simp] theorem State.setFull_sendWait (s : State) (k : Nat) (v : Bool) : (s.setFull k v).sendWait = s.sendWait := rfl
@[simp] theorem State.setFull_now (s : State) (k : Nat) (v : Bool) : (s.setFull k v).now = s.now := rfl
@[simp] theorem State.setFull_osc (s : State) (k : Nat) (v : Bool) : (s.setFull k v).osc = s.osc := rfl
@[simp] theorem State.setFull_refilled (s : State) (k : Nat) (v : Bool) : (s.setFull k v).refilled = s.refilled := rfl
@[simp] theorem State.setFull_windowed (s : State) (k : Nat) (v : Bool) : (s.setFull k v).windowed = s.windowed := rfl
@[simp] theorem State.setFull_slewed (s : State) (k : Nat) (v : Bool) : (s.setFull k v).slewed = s.slewed := rfl
@[simp] theorem State.setFull_pkg (s : State) (k : Nat) (v : Bool) : (s.setFull k v).pkg = s.pkg := rfl
@[simp] theorem State.setFull_domain (s : State) (k : Nat) (v : Bool) : (s.setFull k v).domain = s.domain := rfl
@[simp] theorem State.setFull_cxlDram (s : State) (k : Nat) (v : Bool) : (s.setFull k v).cxlDram = s.cxlDram := rfl
@[simp] theorem State.setFull_cxlFlash (s : State) (k : Nat) (v : Bool) : (s.setFull k v).cxlFlash = s.cxlFlash := rfl
@[simp] theorem State.setFull_tagBase (s : State) (k : Nat) (v : Bool) : (s.setFull k v).tagBase = s.tagBase := rfl
@[simp] theorem State.setFull_csel (s : State) (k : Nat) (v : Bool) : (s.setFull k v).csel = s.csel := rfl
@[simp] theorem State.setFull_hostCsel (s : State) (k : Nat) (v : Bool) : (s.setFull k v).hostCsel = s.hostCsel := rfl
@[simp] theorem State.setFull_cur (s : State) (k : Nat) (v : Bool) : (s.setFull k v).cur = s.cur := rfl
@[simp] theorem State.setFull_opts (s : State) (k : Nat) (v : Bool) : (s.setFull k v).opts = s.opts := rfl
@[simp] theorem State.setFull_busy (s : State) (k : Nat) (v : Bool) : (s.setFull k v).busy = s.busy := rfl
@[simp] theorem State.setFull_arg (s : State) (k : Nat) (v : Bool) : (s.setFull k v).arg = s.arg := rfl
@[simp] theorem State.setFull_agenda (s : State) (k : Nat) (v : Bool) : (s.setFull k v).agenda = s.agenda := rfl
@[simp] theorem State.setFull_fresh (s : State) (k : Nat) (v : Bool) : (s.setFull k v).fresh = s.fresh := rfl

/-! ## State.setTag -/

@[simp] theorem State.setTag_slots (s : State) (k : Nat) (v : Bool) : (s.setTag k v).slots = s.slots := rfl
@[simp] theorem State.setTag_ctxs (s : State) (k : Nat) (v : Bool) : (s.setTag k v).ctxs = s.ctxs := rfl
@[simp] theorem State.setTag_queues (s : State) (k : Nat) (v : Bool) : (s.setTag k v).queues = s.queues := rfl
@[simp] theorem State.setTag_crews (s : State) (k : Nat) (v : Bool) : (s.setTag k v).crews = s.crews := rfl
@[simp] theorem State.setTag_hostErrors (s : State) (k : Nat) (v : Bool) : (s.setTag k v).hostErrors = s.hostErrors := rfl
@[simp] theorem State.setTag_groves (s : State) (k : Nat) (v : Bool) : (s.setTag k v).groves = s.groves := rfl
@[simp] theorem State.setTag_cores (s : State) (k : Nat) (v : Bool) : (s.setTag k v).cores = s.cores := rfl
@[simp] theorem State.setTag_power (s : State) (k : Nat) (v : Bool) : (s.setTag k v).power = s.power := rfl
@[simp] theorem State.setTag_graphs (s : State) (k : Nat) (v : Bool) : (s.setTag k v).graphs = s.graphs := rfl
@[simp] theorem State.setTag_nextGraph (s : State) (k : Nat) (v : Bool) : (s.setTag k v).nextGraph = s.nextGraph := rfl
@[simp] theorem State.setTag_handles (s : State) (k : Nat) (v : Bool) : (s.setTag k v).handles = s.handles := rfl
@[simp] theorem State.setTag_conts (s : State) (k : Nat) (v : Bool) : (s.setTag k v).conts = s.conts := rfl
@[simp] theorem State.setTag_moves (s : State) (k : Nat) (v : Bool) : (s.setTag k v).moves = s.moves := rfl
@[simp] theorem State.setTag_migrations (s : State) (k : Nat) (v : Bool) : (s.setTag k v).migrations = s.migrations := rfl
@[simp] theorem State.setTag_dramFree (s : State) (k : Nat) (v : Bool) : (s.setTag k v).dramFree = s.dramFree := rfl
@[simp] theorem State.setTag_flashFree (s : State) (k : Nat) (v : Bool) : (s.setTag k v).flashFree = s.flashFree := rfl
@[simp] theorem State.setTag_hbmFree (s : State) (k : Nat) (v : Bool) : (s.setTag k v).hbmFree = s.hbmFree := rfl
@[simp] theorem State.setTag_ras (s : State) (k : Nat) (v : Bool) : (s.setTag k v).ras = s.ras := rfl
@[simp] theorem State.setTag_deadLandings (s : State) (k : Nat) (v : Bool) : (s.setTag k v).deadLandings = s.deadLandings := rfl
@[simp] theorem State.setTag_links (s : State) (k : Nat) (v : Bool) : (s.setTag k v).links = s.links := rfl
@[simp] theorem State.setTag_groups (s : State) (k : Nat) (v : Bool) : (s.setTag k v).groups = s.groups := rfl
@[simp] theorem State.setTag_replies (s : State) (k : Nat) (v : Bool) : (s.setTag k v).replies = s.replies := rfl
@[simp] theorem State.setTag_noticesDue (s : State) (k : Nat) (v : Bool) : (s.setTag k v).noticesDue = s.noticesDue := rfl
@[simp] theorem State.setTag_arrived (s : State) (k : Nat) (v : Bool) : (s.setTag k v).arrived = s.arrived := rfl
@[simp] theorem State.setTag_heldOver (s : State) (k : Nat) (v : Bool) : (s.setTag k v).heldOver = s.heldOver := rfl
@[simp] theorem State.setTag_seenTo (s : State) (k : Nat) (v : Bool) : (s.setTag k v).seenTo = s.seenTo := rfl
@[simp] theorem State.setTag_seenPast (s : State) (k : Nat) (v : Bool) : (s.setTag k v).seenPast = s.seenPast := rfl
@[simp] theorem State.setTag_ptpHeld (s : State) (k : Nat) (v : Bool) : (s.setTag k v).ptpHeld = s.ptpHeld := rfl
@[simp] theorem State.setTag_far (s : State) (k : Nat) (v : Bool) : (s.setTag k v).far = s.far := rfl
@[simp] theorem State.setTag_ticked (s : State) (k : Nat) (v : Bool) : (s.setTag k v).ticked = s.ticked := rfl
@[simp] theorem State.setTag_peerOut (s : State) (k : Nat) (v : Bool) : (s.setTag k v).peerOut = s.peerOut := rfl
@[simp] theorem State.setTag_farCrews (s : State) (k : Nat) (v : Bool) : (s.setTag k v).farCrews = s.farCrews := rfl
@[simp] theorem State.setTag_qps (s : State) (k : Nat) (v : Bool) : (s.setTag k v).qps = s.qps := rfl
@[simp] theorem State.setTag_qpres (s : State) (k : Nat) (v : Bool) : (s.setTag k v).qpres = s.qpres := rfl
@[simp] theorem State.setTag_dbg (s : State) (k : Nat) (v : Bool) : (s.setTag k v).dbg = s.dbg := rfl
@[simp] theorem State.setTag_boot (s : State) (k : Nat) (v : Bool) : (s.setTag k v).boot = s.boot := rfl
@[simp] theorem State.setTag_hostFrozen (s : State) (k : Nat) (v : Bool) : (s.setTag k v).hostFrozen = s.hostFrozen := rfl
@[simp] theorem State.setTag_hostOut (s : State) (k : Nat) (v : Bool) : (s.setTag k v).hostOut = s.hostOut := rfl
@[simp] theorem State.setTag_hostLatch (s : State) (k : Nat) (v : Bool) : (s.setTag k v).hostLatch = s.hostLatch := rfl
@[simp] theorem State.setTag_ptpSync (s : State) (k : Nat) (v : Bool) : (s.setTag k v).ptpSync = s.ptpSync := rfl
@[simp] theorem State.setTag_ptpOnce (s : State) (k : Nat) (v : Bool) : (s.setTag k v).ptpOnce = s.ptpOnce := rfl
@[simp] theorem State.setTag_ptpPort (s : State) (k : Nat) (v : Bool) : (s.setTag k v).ptpPort = s.ptpPort := rfl
@[simp] theorem State.setTag_ptpOffset (s : State) (k : Nat) (v : Bool) : (s.setTag k v).ptpOffset = s.ptpOffset := rfl
@[simp] theorem State.setTag_slew (s : State) (k : Nat) (v : Bool) : (s.setTag k v).slew = s.slew := rfl
@[simp] theorem State.setTag_ptpDomain (s : State) (k : Nat) (v : Bool) : (s.setTag k v).ptpDomain = s.ptpDomain := rfl
@[simp] theorem State.setTag_memBase (s : State) (k : Nat) (v : Bool) : (s.setTag k v).memBase = s.memBase := rfl
@[simp] theorem State.setTag_memSize (s : State) (k : Nat) (v : Bool) : (s.setTag k v).memSize = s.memSize := rfl
@[simp] theorem State.setTag_stamp (s : State) (k : Nat) (v : Bool) : (s.setTag k v).stamp = s.stamp := rfl
@[simp] theorem State.setTag_spent (s : State) (k : Nat) (v : Bool) : (s.setTag k v).spent = s.spent := rfl
@[simp] theorem State.setTag_requests (s : State) (k : Nat) (v : Bool) : (s.setTag k v).requests = s.requests := rfl
@[simp] theorem State.setTag_nextSeq (s : State) (k : Nat) (v : Bool) : (s.setTag k v).nextSeq = s.nextSeq := rfl
@[simp] theorem State.setTag_nextReq (s : State) (k : Nat) (v : Bool) : (s.setTag k v).nextReq = s.nextReq := rfl
@[simp] theorem State.setTag_feWait (s : State) (k : Nat) (v : Bool) : (s.setTag k v).feWait = s.feWait := rfl
@[simp] theorem State.setTag_farWait (s : State) (k : Nat) (v : Bool) : (s.setTag k v).farWait = s.farWait := rfl
@[simp] theorem State.setTag_farHalf (s : State) (k : Nat) (v : Bool) : (s.setTag k v).farHalf = s.farHalf := rfl
@[simp] theorem State.setTag_sendWait (s : State) (k : Nat) (v : Bool) : (s.setTag k v).sendWait = s.sendWait := rfl
@[simp] theorem State.setTag_now (s : State) (k : Nat) (v : Bool) : (s.setTag k v).now = s.now := rfl
@[simp] theorem State.setTag_osc (s : State) (k : Nat) (v : Bool) : (s.setTag k v).osc = s.osc := rfl
@[simp] theorem State.setTag_refilled (s : State) (k : Nat) (v : Bool) : (s.setTag k v).refilled = s.refilled := rfl
@[simp] theorem State.setTag_windowed (s : State) (k : Nat) (v : Bool) : (s.setTag k v).windowed = s.windowed := rfl
@[simp] theorem State.setTag_slewed (s : State) (k : Nat) (v : Bool) : (s.setTag k v).slewed = s.slewed := rfl
@[simp] theorem State.setTag_pkg (s : State) (k : Nat) (v : Bool) : (s.setTag k v).pkg = s.pkg := rfl
@[simp] theorem State.setTag_domain (s : State) (k : Nat) (v : Bool) : (s.setTag k v).domain = s.domain := rfl
@[simp] theorem State.setTag_cxlDram (s : State) (k : Nat) (v : Bool) : (s.setTag k v).cxlDram = s.cxlDram := rfl
@[simp] theorem State.setTag_cxlFlash (s : State) (k : Nat) (v : Bool) : (s.setTag k v).cxlFlash = s.cxlFlash := rfl
@[simp] theorem State.setTag_tagBase (s : State) (k : Nat) (v : Bool) : (s.setTag k v).tagBase = s.tagBase := rfl
@[simp] theorem State.setTag_csel (s : State) (k : Nat) (v : Bool) : (s.setTag k v).csel = s.csel := rfl
@[simp] theorem State.setTag_hostCsel (s : State) (k : Nat) (v : Bool) : (s.setTag k v).hostCsel = s.hostCsel := rfl
@[simp] theorem State.setTag_cur (s : State) (k : Nat) (v : Bool) : (s.setTag k v).cur = s.cur := rfl
@[simp] theorem State.setTag_opts (s : State) (k : Nat) (v : Bool) : (s.setTag k v).opts = s.opts := rfl
@[simp] theorem State.setTag_busy (s : State) (k : Nat) (v : Bool) : (s.setTag k v).busy = s.busy := rfl
@[simp] theorem State.setTag_arg (s : State) (k : Nat) (v : Bool) : (s.setTag k v).arg = s.arg := rfl
@[simp] theorem State.setTag_agenda (s : State) (k : Nat) (v : Bool) : (s.setTag k v).agenda = s.agenda := rfl
@[simp] theorem State.setTag_fresh (s : State) (k : Nat) (v : Bool) : (s.setTag k v).fresh = s.fresh := rfl

/-! ## State.setPoison -/

@[simp] theorem State.setPoison_slots (s : State) (k : Nat) (v : Bool) : (s.setPoison k v).slots = s.slots := rfl
@[simp] theorem State.setPoison_ctxs (s : State) (k : Nat) (v : Bool) : (s.setPoison k v).ctxs = s.ctxs := rfl
@[simp] theorem State.setPoison_queues (s : State) (k : Nat) (v : Bool) : (s.setPoison k v).queues = s.queues := rfl
@[simp] theorem State.setPoison_crews (s : State) (k : Nat) (v : Bool) : (s.setPoison k v).crews = s.crews := rfl
@[simp] theorem State.setPoison_hostErrors (s : State) (k : Nat) (v : Bool) : (s.setPoison k v).hostErrors = s.hostErrors := rfl
@[simp] theorem State.setPoison_groves (s : State) (k : Nat) (v : Bool) : (s.setPoison k v).groves = s.groves := rfl
@[simp] theorem State.setPoison_cores (s : State) (k : Nat) (v : Bool) : (s.setPoison k v).cores = s.cores := rfl
@[simp] theorem State.setPoison_power (s : State) (k : Nat) (v : Bool) : (s.setPoison k v).power = s.power := rfl
@[simp] theorem State.setPoison_graphs (s : State) (k : Nat) (v : Bool) : (s.setPoison k v).graphs = s.graphs := rfl
@[simp] theorem State.setPoison_nextGraph (s : State) (k : Nat) (v : Bool) : (s.setPoison k v).nextGraph = s.nextGraph := rfl
@[simp] theorem State.setPoison_handles (s : State) (k : Nat) (v : Bool) : (s.setPoison k v).handles = s.handles := rfl
@[simp] theorem State.setPoison_conts (s : State) (k : Nat) (v : Bool) : (s.setPoison k v).conts = s.conts := rfl
@[simp] theorem State.setPoison_moves (s : State) (k : Nat) (v : Bool) : (s.setPoison k v).moves = s.moves := rfl
@[simp] theorem State.setPoison_migrations (s : State) (k : Nat) (v : Bool) : (s.setPoison k v).migrations = s.migrations := rfl
@[simp] theorem State.setPoison_dramFree (s : State) (k : Nat) (v : Bool) : (s.setPoison k v).dramFree = s.dramFree := rfl
@[simp] theorem State.setPoison_flashFree (s : State) (k : Nat) (v : Bool) : (s.setPoison k v).flashFree = s.flashFree := rfl
@[simp] theorem State.setPoison_hbmFree (s : State) (k : Nat) (v : Bool) : (s.setPoison k v).hbmFree = s.hbmFree := rfl
@[simp] theorem State.setPoison_ras (s : State) (k : Nat) (v : Bool) : (s.setPoison k v).ras = s.ras := rfl
@[simp] theorem State.setPoison_deadLandings (s : State) (k : Nat) (v : Bool) : (s.setPoison k v).deadLandings = s.deadLandings := rfl
@[simp] theorem State.setPoison_links (s : State) (k : Nat) (v : Bool) : (s.setPoison k v).links = s.links := rfl
@[simp] theorem State.setPoison_groups (s : State) (k : Nat) (v : Bool) : (s.setPoison k v).groups = s.groups := rfl
@[simp] theorem State.setPoison_replies (s : State) (k : Nat) (v : Bool) : (s.setPoison k v).replies = s.replies := rfl
@[simp] theorem State.setPoison_noticesDue (s : State) (k : Nat) (v : Bool) : (s.setPoison k v).noticesDue = s.noticesDue := rfl
@[simp] theorem State.setPoison_arrived (s : State) (k : Nat) (v : Bool) : (s.setPoison k v).arrived = s.arrived := rfl
@[simp] theorem State.setPoison_heldOver (s : State) (k : Nat) (v : Bool) : (s.setPoison k v).heldOver = s.heldOver := rfl
@[simp] theorem State.setPoison_seenTo (s : State) (k : Nat) (v : Bool) : (s.setPoison k v).seenTo = s.seenTo := rfl
@[simp] theorem State.setPoison_seenPast (s : State) (k : Nat) (v : Bool) : (s.setPoison k v).seenPast = s.seenPast := rfl
@[simp] theorem State.setPoison_ptpHeld (s : State) (k : Nat) (v : Bool) : (s.setPoison k v).ptpHeld = s.ptpHeld := rfl
@[simp] theorem State.setPoison_far (s : State) (k : Nat) (v : Bool) : (s.setPoison k v).far = s.far := rfl
@[simp] theorem State.setPoison_ticked (s : State) (k : Nat) (v : Bool) : (s.setPoison k v).ticked = s.ticked := rfl
@[simp] theorem State.setPoison_peerOut (s : State) (k : Nat) (v : Bool) : (s.setPoison k v).peerOut = s.peerOut := rfl
@[simp] theorem State.setPoison_farCrews (s : State) (k : Nat) (v : Bool) : (s.setPoison k v).farCrews = s.farCrews := rfl
@[simp] theorem State.setPoison_qps (s : State) (k : Nat) (v : Bool) : (s.setPoison k v).qps = s.qps := rfl
@[simp] theorem State.setPoison_qpres (s : State) (k : Nat) (v : Bool) : (s.setPoison k v).qpres = s.qpres := rfl
@[simp] theorem State.setPoison_dbg (s : State) (k : Nat) (v : Bool) : (s.setPoison k v).dbg = s.dbg := rfl
@[simp] theorem State.setPoison_boot (s : State) (k : Nat) (v : Bool) : (s.setPoison k v).boot = s.boot := rfl
@[simp] theorem State.setPoison_hostFrozen (s : State) (k : Nat) (v : Bool) : (s.setPoison k v).hostFrozen = s.hostFrozen := rfl
@[simp] theorem State.setPoison_hostOut (s : State) (k : Nat) (v : Bool) : (s.setPoison k v).hostOut = s.hostOut := rfl
@[simp] theorem State.setPoison_hostLatch (s : State) (k : Nat) (v : Bool) : (s.setPoison k v).hostLatch = s.hostLatch := rfl
@[simp] theorem State.setPoison_ptpSync (s : State) (k : Nat) (v : Bool) : (s.setPoison k v).ptpSync = s.ptpSync := rfl
@[simp] theorem State.setPoison_ptpOnce (s : State) (k : Nat) (v : Bool) : (s.setPoison k v).ptpOnce = s.ptpOnce := rfl
@[simp] theorem State.setPoison_ptpPort (s : State) (k : Nat) (v : Bool) : (s.setPoison k v).ptpPort = s.ptpPort := rfl
@[simp] theorem State.setPoison_ptpOffset (s : State) (k : Nat) (v : Bool) : (s.setPoison k v).ptpOffset = s.ptpOffset := rfl
@[simp] theorem State.setPoison_slew (s : State) (k : Nat) (v : Bool) : (s.setPoison k v).slew = s.slew := rfl
@[simp] theorem State.setPoison_ptpDomain (s : State) (k : Nat) (v : Bool) : (s.setPoison k v).ptpDomain = s.ptpDomain := rfl
@[simp] theorem State.setPoison_memBase (s : State) (k : Nat) (v : Bool) : (s.setPoison k v).memBase = s.memBase := rfl
@[simp] theorem State.setPoison_memSize (s : State) (k : Nat) (v : Bool) : (s.setPoison k v).memSize = s.memSize := rfl
@[simp] theorem State.setPoison_stamp (s : State) (k : Nat) (v : Bool) : (s.setPoison k v).stamp = s.stamp := rfl
@[simp] theorem State.setPoison_spent (s : State) (k : Nat) (v : Bool) : (s.setPoison k v).spent = s.spent := rfl
@[simp] theorem State.setPoison_requests (s : State) (k : Nat) (v : Bool) : (s.setPoison k v).requests = s.requests := rfl
@[simp] theorem State.setPoison_nextSeq (s : State) (k : Nat) (v : Bool) : (s.setPoison k v).nextSeq = s.nextSeq := rfl
@[simp] theorem State.setPoison_nextReq (s : State) (k : Nat) (v : Bool) : (s.setPoison k v).nextReq = s.nextReq := rfl
@[simp] theorem State.setPoison_feWait (s : State) (k : Nat) (v : Bool) : (s.setPoison k v).feWait = s.feWait := rfl
@[simp] theorem State.setPoison_farWait (s : State) (k : Nat) (v : Bool) : (s.setPoison k v).farWait = s.farWait := rfl
@[simp] theorem State.setPoison_farHalf (s : State) (k : Nat) (v : Bool) : (s.setPoison k v).farHalf = s.farHalf := rfl
@[simp] theorem State.setPoison_sendWait (s : State) (k : Nat) (v : Bool) : (s.setPoison k v).sendWait = s.sendWait := rfl
@[simp] theorem State.setPoison_now (s : State) (k : Nat) (v : Bool) : (s.setPoison k v).now = s.now := rfl
@[simp] theorem State.setPoison_osc (s : State) (k : Nat) (v : Bool) : (s.setPoison k v).osc = s.osc := rfl
@[simp] theorem State.setPoison_refilled (s : State) (k : Nat) (v : Bool) : (s.setPoison k v).refilled = s.refilled := rfl
@[simp] theorem State.setPoison_windowed (s : State) (k : Nat) (v : Bool) : (s.setPoison k v).windowed = s.windowed := rfl
@[simp] theorem State.setPoison_slewed (s : State) (k : Nat) (v : Bool) : (s.setPoison k v).slewed = s.slewed := rfl
@[simp] theorem State.setPoison_pkg (s : State) (k : Nat) (v : Bool) : (s.setPoison k v).pkg = s.pkg := rfl
@[simp] theorem State.setPoison_domain (s : State) (k : Nat) (v : Bool) : (s.setPoison k v).domain = s.domain := rfl
@[simp] theorem State.setPoison_cxlDram (s : State) (k : Nat) (v : Bool) : (s.setPoison k v).cxlDram = s.cxlDram := rfl
@[simp] theorem State.setPoison_cxlFlash (s : State) (k : Nat) (v : Bool) : (s.setPoison k v).cxlFlash = s.cxlFlash := rfl
@[simp] theorem State.setPoison_tagBase (s : State) (k : Nat) (v : Bool) : (s.setPoison k v).tagBase = s.tagBase := rfl
@[simp] theorem State.setPoison_csel (s : State) (k : Nat) (v : Bool) : (s.setPoison k v).csel = s.csel := rfl
@[simp] theorem State.setPoison_hostCsel (s : State) (k : Nat) (v : Bool) : (s.setPoison k v).hostCsel = s.hostCsel := rfl
@[simp] theorem State.setPoison_cur (s : State) (k : Nat) (v : Bool) : (s.setPoison k v).cur = s.cur := rfl
@[simp] theorem State.setPoison_opts (s : State) (k : Nat) (v : Bool) : (s.setPoison k v).opts = s.opts := rfl
@[simp] theorem State.setPoison_busy (s : State) (k : Nat) (v : Bool) : (s.setPoison k v).busy = s.busy := rfl
@[simp] theorem State.setPoison_arg (s : State) (k : Nat) (v : Bool) : (s.setPoison k v).arg = s.arg := rfl
@[simp] theorem State.setPoison_agenda (s : State) (k : Nat) (v : Bool) : (s.setPoison k v).agenda = s.agenda := rfl
@[simp] theorem State.setPoison_fresh (s : State) (k : Nat) (v : Bool) : (s.setPoison k v).fresh = s.fresh := rfl

/-! ## Reading back -/

@[simp] theorem State.setSlot_slot_other (s : State) (n m : Nat) (v : Slot) (h : m ≠ n) : (s.setSlot n v).slot m = s.slot m :=
  Store.get_put_other _ _ _ _ _ h

theorem Slot.ne_empty_of_thread (x : Slot) (t : Thread) : ({ x with thread := some t } : Slot) ≠ Slot.empty := by
  intro h; have := congrArg Slot.thread h; simp [Slot.empty] at this

@[simp] theorem State.setThread_slot (s : State) (n : Nat) (t : Thread) :
    (s.setThread n t).slot n = { s.slot n with thread := some t } :=
  Store.get_put_ne _ _ _ _ (Slot.ne_empty_of_thread _ _)

@[simp] theorem State.setThread_thread (s : State) (n : Nat) (t : Thread) : (s.setThread n t).thread n = some t := by
  simp [State.thread]

@[simp] theorem State.setThread_slot_other (s : State) (n m : Nat) (t : Thread) (h : m ≠ n) :
    (s.setThread n t).slot m = s.slot m := Store.get_put_other _ _ _ _ _ h

@[simp] theorem State.setThread_thread_other (s : State) (n m : Nat) (t : Thread) (h : m ≠ n) :
    (s.setThread n t).thread m = s.thread m := by simp [State.thread, h]

@[simp] theorem State.put_thread (s : State) (t : Thread) : (s.put t).thread s.cur = some t := State.setThread_thread s s.cur t

@[simp] theorem State.put_slot (s : State) (t : Thread) : (s.put t).slot s.cur = { s.slot s.cur with thread := some t } :=
  State.setThread_slot s s.cur t

@[simp] theorem State.put_slot_other (s : State) (m : Nat) (t : Thread) (h : m ≠ s.cur) : (s.put t).slot m = s.slot m :=
  State.setThread_slot_other s s.cur m t h

@[simp] theorem State.put_byte (s : State) (t : Thread) (k : Nat) : (s.put t).byte k = s.byte k := rfl
@[simp] theorem State.put_ctx (s : State) (t : Thread) (c : Nat) : (s.put t).ctx c = s.ctx c := rfl
@[simp] theorem State.setThread_byte (s : State) (n : Nat) (t : Thread) (k : Nat) : (s.setThread n t).byte k = s.byte k := rfl
@[simp] theorem State.setThread_ctx (s : State) (n : Nat) (t : Thread) (c : Nat) : (s.setThread n t).ctx c = s.ctx c := rfl

@[simp] theorem State.setCtx_slot (s : State) (c : Nat) (v : Ctx) (n : Nat) : (s.setCtx c v).slot n = s.slot n := rfl
@[simp] theorem State.setCtx_thread (s : State) (c : Nat) (v : Ctx) (n : Nat) : (s.setCtx c v).thread n = s.thread n := rfl
@[simp] theorem State.setCtx_byte (s : State) (c : Nat) (v : Ctx) (k : Nat) : (s.setCtx c v).byte k = s.byte k := rfl

@[simp] theorem State.setCtx_ctx_other (s : State) (c d : Nat) (v : Ctx) (h : d ≠ c) : (s.setCtx c v).ctx d = s.ctx d :=
  Store.get_put_other _ _ _ _ _ h

theorem State.setCtx_ctx (s : State) (c : Nat) (v : Ctx) (h : v ≠ Ctx.none) : (s.setCtx c v).ctx c = v :=
  Store.get_put_ne _ _ _ _ h

@[simp] theorem State.setQueue_queue_other (s : State) (k j : Nat) (v : Queue) (h : j ≠ k) :
    (s.setQueue k v).queue j = s.queue j := Store.get_put_other _ _ _ _ _ h

@[simp] theorem State.setGrove_grove_other (s : State) (g h : Nat) (v : Grove) (hn : h ≠ g) :
    (s.setGrove g v).grove h = s.grove h := Store.get_put_other _ _ _ _ _ hn

@[simp] theorem State.setCore_core_other (s : State) (n m : Nat) (v : CoreState) (h : m ≠ n) :
    (s.setCore n v).core m = s.core m := Store.get_put_other _ _ _ _ _ h

/-! ## Registers and predicates -/

@[simp] theorem Thread.setReg_reg (t : Thread) (r : BitVec 5) (v : QReg) : (t.setReg r v).reg r = v := by
  simp [Thread.setReg, Thread.reg]

@[simp] theorem Thread.setReg_reg_other (t : Thread) (r x : BitVec 5) (v : QReg) (h : x ≠ r) :
    (t.setReg r v).reg x = t.reg x := by
  simp only [Thread.setReg, Thread.reg]
  rw [Vector.getElem_set_ne]
  intro hc; exact h (BitVec.eq_of_toNat_eq hc.symm)

@[simp] theorem Thread.setPred_pred (t : Thread) (k : Nat) (v : Word32) : (t.setPred k v).pred k = v := by
  simp [Thread.setPred, Thread.pred]

@[simp] theorem Thread.setPred_pred_other (t : Thread) (k j : Nat) (v : Word32) (h : j % 8 ≠ k % 8) :
    (t.setPred k v).pred j = t.pred j := by
  simp only [Thread.setPred, Thread.pred]
  rw [Vector.getElem_set_ne]
  exact fun hc => h hc.symm

@[simp] theorem Thread.setReg_pred (t : Thread) (r : BitVec 5) (v : QReg) (k : Nat) : (t.setReg r v).pred k = t.pred k := rfl
@[simp] theorem Thread.setPred_reg (t : Thread) (k : Nat) (v : Word32) (r : BitVec 5) : (t.setPred k v).reg r = t.reg r := rfl
@[simp] theorem Thread.setReg_pc (t : Thread) (r : BitVec 5) (v : QReg) : (t.setReg r v).pc = t.pc := rfl
@[simp] theorem Thread.setReg_gf (t : Thread) (r : BitVec 5) (v : QReg) : (t.setReg r v).gf = t.gf := rfl
@[simp] theorem Thread.setReg_p (t : Thread) (r : BitVec 5) (v : QReg) : (t.setReg r v).p = t.p := rfl
@[simp] theorem Thread.setPred_q (t : Thread) (k : Nat) (v : Word32) : (t.setPred k v).q = t.q := rfl
@[simp] theorem Thread.setPred_pc (t : Thread) (k : Nat) (v : Word32) : (t.setPred k v).pc = t.pc := rfl
@[simp] theorem Thread.setPred_gf (t : Thread) (k : Nat) (v : Word32) : (t.setPred k v).gf = t.gf := rfl
@[simp] theorem Thread.next_reg (t : Thread) (e : Fields) (r : BitVec 5) : (t.next e).reg r = t.reg r := rfl
@[simp] theorem Thread.next_pred (t : Thread) (e : Fields) (k : Nat) : (t.next e).pred k = t.pred k := rfl
@[simp] theorem Thread.next_gf (t : Thread) (e : Fields) : (t.next e).gf = t.gf := rfl
@[simp] theorem Thread.next_pc (t : Thread) (e : Fields) : (t.next e).pc = t.nextPc e := rfl

/-! ## Running a meaning on the issuing thread -/

theorem State.onThread_some (s : State) (f : Thread → State) (t : Thread) (h : s.thread s.cur = some t) :
    s.onThread f = .next (f t) := by simp [State.onThread, h]

theorem State.onThread_none (s : State) (f : Thread → State) (h : s.thread s.cur = none) :
    s.onThread f = .fault .noThread := by simp [State.onThread, h]

/-- A live scalar instruction runs its meaning. -/
theorem State.scalar_live (s : State) (e : Fields) (f : Thread → State) (t : Thread) (h : s.thread s.cur = some t)
    (hl : t.live0 e.g = true) : s.scalar e f = .next (f t) := by simp [State.scalar, State.onThread, h, hl]

/-- A scalar instruction that is not live only passes. -/
theorem State.scalar_dead (s : State) (e : Fields) (f : Thread → State) (t : Thread) (h : s.thread s.cur = some t)
    (hl : t.live0 e.g = false) : s.scalar e f = .next (s.put (t.next e)) := by simp [State.scalar, State.onThread, h, hl]

end Sys2Proof.Machine
end

