-- ==== Sys2Proof/Laws/Memory.lean ====
section
/-!
SUPPORT. Memory: reading after writing, what a write leaves alone, and that every operation on memory keeps its canonical
form.
-/
namespace Sys2Proof.Machine

/-- The canonical form, part by part. -/
theorem Memory.wf_iff (m : Memory) : m.wf = true ↔ Store.wf unwrittenByte m.bytes = true ∧ NatSet.wf m.full = true ∧
    NatSet.wf m.tags = true ∧ NatSet.wf m.poison = true ∧ NatSet.wf m.single = true ∧ NatSet.wf m.double = true := by
  simp only [Memory.wf, Bool.and_eq_true, and_assoc]

theorem Memory.wf_bytes (m : Memory) (h : m.wf = true) : Store.wf unwrittenByte m.bytes = true := (m.wf_iff.1 h).1

/-- A set with a member added or taken out keeps its form. -/
theorem NatSet.wf_set (l : NatSet) (k : Nat) (v : Bool) (h : l.wf = true) : NatSet.wf (if v then l.add k else l.del k) = true := by
  split
  · exact NatSet.wf_add _ _ h
  · exact NatSet.wf_del _ _ h

/-! ## Bytes -/

theorem State.setByte_byte (s : State) (k : Nat) (v : Byte) (h : s.mem.wf = true) : (s.setByte k v).byte k = v :=
  Store.get_put_self _ _ _ _ (Memory.wf_bytes _ h)

@[simp] theorem State.setByte_byte_other (s : State) (k j : Nat) (v : Byte) (h : j ≠ k) : (s.setByte k v).byte j = s.byte j :=
  Store.get_put_other _ _ _ _ _ h

theorem State.setByte_wf (s : State) (k : Nat) (v : Byte) (h : s.mem.wf = true) : (s.setByte k v).mem.wf = true := by
  rw [Memory.wf_iff] at h ⊢
  exact ⟨Store.wf_put _ _ _ _ h.1, h.2⟩

theorem State.setFull_wf (s : State) (k : Nat) (v : Bool) (h : s.mem.wf = true) : (s.setFull k v).mem.wf = true := by
  rw [Memory.wf_iff] at h ⊢
  exact ⟨h.1, NatSet.wf_set _ _ _ h.2.1, h.2.2⟩

theorem State.setTag_wf (s : State) (k : Nat) (v : Bool) (h : s.mem.wf = true) : (s.setTag k v).mem.wf = true := by
  show (s.withTag k v).wf = true
  unfold State.withTag
  split
  · rw [Memory.wf_iff] at h ⊢
    exact ⟨h.1, h.2.1, NatSet.wf_set _ _ _ h.2.2.1, h.2.2.2⟩
  · split
    · exact State.setByte_wf _ _ _ h
    · exact h

/-- A tag bit changes no byte but one of the CXL tag region. -/
theorem State.setTag_byte (s : State) (k j : Nat) (v : Bool) (h : ¬ s.isTagByte k j) : (s.setTag k v).byte j = s.byte j := by
  show Store.get unwrittenByte (s.withTag k v).bytes j = _
  unfold State.withTag
  split
  · rfl
  · rename_i ht
    split
    · rename_i g hg
      exact State.setByte_byte_other _ _ _ _ fun e => h ⟨by omega, g, hg, e⟩
    · rfl

theorem State.setTag_byte_low (s : State) (k j : Nat) (v : Bool) (h : keyTgt k ≤ 3) : (s.setTag k v).byte j = s.byte j :=
  State.setTag_byte s k j v fun x => by have := x.1; omega

theorem State.setPoison_wf (s : State) (k : Nat) (v : Bool) (h : s.mem.wf = true) : (s.setPoison k v).mem.wf = true := by
  rw [Memory.wf_iff] at h ⊢
  exact ⟨h.1, h.2.1, h.2.2.1, NatSet.wf_set _ _ _ h.2.2.2.1, h.2.2.2.2.1, NatSet.wf_del _ _ h.2.2.2.2.2⟩

theorem State.detect_wf (s : State) (k : Nat) (h : s.mem.wf = true) : (s.detect k).mem.wf = true := by
  unfold State.detect
  split
  · exact State.setPoison_wf s k true h
  · exact h

theorem State.correct_wf (s : State) (k : Nat) (h : s.mem.wf = true) : (s.correct k).mem.wf = true := by
  unfold State.correct
  split
  · rw [Memory.wf_iff] at h ⊢
    exact ⟨h.1, h.2.1, h.2.2.1, h.2.2.2.1, NatSet.wf_del _ _ h.2.2.2.2.1, h.2.2.2.2.2⟩
  · exact h

/-- Bits of a word that have turned keep the form (26 R417). -/
theorem State.hitWord_wf (s : State) (w : Nat × Bool) (h : s.mem.wf = true) : (s.hitWord w).mem.wf = true := by
  have h' := (Memory.wf_iff _).1 h
  unfold State.hitWord
  dsimp only
  split
  · exact h
  · split <;> rw [Memory.wf_iff]
    · exact ⟨h'.1, h'.2.1, h'.2.2.1, h'.2.2.2.1, NatSet.wf_del _ _ h'.2.2.2.2.1, NatSet.wf_add _ _ h'.2.2.2.2.2⟩
    · exact ⟨h'.1, h'.2.1, h'.2.2.1, h'.2.2.2.1, NatSet.wf_add _ _ h'.2.2.2.2.1, h'.2.2.2.2.2⟩

theorem State.freshWord_wf (s : State) (k : Nat) (h : s.mem.wf = true) : (s.freshWord k).mem.wf = true := by
  rw [Memory.wf_iff] at h ⊢
  exact ⟨h.1, h.2.1, h.2.2.1, NatSet.wf_del _ _ h.2.2.2.1, NatSet.wf_del _ _ h.2.2.2.2.1, NatSet.wf_del _ _ h.2.2.2.2.2⟩

theorem State.eccWrite_wf (s : State) (w : Nat × Nat) (h : s.mem.wf = true) : (s.eccWrite w).mem.wf = true := by
  unfold State.eccWrite
  split
  · exact State.freshWord_wf s w.1 h
  · exact State.correct_wf s w.1 h

/-- A fold of operations that keep a property keeps it. -/
theorem foldl_keeps {α β : Type} (P : α → Prop) (f : α → β → α) (hf : ∀ a b, P a → P (f a b)) (l : List β) (a : α) (h : P a) :
    P (l.foldl f a) := by
  induction l generalizing a with
  | nil => exact h
  | cons b r ih => exact ih _ (hf a b h)

theorem foldl_keeps_mem {α β : Type} (P : α → Prop) (f : α → β → α) (l : List β) (hf : ∀ a, ∀ b ∈ l, P a → P (f a b)) (a : α)
    (h : P a) : P (l.foldl f a) := by
  induction l generalizing a with
  | nil => exact h
  | cons b r ih => exact ih (fun a x hx => hf a x (List.mem_cons_of_mem _ hx)) _ (hf a b (List.mem_cons_self ..) h)

theorem State.writeNibbles_wf (s : State) (k n v mask : Nat) (h : s.mem.wf = true) :
    (s.writeNibbles k n v mask).mem.wf = true := by
  induction n generalizing s k v mask with
  | zero => exact h
  | succ n ih =>
    simp only [State.writeNibbles]
    apply ih
    split
    · exact State.setByte_wf s k _ h
    · exact h

theorem State.writeNum_wf (s : State) (k n v : Nat) (h : s.mem.wf = true) : (s.writeNum k n v).mem.wf = true :=
  State.writeNibbles_wf s k n v _ h

theorem State.writeAccess_wf (s : State) (a : Access) (v : Nat) (h : s.mem.wf = true) : (s.writeAccess a v).mem.wf = true := by
  unfold State.writeAccess
  apply foldl_keeps (fun s : State => s.mem.wf = true) _ (fun s w h => State.setTag_wf s w.1 false h)
  apply foldl_keeps (fun s : State => s.mem.wf = true) _ (fun s w h => State.eccWrite_wf s w h)
  exact State.writeNibbles_wf s _ _ _ _ h

theorem State.readAccess_wf (s : State) (a : Access) (h : s.mem.wf = true) : (s.readAccess a).1.mem.wf = true :=
  foldl_keeps (fun s : State => s.mem.wf = true) _ (fun s w h => State.correct_wf s w.1 h) _ _ h

/-! ## What a write of nibbles does to bytes and lanes -/

theorem State.writeNibbles_byte_other (s : State) (k n v mask j : Nat) (h : j < k ∨ k + n ≤ j) :
    (s.writeNibbles k n v mask).byte j = s.byte j := by
  induction n generalizing s k v mask with
  | zero => rfl
  | succ n ih =>
    simp only [State.writeNibbles]
    rw [ih _ _ _ _ (by omega)]
    split
    · exact State.setByte_byte_other s k j _ (by omega)
    · rfl

/-- A byte as two nibbles. -/
theorem nibble_byte (b r i : Nat) (hb : b < 256) :
    lane (b + 256 * r) 4 i = if i = 0 then b % 16 else if i = 1 then b / 16 else lane r 4 (i - 2) := by
  unfold lane
  match i with
  | 0 => simp; omega
  | 1 => simp; omega
  | i + 2 =>
    have e : (2 : Nat) ^ (4 * (i + 2)) = 256 * 2 ^ (4 * i) := by rw [show 4 * (i + 2) = 8 + 4 * i by ring, Nat.pow_add]
    rw [e, ← Nat.div_div_eq_div_mul]
    rw [show (b + 256 * r) / 256 = r by omega]
    simp

theorem lane_div (v w n i : Nat) : lane (v / 2 ^ (w * n)) w i = lane v w (n + i) := by
  unfold lane; rw [Nat.div_div_eq_div_mul, ← Nat.pow_add, Nat.mul_add]

theorem bit_div (m n i : Nat) : bit (m / 2 ^ n) i = bit m (n + i) := by
  unfold bit; rw [Nat.div_div_eq_div_mul, ← Nat.pow_add]

/-- The nibbles of the bytes written: those of the mask are the value's, the others are as they were. -/
theorem State.writeNibbles_lane (s : State) (k n v mask i : Nat) (h : s.mem.wf = true) (hi : i < 2 * n) :
    lane ((s.writeNibbles k n v mask).readNum k n) 4 i =
      if bit mask i then lane v 4 i else lane (s.readNum k n) 4 i := by
  induction n generalizing s k v mask i with
  | zero => omega
  | succ n ih =>
    simp only [State.writeNibbles, State.readNum]
    generalize hs : (if bit mask 0 || bit mask 1 then s.setByte k _ else s) = s1
    have h1 : s1.mem.wf = true := by subst hs; split; exacts [State.setByte_wf s k _ h, h]
    have hk : ∀ j, k < j → s1.byte j = s.byte j := by
      intro j hj; subst hs; split
      · exact State.setByte_byte_other s k j _ (by omega)
      · rfl
    have hr : ∀ m j, k < j → s1.readNum j m = s.readNum j m := by
      intro m
      induction m with
      | zero => intros; rfl
      | succ m ihm => intro j hj; simp only [State.readNum]; rw [hk j hj, ihm (j + 1) (by omega)]
    have hlt : ∀ b : Byte, b.toNat < 256 := fun b => b.isLt
    rw [State.writeNibbles_byte_other s1 (k + 1) n _ _ k (by omega)]
    rw [nibble_byte _ _ _ (hlt _), nibble_byte _ _ _ (hlt _)]
    have hb : (s1.byte k).toNat =
        (if bit mask 1 then v / 16 % 16 else (s.byte k).toNat / 16) * 16 + (if bit mask 0 then v % 16 else (s.byte k).toNat % 16) := by
      have := hlt (s.byte k)
      subst hs
      cases h0 : bit mask 0 <;> cases h2 : bit mask 1 <;>
        simp only [Bool.or_self, Bool.or_true, Bool.true_or, Bool.false_eq_true, if_true, if_false, State.setByte_byte s k _ h,
          BitVec.toNat_ofNat] <;> omega
    match i with
    | 0 => 
      rw [if_pos rfl, if_pos rfl, hb]
      have : lane v 4 0 = v % 16 := by simp [lane]
      rw [this]
      split <;> split <;> omega
    | 1 =>
      have := hlt (s.byte k)
      have e : lane v 4 1 = v / 16 % 16 := by simp [lane]
      simp only [Nat.one_ne_zero, if_false, if_true]
      rw [hb, e]
      split <;> split <;> omega
    | i + 2 =>
      simp only [Nat.succ_ne_zero, if_false, show ¬ i + 2 = 1 by omega, Nat.add_sub_cancel]
      rw [ih s1 (k + 1) (v / 256) (mask / 4) i h1 (by omega)]
      rw [show v / 256 = v / 2 ^ (4 * 2) by rfl, show mask / 4 = mask / 2 ^ 2 by rfl, lane_div, bit_div, hr n (k + 1) (by omega)]
      rw [Nat.add_comm 2 i]

/-! ## What an access leaves of the rest of State -/

/-- Only single-bit errors, their counts and the energy of the issue differ. -/
def State.quiet (s s' : State) : Prop :=
  s' = { s with mem := { s.mem with single := s'.mem.single }, ras := s'.ras, spent := s'.spent }

theorem State.quiet_refl (s : State) : s.quiet s := rfl

theorem State.quiet_trans (s s' s'' : State) (h : s.quiet s') (h' : s'.quiet s'') : s.quiet s'' := by
  unfold State.quiet at *; rw [h', h]

theorem State.correct_quiet (s : State) (k : Nat) : s.quiet (s.correct k) := by
  unfold State.correct; split <;> rfl

theorem foldl_quiet {β : Type} (f : State → β → State) (hf : ∀ (s : State) (b : β), s.quiet (f s b)) (l : List β) (s : State) :
    s.quiet (l.foldl f s) :=
  foldl_keeps (fun s' : State => s.quiet s') f (fun a b h => State.quiet_trans _ _ _ h (hf a b)) l s (State.quiet_refl s)

theorem State.readAccess_quiet (s : State) (a : Access) : s.quiet (s.readAccess a).1 :=
  foldl_quiet _ (fun s (w : Nat × Nat) => State.correct_quiet s w.1) _ _

theorem State.spend_quiet (s : State) (core key : Nat) : s.quiet (s.spend core key) := rfl

theorem State.quiet_byte (s s' : State) (h : s.quiet s') (k : Nat) : s'.byte k = s.byte k := by
  unfold State.quiet at h; rw [h]; rfl

theorem State.quiet_thread (s s' : State) (h : s.quiet s') (n : Nat) : s'.thread n = s.thread n := by
  unfold State.quiet at h; rw [h]; rfl

theorem State.readNum_congr (s s' : State) (k n : Nat) (h : ∀ j, k ≤ j → j < k + n → s'.byte j = s.byte j) :
    s'.readNum k n = s.readNum k n := by
  induction n generalizing k with
  | zero => rfl
  | succ n ih =>
    simp only [State.readNum]
    rw [h k (by omega) (by omega), ih (k + 1) (fun j h1 h2 => h j (by omega) (by omega))]

theorem State.writeNibbles_mem (s : State) (k n v mask : Nat) :
    s.writeNibbles k n v mask = { s with mem := { s.mem with bytes := (s.writeNibbles k n v mask).mem.bytes } } := by
  induction n generalizing s k v mask with
  | zero => rfl
  | succ n ih =>
    simp only [State.writeNibbles]
    rw [ih]
    split <;> rfl

theorem State.writeAccess_only (s : State) (a : Access) (v : Nat) :
    s.writeAccess a v = { s with mem := (s.writeAccess a v).mem, ras := (s.writeAccess a v).ras } := by
  unfold State.writeAccess
  refine foldl_keeps (fun s' : State => s' = { s with mem := s'.mem, ras := s'.ras }) _ (fun s' w h => ?_) _ _ ?_
  · rw [h]; rfl
  · refine foldl_keeps (fun s' : State => s' = { s with mem := s'.mem, ras := s'.ras }) _ (fun s' w h => ?_) _ _ ?_
    · rw [h]; unfold State.eccWrite State.freshWord State.correct; split <;> [rfl; (split <;> rfl)]
    · rw [State.writeNibbles_mem]

theorem State.writeNibbles_isTagByte (s : State) (k n v mask i j : Nat) :
    (s.writeNibbles k n v mask).isTagByte i j = s.isTagByte i j := by rw [State.writeNibbles_mem]; rfl

theorem State.eccWrite_isTagByte (s : State) (w : Nat × Nat) (i j : Nat) : (s.eccWrite w).isTagByte i j = s.isTagByte i j := by
  unfold State.eccWrite State.freshWord State.correct; split <;> [rfl; (split <;> rfl)]

/-- What writing an access's data leaves: bytes are written by `writeNibbles` alone, but for those of the CXL tag region that
hold the tag bits of its granules, and of the rest of State only memory and its error counts differ. -/
theorem State.writeAccess_byte (s : State) (a : Access) (v k : Nat) (hk : ∀ w ∈ a.words, ¬ s.isTagByte w.1 k) :
    (s.writeAccess a v).byte k = (s.writeNibbles a.key a.size v a.mask.toNat).byte k := by
  unfold State.writeAccess
  refine (foldl_keeps_mem (fun s' : State => s'.byte k = (s.writeNibbles a.key a.size v a.mask.toNat).byte k ∧
    ∀ w, s'.isTagByte w k = s.isTagByte w k) (fun (s' : State) (w : Nat × Nat) => s'.setTag w.1 false) _ (fun s' w hw h => ⟨?_, h.2⟩) _ ?_).1
  · rw [State.setTag_byte _ _ _ _ (by rw [h.2]; exact hk w hw)]; exact h.1
  · refine foldl_keeps (fun s' : State => s'.byte k = _ ∧ ∀ w, s'.isTagByte w k = s.isTagByte w k) _ (fun s' w h => ?_) _ _
      ⟨rfl, fun w => State.writeNibbles_isTagByte _ _ _ _ _ _ _⟩
    refine ⟨?_, fun x => by rw [State.eccWrite_isTagByte]; exact h.2 x⟩
    rw [← h.1]
    unfold State.eccWrite State.freshWord State.correct
    split <;> [rfl; (split <;> rfl)]

/-- Where an access lies in memory without a CXL tier, no byte is one of its tags. -/
theorem Access.not_tagByte (s : State) (a : Access) (k : Nat) (h : ∀ w ∈ a.words, keyTgt w.1 ≤ 3) :
    ∀ w ∈ a.words, ¬ s.isTagByte w.1 k := fun w hw x => by have := h w hw; have := x.1; omega

end Sys2Proof.Machine
end

