-- ==== Sys2Proof/Laws/Operands.lean ====
section
/-!
SUPPORT. The shared operations of lane-wise instructions: what `withSources`, `finishLanes`, `lanewise` and `wholewise` do
when an instruction executes normally.
-/
namespace Sys2Proof.Machine

theorem State.spendStream_quiet (s : State) (key : Nat) (x : StreamUse) : s.quiet (s.spendStream key x) := by
  unfold State.spendStream
  split <;> split <;> rfl

/-- A stream lies in a core's scratch, away from the edge of its level. -/
theorem State.streamKey_low (s : State) (t : Thread) (r : BitVec 5) (w : Nat)
    (hw : w = s.streamKey t r / 8 * 8 ∨ w = s.streamKey t r / 8 * 8 + 8) : keyTgt w ≤ 3 := by
  have key : ∀ p x y : Nat, y < 98304 → x % 2 ^ 28 = 0 → ∀ w, (w = memKey p 3 (x + y) / 8 * 8 ∨ w = memKey p 3 (x + y) / 8 * 8 + 8) →
      keyTgt w ≤ 3 := by
    intro p x y hy hx w hw
    unfold memKey at hw
    unfold keyTgt
    omega
  unfold State.streamKey at hw
  simp only [State.formPhysical] at hw
  split at hw
  · rename_i k hk
    split at hk
    · exact absurd hk (by simp)
    · rename_i hb
      simp only [Bool.or_eq_true, decide_eq_true_eq, not_or, Nat.not_le] at hb
      split at hk
      · cases hk; exact key _ _ _ hb.2 (by omega) w hw
      · split at hk
        · exact absurd hk (by simp)
        · cases hk; exact key _ _ _ hb.2 (by omega) w hw
  · unfold keyTgt; omega

/-- No byte is a tag of what a stream access writes. -/
theorem State.streamAccess_not_tagByte (s : State) (t : Thread) (r : BitVec 5) (op : AccessOp) (mask v k : Nat) :
    ∀ w ∈ (s.streamAccess t r op mask v).words, ¬ s.isTagByte w.1 k := by
  refine Access.not_tagByte s _ k fun w hw => State.streamKey_low s t r w.1 ?_
  have hk : (s.streamAccess t r op mask v).key = s.streamKey t r := rfl
  unfold Access.words at hw
  rw [hk] at hw
  have := (List.mem_filter.1 hw).1
  simp only [List.mem_cons, List.not_mem_nil, or_false] at this
  rcases this with rfl | rfl
  · exact .inl rfl
  · exact .inr rfl

/-- The machine once the sources of an instruction have been read. -/
def State.sourcesRead (s : State) (t : Thread) (e : Fields) (mask : Nat) : State :=
  (streamsOf e).foldl (fun s x => if x.read then (s.readAccess (s.streamAccess t x.reg .load mask 0)).1 else s)
    ((streamsOf e).foldl (fun s x => s.spendStream (s.streamKey t x.reg) x) s)

theorem State.sourcesRead_quiet (s : State) (t : Thread) (e : Fields) (mask : Nat) : s.quiet (s.sourcesRead t e mask) := by
  refine State.quiet_trans _ _ _ (foldl_quiet _ (fun s x => State.spendStream_quiet s _ x) _ _) (foldl_quiet _ (fun s x => ?_) _ _)
  split
  · exact State.readAccess_quiet _ _
  · exact State.quiet_refl _

theorem State.sourcesRead_wf (s : State) (t : Thread) (e : Fields) (mask : Nat) (h : s.mem.wf = true) :
    (s.sourcesRead t e mask).mem.wf = true := by
  unfold State.sourcesRead
  apply foldl_keeps (fun s : State => s.mem.wf = true)
  · intro s x h; split
    · exact State.readAccess_wf s _ h
    · exact h
  · apply foldl_keeps (fun s : State => s.mem.wf = true)
    · intro s x h; unfold State.spendStream; split <;> split <;> exact h
    · exact h

/-- An instruction whose checks pass goes on with its sources read. -/
theorem State.withSources_passes (s : State) (t : Thread) (e : Fields) (u : LaneUse) (w : Nat → Nat)
    (go : State → Thread → Nat → Sources → State) (width : Nat)
    (hw : width = if u.nib then 4 else Nat.max 4 (w (t.typeOf e))) (h : s.passesChecks t e u width) :
    s.withSources e u w go =
      .next (go (s.sourcesRead t e (t.nibbleMask e.g width)) t (t.nibbleMask e.g width) (s.sources t e u)) := by
  obtain ⟨ht, hl, hty, h0, hs, hb⟩ := h
  have h1 : (streamsOf e).findSome? (s.streamWaits t (t.nibbleMask e.g width)) = none :=
    List.findSome?_eq_none_iff.2 fun x hx => (hs x hx).1
  have h2 : (streamsOf e).findSome? (s.streamError t (t.nibbleMask e.g width)) = none :=
    List.findSome?_eq_none_iff.2 fun x hx => (hs x hx).2
  have h3 : (!(streamsOf e).isEmpty && !t.prio &&
      (ownConflict ((streamsOf e).map fun x => s.streamKey t x.reg) || s.opts.lostBank)) = false := by
    rcases hb with hb | hb | hb
    · simp [hb]
    · simp [hb]
    · simp [hb]
  unfold State.withSources
  rw [State.onThread_some _ _ _ ht]
  dsimp only
  rw [← hw]
  simp only [hl, hty, h0, h1, h2, h3, Bool.not_true, Bool.false_eq_true, if_false]
  rfl

theorem Thread.advance_fold (t : Thread) (l : List StreamUse) (st : Int) :
    ∃ q, l.foldl (fun t x => t.setReg x.reg (moveCursor (t.reg x.reg) (wrap 64 ((t.reg x.reg).lo + st)))) t = { t with q := q } := by
  induction l generalizing t with
  | nil => exact ⟨t.q, rfl⟩
  | cons x r ih => obtain ⟨q, hq⟩ := ih (t.setReg x.reg _); exact ⟨q, by rw [List.foldl_cons, hq]; rfl⟩

theorem Thread.advance_q (t : Thread) (e : Fields) : ∃ q, t.advance e = { t with q := q } :=
  Thread.advance_fold t _ _

theorem Thread.advance_fold_reg (l : List StreamUse) (st : Int) (hl : (l.map (·.reg)).Nodup) (t : Thread) (r : BitVec 5) :
    (l.foldl (fun t x => t.setReg x.reg (moveCursor (t.reg x.reg) (wrap 64 ((t.reg x.reg).lo + st)))) t).reg r =
      if r ∈ l.map (·.reg) then moveCursor (t.reg r) (wrap 64 ((t.reg r).lo + st)) else t.reg r := by
  induction l generalizing t with
  | nil => simp
  | cons x q ih =>
    simp only [List.map_cons, List.nodup_cons] at hl
    rw [List.foldl_cons, ih hl.2]
    by_cases hr : r = x.reg
    · subst hr; simp [hl.1]
    · simp [hr]

theorem addStream_regs (l : List StreamUse) (r : BitVec 5) (w : Bool) :
    (addStream l r w).map (·.reg) = if r ∈ l.map (·.reg) then l.map (·.reg) else l.map (·.reg) ++ [r] := by
  unfold addStream
  have hany : (l.any fun x => x.reg == r) = decide (r ∈ l.map (·.reg)) := by
    rw [Bool.eq_iff_iff]; simp
  rw [hany]
  by_cases h : r ∈ l.map (·.reg)
  · rw [if_pos h]; simp only [h, decide_true, if_true, List.map_map]
    apply List.map_congr_left; intro x _; simp only [Function.comp]; split <;> rfl
  · rw [if_neg h]; simp [h]

theorem addStream_nodup (l : List StreamUse) (r : BitVec 5) (w : Bool) (h : (l.map (·.reg)).Nodup) :
    ((addStream l r w).map (·.reg)).Nodup := by
  rw [addStream_regs]; split
  · exact h
  · rename_i hr
    rw [List.nodup_append]
    exact ⟨h, List.nodup_singleton _, by intro a ha b hb; rw [List.mem_singleton] at hb; subst hb; exact fun e => hr (e ▸ ha)⟩

theorem mem_addStream (l : List StreamUse) (r x : BitVec 5) (w : Bool) :
    x ∈ (addStream l r w).map (·.reg) ↔ x = r ∨ x ∈ l.map (·.reg) := by
  rw [addStream_regs]; split
  · rename_i hr; constructor
    · exact .inr
    · rintro (rfl | h); exacts [hr, h]
  · simp only [List.mem_append, List.mem_singleton]; tauto

theorem streamsOf_nodup (e : Fields) : ((streamsOf e).map (·.reg)).Nodup := by
  unfold streamsOf
  have h0 : (([] : List StreamUse).map (·.reg)).Nodup := List.nodup_nil
  dsimp only
  split <;> split <;> split <;> split <;> repeat (first | exact h0 | apply addStream_nodup)

theorem mem_streamsOf (e : Fields) (r : BitVec 5) :
    r ∈ (streamsOf e).map (·.reg) ↔ (e.streamNames r || (e.sfd && r == e.d)) = true := by
  unfold streamsOf Fields.streamNames
  have hc : ∀ a b : BitVec 5, (a == b) = decide (b = a) := by
    intro a b; rw [Bool.eq_iff_iff, beq_iff_eq, decide_eq_true_eq]; exact eq_comm
  dsimp only
  simp only [hc]
  cases e.sfa <;> cases e.sfb <;> cases e.sfc <;> cases e.sfd <;> simp [mem_addStream] <;> tauto

theorem Thread.advance_reg (t : Thread) (e : Fields) (r : BitVec 5) :
    (t.advance e).reg r =
      if e.streamNames r || (e.sfd && r == e.d) then moveCursor (t.reg r) (wrap 64 ((t.reg r).lo + e.stride)) else t.reg r := by
  unfold Thread.advance
  rw [Thread.advance_fold_reg _ _ (streamsOf_nodup e)]
  by_cases h : r ∈ (streamsOf e).map (·.reg)
  · rw [if_pos h, if_pos ((mem_streamsOf e r).1 h)]
  · rw [if_neg h, if_neg (fun hc => h ((mem_streamsOf e r).2 hc))]

/-- The widths of lanes. -/
theorem laneWidth_cases (ty : Nat) : laneWidth ty = 0 ∨ ∃ q, laneWidth ty = 4 * q ∧ 0 < q ∧ 128 / laneWidth ty * q = 32 := by
  unfold laneWidth
  split
  · unfold fmtWidth
    split <;> first | exact .inr ⟨2, rfl, by decide, by decide⟩ | exact .inr ⟨4, rfl, by decide, by decide⟩ |
      exact .inr ⟨8, rfl, by decide, by decide⟩ | exact .inr ⟨16, rfl, by decide, by decide⟩ |
      exact .inr ⟨1, rfl, by decide, by decide⟩ | exact .inl rfl | skip
    all_goals (exfalso; rename_i h; revert h; decide)
  · exact .inl rfl

/-- What finishing a lane-wise instruction leaves, for lanes of `4 * q` bits. -/
theorem State.finishLanes_done (s s1 : State) (t : Thread) (gen : Word64) (e : Fields) (q tag v : Nat) (f : Nat → Nat)
    (hq : 0 < q) (h32 : 128 / (4 * q) * q = 32) (h1 : s.quiet s1) (hwf : s.mem.wf = true → s1.mem.wf = true)
    (hd : e.sfd = true ∨ e.streamNames e.d = false)
    (hv : ∀ l, l < 128 / (4 * q) → t.active e.g (4 * q) l = true → lane v (4 * q) l = f l % 2 ^ (4 * q)) :
    s.lanesDone (s1.finishLanes { t with gen := gen } e (t.nibbleMask e.g (4 * q)) v tag) t e (4 * q) tag gen f := by
  have hcur : s1.cur = s.cur := by unfold State.quiet at h1; rw [h1]
  have hl : ∀ l, l < 128 / (4 * q) → l * q + q ≤ 32 := by
    intro l hl; rw [← h32, ← Nat.succ_mul]; exact Nat.mul_le_mul_right q hl
  have only : ∀ s2 : State, s2 = { s1 with mem := s2.mem, ras := s2.ras } → ∀ t', s.onlyMemory (s2.put t') := by
    intro s2 h2 t'
    have hq : s2 = { s with mem := s2.mem, ras := s2.ras, spent := s1.spent } := by rw [h2, h1]
    constructor
    · show ({ s2 with slots := (s2.put t').slots } : State) = _
      rw [hq]; rfl
    · intro n hn
      have : s2.cur = s.cur := by rw [hq]
      rw [State.put_slot_other _ _ _ (by rw [this]; exact hn)]
      rw [hq]; rfl
  obtain ⟨qa, hqa⟩ := Thread.advance_q { t with gen := gen } e
  unfold State.finishLanes State.lanesDone
  by_cases hs : e.sfd = true
  · simp only [hs, if_true]
    refine ⟨(({ t with gen := gen } : Thread).advance e).next e, ?_, ?_, ?_, ?_, ?_, only _ (State.writeAccess_only _ _ _) _, ?_, ?_, ?_⟩
    · have hc : s.cur = (s1.writeAccess (s1.streamAccess { t with gen := gen } e.d .store (t.nibbleMask e.g (4 * q)) v) v).cur := by
        rw [State.writeAccess_only]; exact hcur.symm
      rw [hc]; exact State.put_thread _ _
    · rw [hqa]; rfl
    · rw [hqa]; rfl
    · rw [hqa]; rfl
    · rw [hqa]; rfl
    · intro r
      show (({ t with gen := gen } : Thread).advance e).reg r = _
      rw [Thread.advance_reg]; rfl
    · intro j hj _
      rw [State.put_byte, State.writeAccess_byte _ _ _ _ (State.streamAccess_not_tagByte s1 { t with gen := gen } e.d .store _ v _), State.writeNibbles_byte_other,
        State.quiet_byte _ _ h1]
      have : (s1.streamAccess { t with gen := gen } e.d .store (t.nibbleMask e.g (4 * q)) v).key = s.streamKey t e.d := by
        unfold State.quiet at h1; rw [h1]; rfl
      rw [this]; exact hj
    · intro hm l hll
      set a := s1.streamAccess { t with gen := gen } e.d .store (t.nibbleMask e.g (4 * q)) v with ha
      have hk : a.key = s.streamKey t e.d := by rw [ha]; unfold State.quiet at h1; rw [h1]; rfl
      have hr : ((s1.writeAccess a v).put ((({ t with gen := gen } : Thread).advance e).next e)).readNum (s.streamKey t e.d) 16 =
          (s1.writeNibbles (s.streamKey t e.d) 16 v a.mask.toNat).readNum (s.streamKey t e.d) 16 := by
        apply State.readNum_congr; intro j _ _
        rw [State.put_byte, State.writeAccess_byte _ _ _ _ (State.streamAccess_not_tagByte s1 { t with gen := gen } e.d .store _ v _), hk]; rfl
      have hr1 : s1.readNum (s.streamKey t e.d) 16 = s.readNum (s.streamKey t e.d) 16 :=
        State.readNum_congr _ _ _ _ fun j _ _ => State.quiet_byte _ _ h1 j
      have hmask : ∀ i, i < 32 → bit a.mask.toNat i = bit (t.nibbleMask e.g (4 * q)) i := by
        intro i hi
        have hb : ∀ n, bit n i = n.testBit i := by
          intro n; simp only [bit]; rw [Nat.testBit_eq_decide_div_mod_eq]; simp [Bool.beq_eq_decide_eq]
        rw [hb, hb, show a.mask.toNat = t.nibbleMask e.g (4 * q) % 2 ^ 32 from BitVec.toNat_ofNat _ _, Nat.testBit_mod_two_pow]
        simp [hi]
      have hlane : lane ((s1.writeNibbles (s.streamKey t e.d) 16 v a.mask.toNat).readNum (s.streamKey t e.d) 16) (4 * q) l =
          lane (mergeNibbles (s.readNum (s.streamKey t e.d) 16) v (t.nibbleMask e.g (4 * q))) (4 * q) l := by
        apply lane_ext; intro j hj
        have hi := hl l hll
        rw [State.writeNibbles_lane _ _ _ _ _ _ (hwf hm) (by omega), hr1, lane_mergeNibbles _ _ _ _ (by omega), hmask _ (by omega)]
      rw [hr, hlane, lane_merge_active _ _ _ _ _ _ hq (hl l hll)]
      split
      · rename_i hact; exact hv l hll hact
      · rfl
  · have hd' : e.streamNames e.d = false := hd.resolve_left hs
    have hs' : e.sfd = false := by simpa using hs
    simp only [hs', Bool.false_eq_true, if_false]
    set r0 : QReg := ⟨BitVec.ofNat 128 (mergeNibbles (({ t with gen := gen } : Thread).reg e.d).bits.toNat v (t.nibbleMask e.g (4 * q))),
      false, BitVec.ofNat 5 tag⟩ with hr0
    obtain ⟨qb, hqb⟩ := Thread.advance_q (({ t with gen := gen } : Thread).setReg e.d r0) e
    have hdreg : ((({ t with gen := gen } : Thread).setReg e.d r0).advance e).reg e.d = r0 := by
      rw [Thread.advance_reg, hd', hs']; simp
    refine ⟨((({ t with gen := gen } : Thread).setReg e.d r0).advance e).next e, ?_, ?_, ?_, ?_, ?_, only s1 rfl _, ?_, ?_, ?_, ?_, ?_⟩
    · rw [← hcur]; exact State.put_thread _ _
    · rw [hqb]; rfl
    · rw [hqb]; rfl
    · rw [hqb]; rfl
    · rw [hqb]; rfl
    · intro r hr
      show ((({ t with gen := gen } : Thread).setReg e.d r0).advance e).reg r = _
      rw [Thread.advance_reg, Thread.setReg_reg_other _ _ _ _ hr]; rfl
    · intro j; exact State.quiet_byte _ _ h1 j
    · show (((({ t with gen := gen } : Thread).setReg e.d r0).advance e).reg e.d).cap = false
      rw [hdreg]
    · show (((({ t with gen := gen } : Thread).setReg e.d r0).advance e).reg e.d).tag = _
      rw [hdreg]
    · intro l hll
      show lane ((((({ t with gen := gen } : Thread).setReg e.d r0).advance e).reg e.d).bits.toNat) _ _ = _
      rw [hdreg, hr0]
      have hi := hl l hll
      rw [lane_ofNat _ _ _ (by nlinarith), lane_merge_active _ _ _ _ _ _ hq hi]
      split
      · rename_i hact; exact hv l hll hact
      · rfl

/-- The width of the lanes of a type that an instruction admits. -/
theorem laneWidth_typed (t : Thread) (e : Fields) (u : LaneUse) (hn : u.nib = false) (ht : t.typesOk e u = true)
    (hu : ∀ ty, u.tys.getLsbD ty = true → ty ≠ 0 → laneWidth ty ≠ 0) :
    ∃ q, laneWidth (t.typeOf e) = 4 * q ∧ 0 < q ∧ 128 / (4 * q) * q = 32 := by
  unfold Thread.typesOk at ht
  simp only [hn, Bool.false_or, Bool.and_eq_true] at ht
  have h := hu (t.typeOf e) ht.1.1.1.1.2 (by simpa using ht.1.1.1.1.1)
  rcases laneWidth_cases (t.typeOf e) with h0 | ⟨q, hq, h1, h2⟩
  · exact absurd h0 h
  · exact ⟨q, hq, h1, hq ▸ h2⟩

/-- Lanes computed in ascending order: the values packed, and the generator at the end. -/
theorem lanesGen_eq (active : Nat → Bool) (w : Nat) (f : Nat → Nat → Nat × Nat) (gen : Nat) :
    lanesGen active w f gen = (packed w (fun l => if active l then (f l (genBefore active f gen l)).1 else 0) (128 / w),
      genBefore active f gen (128 / w)) := by
  unfold lanesGen
  generalize 128 / w = n
  induction n with
  | zero => rfl
  | succ n ih =>
    simp only [loopUp, ih, packed, genBefore]
    split <;> simp

/-- A generator that no lane advances. -/
theorem genBefore_const (active : Nat → Bool) (f : Nat → Nat) (gen n : Nat) :
    genBefore active (fun l g => (f l, g)) gen n = gen := by
  induction n with
  | zero => rfl
  | succ n ih => simp only [genBefore, ih]; split <;> rfl

/-- A lane-wise instruction that executes normally leaves in each active lane what `f` gives of the lanes of its sources and
of the generator. -/
theorem State.lanewise_done (s : State) (t : Thread) (e : Fields) (u : LaneUse) (f : Nat → Nat → Nat → Nat → Nat → Nat × Nat)
    (hn : u.nib = false) (hu : ∀ ty, u.tys.getLsbD ty = true → ty ≠ 0 → laneWidth ty ≠ 0)
    (h : s.admits t e u (laneWidth (t.typeOf e))) :
    let x := s.sources t e u
    let w := laneWidth (t.typeOf e)
    let g := fun l g => f (t.typeOf e) (lane x.a w l) (lane x.b w l) (lane x.c w l) g
    ∃ s', s.lanewise e u f = .next s' ∧ s.lanesDone s' t e w (t.typeOf e)
      (BitVec.ofNat 64 (genBefore (t.active e.g w) g t.gen.toNat (128 / w)))
      fun l => (g l (genBefore (t.active e.g w) g t.gen.toNat l)).1 := by
  intro x w g
  obtain ⟨q, hw, hq, h32⟩ := laneWidth_typed t e u hn h.1.2.2.1 hu
  have hwidth : laneWidth (t.typeOf e) = if u.nib then 4 else Nat.max 4 (laneWidth (t.typeOf e)) := by
    rw [hn, hw]; simp; omega
  have hsrc : (s.sources t e u).ty = t.typeOf e := rfl
  refine ⟨_, State.withSources_passes s t e u laneWidth _ _ hwidth h.1, ?_⟩
  · simp only [x, g, show w = 4 * q from hw, hn, Bool.false_eq_true, if_false, hsrc, hw]
    rw [lanesGen_eq]
    apply State.finishLanes_done s _ t _ e q _ _ _ hq h32 (State.sourcesRead_quiet s t e _) (State.sourcesRead_wf s t e _) h.2
    intro l hl hact
    rw [lane_packed _ _ _ _ hl]
    simp only [hact, if_true]

/-- An instruction that gives its whole register at once. -/
theorem State.wholewise_done (s : State) (t : Thread) (e : Fields) (u : LaneUse) (w tag : Nat → Nat) (f : Sources → Nat) (q : Nat)
    (hq : 0 < q) (h32 : 128 / (4 * q) * q = 32) (hw : 4 * q = if u.nib then 4 else Nat.max 4 (w (t.typeOf e)))
    (h : s.admits t e u (4 * q)) :
    ∃ s', s.wholewise e u w tag f = .next s' ∧
      s.lanesDone s' t e (4 * q) (tag (t.typeOf e)) t.gen fun l => lane (f (s.sources t e u)) (4 * q) l := by
  refine ⟨_, State.withSources_passes s t e u w _ _ hw h.1, ?_⟩
  · exact State.finishLanes_done s _ t t.gen e q _ _ _ hq h32 (State.sourcesRead_quiet s t e _) (State.sourcesRead_wf s t e _)
      h.2 fun l _ _ => (Nat.mod_eq_of_lt (lane_lt _ _ _)).symm

end Sys2Proof.Machine
end

