-- ==== Sys2Proof/Laws/Stores.lean ====
section
/-!
SUPPORT. What a store leaves: the bytes it writes, the continuations and graphs that its wake writes change, and nothing else.
-/
namespace Sys2Proof.Machine

/-! ## Numbers by their lanes -/

theorem lane_zero (v w : Nat) : lane v w 0 = v % 2 ^ w := by simp [lane]

theorem lane_step (v w i : Nat) : lane v w (i + 1) = lane (v / 2 ^ w) w i := by
  unfold lane; rw [Nat.div_div_eq_div_mul, ← Nat.pow_add, Nat.mul_succ, Nat.add_comm w]

/-- A number of `n` lanes is known by them. -/
theorem eq_of_lanes (w n x y : Nat) (hx : x < 2 ^ (w * n)) (hy : y < 2 ^ (w * n)) (h : ∀ i, i < n → lane x w i = lane y w i) : x = y := by
  induction n generalizing x y with
  | zero => simp at hx hy; omega
  | succ n ih =>
    have h0 := h 0 (by omega)
    rw [lane_zero, lane_zero] at h0
    have hd : x / 2 ^ w = y / 2 ^ w := by
      refine ih _ _ ?_ ?_ fun i hi => ?_
      · rw [Nat.div_lt_iff_lt_mul (Nat.two_pow_pos w), ← Nat.pow_add]; exact hx
      · rw [Nat.div_lt_iff_lt_mul (Nat.two_pow_pos w), ← Nat.pow_add]; exact hy
      · rw [← lane_step, ← lane_step]; exact h (i + 1) (by omega)
    rw [← Nat.div_add_mod x (2 ^ w), ← Nat.div_add_mod y (2 ^ w), h0, hd]

theorem State.readNum_lt (s : State) (k n : Nat) : s.readNum k n < 2 ^ (8 * n) := by
  induction n generalizing k with
  | zero => simp [State.readNum]
  | succ n ih =>
    have h1 := (s.byte k).isLt
    have h2 := ih (k + 1)
    simp only [State.readNum]
    rw [Nat.mul_succ, Nat.pow_add]
    omega

/-- Bit `i` of a mask of every nibble. -/
theorem bit_ones (n i : Nat) (h : i < n) : bit (2 ^ n - 1) i = true := by
  have : (2 ^ n - 1).testBit i = true := by rw [Nat.testBit_two_pow_sub_one]; simpa using h
  unfold bit
  simpa [Nat.testBit, Nat.shiftRight_eq_div_pow, Nat.and_comm 1, Nat.and_one_is_mod] using this

/-- Bytes written whole read as the number written. -/
theorem State.writeNibbles_whole (s : State) (k n v mask : Nat) (h : s.mem.wf = true) (hm : ∀ i, i < 2 * n → bit mask i = true) :
    (s.writeNibbles k n v mask).readNum k n = v % 2 ^ (8 * n) := by
  have e : 8 * n = 4 * (2 * n) := by omega
  refine eq_of_lanes 4 (2 * n) _ _ ?_ ?_ fun i hi => ?_
  · rw [← e]; exact State.readNum_lt _ _ _
  · rw [← e]; exact Nat.mod_lt _ (Nat.two_pow_pos _)
  · rw [State.writeNibbles_lane s k n v mask i h hi, hm i hi, if_pos rfl, e, lane_mod _ _ _ _ (by omega)]

theorem State.writeNum_readNum (s : State) (k n v : Nat) (h : s.mem.wf = true) : (s.writeNum k n v).readNum k n = v % 2 ^ (8 * n) :=
  State.writeNibbles_whole s k n v _ h fun _ hi => bit_ones _ _ hi

/-! ## Wake writes (23 R379, R382) -/

theorem State.wakeMile_only (s : State) (c : Continuation) : s.wakeMile c = { s with graphs := (s.wakeMile c).graphs } := by
  unfold State.wakeMile; split <;> rfl

/-- A wake write changes the continuation it wakes, and the graph whose wake milestone then lives. -/
theorem State.wakeWrite_only (s : State) (word v : Nat) :
    s.wakeWrite word v = { s with conts := (s.wakeWrite word v).conts, graphs := (s.wakeWrite word v).graphs } := by
  unfold State.wakeWrite
  split
  · rfl
  · dsimp only
    split
    · unfold State.setCont; rw [State.wakeMile_only]
    · unfold State.startStage1 State.setCont; rw [State.wakeMile_only]

theorem State.wakeWords_only (s : State) (a : Access) :
    s.wakeWords a = { s with conts := (s.wakeWords a).conts, graphs := (s.wakeWords a).graphs } := by
  unfold State.wakeWords
  refine foldl_keeps (fun s' : State => s' = { s with conts := s'.conts, graphs := s'.graphs }) _ (fun s' w h => ?_) _ _ rfl
  rw [State.wakeWrite_only, h]

/-! ## Stores -/

/-- A store changes memory and its error counts, and by its wake writes continuations and graphs. -/
theorem State.storeAccess_only (s : State) (a : Access) (v : Nat) :
    s.storeAccess a v = { s with mem := (s.storeAccess a v).mem, ras := (s.storeAccess a v).ras, conts := (s.storeAccess a v).conts
                                 graphs := (s.storeAccess a v).graphs } := by
  unfold State.storeAccess
  rw [State.wakeWords_only, State.writeAccess_only]

theorem State.storeAccess_mem (s : State) (a : Access) (v : Nat) : (s.storeAccess a v).mem = (s.writeAccess a v).mem := by
  unfold State.storeAccess; rw [State.wakeWords_only]

theorem State.storeAccess_byte (s : State) (a : Access) (v k : Nat) (hk : ∀ w ∈ a.words, ¬ s.isTagByte w.1 k) :
    (s.storeAccess a v).byte k = (s.writeNibbles a.key a.size v a.mask.toNat).byte k := by
  rw [← State.writeAccess_byte s a v k hk]; unfold State.byte; rw [State.storeAccess_mem]

theorem State.storeAccess_byte_other (s : State) (a : Access) (v k : Nat) (hk : ∀ w ∈ a.words, ¬ s.isTagByte w.1 k)
    (h : k < a.key ∨ a.key + a.size ≤ k) : (s.storeAccess a v).byte k = s.byte k := by
  rw [State.storeAccess_byte _ _ _ _ hk, State.writeNibbles_byte_other _ _ _ _ _ _ h]

theorem State.storeAccess_wf (s : State) (a : Access) (v : Nat) (h : s.mem.wf = true) : (s.storeAccess a v).mem.wf = true := by
  rw [State.storeAccess_mem]; exact State.writeAccess_wf s a v h

/-- The nibbles of the stored bytes: those of the mask are the value's, the others are as they were. -/
theorem State.storeAccess_lane (s : State) (a : Access) (v i : Nat) (h : s.mem.wf = true) (hi : i < 2 * a.size)
    (hk : ∀ j, a.key ≤ j → j < a.key + a.size → ∀ w ∈ a.words, ¬ s.isTagByte w.1 j) :
    lane ((s.storeAccess a v).readNum a.key a.size) 4 i =
      if bit a.mask.toNat i then lane v 4 i else lane (s.readNum a.key a.size) 4 i := by
  rw [State.readNum_congr (s.writeNibbles a.key a.size v a.mask.toNat) _ _ _ fun j h1 h2 => State.storeAccess_byte s a v j (hk j h1 h2)]
  exact State.writeNibbles_lane _ _ _ _ _ _ h hi

/-! ## Stores of the package itself -/

theorem State.storeNum_only (s : State) (k n v : Nat) :
    s.storeNum k n v = { s with mem := (s.storeNum k n v).mem, ras := (s.storeNum k n v).ras, conts := (s.storeNum k n v).conts
                                graphs := (s.storeNum k n v).graphs } := State.storeAccess_only s _ v

/-- What the package stores below the CXL tiers changes no tag byte. -/
theorem unitStore_not_tagByte (s : State) (k n m j : Nat) (ht : keyTgt k ≤ 3 ∧ keyTgt (k / 8 * 8 + 8) ≤ 3) :
    ∀ w ∈ (unitStore k k n m).words, ¬ s.isTagByte w.1 j := by
  refine Access.not_tagByte s _ j fun w hw => ?_
  have := (List.mem_filter.1 (show w ∈ List.filter _ _ from hw)).1
  simp only [List.mem_cons, List.not_mem_nil, or_false] at this
  rcases this with rfl | rfl
  · have : keyTgt (k / 8 * 8) = keyTgt k := by unfold keyTgt; omega
    exact this ▸ ht.1
  · exact ht.2

theorem State.storeNum_byte_other (s : State) (k n v j : Nat) (ht : keyTgt k ≤ 3 ∧ keyTgt (k / 8 * 8 + 8) ≤ 3)
    (h : j < k ∨ k + n ≤ j) : (s.storeNum k n v).byte j = s.byte j :=
  State.storeAccess_byte_other s _ v j (unitStore_not_tagByte s k n _ j ht) h

theorem State.storeNum_wf (s : State) (k n v : Nat) (h : s.mem.wf = true) : (s.storeNum k n v).mem.wf = true :=
  State.storeAccess_wf s _ v h

/-- Up to 16 bytes that the package stores read as the number. -/
theorem State.storeNum_readNum (s : State) (k n v : Nat) (h : s.mem.wf = true) (hn : n ≤ 16)
    (ht : keyTgt k ≤ 3 ∧ keyTgt (k / 8 * 8 + 8) ≤ 3) :
    (s.storeNum k n v).readNum k n = v % 2 ^ (8 * n) := by
  unfold State.storeNum
  rw [State.readNum_congr (s.writeNibbles k n v (BitVec.ofNat 32 (2 ^ (2 * n) - 1)).toNat) _ _ _ fun j _ _ => 
    State.storeAccess_byte s _ v j (unitStore_not_tagByte s k n _ j ht)]
  refine State.writeNibbles_whole s k n v _ h fun i hi => ?_
  rw [BitVec.toNat_ofNat, Nat.mod_eq_of_lt]
  · exact bit_ones _ _ hi
  · have : 2 ^ (2 * n) ≤ 2 ^ 32 := Nat.pow_le_pow_right (by omega) (by omega)
    have := Nat.two_pow_pos (2 * n)
    omega

/-- Other bytes read as before. -/
theorem State.storeNum_readNum_other (s : State) (k n v j m : Nat) (ht : keyTgt k ≤ 3 ∧ keyTgt (k / 8 * 8 + 8) ≤ 3)
    (h : j + m ≤ k ∨ k + n ≤ j) :
    (s.storeNum k n v).readNum j m = s.readNum j m :=
  State.readNum_congr _ _ _ _ fun i h1 h2 => State.storeNum_byte_other s k n v i ht (by omega)

end Sys2Proof.Machine
end

