-- ==== Sys2Proof/Laws/Tables.lean ====
section
/-!
SUPPORT. Tables whose keys rise: reading after writing, whatever was written, and that writing keeps the order.
-/
namespace Sys2Proof.Machine

theorem Store.rising_cons {α : Type} (e : Nat × α) (r : Store α) : Store.rising (e :: r) = (Store.above e.1 r && Store.rising r) := rfl

/-- A key below every key of a table reads as the default. -/
theorem Store.get_of_above {α : Type} (d : α) (m : Store α) (k : Nat) (h : Store.above k m = true) : Store.get d m k = d := by
  induction m with
  | nil => rfl
  | cons e r ih =>
    rw [Store.above_cons, Bool.and_eq_true, decide_eq_true_eq] at h
    simp only [Store.get]
    rw [if_neg (by omega)]
    exact ih h.2

theorem Store.above_le {α : Type} (m : Store α) (j k : Nat) (hj : j ≤ k) (h : Store.above k m = true) : Store.above j m = true := by
  unfold Store.above at *
  simp only [List.all_eq_true, decide_eq_true_eq] at *
  exact fun e he => by have := h e he; omega

/-- What is written to a table in order reads back. -/
theorem Store.get_put {α : Type} [DecidableEq α] (d : α) (m : Store α) (k : Nat) (v : α) (h : Store.rising m = true) :
    Store.get d (Store.put d m k v) k = v := by
  by_cases hv : v = d
  · subst hv
    induction m with
    | nil => simp [Store.put, Store.get]
    | cons e r ih =>
      rw [Store.rising_cons, Bool.and_eq_true] at h
      simp only [Store.put, if_true]
      split
      · simp only [Store.get]; rw [if_neg (by omega)]; exact Store.get_of_above _ _ _ (Store.above_le _ _ _ (by omega) h.1)
      · split
        · rename_i hk; exact Store.get_of_above _ _ _ (hk ▸ h.1)
        · simp only [Store.get]; rw [if_neg (by omega)]; exact ih h.2
  · exact Store.get_put_ne d m k v hv

/-- Writing keeps the order of a table. -/
theorem Store.rising_put {α : Type} [DecidableEq α] (d : α) (m : Store α) (k : Nat) (v : α) (h : Store.rising m = true) :
    Store.rising (Store.put d m k v) = true := by
  induction m with
  | nil => by_cases hv : v = d <;> simp [Store.put, Store.rising, Store.above, hv]
  | cons e r ih =>
    rw [Store.rising_cons, Bool.and_eq_true] at h
    simp only [Store.put]
    split
    · split
      · rw [Store.rising_cons, Bool.and_eq_true]; exact h
      · rename_i hk _
        simp only [Store.rising_cons, Store.above_cons, Bool.and_eq_true, decide_eq_true_eq]
        exact ⟨⟨hk, Store.above_le _ _ _ (by omega) h.1⟩, h⟩
    · split
      · split
        · exact h.2
        · rename_i hk _
          rw [Store.rising_cons, Bool.and_eq_true]; exact ⟨hk ▸ h.1, h.2⟩
      · rw [Store.rising_cons, Bool.and_eq_true]
        exact ⟨Store.above_put d r e.1 k v (by omega) h.1, ih h.2⟩

/-- Changing the values of a table in place keeps its order. -/
theorem Store.rising_map {α : Type} (f : Nat × α → Nat × α) (hf : ∀ e, (f e).1 = e.1) (m : Store α) (h : Store.rising m = true) :
    Store.rising (m.map f) = true := by
  induction m with
  | nil => rfl
  | cons e r ih =>
    rw [Store.rising_cons, Bool.and_eq_true] at h
    rw [List.map_cons, Store.rising_cons, Bool.and_eq_true]
    refine ⟨?_, ih h.2⟩
    have := h.1
    unfold Store.above at *
    simpa [List.all_map, hf, Function.comp_def] using this

/-! ## The tables of State -/

theorem State.setSlot_slot_of (s : State) (k : Nat) (v : Slot) (h : Store.rising s.slots = true) : (s.setSlot k v).slot k = v :=
  Store.get_put _ _ _ _ h
theorem State.setSlot_slot_ne (s : State) (k : Nat) (v : Slot) (h : v ≠ Slot.empty) : (s.setSlot k v).slot k = v := Store.get_put_ne _ _ _ _ h
theorem State.setSlot_rising (s : State) (k : Nat) (v : Slot) (h : Store.rising s.slots = true) : Store.rising (s.setSlot k v).slots = true :=
  Store.rising_put _ _ _ _ h

theorem State.setCtx_ctx_of (s : State) (k : Nat) (v : Ctx) (h : Store.rising s.ctxs = true) : (s.setCtx k v).ctx k = v :=
  Store.get_put _ _ _ _ h
theorem State.setCtx_ctx_ne (s : State) (k : Nat) (v : Ctx) (h : v ≠ Ctx.none) : (s.setCtx k v).ctx k = v := Store.get_put_ne _ _ _ _ h
theorem State.setCtx_rising (s : State) (k : Nat) (v : Ctx) (h : Store.rising s.ctxs = true) : Store.rising (s.setCtx k v).ctxs = true :=
  Store.rising_put _ _ _ _ h

theorem State.setQueue_queue_of (s : State) (k : Nat) (v : Queue) (h : Store.rising s.queues = true) : (s.setQueue k v).queue k = v :=
  Store.get_put _ _ _ _ h
theorem State.setQueue_queue_ne (s : State) (k : Nat) (v : Queue) (h : v ≠ Queue.empty) : (s.setQueue k v).queue k = v := Store.get_put_ne _ _ _ _ h
theorem State.setQueue_rising (s : State) (k : Nat) (v : Queue) (h : Store.rising s.queues = true) : Store.rising (s.setQueue k v).queues = true :=
  Store.rising_put _ _ _ _ h

theorem State.setGrove_grove_of (s : State) (k : Nat) (v : Grove) (h : Store.rising s.groves = true) : (s.setGrove k v).grove k = v :=
  Store.get_put _ _ _ _ h
theorem State.setGrove_grove_ne (s : State) (k : Nat) (v : Grove) (h : v ≠ Grove.empty) : (s.setGrove k v).grove k = v := Store.get_put_ne _ _ _ _ h
theorem State.setGrove_rising (s : State) (k : Nat) (v : Grove) (h : Store.rising s.groves = true) : Store.rising (s.setGrove k v).groves = true :=
  Store.rising_put _ _ _ _ h

theorem State.setCore_core_of (s : State) (k : Nat) (v : CoreState) (h : Store.rising s.cores = true) : (s.setCore k v).core k = v :=
  Store.get_put _ _ _ _ h
theorem State.setCore_core_ne (s : State) (k : Nat) (v : CoreState) (h : v ≠ CoreState.idle) : (s.setCore k v).core k = v := Store.get_put_ne _ _ _ _ h
theorem State.setCore_rising (s : State) (k : Nat) (v : CoreState) (h : Store.rising s.cores = true) : Store.rising (s.setCore k v).cores = true :=
  Store.rising_put _ _ _ _ h

theorem State.setGraph_graph_of (s : State) (k : Nat) (v : Graph) (h : Store.rising s.graphs = true) : (s.setGraph k v).graph k = v :=
  Store.get_put _ _ _ _ h
theorem State.setGraph_graph_ne (s : State) (k : Nat) (v : Graph) (h : v ≠ Graph.none) : (s.setGraph k v).graph k = v := Store.get_put_ne _ _ _ _ h
theorem State.setGraph_graph_other (s : State) (k j : Nat) (v : Graph) (h : j ≠ k) : (s.setGraph k v).graph j = s.graph j :=
  Store.get_put_other _ _ _ _ _ h
theorem State.setGraph_rising (s : State) (k : Nat) (v : Graph) (h : Store.rising s.graphs = true) : Store.rising (s.setGraph k v).graphs = true :=
  Store.rising_put _ _ _ _ h

theorem State.setCrew_crew_of (s : State) (k : Nat) (v : Crew) (h : Store.rising s.crews = true) : (s.setCrew k v).crew k = v :=
  Store.get_put _ _ _ _ h
theorem State.setCrew_crew_ne (s : State) (k : Nat) (v : Crew) (h : v ≠ Crew.free) : (s.setCrew k v).crew k = v := Store.get_put_ne _ _ _ _ h
theorem State.setCrew_crew_other (s : State) (k j : Nat) (v : Crew) (h : j ≠ k) : (s.setCrew k v).crew j = s.crew j :=
  Store.get_put_other _ _ _ _ _ h
theorem State.setCrew_rising (s : State) (k : Nat) (v : Crew) (h : Store.rising s.crews = true) : Store.rising (s.setCrew k v).crews = true :=
  Store.rising_put _ _ _ _ h

theorem State.setLink_link_of (s : State) (k : Nat) (v : Link) (h : Store.rising s.links = true) : (s.setLink k v).link k = v :=
  Store.get_put _ _ _ _ h
theorem State.setLink_link_ne (s : State) (k : Nat) (v : Link) (h : v ≠ Link.reset) : (s.setLink k v).link k = v := Store.get_put_ne _ _ _ _ h
theorem State.setLink_link_other (s : State) (k j : Nat) (v : Link) (h : j ≠ k) : (s.setLink k v).link j = s.link j :=
  Store.get_put_other _ _ _ _ _ h
theorem State.setLink_rising (s : State) (k : Nat) (v : Link) (h : Store.rising s.links = true) : Store.rising (s.setLink k v).links = true :=
  Store.rising_put _ _ _ _ h

theorem State.setQp_qp_of (s : State) (k : Nat) (v : Option QueuePair) (h : Store.rising s.qps = true) : (s.setQp k v).qp k = v :=
  Store.get_put _ _ _ _ h
theorem State.setQp_qp_ne (s : State) (k : Nat) (v : Option QueuePair) (h : v ≠ none) : (s.setQp k v).qp k = v := Store.get_put_ne _ _ _ _ h
theorem State.setQp_qp_other (s : State) (k j : Nat) (v : Option QueuePair) (h : j ≠ k) : (s.setQp k v).qp j = s.qp j :=
  Store.get_put_other _ _ _ _ _ h
theorem State.setQp_rising (s : State) (k : Nat) (v : Option QueuePair) (h : Store.rising s.qps = true) : Store.rising (s.setQp k v).qps = true :=
  Store.rising_put _ _ _ _ h

theorem State.setHandle_handle_of (s : State) (k : Nat) (v : Handle) (h : Store.rising s.handles = true) : (s.setHandle k v).handle k = v :=
  Store.get_put _ _ _ _ h
theorem State.setHandle_handle_ne (s : State) (k : Nat) (v : Handle) (h : v ≠ Handle.free) : (s.setHandle k v).handle k = v := Store.get_put_ne _ _ _ _ h
theorem State.setHandle_handle_other (s : State) (k j : Nat) (v : Handle) (h : j ≠ k) : (s.setHandle k v).handle j = s.handle j :=
  Store.get_put_other _ _ _ _ _ h
theorem State.setHandle_rising (s : State) (k : Nat) (v : Handle) (h : Store.rising s.handles = true) : Store.rising (s.setHandle k v).handles = true :=
  Store.rising_put _ _ _ _ h

end Sys2Proof.Machine
end

