-- ==== Sys2Proof/Laws/Traps.lean ====
section
/-!
SUPPORT. What taking a trap leaves (spec/17 R305 to R309): the message joins those of a context, the thread is marked, and
nothing else changes.
-/
namespace Sys2Proof.Machine

/-- Counting an event changes the counters of its context alone. -/
theorem State.countEvent_only (s : State) (c ev n : Nat) : s.countEvent c ev n = { s with ctxs := (s.countEvent c ev n).ctxs } := by
  unfold State.countEvent
  dsimp only
  split <;> rfl

/-- A message joins those of a context, which counts it, and nothing else changes. -/
theorem State.postMessage_only (s : State) (c : Nat) (m : Message) : s.postMessage c m = { s with ctxs := (s.postMessage c m).ctxs } := by
  unfold State.postMessage
  rw [State.countEvent_only]
  rfl

/-- A message held changes those of its context alone. -/
theorem State.holdMessage_only (s : State) (c : Nat) (m : Message) : s.holdMessage c m = { s with ctxs := (s.holdMessage c m).ctxs } := rfl

/-- A report changes the messages and counters of contexts, or the messages of the host port's error interrupt. -/
theorem State.report_only (s : State) (n : Nat) (t : Thread) (kind cause detail : Nat) (info : Word32) (addr : Nat) :
    s.report n t kind cause detail info addr = { s with
      ctxs := (s.report n t kind cause detail info addr).ctxs, hostErrors := (s.report n t kind cause detail info addr).hostErrors } := by
  unfold State.report
  dsimp only
  rw [State.countEvent_only]
  split
  · split <;> rfl
  · rfl

/-! ## countEvent -/

@[simp] theorem State.countEvent_mem (s : State) (c ev n : Nat) : (s.countEvent c ev n).mem = s.mem := by
  rw [State.countEvent_only]
@[simp] theorem State.countEvent_slots (s : State) (c ev n : Nat) : (s.countEvent c ev n).slots = s.slots := by
  rw [State.countEvent_only]
@[simp] theorem State.countEvent_queues (s : State) (c ev n : Nat) : (s.countEvent c ev n).queues = s.queues := by
  rw [State.countEvent_only]
@[simp] theorem State.countEvent_crews (s : State) (c ev n : Nat) : (s.countEvent c ev n).crews = s.crews := by
  rw [State.countEvent_only]
@[simp] theorem State.countEvent_hostErrors (s : State) (c ev n : Nat) : (s.countEvent c ev n).hostErrors = s.hostErrors := by
  rw [State.countEvent_only]
@[simp] theorem State.countEvent_groves (s : State) (c ev n : Nat) : (s.countEvent c ev n).groves = s.groves := by
  rw [State.countEvent_only]
@[simp] theorem State.countEvent_cores (s : State) (c ev n : Nat) : (s.countEvent c ev n).cores = s.cores := by
  rw [State.countEvent_only]
@[simp] theorem State.countEvent_power (s : State) (c ev n : Nat) : (s.countEvent c ev n).power = s.power := by
  rw [State.countEvent_only]
@[simp] theorem State.countEvent_graphs (s : State) (c ev n : Nat) : (s.countEvent c ev n).graphs = s.graphs := by
  rw [State.countEvent_only]
@[simp] theorem State.countEvent_nextGraph (s : State) (c ev n : Nat) : (s.countEvent c ev n).nextGraph = s.nextGraph := by
  rw [State.countEvent_only]
@[simp] theorem State.countEvent_handles (s : State) (c ev n : Nat) : (s.countEvent c ev n).handles = s.handles := by
  rw [State.countEvent_only]
@[simp] theorem State.countEvent_conts (s : State) (c ev n : Nat) : (s.countEvent c ev n).conts = s.conts := by
  rw [State.countEvent_only]
@[simp] theorem State.countEvent_moves (s : State) (c ev n : Nat) : (s.countEvent c ev n).moves = s.moves := by
  rw [State.countEvent_only]
@[simp] theorem State.countEvent_migrations (s : State) (c ev n : Nat) : (s.countEvent c ev n).migrations = s.migrations := by
  rw [State.countEvent_only]
@[simp] theorem State.countEvent_dramFree (s : State) (c ev n : Nat) : (s.countEvent c ev n).dramFree = s.dramFree := by
  rw [State.countEvent_only]
@[simp] theorem State.countEvent_flashFree (s : State) (c ev n : Nat) : (s.countEvent c ev n).flashFree = s.flashFree := by
  rw [State.countEvent_only]
@[simp] theorem State.countEvent_hbmFree (s : State) (c ev n : Nat) : (s.countEvent c ev n).hbmFree = s.hbmFree := by
  rw [State.countEvent_only]
@[simp] theorem State.countEvent_ras (s : State) (c ev n : Nat) : (s.countEvent c ev n).ras = s.ras := by
  rw [State.countEvent_only]
@[simp] theorem State.countEvent_deadLandings (s : State) (c ev n : Nat) : (s.countEvent c ev n).deadLandings = s.deadLandings := by
  rw [State.countEvent_only]
@[simp] theorem State.countEvent_links (s : State) (c ev n : Nat) : (s.countEvent c ev n).links = s.links := by
  rw [State.countEvent_only]
@[simp] theorem State.countEvent_groups (s : State) (c ev n : Nat) : (s.countEvent c ev n).groups = s.groups := by
  rw [State.countEvent_only]
@[simp] theorem State.countEvent_replies (s : State) (c ev n : Nat) : (s.countEvent c ev n).replies = s.replies := by
  rw [State.countEvent_only]
@[simp] theorem State.countEvent_noticesDue (s : State) (c ev n : Nat) : (s.countEvent c ev n).noticesDue = s.noticesDue := by
  rw [State.countEvent_only]
@[simp] theorem State.countEvent_arrived (s : State) (c ev n : Nat) : (s.countEvent c ev n).arrived = s.arrived := by
  rw [State.countEvent_only]
@[simp] theorem State.countEvent_heldOver (s : State) (c ev n : Nat) : (s.countEvent c ev n).heldOver = s.heldOver := by
  rw [State.countEvent_only]
@[simp] theorem State.countEvent_seenTo (s : State) (c ev n : Nat) : (s.countEvent c ev n).seenTo = s.seenTo := by
  rw [State.countEvent_only]
@[simp] theorem State.countEvent_seenPast (s : State) (c ev n : Nat) : (s.countEvent c ev n).seenPast = s.seenPast := by
  rw [State.countEvent_only]
@[simp] theorem State.countEvent_ptpHeld (s : State) (c ev n : Nat) : (s.countEvent c ev n).ptpHeld = s.ptpHeld := by
  rw [State.countEvent_only]
@[simp] theorem State.countEvent_far (s : State) (c ev n : Nat) : (s.countEvent c ev n).far = s.far := by
  rw [State.countEvent_only]
@[simp] theorem State.countEvent_ticked (s : State) (c ev n : Nat) : (s.countEvent c ev n).ticked = s.ticked := by
  rw [State.countEvent_only]
@[simp] theorem State.countEvent_peerOut (s : State) (c ev n : Nat) : (s.countEvent c ev n).peerOut = s.peerOut := by
  rw [State.countEvent_only]
@[simp] theorem State.countEvent_farCrews (s : State) (c ev n : Nat) : (s.countEvent c ev n).farCrews = s.farCrews := by
  rw [State.countEvent_only]
@[simp] theorem State.countEvent_qps (s : State) (c ev n : Nat) : (s.countEvent c ev n).qps = s.qps := by
  rw [State.countEvent_only]
@[simp] theorem State.countEvent_qpres (s : State) (c ev n : Nat) : (s.countEvent c ev n).qpres = s.qpres := by
  rw [State.countEvent_only]
@[simp] theorem State.countEvent_dbg (s : State) (c ev n : Nat) : (s.countEvent c ev n).dbg = s.dbg := by
  rw [State.countEvent_only]
@[simp] theorem State.countEvent_boot (s : State) (c ev n : Nat) : (s.countEvent c ev n).boot = s.boot := by
  rw [State.countEvent_only]
@[simp] theorem State.countEvent_hostFrozen (s : State) (c ev n : Nat) : (s.countEvent c ev n).hostFrozen = s.hostFrozen := by
  rw [State.countEvent_only]
@[simp] theorem State.countEvent_hostOut (s : State) (c ev n : Nat) : (s.countEvent c ev n).hostOut = s.hostOut := by
  rw [State.countEvent_only]
@[simp] theorem State.countEvent_hostLatch (s : State) (c ev n : Nat) : (s.countEvent c ev n).hostLatch = s.hostLatch := by
  rw [State.countEvent_only]
@[simp] theorem State.countEvent_ptpSync (s : State) (c ev n : Nat) : (s.countEvent c ev n).ptpSync = s.ptpSync := by
  rw [State.countEvent_only]
@[simp] theorem State.countEvent_ptpOnce (s : State) (c ev n : Nat) : (s.countEvent c ev n).ptpOnce = s.ptpOnce := by
  rw [State.countEvent_only]
@[simp] theorem State.countEvent_ptpPort (s : State) (c ev n : Nat) : (s.countEvent c ev n).ptpPort = s.ptpPort := by
  rw [State.countEvent_only]
@[simp] theorem State.countEvent_ptpOffset (s : State) (c ev n : Nat) : (s.countEvent c ev n).ptpOffset = s.ptpOffset := by
  rw [State.countEvent_only]
@[simp] theorem State.countEvent_slew (s : State) (c ev n : Nat) : (s.countEvent c ev n).slew = s.slew := by
  rw [State.countEvent_only]
@[simp] theorem State.countEvent_ptpDomain (s : State) (c ev n : Nat) : (s.countEvent c ev n).ptpDomain = s.ptpDomain := by
  rw [State.countEvent_only]
@[simp] theorem State.countEvent_memBase (s : State) (c ev n : Nat) : (s.countEvent c ev n).memBase = s.memBase := by
  rw [State.countEvent_only]
@[simp] theorem State.countEvent_memSize (s : State) (c ev n : Nat) : (s.countEvent c ev n).memSize = s.memSize := by
  rw [State.countEvent_only]
@[simp] theorem State.countEvent_stamp (s : State) (c ev n : Nat) : (s.countEvent c ev n).stamp = s.stamp := by
  rw [State.countEvent_only]
@[simp] theorem State.countEvent_spent (s : State) (c ev n : Nat) : (s.countEvent c ev n).spent = s.spent := by
  rw [State.countEvent_only]
@[simp] theorem State.countEvent_requests (s : State) (c ev n : Nat) : (s.countEvent c ev n).requests = s.requests := by
  rw [State.countEvent_only]
@[simp] theorem State.countEvent_nextSeq (s : State) (c ev n : Nat) : (s.countEvent c ev n).nextSeq = s.nextSeq := by
  rw [State.countEvent_only]
@[simp] theorem State.countEvent_nextReq (s : State) (c ev n : Nat) : (s.countEvent c ev n).nextReq = s.nextReq := by
  rw [State.countEvent_only]
@[simp] theorem State.countEvent_feWait (s : State) (c ev n : Nat) : (s.countEvent c ev n).feWait = s.feWait := by
  rw [State.countEvent_only]
@[simp] theorem State.countEvent_farWait (s : State) (c ev n : Nat) : (s.countEvent c ev n).farWait = s.farWait := by
  rw [State.countEvent_only]
@[simp] theorem State.countEvent_farHalf (s : State) (c ev n : Nat) : (s.countEvent c ev n).farHalf = s.farHalf := by
  rw [State.countEvent_only]
@[simp] theorem State.countEvent_sendWait (s : State) (c ev n : Nat) : (s.countEvent c ev n).sendWait = s.sendWait := by
  rw [State.countEvent_only]
@[simp] theorem State.countEvent_now (s : State) (c ev n : Nat) : (s.countEvent c ev n).now = s.now := by
  rw [State.countEvent_only]
@[simp] theorem State.countEvent_osc (s : State) (c ev n : Nat) : (s.countEvent c ev n).osc = s.osc := by
  rw [State.countEvent_only]
@[simp] theorem State.countEvent_refilled (s : State) (c ev n : Nat) : (s.countEvent c ev n).refilled = s.refilled := by
  rw [State.countEvent_only]
@[simp] theorem State.countEvent_windowed (s : State) (c ev n : Nat) : (s.countEvent c ev n).windowed = s.windowed := by
  rw [State.countEvent_only]
@[simp] theorem State.countEvent_slewed (s : State) (c ev n : Nat) : (s.countEvent c ev n).slewed = s.slewed := by
  rw [State.countEvent_only]
@[simp] theorem State.countEvent_pkg (s : State) (c ev n : Nat) : (s.countEvent c ev n).pkg = s.pkg := by
  rw [State.countEvent_only]
@[simp] theorem State.countEvent_domain (s : State) (c ev n : Nat) : (s.countEvent c ev n).domain = s.domain := by
  rw [State.countEvent_only]
@[simp] theorem State.countEvent_cxlDram (s : State) (c ev n : Nat) : (s.countEvent c ev n).cxlDram = s.cxlDram := by
  rw [State.countEvent_only]
@[simp] theorem State.countEvent_cxlFlash (s : State) (c ev n : Nat) : (s.countEvent c ev n).cxlFlash = s.cxlFlash := by
  rw [State.countEvent_only]
@[simp] theorem State.countEvent_tagBase (s : State) (c ev n : Nat) : (s.countEvent c ev n).tagBase = s.tagBase := by
  rw [State.countEvent_only]
@[simp] theorem State.countEvent_csel (s : State) (c ev n : Nat) : (s.countEvent c ev n).csel = s.csel := by
  rw [State.countEvent_only]
@[simp] theorem State.countEvent_hostCsel (s : State) (c ev n : Nat) : (s.countEvent c ev n).hostCsel = s.hostCsel := by
  rw [State.countEvent_only]
@[simp] theorem State.countEvent_cur (s : State) (c ev n : Nat) : (s.countEvent c ev n).cur = s.cur := by
  rw [State.countEvent_only]
@[simp] theorem State.countEvent_opts (s : State) (c ev n : Nat) : (s.countEvent c ev n).opts = s.opts := by
  rw [State.countEvent_only]
@[simp] theorem State.countEvent_busy (s : State) (c ev n : Nat) : (s.countEvent c ev n).busy = s.busy := by
  rw [State.countEvent_only]
@[simp] theorem State.countEvent_arg (s : State) (c ev n : Nat) : (s.countEvent c ev n).arg = s.arg := by
  rw [State.countEvent_only]
@[simp] theorem State.countEvent_agenda (s : State) (c ev n : Nat) : (s.countEvent c ev n).agenda = s.agenda := by
  rw [State.countEvent_only]
@[simp] theorem State.countEvent_fresh (s : State) (c ev n : Nat) : (s.countEvent c ev n).fresh = s.fresh := by
  rw [State.countEvent_only]

/-! ## postMessage -/

@[simp] theorem State.postMessage_mem (s : State) (c : Nat) (m : Message) : (s.postMessage c m).mem = s.mem := by
  rw [State.postMessage_only]
@[simp] theorem State.postMessage_slots (s : State) (c : Nat) (m : Message) : (s.postMessage c m).slots = s.slots := by
  rw [State.postMessage_only]
@[simp] theorem State.postMessage_queues (s : State) (c : Nat) (m : Message) : (s.postMessage c m).queues = s.queues := by
  rw [State.postMessage_only]
@[simp] theorem State.postMessage_crews (s : State) (c : Nat) (m : Message) : (s.postMessage c m).crews = s.crews := by
  rw [State.postMessage_only]
@[simp] theorem State.postMessage_hostErrors (s : State) (c : Nat) (m : Message) : (s.postMessage c m).hostErrors = s.hostErrors := by
  rw [State.postMessage_only]
@[simp] theorem State.postMessage_groves (s : State) (c : Nat) (m : Message) : (s.postMessage c m).groves = s.groves := by
  rw [State.postMessage_only]
@[simp] theorem State.postMessage_cores (s : State) (c : Nat) (m : Message) : (s.postMessage c m).cores = s.cores := by
  rw [State.postMessage_only]
@[simp] theorem State.postMessage_power (s : State) (c : Nat) (m : Message) : (s.postMessage c m).power = s.power := by
  rw [State.postMessage_only]
@[simp] theorem State.postMessage_graphs (s : State) (c : Nat) (m : Message) : (s.postMessage c m).graphs = s.graphs := by
  rw [State.postMessage_only]
@[simp] theorem State.postMessage_nextGraph (s : State) (c : Nat) (m : Message) : (s.postMessage c m).nextGraph = s.nextGraph := by
  rw [State.postMessage_only]
@[simp] theorem State.postMessage_handles (s : State) (c : Nat) (m : Message) : (s.postMessage c m).handles = s.handles := by
  rw [State.postMessage_only]
@[simp] theorem State.postMessage_conts (s : State) (c : Nat) (m : Message) : (s.postMessage c m).conts = s.conts := by
  rw [State.postMessage_only]
@[simp] theorem State.postMessage_moves (s : State) (c : Nat) (m : Message) : (s.postMessage c m).moves = s.moves := by
  rw [State.postMessage_only]
@[simp] theorem State.postMessage_migrations (s : State) (c : Nat) (m : Message) : (s.postMessage c m).migrations = s.migrations := by
  rw [State.postMessage_only]
@[simp] theorem State.postMessage_dramFree (s : State) (c : Nat) (m : Message) : (s.postMessage c m).dramFree = s.dramFree := by
  rw [State.postMessage_only]
@[simp] theorem State.postMessage_flashFree (s : State) (c : Nat) (m : Message) : (s.postMessage c m).flashFree = s.flashFree := by
  rw [State.postMessage_only]
@[simp] theorem State.postMessage_hbmFree (s : State) (c : Nat) (m : Message) : (s.postMessage c m).hbmFree = s.hbmFree := by
  rw [State.postMessage_only]
@[simp] theorem State.postMessage_ras (s : State) (c : Nat) (m : Message) : (s.postMessage c m).ras = s.ras := by
  rw [State.postMessage_only]
@[simp] theorem State.postMessage_deadLandings (s : State) (c : Nat) (m : Message) : (s.postMessage c m).deadLandings = s.deadLandings := by
  rw [State.postMessage_only]
@[simp] theorem State.postMessage_links (s : State) (c : Nat) (m : Message) : (s.postMessage c m).links = s.links := by
  rw [State.postMessage_only]
@[simp] theorem State.postMessage_groups (s : State) (c : Nat) (m : Message) : (s.postMessage c m).groups = s.groups := by
  rw [State.postMessage_only]
@[simp] theorem State.postMessage_replies (s : State) (c : Nat) (m : Message) : (s.postMessage c m).replies = s.replies := by
  rw [State.postMessage_only]
@[simp] theorem State.postMessage_noticesDue (s : State) (c : Nat) (m : Message) : (s.postMessage c m).noticesDue = s.noticesDue := by
  rw [State.postMessage_only]
@[simp] theorem State.postMessage_arrived (s : State) (c : Nat) (m : Message) : (s.postMessage c m).arrived = s.arrived := by
  rw [State.postMessage_only]
@[simp] theorem State.postMessage_heldOver (s : State) (c : Nat) (m : Message) : (s.postMessage c m).heldOver = s.heldOver := by
  rw [State.postMessage_only]
@[simp] theorem State.postMessage_seenTo (s : State) (c : Nat) (m : Message) : (s.postMessage c m).seenTo = s.seenTo := by
  rw [State.postMessage_only]
@[simp] theorem State.postMessage_seenPast (s : State) (c : Nat) (m : Message) : (s.postMessage c m).seenPast = s.seenPast := by
  rw [State.postMessage_only]
@[simp] theorem State.postMessage_ptpHeld (s : State) (c : Nat) (m : Message) : (s.postMessage c m).ptpHeld = s.ptpHeld := by
  rw [State.postMessage_only]
@[simp] theorem State.postMessage_far (s : State) (c : Nat) (m : Message) : (s.postMessage c m).far = s.far := by
  rw [State.postMessage_only]
@[simp] theorem State.postMessage_ticked (s : State) (c : Nat) (m : Message) : (s.postMessage c m).ticked = s.ticked := by
  rw [State.postMessage_only]
@[simp] theorem State.postMessage_peerOut (s : State) (c : Nat) (m : Message) : (s.postMessage c m).peerOut = s.peerOut := by
  rw [State.postMessage_only]
@[simp] theorem State.postMessage_farCrews (s : State) (c : Nat) (m : Message) : (s.postMessage c m).farCrews = s.farCrews := by
  rw [State.postMessage_only]
@[simp] theorem State.postMessage_qps (s : State) (c : Nat) (m : Message) : (s.postMessage c m).qps = s.qps := by
  rw [State.postMessage_only]
@[simp] theorem State.postMessage_qpres (s : State) (c : Nat) (m : Message) : (s.postMessage c m).qpres = s.qpres := by
  rw [State.postMessage_only]
@[simp] theorem State.postMessage_dbg (s : State) (c : Nat) (m : Message) : (s.postMessage c m).dbg = s.dbg := by
  rw [State.postMessage_only]
@[simp] theorem State.postMessage_boot (s : State) (c : Nat) (m : Message) : (s.postMessage c m).boot = s.boot := by
  rw [State.postMessage_only]
@[simp] theorem State.postMessage_hostFrozen (s : State) (c : Nat) (m : Message) : (s.postMessage c m).hostFrozen = s.hostFrozen := by
  rw [State.postMessage_only]
@[simp] theorem State.postMessage_hostOut (s : State) (c : Nat) (m : Message) : (s.postMessage c m).hostOut = s.hostOut := by
  rw [State.postMessage_only]
@[simp] theorem State.postMessage_hostLatch (s : State) (c : Nat) (m : Message) : (s.postMessage c m).hostLatch = s.hostLatch := by
  rw [State.postMessage_only]
@[simp] theorem State.postMessage_ptpSync (s : State) (c : Nat) (m : Message) : (s.postMessage c m).ptpSync = s.ptpSync := by
  rw [State.postMessage_only]
@[simp] theorem State.postMessage_ptpOnce (s : State) (c : Nat) (m : Message) : (s.postMessage c m).ptpOnce = s.ptpOnce := by
  rw [State.postMessage_only]
@[simp] theorem State.postMessage_ptpPort (s : State) (c : Nat) (m : Message) : (s.postMessage c m).ptpPort = s.ptpPort := by
  rw [State.postMessage_only]
@[simp] theorem State.postMessage_ptpOffset (s : State) (c : Nat) (m : Message) : (s.postMessage c m).ptpOffset = s.ptpOffset := by
  rw [State.postMessage_only]
@[simp] theorem State.postMessage_slew (s : State) (c : Nat) (m : Message) : (s.postMessage c m).slew = s.slew := by
  rw [State.postMessage_only]
@[simp] theorem State.postMessage_ptpDomain (s : State) (c : Nat) (m : Message) : (s.postMessage c m).ptpDomain = s.ptpDomain := by
  rw [State.postMessage_only]
@[simp] theorem State.postMessage_memBase (s : State) (c : Nat) (m : Message) : (s.postMessage c m).memBase = s.memBase := by
  rw [State.postMessage_only]
@[simp] theorem State.postMessage_memSize (s : State) (c : Nat) (m : Message) : (s.postMessage c m).memSize = s.memSize := by
  rw [State.postMessage_only]
@[simp] theorem State.postMessage_stamp (s : State) (c : Nat) (m : Message) : (s.postMessage c m).stamp = s.stamp := by
  rw [State.postMessage_only]
@[simp] theorem State.postMessage_spent (s : State) (c : Nat) (m : Message) : (s.postMessage c m).spent = s.spent := by
  rw [State.postMessage_only]
@[simp] theorem State.postMessage_requests (s : State) (c : Nat) (m : Message) : (s.postMessage c m).requests = s.requests := by
  rw [State.postMessage_only]
@[simp] theorem State.postMessage_nextSeq (s : State) (c : Nat) (m : Message) : (s.postMessage c m).nextSeq = s.nextSeq := by
  rw [State.postMessage_only]
@[simp] theorem State.postMessage_nextReq (s : State) (c : Nat) (m : Message) : (s.postMessage c m).nextReq = s.nextReq := by
  rw [State.postMessage_only]
@[simp] theorem State.postMessage_feWait (s : State) (c : Nat) (m : Message) : (s.postMessage c m).feWait = s.feWait := by
  rw [State.postMessage_only]
@[simp] theorem State.postMessage_farWait (s : State) (c : Nat) (m : Message) : (s.postMessage c m).farWait = s.farWait := by
  rw [State.postMessage_only]
@[simp] theorem State.postMessage_farHalf (s : State) (c : Nat) (m : Message) : (s.postMessage c m).farHalf = s.farHalf := by
  rw [State.postMessage_only]
@[simp] theorem State.postMessage_sendWait (s : State) (c : Nat) (m : Message) : (s.postMessage c m).sendWait = s.sendWait := by
  rw [State.postMessage_only]
@[simp] theorem State.postMessage_now (s : State) (c : Nat) (m : Message) : (s.postMessage c m).now = s.now := by
  rw [State.postMessage_only]
@[simp] theorem State.postMessage_osc (s : State) (c : Nat) (m : Message) : (s.postMessage c m).osc = s.osc := by
  rw [State.postMessage_only]
@[simp] theorem State.postMessage_refilled (s : State) (c : Nat) (m : Message) : (s.postMessage c m).refilled = s.refilled := by
  rw [State.postMessage_only]
@[simp] theorem State.postMessage_windowed (s : State) (c : Nat) (m : Message) : (s.postMessage c m).windowed = s.windowed := by
  rw [State.postMessage_only]
@[simp] theorem State.postMessage_slewed (s : State) (c : Nat) (m : Message) : (s.postMessage c m).slewed = s.slewed := by
  rw [State.postMessage_only]
@[simp] theorem State.postMessage_pkg (s : State) (c : Nat) (m : Message) : (s.postMessage c m).pkg = s.pkg := by
  rw [State.postMessage_only]
@[simp] theorem State.postMessage_domain (s : State) (c : Nat) (m : Message) : (s.postMessage c m).domain = s.domain := by
  rw [State.postMessage_only]
@[simp] theorem State.postMessage_cxlDram (s : State) (c : Nat) (m : Message) : (s.postMessage c m).cxlDram = s.cxlDram := by
  rw [State.postMessage_only]
@[simp] theorem State.postMessage_cxlFlash (s : State) (c : Nat) (m : Message) : (s.postMessage c m).cxlFlash = s.cxlFlash := by
  rw [State.postMessage_only]
@[simp] theorem State.postMessage_tagBase (s : State) (c : Nat) (m : Message) : (s.postMessage c m).tagBase = s.tagBase := by
  rw [State.postMessage_only]
@[simp] theorem State.postMessage_csel (s : State) (c : Nat) (m : Message) : (s.postMessage c m).csel = s.csel := by
  rw [State.postMessage_only]
@[simp] theorem State.postMessage_hostCsel (s : State) (c : Nat) (m : Message) : (s.postMessage c m).hostCsel = s.hostCsel := by
  rw [State.postMessage_only]
@[simp] theorem State.postMessage_cur (s : State) (c : Nat) (m : Message) : (s.postMessage c m).cur = s.cur := by
  rw [State.postMessage_only]
@[simp] theorem State.postMessage_opts (s : State) (c : Nat) (m : Message) : (s.postMessage c m).opts = s.opts := by
  rw [State.postMessage_only]
@[simp] theorem State.postMessage_busy (s : State) (c : Nat) (m : Message) : (s.postMessage c m).busy = s.busy := by
  rw [State.postMessage_only]
@[simp] theorem State.postMessage_arg (s : State) (c : Nat) (m : Message) : (s.postMessage c m).arg = s.arg := by
  rw [State.postMessage_only]
@[simp] theorem State.postMessage_agenda (s : State) (c : Nat) (m : Message) : (s.postMessage c m).agenda = s.agenda := by
  rw [State.postMessage_only]
@[simp] theorem State.postMessage_fresh (s : State) (c : Nat) (m : Message) : (s.postMessage c m).fresh = s.fresh := by
  rw [State.postMessage_only]

/-! ## report -/

@[simp] theorem State.report_mem (s : State) (n : Nat) (t : Thread) (kind cause detail : Nat) (info : Word32) (addr : Nat) : (s.report n t kind cause detail info addr).mem = s.mem := by
  rw [State.report_only]
@[simp] theorem State.report_slots (s : State) (n : Nat) (t : Thread) (kind cause detail : Nat) (info : Word32) (addr : Nat) : (s.report n t kind cause detail info addr).slots = s.slots := by
  rw [State.report_only]
@[simp] theorem State.report_queues (s : State) (n : Nat) (t : Thread) (kind cause detail : Nat) (info : Word32) (addr : Nat) : (s.report n t kind cause detail info addr).queues = s.queues := by
  rw [State.report_only]
@[simp] theorem State.report_crews (s : State) (n : Nat) (t : Thread) (kind cause detail : Nat) (info : Word32) (addr : Nat) : (s.report n t kind cause detail info addr).crews = s.crews := by
  rw [State.report_only]
@[simp] theorem State.report_groves (s : State) (n : Nat) (t : Thread) (kind cause detail : Nat) (info : Word32) (addr : Nat) : (s.report n t kind cause detail info addr).groves = s.groves := by
  rw [State.report_only]
@[simp] theorem State.report_cores (s : State) (n : Nat) (t : Thread) (kind cause detail : Nat) (info : Word32) (addr : Nat) : (s.report n t kind cause detail info addr).cores = s.cores := by
  rw [State.report_only]
@[simp] theorem State.report_power (s : State) (n : Nat) (t : Thread) (kind cause detail : Nat) (info : Word32) (addr : Nat) : (s.report n t kind cause detail info addr).power = s.power := by
  rw [State.report_only]
@[simp] theorem State.report_graphs (s : State) (n : Nat) (t : Thread) (kind cause detail : Nat) (info : Word32) (addr : Nat) : (s.report n t kind cause detail info addr).graphs = s.graphs := by
  rw [State.report_only]
@[simp] theorem State.report_nextGraph (s : State) (n : Nat) (t : Thread) (kind cause detail : Nat) (info : Word32) (addr : Nat) : (s.report n t kind cause detail info addr).nextGraph = s.nextGraph := by
  rw [State.report_only]
@[simp] theorem State.report_handles (s : State) (n : Nat) (t : Thread) (kind cause detail : Nat) (info : Word32) (addr : Nat) : (s.report n t kind cause detail info addr).handles = s.handles := by
  rw [State.report_only]
@[simp] theorem State.report_conts (s : State) (n : Nat) (t : Thread) (kind cause detail : Nat) (info : Word32) (addr : Nat) : (s.report n t kind cause detail info addr).conts = s.conts := by
  rw [State.report_only]
@[simp] theorem State.report_moves (s : State) (n : Nat) (t : Thread) (kind cause detail : Nat) (info : Word32) (addr : Nat) : (s.report n t kind cause detail info addr).moves = s.moves := by
  rw [State.report_only]
@[simp] theorem State.report_migrations (s : State) (n : Nat) (t : Thread) (kind cause detail : Nat) (info : Word32) (addr : Nat) : (s.report n t kind cause detail info addr).migrations = s.migrations := by
  rw [State.report_only]
@[simp] theorem State.report_dramFree (s : State) (n : Nat) (t : Thread) (kind cause detail : Nat) (info : Word32) (addr : Nat) : (s.report n t kind cause detail info addr).dramFree = s.dramFree := by
  rw [State.report_only]
@[simp] theorem State.report_flashFree (s : State) (n : Nat) (t : Thread) (kind cause detail : Nat) (info : Word32) (addr : Nat) : (s.report n t kind cause detail info addr).flashFree = s.flashFree := by
  rw [State.report_only]
@[simp] theorem State.report_hbmFree (s : State) (n : Nat) (t : Thread) (kind cause detail : Nat) (info : Word32) (addr : Nat) : (s.report n t kind cause detail info addr).hbmFree = s.hbmFree := by
  rw [State.report_only]
@[simp] theorem State.report_ras (s : State) (n : Nat) (t : Thread) (kind cause detail : Nat) (info : Word32) (addr : Nat) : (s.report n t kind cause detail info addr).ras = s.ras := by
  rw [State.report_only]
@[simp] theorem State.report_deadLandings (s : State) (n : Nat) (t : Thread) (kind cause detail : Nat) (info : Word32) (addr : Nat) : (s.report n t kind cause detail info addr).deadLandings = s.deadLandings := by
  rw [State.report_only]
@[simp] theorem State.report_links (s : State) (n : Nat) (t : Thread) (kind cause detail : Nat) (info : Word32) (addr : Nat) : (s.report n t kind cause detail info addr).links = s.links := by
  rw [State.report_only]
@[simp] theorem State.report_groups (s : State) (n : Nat) (t : Thread) (kind cause detail : Nat) (info : Word32) (addr : Nat) : (s.report n t kind cause detail info addr).groups = s.groups := by
  rw [State.report_only]
@[simp] theorem State.report_replies (s : State) (n : Nat) (t : Thread) (kind cause detail : Nat) (info : Word32) (addr : Nat) : (s.report n t kind cause detail info addr).replies = s.replies := by
  rw [State.report_only]
@[simp] theorem State.report_noticesDue (s : State) (n : Nat) (t : Thread) (kind cause detail : Nat) (info : Word32) (addr : Nat) : (s.report n t kind cause detail info addr).noticesDue = s.noticesDue := by
  rw [State.report_only]
@[simp] theorem State.report_arrived (s : State) (n : Nat) (t : Thread) (kind cause detail : Nat) (info : Word32) (addr : Nat) : (s.report n t kind cause detail info addr).arrived = s.arrived := by
  rw [State.report_only]
@[simp] theorem State.report_heldOver (s : State) (n : Nat) (t : Thread) (kind cause detail : Nat) (info : Word32) (addr : Nat) : (s.report n t kind cause detail info addr).heldOver = s.heldOver := by
  rw [State.report_only]
@[simp] theorem State.report_seenTo (s : State) (n : Nat) (t : Thread) (kind cause detail : Nat) (info : Word32) (addr : Nat) : (s.report n t kind cause detail info addr).seenTo = s.seenTo := by
  rw [State.report_only]
@[simp] theorem State.report_seenPast (s : State) (n : Nat) (t : Thread) (kind cause detail : Nat) (info : Word32) (addr : Nat) : (s.report n t kind cause detail info addr).seenPast = s.seenPast := by
  rw [State.report_only]
@[simp] theorem State.report_ptpHeld (s : State) (n : Nat) (t : Thread) (kind cause detail : Nat) (info : Word32) (addr : Nat) : (s.report n t kind cause detail info addr).ptpHeld = s.ptpHeld := by
  rw [State.report_only]
@[simp] theorem State.report_far (s : State) (n : Nat) (t : Thread) (kind cause detail : Nat) (info : Word32) (addr : Nat) : (s.report n t kind cause detail info addr).far = s.far := by
  rw [State.report_only]
@[simp] theorem State.report_ticked (s : State) (n : Nat) (t : Thread) (kind cause detail : Nat) (info : Word32) (addr : Nat) : (s.report n t kind cause detail info addr).ticked = s.ticked := by
  rw [State.report_only]
@[simp] theorem State.report_peerOut (s : State) (n : Nat) (t : Thread) (kind cause detail : Nat) (info : Word32) (addr : Nat) : (s.report n t kind cause detail info addr).peerOut = s.peerOut := by
  rw [State.report_only]
@[simp] theorem State.report_farCrews (s : State) (n : Nat) (t : Thread) (kind cause detail : Nat) (info : Word32) (addr : Nat) : (s.report n t kind cause detail info addr).farCrews = s.farCrews := by
  rw [State.report_only]
@[simp] theorem State.report_qps (s : State) (n : Nat) (t : Thread) (kind cause detail : Nat) (info : Word32) (addr : Nat) : (s.report n t kind cause detail info addr).qps = s.qps := by
  rw [State.report_only]
@[simp] theorem State.report_qpres (s : State) (n : Nat) (t : Thread) (kind cause detail : Nat) (info : Word32) (addr : Nat) : (s.report n t kind cause detail info addr).qpres = s.qpres := by
  rw [State.report_only]
@[simp] theorem State.report_dbg (s : State) (n : Nat) (t : Thread) (kind cause detail : Nat) (info : Word32) (addr : Nat) : (s.report n t kind cause detail info addr).dbg = s.dbg := by
  rw [State.report_only]
@[simp] theorem State.report_boot (s : State) (n : Nat) (t : Thread) (kind cause detail : Nat) (info : Word32) (addr : Nat) : (s.report n t kind cause detail info addr).boot = s.boot := by
  rw [State.report_only]
@[simp] theorem State.report_hostFrozen (s : State) (n : Nat) (t : Thread) (kind cause detail : Nat) (info : Word32) (addr : Nat) : (s.report n t kind cause detail info addr).hostFrozen = s.hostFrozen := by
  rw [State.report_only]
@[simp] theorem State.report_hostOut (s : State) (n : Nat) (t : Thread) (kind cause detail : Nat) (info : Word32) (addr : Nat) : (s.report n t kind cause detail info addr).hostOut = s.hostOut := by
  rw [State.report_only]
@[simp] theorem State.report_hostLatch (s : State) (n : Nat) (t : Thread) (kind cause detail : Nat) (info : Word32) (addr : Nat) : (s.report n t kind cause detail info addr).hostLatch = s.hostLatch := by
  rw [State.report_only]
@[simp] theorem State.report_ptpSync (s : State) (n : Nat) (t : Thread) (kind cause detail : Nat) (info : Word32) (addr : Nat) : (s.report n t kind cause detail info addr).ptpSync = s.ptpSync := by
  rw [State.report_only]
@[simp] theorem State.report_ptpOnce (s : State) (n : Nat) (t : Thread) (kind cause detail : Nat) (info : Word32) (addr : Nat) : (s.report n t kind cause detail info addr).ptpOnce = s.ptpOnce := by
  rw [State.report_only]
@[simp] theorem State.report_ptpPort (s : State) (n : Nat) (t : Thread) (kind cause detail : Nat) (info : Word32) (addr : Nat) : (s.report n t kind cause detail info addr).ptpPort = s.ptpPort := by
  rw [State.report_only]
@[simp] theorem State.report_ptpOffset (s : State) (n : Nat) (t : Thread) (kind cause detail : Nat) (info : Word32) (addr : Nat) : (s.report n t kind cause detail info addr).ptpOffset = s.ptpOffset := by
  rw [State.report_only]
@[simp] theorem State.report_slew (s : State) (n : Nat) (t : Thread) (kind cause detail : Nat) (info : Word32) (addr : Nat) : (s.report n t kind cause detail info addr).slew = s.slew := by
  rw [State.report_only]
@[simp] theorem State.report_ptpDomain (s : State) (n : Nat) (t : Thread) (kind cause detail : Nat) (info : Word32) (addr : Nat) : (s.report n t kind cause detail info addr).ptpDomain = s.ptpDomain := by
  rw [State.report_only]
@[simp] theorem State.report_memBase (s : State) (n : Nat) (t : Thread) (kind cause detail : Nat) (info : Word32) (addr : Nat) : (s.report n t kind cause detail info addr).memBase = s.memBase := by
  rw [State.report_only]
@[simp] theorem State.report_memSize (s : State) (n : Nat) (t : Thread) (kind cause detail : Nat) (info : Word32) (addr : Nat) : (s.report n t kind cause detail info addr).memSize = s.memSize := by
  rw [State.report_only]
@[simp] theorem State.report_stamp (s : State) (n : Nat) (t : Thread) (kind cause detail : Nat) (info : Word32) (addr : Nat) : (s.report n t kind cause detail info addr).stamp = s.stamp := by
  rw [State.report_only]
@[simp] theorem State.report_spent (s : State) (n : Nat) (t : Thread) (kind cause detail : Nat) (info : Word32) (addr : Nat) : (s.report n t kind cause detail info addr).spent = s.spent := by
  rw [State.report_only]
@[simp] theorem State.report_requests (s : State) (n : Nat) (t : Thread) (kind cause detail : Nat) (info : Word32) (addr : Nat) : (s.report n t kind cause detail info addr).requests = s.requests := by
  rw [State.report_only]
@[simp] theorem State.report_nextSeq (s : State) (n : Nat) (t : Thread) (kind cause detail : Nat) (info : Word32) (addr : Nat) : (s.report n t kind cause detail info addr).nextSeq = s.nextSeq := by
  rw [State.report_only]
@[simp] theorem State.report_nextReq (s : State) (n : Nat) (t : Thread) (kind cause detail : Nat) (info : Word32) (addr : Nat) : (s.report n t kind cause detail info addr).nextReq = s.nextReq := by
  rw [State.report_only]
@[simp] theorem State.report_feWait (s : State) (n : Nat) (t : Thread) (kind cause detail : Nat) (info : Word32) (addr : Nat) : (s.report n t kind cause detail info addr).feWait = s.feWait := by
  rw [State.report_only]
@[simp] theorem State.report_farWait (s : State) (n : Nat) (t : Thread) (kind cause detail : Nat) (info : Word32) (addr : Nat) : (s.report n t kind cause detail info addr).farWait = s.farWait := by
  rw [State.report_only]
@[simp] theorem State.report_farHalf (s : State) (n : Nat) (t : Thread) (kind cause detail : Nat) (info : Word32) (addr : Nat) : (s.report n t kind cause detail info addr).farHalf = s.farHalf := by
  rw [State.report_only]
@[simp] theorem State.report_sendWait (s : State) (n : Nat) (t : Thread) (kind cause detail : Nat) (info : Word32) (addr : Nat) : (s.report n t kind cause detail info addr).sendWait = s.sendWait := by
  rw [State.report_only]
@[simp] theorem State.report_now (s : State) (n : Nat) (t : Thread) (kind cause detail : Nat) (info : Word32) (addr : Nat) : (s.report n t kind cause detail info addr).now = s.now := by
  rw [State.report_only]
@[simp] theorem State.report_osc (s : State) (n : Nat) (t : Thread) (kind cause detail : Nat) (info : Word32) (addr : Nat) : (s.report n t kind cause detail info addr).osc = s.osc := by
  rw [State.report_only]
@[simp] theorem State.report_refilled (s : State) (n : Nat) (t : Thread) (kind cause detail : Nat) (info : Word32) (addr : Nat) : (s.report n t kind cause detail info addr).refilled = s.refilled := by
  rw [State.report_only]
@[simp] theorem State.report_windowed (s : State) (n : Nat) (t : Thread) (kind cause detail : Nat) (info : Word32) (addr : Nat) : (s.report n t kind cause detail info addr).windowed = s.windowed := by
  rw [State.report_only]
@[simp] theorem State.report_slewed (s : State) (n : Nat) (t : Thread) (kind cause detail : Nat) (info : Word32) (addr : Nat) : (s.report n t kind cause detail info addr).slewed = s.slewed := by
  rw [State.report_only]
@[simp] theorem State.report_pkg (s : State) (n : Nat) (t : Thread) (kind cause detail : Nat) (info : Word32) (addr : Nat) : (s.report n t kind cause detail info addr).pkg = s.pkg := by
  rw [State.report_only]
@[simp] theorem State.report_domain (s : State) (n : Nat) (t : Thread) (kind cause detail : Nat) (info : Word32) (addr : Nat) : (s.report n t kind cause detail info addr).domain = s.domain := by
  rw [State.report_only]
@[simp] theorem State.report_cxlDram (s : State) (n : Nat) (t : Thread) (kind cause detail : Nat) (info : Word32) (addr : Nat) : (s.report n t kind cause detail info addr).cxlDram = s.cxlDram := by
  rw [State.report_only]
@[simp] theorem State.report_cxlFlash (s : State) (n : Nat) (t : Thread) (kind cause detail : Nat) (info : Word32) (addr : Nat) : (s.report n t kind cause detail info addr).cxlFlash = s.cxlFlash := by
  rw [State.report_only]
@[simp] theorem State.report_tagBase (s : State) (n : Nat) (t : Thread) (kind cause detail : Nat) (info : Word32) (addr : Nat) : (s.report n t kind cause detail info addr).tagBase = s.tagBase := by
  rw [State.report_only]
@[simp] theorem State.report_csel (s : State) (n : Nat) (t : Thread) (kind cause detail : Nat) (info : Word32) (addr : Nat) : (s.report n t kind cause detail info addr).csel = s.csel := by
  rw [State.report_only]
@[simp] theorem State.report_hostCsel (s : State) (n : Nat) (t : Thread) (kind cause detail : Nat) (info : Word32) (addr : Nat) : (s.report n t kind cause detail info addr).hostCsel = s.hostCsel := by
  rw [State.report_only]
@[simp] theorem State.report_cur (s : State) (n : Nat) (t : Thread) (kind cause detail : Nat) (info : Word32) (addr : Nat) : (s.report n t kind cause detail info addr).cur = s.cur := by
  rw [State.report_only]
@[simp] theorem State.report_opts (s : State) (n : Nat) (t : Thread) (kind cause detail : Nat) (info : Word32) (addr : Nat) : (s.report n t kind cause detail info addr).opts = s.opts := by
  rw [State.report_only]
@[simp] theorem State.report_busy (s : State) (n : Nat) (t : Thread) (kind cause detail : Nat) (info : Word32) (addr : Nat) : (s.report n t kind cause detail info addr).busy = s.busy := by
  rw [State.report_only]
@[simp] theorem State.report_arg (s : State) (n : Nat) (t : Thread) (kind cause detail : Nat) (info : Word32) (addr : Nat) : (s.report n t kind cause detail info addr).arg = s.arg := by
  rw [State.report_only]
@[simp] theorem State.report_agenda (s : State) (n : Nat) (t : Thread) (kind cause detail : Nat) (info : Word32) (addr : Nat) : (s.report n t kind cause detail info addr).agenda = s.agenda := by
  rw [State.report_only]
@[simp] theorem State.report_fresh (s : State) (n : Nat) (t : Thread) (kind cause detail : Nat) (info : Word32) (addr : Nat) : (s.report n t kind cause detail info addr).fresh = s.fresh := by
  rw [State.report_only]

/-! ## stopThread -/

/-- The thread as a stop leaves it. -/
def Thread.stop (t : Thread) (x : Stop) : Thread :=
  { t with stopped := some x, wait := t.wait.kept, reissue := false, stepping := 0, debugStop := false, absent := none }

theorem State.stopThread_some (s : State) (n : Nat) (t : Thread) (kind cause detail : Nat) (info : Word32) (addr : Nat)
    (h : s.thread n = some t) : s.stopThread n kind cause detail info addr =
      (s.setThread n (t.stop ⟨kind, cause, detail, info⟩)).report n (t.stop ⟨kind, cause, detail, info⟩) kind cause detail info addr := by
  simp [State.stopThread, h, Thread.stop]

theorem State.stopThread_none (s : State) (n kind cause detail : Nat) (info : Word32) (addr : Nat) (h : s.thread n = none) :
    s.stopThread n kind cause detail info addr = s := by simp [State.stopThread, h]

/-- A stop changes a slot and the messages alone. -/
theorem State.stopThread_only (s : State) (n kind cause detail : Nat) (info : Word32) (addr : Nat) :
    s.stopThread n kind cause detail info addr = { s with
      slots := (s.stopThread n kind cause detail info addr).slots, ctxs := (s.stopThread n kind cause detail info addr).ctxs
      hostErrors := (s.stopThread n kind cause detail info addr).hostErrors } := by
  unfold State.stopThread
  split
  · rfl
  · dsimp only
    rw [State.report_only]
    rfl

/-! ## Fields that a stop keeps -/

@[simp] theorem State.stopThread_mem (s : State) (n kind cause detail : Nat) (info : Word32) (addr : Nat) : (s.stopThread n kind cause detail info addr).mem = s.mem := by
  rw [State.stopThread_only]
@[simp] theorem State.stopThread_queues (s : State) (n kind cause detail : Nat) (info : Word32) (addr : Nat) : (s.stopThread n kind cause detail info addr).queues = s.queues := by
  rw [State.stopThread_only]
@[simp] theorem State.stopThread_crews (s : State) (n kind cause detail : Nat) (info : Word32) (addr : Nat) : (s.stopThread n kind cause detail info addr).crews = s.crews := by
  rw [State.stopThread_only]
@[simp] theorem State.stopThread_groves (s : State) (n kind cause detail : Nat) (info : Word32) (addr : Nat) : (s.stopThread n kind cause detail info addr).groves = s.groves := by
  rw [State.stopThread_only]
@[simp] theorem State.stopThread_cores (s : State) (n kind cause detail : Nat) (info : Word32) (addr : Nat) : (s.stopThread n kind cause detail info addr).cores = s.cores := by
  rw [State.stopThread_only]
@[simp] theorem State.stopThread_power (s : State) (n kind cause detail : Nat) (info : Word32) (addr : Nat) : (s.stopThread n kind cause detail info addr).power = s.power := by
  rw [State.stopThread_only]
@[simp] theorem State.stopThread_graphs (s : State) (n kind cause detail : Nat) (info : Word32) (addr : Nat) : (s.stopThread n kind cause detail info addr).graphs = s.graphs := by
  rw [State.stopThread_only]
@[simp] theorem State.stopThread_nextGraph (s : State) (n kind cause detail : Nat) (info : Word32) (addr : Nat) : (s.stopThread n kind cause detail info addr).nextGraph = s.nextGraph := by
  rw [State.stopThread_only]
@[simp] theorem State.stopThread_handles (s : State) (n kind cause detail : Nat) (info : Word32) (addr : Nat) : (s.stopThread n kind cause detail info addr).handles = s.handles := by
  rw [State.stopThread_only]
@[simp] theorem State.stopThread_conts (s : State) (n kind cause detail : Nat) (info : Word32) (addr : Nat) : (s.stopThread n kind cause detail info addr).conts = s.conts := by
  rw [State.stopThread_only]
@[simp] theorem State.stopThread_moves (s : State) (n kind cause detail : Nat) (info : Word32) (addr : Nat) : (s.stopThread n kind cause detail info addr).moves = s.moves := by
  rw [State.stopThread_only]
@[simp] theorem State.stopThread_migrations (s : State) (n kind cause detail : Nat) (info : Word32) (addr : Nat) : (s.stopThread n kind cause detail info addr).migrations = s.migrations := by
  rw [State.stopThread_only]
@[simp] theorem State.stopThread_dramFree (s : State) (n kind cause detail : Nat) (info : Word32) (addr : Nat) : (s.stopThread n kind cause detail info addr).dramFree = s.dramFree := by
  rw [State.stopThread_only]
@[simp] theorem State.stopThread_flashFree (s : State) (n kind cause detail : Nat) (info : Word32) (addr : Nat) : (s.stopThread n kind cause detail info addr).flashFree = s.flashFree := by
  rw [State.stopThread_only]
@[simp] theorem State.stopThread_hbmFree (s : State) (n kind cause detail : Nat) (info : Word32) (addr : Nat) : (s.stopThread n kind cause detail info addr).hbmFree = s.hbmFree := by
  rw [State.stopThread_only]
@[simp] theorem State.stopThread_ras (s : State) (n kind cause detail : Nat) (info : Word32) (addr : Nat) : (s.stopThread n kind cause detail info addr).ras = s.ras := by
  rw [State.stopThread_only]
@[simp] theorem State.stopThread_deadLandings (s : State) (n kind cause detail : Nat) (info : Word32) (addr : Nat) : (s.stopThread n kind cause detail info addr).deadLandings = s.deadLandings := by
  rw [State.stopThread_only]
@[simp] theorem State.stopThread_links (s : State) (n kind cause detail : Nat) (info : Word32) (addr : Nat) : (s.stopThread n kind cause detail info addr).links = s.links := by
  rw [State.stopThread_only]
@[simp] theorem State.stopThread_groups (s : State) (n kind cause detail : Nat) (info : Word32) (addr : Nat) : (s.stopThread n kind cause detail info addr).groups = s.groups := by
  rw [State.stopThread_only]
@[simp] theorem State.stopThread_replies (s : State) (n kind cause detail : Nat) (info : Word32) (addr : Nat) : (s.stopThread n kind cause detail info addr).replies = s.replies := by
  rw [State.stopThread_only]
@[simp] theorem State.stopThread_noticesDue (s : State) (n kind cause detail : Nat) (info : Word32) (addr : Nat) : (s.stopThread n kind cause detail info addr).noticesDue = s.noticesDue := by
  rw [State.stopThread_only]
@[simp] theorem State.stopThread_arrived (s : State) (n kind cause detail : Nat) (info : Word32) (addr : Nat) : (s.stopThread n kind cause detail info addr).arrived = s.arrived := by
  rw [State.stopThread_only]
@[simp] theorem State.stopThread_heldOver (s : State) (n kind cause detail : Nat) (info : Word32) (addr : Nat) : (s.stopThread n kind cause detail info addr).heldOver = s.heldOver := by
  rw [State.stopThread_only]
@[simp] theorem State.stopThread_seenTo (s : State) (n kind cause detail : Nat) (info : Word32) (addr : Nat) : (s.stopThread n kind cause detail info addr).seenTo = s.seenTo := by
  rw [State.stopThread_only]
@[simp] theorem State.stopThread_seenPast (s : State) (n kind cause detail : Nat) (info : Word32) (addr : Nat) : (s.stopThread n kind cause detail info addr).seenPast = s.seenPast := by
  rw [State.stopThread_only]
@[simp] theorem State.stopThread_ptpHeld (s : State) (n kind cause detail : Nat) (info : Word32) (addr : Nat) : (s.stopThread n kind cause detail info addr).ptpHeld = s.ptpHeld := by
  rw [State.stopThread_only]
@[simp] theorem State.stopThread_far (s : State) (n kind cause detail : Nat) (info : Word32) (addr : Nat) : (s.stopThread n kind cause detail info addr).far = s.far := by
  rw [State.stopThread_only]
@[simp] theorem State.stopThread_ticked (s : State) (n kind cause detail : Nat) (info : Word32) (addr : Nat) : (s.stopThread n kind cause detail info addr).ticked = s.ticked := by
  rw [State.stopThread_only]
@[simp] theorem State.stopThread_peerOut (s : State) (n kind cause detail : Nat) (info : Word32) (addr : Nat) : (s.stopThread n kind cause detail info addr).peerOut = s.peerOut := by
  rw [State.stopThread_only]
@[simp] theorem State.stopThread_farCrews (s : State) (n kind cause detail : Nat) (info : Word32) (addr : Nat) : (s.stopThread n kind cause detail info addr).farCrews = s.farCrews := by
  rw [State.stopThread_only]
@[simp] theorem State.stopThread_qps (s : State) (n kind cause detail : Nat) (info : Word32) (addr : Nat) : (s.stopThread n kind cause detail info addr).qps = s.qps := by
  rw [State.stopThread_only]
@[simp] theorem State.stopThread_qpres (s : State) (n kind cause detail : Nat) (info : Word32) (addr : Nat) : (s.stopThread n kind cause detail info addr).qpres = s.qpres := by
  rw [State.stopThread_only]
@[simp] theorem State.stopThread_dbg (s : State) (n kind cause detail : Nat) (info : Word32) (addr : Nat) : (s.stopThread n kind cause detail info addr).dbg = s.dbg := by
  rw [State.stopThread_only]
@[simp] theorem State.stopThread_boot (s : State) (n kind cause detail : Nat) (info : Word32) (addr : Nat) : (s.stopThread n kind cause detail info addr).boot = s.boot := by
  rw [State.stopThread_only]
@[simp] theorem State.stopThread_hostFrozen (s : State) (n kind cause detail : Nat) (info : Word32) (addr : Nat) : (s.stopThread n kind cause detail info addr).hostFrozen = s.hostFrozen := by
  rw [State.stopThread_only]
@[simp] theorem State.stopThread_hostOut (s : State) (n kind cause detail : Nat) (info : Word32) (addr : Nat) : (s.stopThread n kind cause detail info addr).hostOut = s.hostOut := by
  rw [State.stopThread_only]
@[simp] theorem State.stopThread_hostLatch (s : State) (n kind cause detail : Nat) (info : Word32) (addr : Nat) : (s.stopThread n kind cause detail info addr).hostLatch = s.hostLatch := by
  rw [State.stopThread_only]
@[simp] theorem State.stopThread_ptpSync (s : State) (n kind cause detail : Nat) (info : Word32) (addr : Nat) : (s.stopThread n kind cause detail info addr).ptpSync = s.ptpSync := by
  rw [State.stopThread_only]
@[simp] theorem State.stopThread_ptpOnce (s : State) (n kind cause detail : Nat) (info : Word32) (addr : Nat) : (s.stopThread n kind cause detail info addr).ptpOnce = s.ptpOnce := by
  rw [State.stopThread_only]
@[simp] theorem State.stopThread_ptpPort (s : State) (n kind cause detail : Nat) (info : Word32) (addr : Nat) : (s.stopThread n kind cause detail info addr).ptpPort = s.ptpPort := by
  rw [State.stopThread_only]
@[simp] theorem State.stopThread_ptpOffset (s : State) (n kind cause detail : Nat) (info : Word32) (addr : Nat) : (s.stopThread n kind cause detail info addr).ptpOffset = s.ptpOffset := by
  rw [State.stopThread_only]
@[simp] theorem State.stopThread_slew (s : State) (n kind cause detail : Nat) (info : Word32) (addr : Nat) : (s.stopThread n kind cause detail info addr).slew = s.slew := by
  rw [State.stopThread_only]
@[simp] theorem State.stopThread_ptpDomain (s : State) (n kind cause detail : Nat) (info : Word32) (addr : Nat) : (s.stopThread n kind cause detail info addr).ptpDomain = s.ptpDomain := by
  rw [State.stopThread_only]
@[simp] theorem State.stopThread_memBase (s : State) (n kind cause detail : Nat) (info : Word32) (addr : Nat) : (s.stopThread n kind cause detail info addr).memBase = s.memBase := by
  rw [State.stopThread_only]
@[simp] theorem State.stopThread_memSize (s : State) (n kind cause detail : Nat) (info : Word32) (addr : Nat) : (s.stopThread n kind cause detail info addr).memSize = s.memSize := by
  rw [State.stopThread_only]
@[simp] theorem State.stopThread_stamp (s : State) (n kind cause detail : Nat) (info : Word32) (addr : Nat) : (s.stopThread n kind cause detail info addr).stamp = s.stamp := by
  rw [State.stopThread_only]
@[simp] theorem State.stopThread_spent (s : State) (n kind cause detail : Nat) (info : Word32) (addr : Nat) : (s.stopThread n kind cause detail info addr).spent = s.spent := by
  rw [State.stopThread_only]
@[simp] theorem State.stopThread_requests (s : State) (n kind cause detail : Nat) (info : Word32) (addr : Nat) : (s.stopThread n kind cause detail info addr).requests = s.requests := by
  rw [State.stopThread_only]
@[simp] theorem State.stopThread_nextSeq (s : State) (n kind cause detail : Nat) (info : Word32) (addr : Nat) : (s.stopThread n kind cause detail info addr).nextSeq = s.nextSeq := by
  rw [State.stopThread_only]
@[simp] theorem State.stopThread_nextReq (s : State) (n kind cause detail : Nat) (info : Word32) (addr : Nat) : (s.stopThread n kind cause detail info addr).nextReq = s.nextReq := by
  rw [State.stopThread_only]
@[simp] theorem State.stopThread_feWait (s : State) (n kind cause detail : Nat) (info : Word32) (addr : Nat) : (s.stopThread n kind cause detail info addr).feWait = s.feWait := by
  rw [State.stopThread_only]
@[simp] theorem State.stopThread_farWait (s : State) (n kind cause detail : Nat) (info : Word32) (addr : Nat) : (s.stopThread n kind cause detail info addr).farWait = s.farWait := by
  rw [State.stopThread_only]
@[simp] theorem State.stopThread_farHalf (s : State) (n kind cause detail : Nat) (info : Word32) (addr : Nat) : (s.stopThread n kind cause detail info addr).farHalf = s.farHalf := by
  rw [State.stopThread_only]
@[simp] theorem State.stopThread_sendWait (s : State) (n kind cause detail : Nat) (info : Word32) (addr : Nat) : (s.stopThread n kind cause detail info addr).sendWait = s.sendWait := by
  rw [State.stopThread_only]
@[simp] theorem State.stopThread_now (s : State) (n kind cause detail : Nat) (info : Word32) (addr : Nat) : (s.stopThread n kind cause detail info addr).now = s.now := by
  rw [State.stopThread_only]
@[simp] theorem State.stopThread_osc (s : State) (n kind cause detail : Nat) (info : Word32) (addr : Nat) : (s.stopThread n kind cause detail info addr).osc = s.osc := by
  rw [State.stopThread_only]
@[simp] theorem State.stopThread_refilled (s : State) (n kind cause detail : Nat) (info : Word32) (addr : Nat) : (s.stopThread n kind cause detail info addr).refilled = s.refilled := by
  rw [State.stopThread_only]
@[simp] theorem State.stopThread_windowed (s : State) (n kind cause detail : Nat) (info : Word32) (addr : Nat) : (s.stopThread n kind cause detail info addr).windowed = s.windowed := by
  rw [State.stopThread_only]
@[simp] theorem State.stopThread_slewed (s : State) (n kind cause detail : Nat) (info : Word32) (addr : Nat) : (s.stopThread n kind cause detail info addr).slewed = s.slewed := by
  rw [State.stopThread_only]
@[simp] theorem State.stopThread_pkg (s : State) (n kind cause detail : Nat) (info : Word32) (addr : Nat) : (s.stopThread n kind cause detail info addr).pkg = s.pkg := by
  rw [State.stopThread_only]
@[simp] theorem State.stopThread_domain (s : State) (n kind cause detail : Nat) (info : Word32) (addr : Nat) : (s.stopThread n kind cause detail info addr).domain = s.domain := by
  rw [State.stopThread_only]
@[simp] theorem State.stopThread_cxlDram (s : State) (n kind cause detail : Nat) (info : Word32) (addr : Nat) : (s.stopThread n kind cause detail info addr).cxlDram = s.cxlDram := by
  rw [State.stopThread_only]
@[simp] theorem State.stopThread_cxlFlash (s : State) (n kind cause detail : Nat) (info : Word32) (addr : Nat) : (s.stopThread n kind cause detail info addr).cxlFlash = s.cxlFlash := by
  rw [State.stopThread_only]
@[simp] theorem State.stopThread_tagBase (s : State) (n kind cause detail : Nat) (info : Word32) (addr : Nat) : (s.stopThread n kind cause detail info addr).tagBase = s.tagBase := by
  rw [State.stopThread_only]
@[simp] theorem State.stopThread_csel (s : State) (n kind cause detail : Nat) (info : Word32) (addr : Nat) : (s.stopThread n kind cause detail info addr).csel = s.csel := by
  rw [State.stopThread_only]
@[simp] theorem State.stopThread_hostCsel (s : State) (n kind cause detail : Nat) (info : Word32) (addr : Nat) : (s.stopThread n kind cause detail info addr).hostCsel = s.hostCsel := by
  rw [State.stopThread_only]
@[simp] theorem State.stopThread_cur (s : State) (n kind cause detail : Nat) (info : Word32) (addr : Nat) : (s.stopThread n kind cause detail info addr).cur = s.cur := by
  rw [State.stopThread_only]
@[simp] theorem State.stopThread_opts (s : State) (n kind cause detail : Nat) (info : Word32) (addr : Nat) : (s.stopThread n kind cause detail info addr).opts = s.opts := by
  rw [State.stopThread_only]
@[simp] theorem State.stopThread_busy (s : State) (n kind cause detail : Nat) (info : Word32) (addr : Nat) : (s.stopThread n kind cause detail info addr).busy = s.busy := by
  rw [State.stopThread_only]
@[simp] theorem State.stopThread_arg (s : State) (n kind cause detail : Nat) (info : Word32) (addr : Nat) : (s.stopThread n kind cause detail info addr).arg = s.arg := by
  rw [State.stopThread_only]
@[simp] theorem State.stopThread_agenda (s : State) (n kind cause detail : Nat) (info : Word32) (addr : Nat) : (s.stopThread n kind cause detail info addr).agenda = s.agenda := by
  rw [State.stopThread_only]
@[simp] theorem State.stopThread_fresh (s : State) (n kind cause detail : Nat) (info : Word32) (addr : Nat) : (s.stopThread n kind cause detail info addr).fresh = s.fresh := by
  rw [State.stopThread_only]

@[simp] theorem State.report_slot (s : State) (n : Nat) (t : Thread) (kind cause detail : Nat) (info : Word32) (addr m : Nat) :
    (s.report n t kind cause detail info addr).slot m = s.slot m := by simp [State.slot]
@[simp] theorem State.report_thread (s : State) (n : Nat) (t : Thread) (kind cause detail : Nat) (info : Word32) (addr m : Nat) :
    (s.report n t kind cause detail info addr).thread m = s.thread m := by simp [State.thread]

theorem State.stopThread_thread (s : State) (n : Nat) (t : Thread) (kind cause detail : Nat) (info : Word32) (addr : Nat)
    (h : s.thread n = some t) : (s.stopThread n kind cause detail info addr).thread n = some (t.stop ⟨kind, cause, detail, info⟩) := by
  rw [State.stopThread_some s n t _ _ _ _ _ h]; simp

@[simp] theorem State.stopThread_slot_other (s : State) (n kind cause detail : Nat) (info : Word32) (addr m : Nat) (h : m ≠ n) :
    (s.stopThread n kind cause detail info addr).slot m = s.slot m := by
  cases ht : s.thread n with
  | none => rw [State.stopThread_none _ _ _ _ _ _ _ ht]
  | some t => rw [State.stopThread_some s n t _ _ _ _ _ ht]; simp [h]
@[simp] theorem State.stopThread_thread_other (s : State) (n kind cause detail : Nat) (info : Word32) (addr m : Nat) (h : m ≠ n) :
    (s.stopThread n kind cause detail info addr).thread m = s.thread m := by simp [State.thread, h]
@[simp] theorem State.stopThread_byte (s : State) (n kind cause detail : Nat) (info : Word32) (addr k : Nat) :
    (s.stopThread n kind cause detail info addr).byte k = s.byte k := by simp [State.byte]

end Sys2Proof.Machine
end

