-- ==== Sys2Proof/Tests/Slice0.lean ====
section
/-!
SUPPORT. Tests: ill-formed terms, words written from the encodings of spec/06, one step of an instruction with values worked
out by hand from its entry in spec/, and for each statement states and operands that meet its hypotheses.
-/
namespace Sys2Proof.Tests
set_option Elab.async false
open Sys2Proof Sys2Proof.Machine

/-! ## Helpers -/

/-- Word 0 (06 R101): length code, guard table, opcode and three fields. -/
def w0 (len : BitVec 2) (g : BitVec 8) (op : BitVec 7) (d a b : BitVec 5) : Word32 := len ++ g ++ op ++ d ++ a ++ b
/-- Word 1 (06 R101): subfunction, fc, ty, mod. -/
def w1 (xop : BitVec 10) (c ty : BitVec 5) (mod : BitVec 12) : Word32 := xop ++ c ++ ty ++ mod
def fld (form : Form) (g : BitVec 8) (d a b c : BitVec 5) (xop : BitVec 10) (ty : BitVec 5) (mod : BitVec 12) (imm : Word32)
    (lit : Word64) : Fields := { form, g, d, a, b, c, xop, ty, mod, imm, lit }
/-- An extended instruction, live in every lane. -/
def ex (d a b c : BitVec 5) (xop : BitVec 10) (ty : BitVec 5) (mod : BitVec 12) (imm : Word32) : Fields :=
  fld .ext 0xFF d a b c xop ty mod imm 0
/-- A one-word instruction, live in every lane. -/
def ow (d a b : BitVec 5) : Fields := Fields.oneWord 0xFF d a b

def decodesTo (ws : List Word32) (i : Instr) : Bool :=
  match decodeWords ws with
  | .ok j => i == j
  | .error _ => false
def decodesAll (l : List (List Word32 × Instr)) : Bool := l.all fun x => decodesTo x.1 x.2
def refusedWith (n : Nat) (ws : List Word32) : Bool :=
  match decodeWords ws with
  | .error (.cause m) => n == m
  | _ => false

def dat (ty : BitVec 5) (n : Nat) : QReg := ⟨BitVec.ofNat 128 n, false, ty⟩
/-- A launched thread of context 0 with some registers set. -/
def probe (l : List (BitVec 5 × QReg)) : Thread := l.foldl (fun t x => t.setReg x.1 x.2) probeThread
/-- The reset machine with a thread in slot 0. -/
def world (t : Thread) : State := State.reset.setSlot 0 { Slot.empty with quota := 1, thread := some t }
/-- The instruction gives a next state, of whose machine and issuing thread `f` holds. -/
def after (i : Instr) (s : State) (f : State → Thread → Bool) : Bool :=
  match exec i s with
  | .next s' => (s'.thread s.cur).any (f s')
  | _ => false
/-- The instruction gives a next state of which `f` holds. -/
def then_ (i : Instr) (s : State) (f : State → Bool) : Bool :=
  match exec i s with
  | .next s' => f s'
  | _ => false
/-- With registers set so, the instruction leaves `v` in register `r`. -/
def gives (i : Instr) (l : List (BitVec 5 × QReg)) (r : BitVec 5) (v : QReg) : Bool :=
  after i (world (probe l)) fun _ t => t.reg r == v

/-! ## Ill-formed terms, one for each check (06 R111) -/

theorem test_wf_refuses : [
    Instr.add (fld .one 0xFF 1 2 3 1 0 0 0 0 0),           -- a field the form does not carry
    .setgf (ex 1 2 3 0 0 0 0 0),                           -- a form the row does not admit
    .addX (ex 1 2 3 0 1 3 0 0),                            -- a subfunction the row does not assign
    .nwait (ex 1 0 0 0 6 0 1 0),                           -- a field that names another row
    .abs (ow 1 2 3),                                       -- fb must be zero
    .addX (fld .lit 0xFF 1 2 3 0 0 0 0 0 5),               -- fb beside a literal
    .addX (ex 1 2 3 0 0 3 0x1 0),                          -- a reserved bit of mod
    .addX (ex 1 2 3 0 0 3 0 1),                            -- a reserved bit of imm32
    .cjoinX (ex 4 2 0 0 0 3 0 0),                          -- a ty where none is admitted
    .tmm (ex 1 2 3 31 0 1 0x80 0),                         -- the row's own cause 4: fc above 30
    .plop (ex 8 1 2 0 0 0 0 0xE8),                         -- no such predicate
    .cmp (ex 3 1 2 0 0x12 7 0 0),                          -- an odd pair
    .faddX (ex 1 2 3 0 0 3 0 0),                           -- a ty outside the set
    .tmm (ex 1 2 3 4 0 2 0x80 0),                          -- the row's own cause 6: A is no matrix format
    .casX (ex 1 2 3 0 0 4 0x16 0),                         -- the row's own cause 7: no such scope
    .faddX (ex 10 10 3 0 0 9 0x40 0),                      -- a stream source that is the destination
    .faddX (ex 10 11 3 0 0 0 0x40 0)                       -- a stream without a ty
  ].all (fun i => !i.wf) = true := by decide +kernel

theorem test_wf_accepts : [Instr.add (ow 1 2 3), .addX (ex 1 2 3 0 0 3 0x8 0), .nwait (ex 1 0 0 0 6 0 0 0),
    .cmp (ex 4 1 2 0 0x12 7 0 0), .faddX (ex 10 11 3 0 0 9 0x40 0), .powerOnReset].all Instr.wf = true := by decide +kernel

theorem test_decode_refuses :
    refusedWith 1 [w0 0 0xFF 0x60 0 0 0] = true ∧                              -- a reserved opcode
    refusedWith 2 [w0 1 0xFF 0x36 1 2 3, 0, 0] = true ∧                        -- setgf has one word
    refusedWith 3 [w0 1 0xFF 0x00 1 2 3, w1 5 0 3 0, 0] = true ∧               -- add assigns no subfunction
    refusedWith 4 [w0 0 0xFF 0x12 1 2 3] = true ∧ refusedWith 5 [w0 1 0xFF 0x32 8 1 2, 0, 0xE8] = true ∧
    refusedWith 6 [w0 1 0xFF 0x40 5 1 0, w1 0 0 27 0, 0] = true ∧ refusedWith 8 [w0 1 0xFF 0x20 11 11 12, w1 0 0 9 0x40, 0] = true ∧
    (decodeWords [w0 1 0xFF 0x00 1 2 3] matches .error .short) = true := by decide +kernel

/-! ## Decoding: a word of every row with an encoding -/

theorem test_decode_integer_1 : decodesAll [
  ([w0 0 0xA5 0x00 9 10 11], .add (Fields.oneWord 0xA5 9 10 11)),
  ([w0 3 0xA5 0x00 9 10 0, w1 0 0 6 0x8, 0x0, 0x5, 0x0], .addX (fld .extLit 0xA5 9 10 0 0 0 6 0x8 0x0 0x5)),
  ([w0 0 0xA5 0x01 9 10 11], .sub (Fields.oneWord 0xA5 9 10 11)),
  ([w0 2 0xA5 0x01 9 10 0, 0x55667788, 0x11223344], .subX (fld .lit 0xA5 9 10 0 0 0 0 0x0 0x0 0x1122334455667788)),
  ([w0 0 0xA5 0x02 9 10 11], .mul (Fields.oneWord 0xA5 9 10 11)),
  ([w0 1 0xA5 0x02 9 10 11, w1 0 0 1 0x0, 0x0], .mulX (fld .ext 0xA5 9 10 11 0 0 1 0x0 0x0 0x0)),
  ([w0 0 0xA5 0x03 9 10 11], .mulhi (Fields.oneWord 0xA5 9 10 11)),
  ([w0 1 0xA5 0x03 9 10 11, w1 0 0 1 0x0, 0x0], .mulhiX (fld .ext 0xA5 9 10 11 0 0 1 0x0 0x0 0x0)),
  ([w0 0 0xA5 0x04 9 10 11], .div (Fields.oneWord 0xA5 9 10 11)),
  ([w0 1 0xA5 0x04 9 10 11, w1 0 0 1 0x0, 0x0], .divX (fld .ext 0xA5 9 10 11 0 0 1 0x0 0x0 0x0)),
  ([w0 0 0xA5 0x05 9 10 11], .rem (Fields.oneWord 0xA5 9 10 11)),
  ([w0 1 0xA5 0x05 9 10 11, w1 0 0 1 0x0, 0x0], .remX (fld .ext 0xA5 9 10 11 0 0 1 0x0 0x0 0x0)),
  ([w0 0 0xA5 0x06 9 10 11], .min (Fields.oneWord 0xA5 9 10 11)),
  ([w0 1 0xA5 0x06 9 10 11, w1 0 0 1 0x0, 0x0], .minX (fld .ext 0xA5 9 10 11 0 0 1 0x0 0x0 0x0)),
  ([w0 0 0xA5 0x07 9 10 11], .max (Fields.oneWord 0xA5 9 10 11)),
  ([w0 1 0xA5 0x07 9 10 11, w1 0 0 1 0x0, 0x0], .maxX (fld .ext 0xA5 9 10 11 0 0 1 0x0 0x0 0x0)),
  ([w0 0 0xA5 0x08 9 10 11], .and (Fields.oneWord 0xA5 9 10 11)),
  ([w0 1 0xA5 0x08 9 10 11, w1 0 0 1 0x0, 0x0], .andX (fld .ext 0xA5 9 10 11 0 0 1 0x0 0x0 0x0)),
  ([w0 0 0xA5 0x09 9 10 11], .or (Fields.oneWord 0xA5 9 10 11)),
  ([w0 1 0xA5 0x09 9 10 11, w1 0 0 1 0x0, 0x0], .orX (fld .ext 0xA5 9 10 11 0 0 1 0x0 0x0 0x0)),
  ([w0 0 0xA5 0x0A 9 10 11], .xor (Fields.oneWord 0xA5 9 10 11)),
  ([w0 1 0xA5 0x0A 9 10 11, w1 0 0 1 0x0, 0x0], .xorX (fld .ext 0xA5 9 10 11 0 0 1 0x0 0x0 0x0)),
  ([w0 0 0xA5 0x0B 9 10 11], .andn (Fields.oneWord 0xA5 9 10 11)),
  ([w0 1 0xA5 0x0B 9 10 11, w1 0 0 1 0x0, 0x0], .andnX (fld .ext 0xA5 9 10 11 0 0 1 0x0 0x0 0x0))] = true := by decide +kernel

theorem test_decode_integer_2 : decodesAll [
  ([w0 0 0xA5 0x0C 9 10 11], .shl (Fields.oneWord 0xA5 9 10 11)),
  ([w0 1 0xA5 0x0C 9 10 11, w1 0 0 1 0x0, 0x0], .shlX (fld .ext 0xA5 9 10 11 0 0 1 0x0 0x0 0x0)),
  ([w0 0 0xA5 0x0D 9 10 11], .shr (Fields.oneWord 0xA5 9 10 11)),
  ([w0 1 0xA5 0x0D 9 10 11, w1 0 0 1 0x0, 0x0], .shrX (fld .ext 0xA5 9 10 11 0 0 1 0x0 0x0 0x0)),
  ([w0 0 0xA5 0x0E 9 10 11], .sar (Fields.oneWord 0xA5 9 10 11)),
  ([w0 1 0xA5 0x0E 9 10 11, w1 0 0 1 0x0, 0x0], .sarX (fld .ext 0xA5 9 10 11 0 0 1 0x0 0x0 0x0)),
  ([w0 0 0xA5 0x0F 9 10 11], .rot (Fields.oneWord 0xA5 9 10 11)),
  ([w0 1 0xA5 0x0F 9 10 11, w1 0 0 1 0x0, 0x0], .rotX (fld .ext 0xA5 9 10 11 0 0 1 0x0 0x0 0x0)),
  ([w0 0 0xA5 0x10 9 10 11], .addsat (Fields.oneWord 0xA5 9 10 11)),
  ([w0 1 0xA5 0x10 9 10 11, w1 0 0 1 0x0, 0x0], .addsatX (fld .ext 0xA5 9 10 11 0 0 1 0x0 0x0 0x0)),
  ([w0 0 0xA5 0x11 9 10 11], .subsat (Fields.oneWord 0xA5 9 10 11)),
  ([w0 1 0xA5 0x11 9 10 11, w1 0 0 1 0x0, 0x0], .subsatX (fld .ext 0xA5 9 10 11 0 0 1 0x0 0x0 0x0)),
  ([w0 0 0xA5 0x12 9 10 0], .abs (Fields.oneWord 0xA5 9 10 0)),
  ([w0 1 0xA5 0x12 9 10 0, w1 0 0 1 0x0, 0x0], .absX (fld .ext 0xA5 9 10 0 0 0 1 0x0 0x0 0x0)),
  ([w0 0 0xA5 0x13 9 10 0], .neg (Fields.oneWord 0xA5 9 10 0)),
  ([w0 1 0xA5 0x13 9 10 0, w1 0 0 1 0x0, 0x0], .negX (fld .ext 0xA5 9 10 0 0 0 1 0x0 0x0 0x0)),
  ([w0 0 0xA5 0x14 9 10 0], .clz (Fields.oneWord 0xA5 9 10 0)),
  ([w0 1 0xA5 0x14 9 10 0, w1 0 0 1 0x0, 0x0], .clzX (fld .ext 0xA5 9 10 0 0 0 1 0x0 0x0 0x0)),
  ([w0 0 0xA5 0x15 9 10 0], .ctz (Fields.oneWord 0xA5 9 10 0)),
  ([w0 1 0xA5 0x15 9 10 0, w1 0 0 1 0x0, 0x0], .ctzX (fld .ext 0xA5 9 10 0 0 0 1 0x0 0x0 0x0)),
  ([w0 0 0xA5 0x16 9 10 0], .popc (Fields.oneWord 0xA5 9 10 0)),
  ([w0 1 0xA5 0x16 9 10 0, w1 0 0 1 0x0, 0x0], .popcX (fld .ext 0xA5 9 10 0 0 0 1 0x0 0x0 0x0))] = true := by decide +kernel

theorem test_decode_lanes : decodesAll [
  ([w0 0 0xA5 0x17 9 10 0], .mov (Fields.oneWord 0xA5 9 10 0)),
  ([w0 1 0xA5 0x17 9 10 0, w1 0 0 1 0x0, 0x0], .movX (fld .ext 0xA5 9 10 0 0 0 1 0x0 0x0 0x0)),
  ([w0 1 0xA5 0x17 9 10 0, w1 1 0 0 0x0, 0x0], .movTag (fld .ext 0xA5 9 10 0 0 1 0 0x0 0x0 0x0)),
  ([w0 1 0xA5 0x17 9 10 0, w1 2 0 0 0x0, 0x0], .movRaw (fld .ext 0xA5 9 10 0 0 2 0 0x0 0x0 0x0)),
  ([w0 0 0xA5 0x18 9 10 11], .sel (Fields.oneWord 0xA5 9 10 11)),
  ([w0 1 0xA5 0x18 9 10 11, w1 0 6 1 0x0, 0x0], .selX (fld .ext 0xA5 9 10 11 6 0 1 0x0 0x0 0x0)),
  ([w0 0 0xA5 0x19 9 10 11], .shuf (Fields.oneWord 0xA5 9 10 11)),
  ([w0 1 0xA5 0x19 9 10 11, w1 0 0 1 0x0, 0x0], .shufX (fld .ext 0xA5 9 10 11 0 0 1 0x0 0x0 0x0)),
  ([w0 0 0xA5 0x1A 9 10 11], .bcast (Fields.oneWord 0xA5 9 10 11)),
  ([w0 1 0xA5 0x1A 9 10 11, w1 0 0 1 0x0, 0x0], .bcastX (fld .ext 0xA5 9 10 11 0 0 1 0x0 0x0 0x0)),
  ([w0 0 0xA5 0x1B 9 10 11], .ext (Fields.oneWord 0xA5 9 10 11)),
  ([w0 1 0xA5 0x1B 9 10 11, w1 0 0 1 0x0, 0x0], .extX (fld .ext 0xA5 9 10 11 0 0 1 0x0 0x0 0x0)),
  ([w0 0 0xA5 0x1C 9 10 11], .pack (Fields.oneWord 0xA5 9 10 11)),
  ([w0 1 0xA5 0x1C 9 10 11, w1 0 0 1 0x0, 0x0], .packX (fld .ext 0xA5 9 10 11 0 0 1 0x0 0x0 0x0)),
  ([w0 0 0xA5 0x1D 9 10 0], .unpack (Fields.oneWord 0xA5 9 10 0)),
  ([w0 1 0xA5 0x1D 9 10 0, w1 1 0 1 0x0, 0x0], .unpackX (fld .ext 0xA5 9 10 0 0 1 1 0x0 0x0 0x0)),
  ([w0 0 0xA5 0x1E 9 10 11], .mad (Fields.oneWord 0xA5 9 10 11)),
  ([w0 1 0xA5 0x1E 9 10 11, w1 0 20 1 0x0, 0x0], .madX (fld .ext 0xA5 9 10 11 20 0 1 0x0 0x0 0x0)),
  ([w0 0 0xA5 0x1F 9 10 11], .ins (Fields.oneWord 0xA5 9 10 11)),
  ([w0 1 0xA5 0x1F 9 10 11, w1 0 0 1 0x0, 0x0], .insX (fld .ext 0xA5 9 10 11 0 0 1 0x0 0x0 0x0))] = true := by decide +kernel

theorem test_decode_floats_1 : decodesAll [
  ([w0 0 0xA5 0x20 9 10 11], .fadd (Fields.oneWord 0xA5 9 10 11)),
  ([w0 1 0xA5 0x20 11 10 12, w1 0 0 9 0x44, 0x0], .faddX (fld .ext 0xA5 11 10 12 0 0 9 0x44 0x0 0x0)),
  ([w0 0 0xA5 0x21 9 10 11], .fsub (Fields.oneWord 0xA5 9 10 11)),
  ([w0 1 0xA5 0x21 9 10 11, w1 0 0 9 0x0, 0x0], .fsubX (fld .ext 0xA5 9 10 11 0 0 9 0x0 0x0 0x0)),
  ([w0 0 0xA5 0x22 9 10 11], .fmul (Fields.oneWord 0xA5 9 10 11)),
  ([w0 1 0xA5 0x22 9 10 11, w1 0 0 9 0x0, 0x0], .fmulX (fld .ext 0xA5 9 10 11 0 0 9 0x0 0x0 0x0)),
  ([w0 0 0xA5 0x23 9 10 11], .fma (Fields.oneWord 0xA5 9 10 11)),
  ([w0 1 0xA5 0x23 9 10 11, w1 0 20 9 0x0, 0x0], .fmaX (fld .ext 0xA5 9 10 11 20 0 9 0x0 0x0 0x0)),
  ([w0 0 0xA5 0x24 9 10 11], .fmin (Fields.oneWord 0xA5 9 10 11)),
  ([w0 1 0xA5 0x24 9 10 11, w1 0 0 9 0x0, 0x0], .fminX (fld .ext 0xA5 9 10 11 0 0 9 0x0 0x0 0x0)),
  ([w0 0 0xA5 0x25 9 10 11], .fmax (Fields.oneWord 0xA5 9 10 11)),
  ([w0 1 0xA5 0x25 9 10 11, w1 0 0 9 0x0, 0x0], .fmaxX (fld .ext 0xA5 9 10 11 0 0 9 0x0 0x0 0x0)),
  ([w0 0 0xA5 0x26 9 10 0], .fabs (Fields.oneWord 0xA5 9 10 0)),
  ([w0 1 0xA5 0x26 9 10 0, w1 0 0 9 0x0, 0x0], .fabsX (fld .ext 0xA5 9 10 0 0 0 9 0x0 0x0 0x0)),
  ([w0 0 0xA5 0x27 9 10 0], .fneg (Fields.oneWord 0xA5 9 10 0)),
  ([w0 1 0xA5 0x27 9 10 0, w1 0 0 9 0x0, 0x0], .fnegX (fld .ext 0xA5 9 10 0 0 0 9 0x0 0x0 0x0)),
  ([w0 0 0xA5 0x28 9 10 0], .frcp (Fields.oneWord 0xA5 9 10 0)),
  ([w0 1 0xA5 0x28 9 10 0, w1 0 0 9 0x0, 0x0], .frcpX (fld .ext 0xA5 9 10 0 0 0 9 0x0 0x0 0x0)),
  ([w0 0 0xA5 0x29 9 10 0], .frsq (Fields.oneWord 0xA5 9 10 0)),
  ([w0 1 0xA5 0x29 9 10 0, w1 0 0 9 0x0, 0x0], .frsqX (fld .ext 0xA5 9 10 0 0 0 9 0x0 0x0 0x0)),
  ([w0 0 0xA5 0x2A 9 10 0], .fsqrt (Fields.oneWord 0xA5 9 10 0)),
  ([w0 1 0xA5 0x2A 9 10 0, w1 0 0 9 0x0, 0x0], .fsqrtX (fld .ext 0xA5 9 10 0 0 0 9 0x0 0x0 0x0)),
  ([w0 0 0xA5 0x2B 9 10 0], .fexp2 (Fields.oneWord 0xA5 9 10 0)),
  ([w0 1 0xA5 0x2B 9 10 0, w1 0 0 9 0x0, 0x0], .fexp2X (fld .ext 0xA5 9 10 0 0 0 9 0x0 0x0 0x0))] = true := by decide +kernel

theorem test_decode_floats_2 : decodesAll [
  ([w0 0 0xA5 0x2C 9 10 0], .flog2 (Fields.oneWord 0xA5 9 10 0)),
  ([w0 1 0xA5 0x2C 9 10 0, w1 0 0 9 0x0, 0x0], .flog2X (fld .ext 0xA5 9 10 0 0 0 9 0x0 0x0 0x0)),
  ([w0 0 0xA5 0x2D 9 10 11], .fdot (Fields.oneWord 0xA5 9 10 11)),
  ([w0 1 0xA5 0x2D 9 10 11, w1 0 20 1 0x0, 0x0], .fdotX (fld .ext 0xA5 9 10 11 20 0 1 0x0 0x0 0x0)),
  ([w0 0 0xA5 0x2E 9 10 11], .fcvt (Fields.oneWord 0xA5 9 10 11)),
  ([w0 1 0xA5 0x2E 9 10 0, w1 0 0 12 0x5, 0x8], .fcvtX (fld .ext 0xA5 9 10 0 0 0 12 0x5 0x8 0x0)),
  ([w0 0 0xA5 0x2F 9 10 0], .fround (Fields.oneWord 0xA5 9 10 0)),
  ([w0 1 0xA5 0x2F 9 10 0, w1 0 0 9 0x0, 0x0], .froundX (fld .ext 0xA5 9 10 0 0 0 9 0x0 0x0 0x0))] = true := by decide +kernel

theorem test_decode_predicates : decodesAll [
  ([w0 1 0xA5 0x30 4 10 11, w1 18 0 7 0x0, 0x0], .cmp (fld .ext 0xA5 4 10 11 0 18 7 0x0 0x0 0x0)),
  ([w0 1 0xA5 0x31 4 10 11, w1 0 0 9 0x0, 0x0], .fcmp (fld .ext 0xA5 4 10 11 0 0 9 0x0 0x0 0x0)),
  ([w0 1 0xA5 0x32 3 4 5, w1 0 6 0 0x0, 0x78], .plop (fld .ext 0xA5 3 4 5 6 0 0 0x0 0x78 0x0)),
  ([w0 0 0xA5 0x33 3 4 0], .pmov (Fields.oneWord 0xA5 3 4 0)),
  ([w0 1 0xA5 0x33 3 10 0, w1 1 0 0 0x0, 0x0], .pmovNz (fld .ext 0xA5 3 10 0 0 1 0 0x0 0x0 0x0)),
  ([w0 0 0xA5 0x34 9 4 0], .pget (Fields.oneWord 0xA5 9 4 0)),
  ([w0 1 0xA5 0x34 9 4 0, w1 1 0 0 0x0, 0x0], .pgetMask (fld .ext 0xA5 9 4 0 0 1 0 0x0 0x0 0x0)),
  ([w0 0 0xA5 0x35 9 4 0], .pcnt (Fields.oneWord 0xA5 9 4 0)),
  ([w0 1 0xA5 0x35 9 4 0, w1 0 0 1 0x0, 0x0], .pcntX (fld .ext 0xA5 9 4 0 0 0 1 0x0 0x0 0x0)),
  ([w0 0 0xA5 0x36 3 4 5], .setgf (Fields.oneWord 0xA5 3 4 5)),
  ([w0 0 0xA5 0x37 9 4 0], .pfirst (Fields.oneWord 0xA5 9 4 0)),
  ([w0 1 0xA5 0x37 9 4 0, w1 0 0 1 0x0, 0x0], .pfirstX (fld .ext 0xA5 9 4 0 0 0 1 0x0 0x0 0x0))] = true := by decide +kernel

theorem test_decode_control : decodesAll [
  ([w0 0 0xA5 0x38 9 10 11], .br (Fields.oneWord 0xA5 9 10 11)),
  ([w0 1 0xA5 0x38 0 0 0, w1 0 0 0 0x0, 0x12345678], .brX (fld .ext 0xA5 0 0 0 0 0 0 0x0 0x12345678 0x0)),
  ([w0 0 0xA5 0x39 0 10 0], .jmp (Fields.oneWord 0xA5 0 10 0)),
  ([w0 1 0xA5 0x39 0 10 0, w1 0 0 0 0x0, 0x12345678], .jmpTable (fld .ext 0xA5 0 10 0 0 0 0 0x0 0x12345678 0x0)),
  ([w0 0 0xA5 0x3A 9 10 11], .call (Fields.oneWord 0xA5 9 10 11)),
  ([w0 1 0xA5 0x3A 0 0 0, w1 0 0 0 0x0, 0x12345678], .callX (fld .ext 0xA5 0 0 0 0 0 0 0x0 0x12345678 0x0)),
  ([w0 0 0xA5 0x3B 0 10 0], .callr (Fields.oneWord 0xA5 0 10 0)),
  ([w0 0 0xA5 0x3C 0 10 0], .ret (Fields.oneWord 0xA5 0 10 0)),
  ([w0 0 0xA5 0x3D 0 0 0], .exit (Fields.oneWord 0xA5 0 0 0)),
  ([w0 1 0xA5 0x3E 0 0 0, w1 0 0 0 0x0, 0x12345678], .safe (fld .ext 0xA5 0 0 0 0 0 0 0x0 0x12345678 0x0)),
  ([w0 0 0xA5 0x3F 9 10 11], .brk (Fields.oneWord 0xA5 9 10 11)),
  ([w0 1 0xA5 0x3F 0 0 0, w1 0 0 0 0x0, 0x12345678], .brkX (fld .ext 0xA5 0 0 0 0 0 0 0x0 0x12345678 0x0))] = true := by decide +kernel

theorem test_decode_memory_1 : decodesAll [
  ([w0 0 0xA5 0x40 9 10 0], .ld (Fields.oneWord 0xA5 9 10 0)),
  ([w0 1 0xA5 0x40 9 10 0, w1 0 0 1 0x0, 0x12345678], .ldX (fld .ext 0xA5 9 10 0 0 0 1 0x0 0x12345678 0x0)),
  ([w0 0 0xA5 0x41 9 10 0], .st (Fields.oneWord 0xA5 9 10 0)),
  ([w0 1 0xA5 0x41 9 10 0, w1 0 0 1 0x0, 0x12345678], .stX (fld .ext 0xA5 9 10 0 0 0 1 0x0 0x12345678 0x0)),
  ([w0 0 0xA5 0x42 9 10 0], .lds (Fields.oneWord 0xA5 9 10 0)),
  ([w0 1 0xA5 0x42 9 10 0, w1 0 0 1 0x0, 0x12345678], .ldsX (fld .ext 0xA5 9 10 0 0 0 1 0x0 0x12345678 0x0)),
  ([w0 0 0xA5 0x43 9 10 0], .sts (Fields.oneWord 0xA5 9 10 0)),
  ([w0 1 0xA5 0x43 9 10 0, w1 0 0 1 0x0, 0x12345678], .stsX (fld .ext 0xA5 9 10 0 0 0 1 0x0 0x12345678 0x0)),
  ([w0 0 0xA5 0x44 9 10 0], .ldfe (Fields.oneWord 0xA5 9 10 0)),
  ([w0 1 0xA5 0x44 9 10 0, w1 0 0 4 0x0, 0x12345678], .ldfeX (fld .ext 0xA5 9 10 0 0 0 4 0x0 0x12345678 0x0)),
  ([w0 0 0xA5 0x45 9 10 0], .stef (Fields.oneWord 0xA5 9 10 0)),
  ([w0 1 0xA5 0x45 9 10 0, w1 0 0 4 0x0, 0x12345678], .stefX (fld .ext 0xA5 9 10 0 0 0 4 0x0 0x12345678 0x0)),
  ([w0 0 0xA5 0x46 9 10 0], .ldff (Fields.oneWord 0xA5 9 10 0)),
  ([w0 1 0xA5 0x46 9 10 0, w1 0 0 4 0x0, 0x12345678], .ldffX (fld .ext 0xA5 9 10 0 0 0 4 0x0 0x12345678 0x0)),
  ([w0 0 0xA5 0x47 0 10 0], .fefill (Fields.oneWord 0xA5 0 10 0)),
  ([w0 1 0xA5 0x47 0 10 0, w1 1 0 0 0x0, 0x12345678], .fefillX (fld .ext 0xA5 0 10 0 0 1 0 0x0 0x12345678 0x0)),
  ([w0 0 0xA5 0x48 9 10 11], .atom (Fields.oneWord 0xA5 9 10 11)),
  ([w0 1 0xA5 0x48 9 10 11, w1 7 0 9 0x0, 0x20], .atomX (fld .ext 0xA5 9 10 11 0 7 9 0x0 0x20 0x0)),
  ([w0 0 0xA5 0x49 9 10 11], .cas (Fields.oneWord 0xA5 9 10 11)),
  ([w0 1 0xA5 0x49 9 10 11, w1 0 4 3 0x80, 0x12345678], .casX (fld .ext 0xA5 9 10 11 4 0 3 0x80 0x12345678 0x0)),
  ([w0 0 0xA5 0x4A 0 0 0], .fence (Fields.oneWord 0xA5 0 0 0)),
  ([w0 1 0xA5 0x4A 0 0 0, w1 0 0 0 0x0, 0x0], .fenceX (fld .ext 0xA5 0 0 0 0 0 0 0x0 0x0 0x0)),
  ([w0 0 0xA5 0x4B 0 0 0], .wait (Fields.oneWord 0xA5 0 0 0)),
  ([w0 1 0xA5 0x4B 0 0 0, w1 0 0 0 0x0, 0x345678], .waitX (fld .ext 0xA5 0 0 0 0 0 0 0x0 0x345678 0x0))] = true := by decide +kernel

theorem test_decode_memory_2 : decodesAll [
  ([w0 0 0xA5 0x4C 9 10 0], .ldcap (Fields.oneWord 0xA5 9 10 0)),
  ([w0 1 0xA5 0x4C 9 10 0, w1 0 0 0 0x0, 0x12345678], .ldcapX (fld .ext 0xA5 9 10 0 0 0 0 0x0 0x12345678 0x0)),
  ([w0 0 0xA5 0x4D 9 10 0], .stcap (Fields.oneWord 0xA5 9 10 0)),
  ([w0 1 0xA5 0x4D 9 10 0, w1 0 0 0 0x0, 0x12345678], .stcapX (fld .ext 0xA5 9 10 0 0 0 0 0x0 0x12345678 0x0))] = true := by decide +kernel

theorem test_decode_channels_caps : decodesAll [
  ([w0 0 0xA5 0x4E 0 10 11], .send (Fields.oneWord 0xA5 0 10 11)),
  ([w0 1 0xA5 0x4E 0 10 11, w1 0 0 0 0x0, 0x0], .sendX (fld .ext 0xA5 0 10 11 0 0 0 0x0 0x0 0x0)),
  ([w0 0 0xA5 0x4F 9 0 0], .recv (Fields.oneWord 0xA5 9 0 0)),
  ([w0 1 0xA5 0x4F 9 4 0, w1 1 0 0 0x0, 0x0], .recvTry (fld .ext 0xA5 9 4 0 0 1 0 0x0 0x0 0x0)),
  ([w0 0 0xA5 0x50 9 10 11], .cset (Fields.oneWord 0xA5 9 10 11)),
  ([w0 1 0xA5 0x50 9 10 11, w1 1 0 0 0x0, 0x0], .csetX (fld .ext 0xA5 9 10 11 0 1 0 0x0 0x0 0x0)),
  ([w0 0 0xA5 0x51 9 10 11], .cperm (Fields.oneWord 0xA5 9 10 11)),
  ([w0 1 0xA5 0x51 9 10 11, w1 0 0 0 0x0, 0x0], .cpermX (fld .ext 0xA5 9 10 11 0 0 0 0x0 0x0 0x0)),
  ([w0 0 0xA5 0x52 9 10 11], .cinc (Fields.oneWord 0xA5 9 10 11)),
  ([w0 1 0xA5 0x52 9 10 11, w1 0 0 0 0x0, 0x0], .cincX (fld .ext 0xA5 9 10 11 0 0 0 0x0 0x0 0x0)),
  ([w0 0 0xA5 0x53 9 10 0], .cget (Fields.oneWord 0xA5 9 10 0)),
  ([w0 1 0xA5 0x53 9 10 0, w1 8 0 0 0x0, 0x0], .cgetX (fld .ext 0xA5 9 10 0 0 8 0 0x0 0x0 0x0)),
  ([w0 0 0xA5 0x54 4 10 0], .ctest (Fields.oneWord 0xA5 4 10 0)),
  ([w0 1 0xA5 0x54 4 10 11, w1 1 0 0 0x0, 0x0], .ctestFit (fld .ext 0xA5 4 10 11 0 1 0 0x0 0x0 0x0)),
  ([w0 0 0xA5 0x55 9 10 11], .cseal (Fields.oneWord 0xA5 9 10 11)),
  ([w0 1 0xA5 0x55 9 10 11, w1 0 0 0 0x0, 0x0], .csealX (fld .ext 0xA5 9 10 11 0 0 0 0x0 0x0 0x0)),
  ([w0 0 0xA5 0x56 9 10 11], .cunseal (Fields.oneWord 0xA5 9 10 11)),
  ([w0 1 0xA5 0x56 9 10 11, w1 0 0 0 0x0, 0x0], .cunsealX (fld .ext 0xA5 9 10 11 0 0 0 0x0 0x0 0x0)),
  ([w0 0 0xA5 0x57 0 10 0], .cclr (Fields.oneWord 0xA5 0 10 0)),
  ([w0 1 0xA5 0x57 0 10 0, w1 0 0 0 0x0, 0x12345678], .cclrX (fld .ext 0xA5 0 10 0 0 0 0 0x0 0x12345678 0x0))] = true := by decide +kernel

theorem test_decode_crews : decodesAll [
  ([w0 0 0xA5 0x58 4 10 0], .cjoin (Fields.oneWord 0xA5 4 10 0)),
  ([w0 1 0xA5 0x58 4 10 0, w1 0 0 0 0x0, 0x0], .cjoinX (fld .ext 0xA5 4 10 0 0 0 0 0x0 0x0 0x0)),
  ([w0 0 0xA5 0x59 4 10 0], .cleave (Fields.oneWord 0xA5 4 10 0)),
  ([w0 1 0xA5 0x59 4 10 0, w1 0 0 0 0x0, 0x0], .cleaveX (fld .ext 0xA5 4 10 0 0 0 0 0x0 0x0 0x0)),
  ([w0 0 0xA5 0x5A 9 10 0], .cbar (Fields.oneWord 0xA5 9 10 0)),
  ([w0 1 0xA5 0x5A 9 10 0, w1 0 0 0 0x0, 0x0], .cbarX (fld .ext 0xA5 9 10 0 0 0 0 0x0 0x0 0x0)),
  ([w0 0 0xA5 0x5B 9 10 0], .carr (Fields.oneWord 0xA5 9 10 0)),
  ([w0 1 0xA5 0x5B 9 10 0, w1 0 0 0 0x0, 0x0], .carrX (fld .ext 0xA5 9 10 0 0 0 0 0x0 0x0 0x0)),
  ([w0 0 0xA5 0x5C 9 10 0], .cwait (Fields.oneWord 0xA5 9 10 0)),
  ([w0 1 0xA5 0x5C 9 10 11, w1 0 0 0 0x1, 0x0], .cwaitPh (fld .ext 0xA5 9 10 11 0 0 0 0x1 0x0 0x0)),
  ([w0 0 0xA5 0x5D 4 10 5], .cvote (Fields.oneWord 0xA5 4 10 5)),
  ([w0 1 0xA5 0x5D 17 10 5, w1 2 0 0 0x0, 0x0], .cvoteX (fld .ext 0xA5 17 10 5 0 2 0 0x0 0x0 0x0)),
  ([w0 0 0xA5 0x5E 9 10 11], .cred (Fields.oneWord 0xA5 9 10 11)),
  ([w0 1 0xA5 0x5E 9 10 11, w1 5 0 4 0x0, 0x0], .credX (fld .ext 0xA5 9 10 11 0 5 4 0x0 0x0 0x0)),
  ([w0 2 0xA5 0x5F 9 4 0, 0x55667788, 0x11223344], .cmake (fld .lit 0xA5 9 4 0 0 0 0 0x0 0x0 0x1122334455667788))] = true := by decide +kernel

theorem test_decode_system : decodesAll [
  ([w0 0 0xA5 0x68 9 10 11], .trap (Fields.oneWord 0xA5 9 10 11)),
  ([w0 1 0xA5 0x68 0 0 0, w1 0 0 0 0x0, 0x12345678], .trapX (fld .ext 0xA5 0 0 0 0 0 0 0x0 0x12345678 0x0)),
  ([w0 0 0xA5 0x69 9 10 0], .tres (Fields.oneWord 0xA5 9 10 0)),
  ([w0 0 0xA5 0x6A 9 10 11], .gets (Fields.oneWord 0xA5 9 10 11)),
  ([w0 1 0xA5 0x6A 9 0 0, w1 0 0 0 0x0, 0x5678], .getsX (fld .ext 0xA5 9 0 0 0 0 0 0x0 0x5678 0x0)),
  ([w0 0 0xA5 0x6B 9 10 11], .puts (Fields.oneWord 0xA5 9 10 11)),
  ([w0 1 0xA5 0x6B 9 0 0, w1 0 0 0 0x0, 0x5678], .putsX (fld .ext 0xA5 9 0 0 0 0 0 0x0 0x5678 0x0)),
  ([w0 0 0xA5 0x6C 9 10 0], .migr (Fields.oneWord 0xA5 9 10 0)),
  ([w0 1 0xA5 0x6C 9 10 0, w1 0 0 0 0x0, 0x0], .migrX (fld .ext 0xA5 9 10 0 0 0 0 0x0 0x0 0x0)),
  ([w0 0 0xA5 0x6D 0 0 0], .tlbi (Fields.oneWord 0xA5 0 0 0)),
  ([w0 1 0xA5 0x6D 0 10 0, w1 1 0 0 0x0, 0x0], .tlbiCtx (fld .ext 0xA5 0 10 0 0 1 0 0x0 0x0 0x0)),
  ([w0 1 0xA5 0x6D 0 10 0, w1 2 0 0 0x0, 0x0], .tlbiVa (fld .ext 0xA5 0 10 0 0 2 0 0x0 0x0 0x0)),
  ([w0 0 0xA5 0x6E 0 0 0], .yield (Fields.oneWord 0xA5 0 0 0)),
  ([w0 0 0xA5 0x6F 9 0 5], .ctrRead (Fields.oneWord 0xA5 9 0 5)),
  ([w0 1 0xA5 0x6F 9 0 5, w1 0 0 0 0x0, 0x0], .ctrReadX (fld .ext 0xA5 9 0 5 0 0 0 0x0 0x0 0x0)),
  ([w0 1 0xA5 0x6F 0 0 0, w1 1 0 0 0x0, 0x78], .ctrStart (fld .ext 0xA5 0 0 0 0 1 0 0x0 0x78 0x0)),
  ([w0 1 0xA5 0x6F 0 0 0, w1 2 0 0 0x0, 0x78], .ctrStop (fld .ext 0xA5 0 0 0 0 2 0 0x0 0x78 0x0)),
  ([w0 1 0xA5 0x6F 0 0 0, w1 3 0 0 0x0, 0x5600], .ctrSel (fld .ext 0xA5 0 0 0 0 3 0 0x0 0x5600 0x0))] = true := by decide +kernel

theorem test_decode_escapes_1 : decodesAll [
  ([w0 1 0xA5 0x70 9 10 11, w1 0 20 1 0x80, 0x12345678], .tmm (fld .ext 0xA5 9 10 11 20 0 1 0x80 0x12345678 0x0)),
  ([w0 1 0xA5 0x70 9 10 11, w1 1 20 5 0x2A0, 0x12345678], .tgmm (fld .ext 0xA5 9 10 11 20 1 5 0x2A0 0x12345678 0x0)),
  ([w0 1 0xA5 0x70 9 10 11, w1 2 20 9 0x0, 0x12345678], .tsfx (fld .ext 0xA5 9 10 11 20 2 9 0x0 0x12345678 0x0)),
  ([w0 1 0xA5 0x70 9 10 0, w1 3 20 3 0x0, 0x5678], .tred (fld .ext 0xA5 9 10 0 20 3 3 0x0 0x5678 0x0)),
  ([w0 1 0xA5 0x70 9 10 0, w1 4 20 9 0x480, 0x12345678], .tcvt (fld .ext 0xA5 9 10 0 20 4 9 0x480 0x12345678 0x0)),
  ([w0 1 0xA5 0x70 9 0 11, w1 5 20 0 0x0, 0x0], .tzero (fld .ext 0xA5 9 0 11 20 5 0 0x0 0x0 0x0)),
  ([w0 1 0xA5 0x70 9 0 0, w1 6 20 0 0x0, 0x0], .rcsnap (fld .ext 0xA5 9 0 0 20 6 0 0x0 0x0 0x0)),
  ([w0 1 0xA5 0x70 9 0 11, w1 7 0 0 0x0, 0x0], .rcread (fld .ext 0xA5 9 0 11 0 7 0 0x0 0x0 0x0)),
  ([w0 1 0xA5 0x70 9 0 11, w1 8 0 0 0x0, 0x0], .tstat (fld .ext 0xA5 9 0 11 0 8 0 0x0 0x0 0x0)),
  ([w0 1 0xA5 0x71 9 10 11, w1 0 0 0 0x3, 0x2B5], .cpy (fld .ext 0xA5 9 10 11 0 0 0 0x3 0x2B5 0x0)),
  ([w0 1 0xA5 0x71 9 10 11, w1 1 0 0 0x2, 0x2A0], .cpy2 (fld .ext 0xA5 9 10 11 0 1 0 0x2 0x2A0 0x0)),
  ([w0 1 0xA5 0x71 9 10 11, w1 2 20 0 0x1, 0x15], .cpyg (fld .ext 0xA5 9 10 11 20 2 0 0x1 0x15 0x0)),
  ([w0 1 0xA5 0x71 9 10 11, w1 3 0 0 0x0, 0x0], .cfill (fld .ext 0xA5 9 10 11 0 3 0 0x0 0x0 0x0)),
  ([w0 1 0xA5 0x71 0 0 0, w1 4 0 0 0x0, 0x145678], .qjoin (fld .ext 0xA5 0 0 0 0 4 0 0x0 0x145678 0x0)),
  ([w0 1 0xA5 0x71 9 10 11, w1 5 0 0 0x1, 0x0], .qstat (fld .ext 0xA5 9 10 11 0 5 0 0x1 0x0 0x0)),
  ([w0 1 0xA5 0x72 9 10 11, w1 0 0 0 0x0, 0x0], .gsub (fld .ext 0xA5 9 10 11 0 0 0 0x0 0x0 0x0)),
  ([w0 1 0xA5 0x72 9 10 11, w1 1 0 0 0x0, 0x0], .tpost (fld .ext 0xA5 9 10 11 0 1 0 0x0 0x0 0x0)),
  ([w0 1 0xA5 0x72 0 0 0, w1 2 0 0 0x0, 0x0], .trig (fld .ext 0xA5 0 0 0 0 2 0 0x0 0x0 0x0)),
  ([w0 1 0xA5 0x72 9 0 0, w1 3 0 0 0x0, 0x0], .vread (fld .ext 0xA5 9 0 0 0 3 0 0x0 0x0 0x0)),
  ([w0 1 0xA5 0x72 9 10 0, w1 4 0 0 0x0, 0x0], .gstat (fld .ext 0xA5 9 10 0 0 4 0 0x0 0x0 0x0)),
  ([w0 1 0xA5 0x72 0 10 0, w1 5 0 0 0x0, 0x0], .gabort (fld .ext 0xA5 0 10 0 0 5 0 0x0 0x0 0x0)),
  ([w0 1 0xA5 0x72 9 0 0, w1 6 0 0 0x0, 0x0], .nwait (fld .ext 0xA5 9 0 0 0 6 0 0x0 0x0 0x0)),
  ([w0 1 0xA5 0x72 9 0 0, w1 6 4 0 0x1, 0x0], .nwaitTry (fld .ext 0xA5 9 0 0 4 6 0 0x1 0x0 0x0)),
  ([w0 1 0xA5 0x73 9 0 11, w1 0 4 0 0x0, 0x0], .cfind (fld .ext 0xA5 9 0 11 4 0 0 0x0 0x0 0x0))] = true := by decide +kernel

theorem test_decode_escapes_2 : decodesAll [
  ([w0 1 0xA5 0x73 9 10 0, w1 1 0 0 0x0, 0x0], .cfree (fld .ext 0xA5 9 10 0 0 1 0 0x0 0x0 0x0)),
  ([w0 1 0xA5 0x73 9 10 0, w1 2 0 0 0x0, 0x0], .cstat (fld .ext 0xA5 9 10 0 0 2 0 0x0 0x0 0x0)),
  ([w0 1 0xA5 0x74 9 0 11, w1 0 4 0 0x0, 0x0], .hnew (fld .ext 0xA5 9 0 11 4 0 0 0x0 0x0 0x0)),
  ([w0 1 0xA5 0x74 9 10 11, w1 1 4 0 0x0, 0x0], .hext (fld .ext 0xA5 9 10 11 4 1 0 0x0 0x0 0x0)),
  ([w0 1 0xA5 0x74 9 10 11, w1 2 4 0 0x0, 0x0], .hxl (fld .ext 0xA5 9 10 11 4 2 0 0x0 0x0 0x0)),
  ([w0 1 0xA5 0x74 9 10 0, w1 3 4 0 0x0, 0x0], .hfork (fld .ext 0xA5 9 10 0 4 3 0 0x0 0x0 0x0)),
  ([w0 1 0xA5 0x74 9 10 0, w1 4 4 0 0x0, 0x0], .hrel (fld .ext 0xA5 9 10 0 4 4 0 0x0 0x0 0x0)),
  ([w0 1 0xA5 0x74 9 10 11, w1 5 4 0 0x0, 0x0], .hcow (fld .ext 0xA5 9 10 11 4 5 0 0x0 0x0 0x0)),
  ([w0 1 0xA5 0x74 9 10 0, w1 6 0 0 0x0, 0x0], .hstat (fld .ext 0xA5 9 10 0 0 6 0 0x0 0x0 0x0)),
  ([w0 1 0xA5 0x75 9 10 0, w1 0 4 0 0x0, 0x12345678], .park (fld .ext 0xA5 9 10 0 4 0 0 0x0 0x12345678 0x0)),
  ([w0 1 0xA5 0x75 0 10 11, w1 1 4 0 0x0, 0x0], .wake (fld .ext 0xA5 0 10 11 4 1 0 0x0 0x0 0x0)),
  ([w0 1 0xA5 0x75 0 10 11, w1 2 4 0 0x0, 0x0], .lpro (fld .ext 0xA5 0 10 11 4 2 0 0x0 0x0 0x0)),
  ([w0 1 0xA5 0x75 9 10 0, w1 3 0 0 0x0, 0x0], .lstat (fld .ext 0xA5 9 10 0 0 3 0 0x0 0x0 0x0)),
  ([w0 1 0xA5 0x77 9 10 11, w1 0 0 0 0x0, 0x0], .thaw (fld .ext 0xA5 9 10 11 0 0 0 0x0 0x0 0x0)),
  ([w0 1 0xA5 0x77 9 10 11, w1 1 0 0 0x0, 0x0], .cxswCreate (fld .ext 0xA5 9 10 11 0 1 0 0x0 0x0 0x0)),
  ([w0 1 0xA5 0x77 9 10 0, w1 2 0 0 0x0, 0x0], .slotw (fld .ext 0xA5 9 10 0 0 2 0 0x0 0x0 0x0)),
  ([w0 1 0xA5 0x77 9 10 11, w1 3 0 0 0x0, 0x0], .govset (fld .ext 0xA5 9 10 11 0 3 0 0x0 0x0 0x0))] = true := by decide +kernel

/-! ## Integer and logical instructions (07 R125 to R134) -/

theorem test_add : gives (.add (ow 5 6 7)) [(6, dat 3 0x7FFFFFFF), (7, dat 3 1)] 5 (dat 3 0x80000000) = true := by decide +kernel
theorem test_add_literal : gives (.addX (fld .lit 0xFF 5 6 0 0 0 0 0 0 3)) [(6, dat 3 5)] 5
    (dat 3 0x00000003000000030000000300000008) = true := by decide +kernel
theorem test_add_sat : gives (.addX (ex 5 6 7 0 0 1 0x8 0)) [(6, dat 1 0x807F), (7, dat 1 0xFF01)] 5 (dat 1 0x807F) = true := by
  decide +kernel
theorem test_sub : gives (.sub (ow 5 6 7)) [(6, dat 1 0), (7, dat 1 1)] 5 (dat 1 0xFF) = true := by decide +kernel
theorem test_mul : gives (.mul (ow 5 6 7)) [(6, dat 2 3), (7, dat 2 0xFFFF)] 5 (dat 2 0xFFFD) = true := by decide +kernel
theorem test_mulhi : gives (.mulhi (ow 5 6 7)) [(6, dat 5 0xFF), (7, dat 5 0xFF)] 5 (dat 5 0xFE) = true := by decide +kernel
theorem test_div : gives (.div (ow 5 6 7)) [(6, dat 3 0xFFFFFFF9), (7, dat 3 2)] 5
    (dat 3 0xFFFFFFFFFFFFFFFFFFFFFFFFFFFFFFFD) = true := by decide +kernel
theorem test_rem : gives (.rem (ow 5 6 7)) [(6, dat 3 0xFFFFFFF9), (7, dat 3 2)] 5 (dat 3 0xFFFFFFFF) = true := by decide +kernel
theorem test_min : gives (.min (ow 5 6 7)) [(6, dat 1 0x80), (7, dat 1 1)] 5 (dat 1 0x80) = true := by decide +kernel
theorem test_max : gives (.max (ow 5 6 7)) [(6, dat 5 0x80), (7, dat 5 1)] 5 (dat 5 0x80) = true := by decide +kernel
theorem test_addsat : gives (.addsat (ow 5 6 7)) [(6, dat 1 0x7F), (7, dat 1 1)] 5 (dat 1 0x7F) = true := by decide +kernel
theorem test_subsat : gives (.subsat (ow 5 6 7)) [(6, dat 5 1), (7, dat 5 2)] 5 (dat 5 0) = true := by decide +kernel
theorem test_mad : gives (.mad (ow 5 6 7)) [(5, dat 3 5), (6, dat 3 3), (7, dat 3 4)] 5 (dat 3 17) = true := by decide +kernel
theorem test_abs : gives (.absX (ex 5 6 0 0 0 1 0x8 0)) [(6, dat 1 0x80)] 5 (dat 1 0x7F) = true := by decide +kernel
theorem test_neg : gives (.neg (ow 5 6 0)) [(6, dat 1 1)] 5 (dat 1 0xFF) = true := by decide +kernel
theorem test_clz : gives (.clz (ow 5 6 0)) [(6, dat 2 0x0100)] 5 (dat 2 0x00100010001000100010001000100007) = true := by decide +kernel
theorem test_ctz : gives (.ctz (ow 5 6 0)) [(6, dat 2 0x0100)] 5 (dat 2 0x00100010001000100010001000100008) = true := by decide +kernel
theorem test_popc : gives (.popc (ow 5 6 0)) [(6, dat 2 0x0103)] 5 (dat 2 3) = true := by decide +kernel
theorem test_logic : gives (.and (ow 5 6 7)) [(6, dat 3 0xC), (7, dat 3 0xA)] 5 (dat 3 0x8) = true ∧
    gives (.or (ow 5 6 7)) [(6, dat 3 0xC), (7, dat 3 0xA)] 5 (dat 3 0xE) = true ∧
    gives (.xor (ow 5 6 7)) [(6, dat 3 0xC), (7, dat 3 0xA)] 5 (dat 3 0x6) = true ∧
    gives (.andn (ow 5 6 7)) [(6, dat 3 0xC), (7, dat 3 0xA)] 5 (dat 3 0x4) = true := by decide +kernel
theorem test_shl : gives (.shl (ow 5 6 7)) [(6, dat 1 0x0101), (7, dat 1 0x0807)] 5 (dat 1 0x80) = true := by decide +kernel
theorem test_shr : gives (.shr (ow 5 6 7)) [(6, dat 5 0x80), (7, dat 5 7)] 5 (dat 5 1) = true := by decide +kernel
theorem test_sar : gives (.sar (ow 5 6 7)) [(6, dat 1 0x80), (7, dat 1 9)] 5 (dat 1 0xFF) = true := by decide +kernel
theorem test_rot : gives (.rot (ow 5 6 7)) [(6, dat 1 0x81), (7, dat 1 9)] 5 (dat 1 0x03) = true := by decide +kernel

theorem test_mov : gives (.mov (ow 5 6 0)) [(6, dat 9 0x1234)] 5 (dat 9 0x1234) = true ∧
    gives (.movX (fld .lit 0xFF 5 0 0 0 0 0 0 0 7)) [] 5 (dat 0 0x00000000000000070000000000000007) = true := by decide +kernel
theorem test_mov_tag : gives (.movTag (ex 5 6 0 0 1 0 0 0)) [(6, dat 3 99)] 5 (dat 4 3) = true ∧
    gives (.movTag (ex 5 6 0 0 1 0 0 0)) [(6, memCap permPL 3 0 16 0)] 5 (dat 4 59) = true := by decide +kernel
theorem test_mov_raw : gives (.movRaw (ex 5 6 0 0 2 0 0 0)) [(6, dat 3 99)] 5 (dat 0 99) = true := by decide +kernel
/-- p3 has the lower 16 nibbles set. -/
theorem test_sel : after (.selX (ex 5 6 7 3 0 3 0 0)) (world ((probe [(6, dat 3 (2 ^ 128 - 1)), (7, dat 3 0)]).setPred 3 0xFFFF))
    (fun _ t => t.reg 5 == dat 3 0xFFFFFFFFFFFFFFFF) = true := by decide +kernel
theorem test_shuf : gives (.shuf (ow 5 6 7)) [(6, dat 1 0x0C0B0A), (7, dat 1 (0x8080808080808080808080808080 * 2 ^ 16 + 0x0002))] 5
    (dat 1 0x0A0C) = true := by decide +kernel
theorem test_bcast : gives (.bcast (ow 5 6 7)) [(6, dat 3 (9 * 2 ^ 32)), (7, dat 4 5)] 5 (dat 3 0x00000009000000090000000900000009) = true := by
  decide +kernel
theorem test_ext : gives (.ext (ow 5 6 7)) [(6, dat 1 0xFE00), (7, dat 4 1)] 5 (dat 4 0xFFFFFFFFFFFFFFFE) = true := by decide +kernel
theorem test_ins : gives (.ins (ow 5 6 7)) [(5, dat 1 0x1111), (6, dat 1 0x22), (7, dat 4 1)] 5 (dat 1 0x2211) = true := by decide +kernel
theorem test_pack : gives (.pack (ow 5 6 7)) [(6, dat 3 0x12345), (7, dat 3 0x6)] 5 (dat 2 (0x2345 + 6 * 2 ^ 64)) = true := by
  decide +kernel
theorem test_unpack : gives (.unpackX (ex 5 6 0 0 1 1 0 0)) [(6, dat 1 (0xFE * 2 ^ 64 + 5))] 5 (dat 2 0xFFFE) = true := by decide +kernel

/-! ## Floating point (07 R135 to R141) -/

theorem test_fadd : gives (.fadd (ow 5 6 7)) [(6, dat 9 0x3F800000), (7, dat 9 0x40000000)] 5 (dat 9 0x40400000) = true := by decide +kernel
theorem test_fsub : gives (.fsub (ow 5 6 7)) [(6, dat 9 0x3F800000), (7, dat 9 0x40000000)] 5 (dat 9 0xBF800000) = true := by decide +kernel
theorem test_fmul : gives (.fmul (ow 5 6 7)) [(6, dat 10 0x4000), (7, dat 10 0x4200)] 5 (dat 10 0x4600) = true := by decide +kernel
theorem test_fma : gives (.fma (ow 5 6 7)) [(5, dat 9 0x3F800000), (6, dat 9 0x40000000), (7, dat 9 0x40400000)] 5
    (dat 9 0x40E00000) = true := by decide +kernel
theorem test_fmin : gives (.fmin (ow 5 6 7)) [(6, dat 9 0x80000000), (7, dat 9 0)] 5 (dat 9 0x80000000) = true := by decide +kernel
theorem test_fmax : gives (.fmax (ow 5 6 7)) [(6, dat 9 0x7FC00000), (7, dat 9 0xBF800000)] 5 (dat 9 0xBF800000) = true := by
  decide +kernel
theorem test_fabs : gives (.fabs (ow 5 6 0)) [(6, dat 9 0xBF800000)] 5 (dat 9 0x3F800000) = true := by decide +kernel
theorem test_fneg : gives (.fneg (ow 5 6 0)) [(6, dat 9 0x3F800000)] 5 (dat 9 0x800000008000000080000000BF800000) = true := by
  decide +kernel
theorem test_frcp : gives (.frcp (ow 5 6 0)) [(6, dat 9 0x40000000)] 5 (dat 9 0x7F8000007F8000007F8000003F000000) = true := by
  decide +kernel
theorem test_frsq : gives (.frsq (ow 5 6 0)) [(6, dat 9 0x40800000)] 5 (dat 9 0x7F8000007F8000007F8000003F000000) = true := by
  decide +kernel
theorem test_fsqrt : gives (.fsqrt (ow 5 6 0)) [(6, dat 9 0x40800000)] 5 (dat 9 0x40000000) = true := by decide +kernel
theorem test_fexp2 : gives (.fexp2 (ow 5 6 0)) [(6, dat 9 0x40400000)] 5 (dat 9 0x3F8000003F8000003F80000041000000) = true := by
  decide +kernel
theorem test_flog2 : gives (.flog2 (ow 5 6 0)) [(6, dat 9 0x41000000)] 5 (dat 9 0xFF800000FF800000FF80000040400000) = true := by
  decide +kernel
theorem test_fround : gives (.fround (ow 5 6 0)) [(6, dat 9 0x40200000)] 5 (dat 9 0x40000000) = true := by decide +kernel
theorem test_fdot : gives (.fdot (ow 5 6 7)) [(5, dat 3 1), (6, dat 1 0x020304FF), (7, dat 1 0x01010101)] 5 (dat 3 9) = true := by
  decide +kernel
/-- f32 to bf16, the lower half of fd; and f32 1.5 to i32 in the extended form. -/
theorem test_fcvt : gives (.fcvt (ow 5 6 11)) [(5, dat 0 (0xAB * 2 ^ 64)), (6, dat 9 0x3F800000)] 5 (dat 11 (0xAB * 2 ^ 64 + 0x3F80)) = true ∧
    gives (.fcvtX (ex 5 6 0 0 0 3 0 0)) [(6, dat 9 0x40200000)] 5 (dat 3 2) = true := by decide +kernel

/-! ## Compares, predicates and control transfers (07 R142 to R155) -/

theorem test_cmp : after (.cmp (ex 4 1 2 0 0x2 7 0 0)) (world (probe [(1, dat 7 1), (2, dat 7 2)]))
    (fun _ t => t.pred 4 == 0xFF && t.pred 5 == 0xFFFFFF00) = true := by decide +kernel
theorem test_fcmp : after (.fcmp (ex 4 1 2 0 0x6 9 0 0)) (world (probe [(1, dat 9 0x7FC00000), (2, dat 9 0)]))
    (fun _ t => t.pred 4 == 0xFF && t.pred 5 == 0xFFFFFF00) = true := by decide +kernel
theorem test_plop : after (.plop (ex 3 1 2 0 0 0 0 0xE8)) (world (((probe []).setPred 1 0x0F).setPred 2 0xF3))
    (fun _ t => t.pred 3 == 0xFF) = true := by decide +kernel
theorem test_pmov : after (.pmov (ow 3 1 0)) (world ((probe []).setPred 1 0x0F)) (fun _ t => t.pred 3 == 0x0F) = true := by decide +kernel
theorem test_pmov_nz : after (.pmovNz (ex 3 6 0 0 1 0 0 0)) (world (probe [(6, dat 3 0xA0B)])) (fun _ t => t.pred 3 == 0x5) = true := by
  decide +kernel
theorem test_pget : after (.pget (ow 5 1 0)) (world ((probe []).setPred 1 0x0F)) (fun _ t => t.reg 5 == dat 4 0x0F) = true := by
  decide +kernel
theorem test_pget_mask : after (.pgetMask (ex 5 1 0 0 1 0 0 0)) (world ((probe []).setPred 1 0x5)) (fun _ t => t.reg 5 == dat 0 0xF0F) = true := by
  decide +kernel
theorem test_pcnt : after (.pcnt (ow 5 1 0)) (world ((probe []).setPred 1 0x13)) (fun _ t => t.reg 5 == dat 4 3) = true := by decide +kernel
theorem test_pfirst : after (.pfirst (ow 5 1 0)) (world ((probe []).setPred 1 0x10)) (fun _ t => t.reg 5 == dat 4 4) = true ∧
    after (.pfirst (ow 5 1 0)) (world (probe [])) (fun _ t => t.reg 5 == dat 4 0xFFFFFFFFFFFFFFFF) = true := by decide +kernel
theorem test_setgf : after (.setgf (ow 1 2 3)) (world (probe [])) (fun _ t => t.gf == 0x53) = true := by decide +kernel
/-- A guard of zeros leaves everything but the PC. -/
theorem test_dead_guard : after (.add (Fields.oneWord 0 5 6 7)) (world (probe [(6, dat 3 1), (7, dat 3 1)]))
    (fun _ t => t.reg 5 == QReg.zero && t.pc == 4) = true := by decide +kernel
theorem test_br : after (.br (ow 0x1F 0x1F 0x1E)) (world { probe [] with pc := 0x1000 }) (fun _ t => t.pc == 0xFF8) = true := by
  decide +kernel
theorem test_call : after (.call (ow 0 0 20)) (world { probe [] with pc := 0x1000 })
    (fun _ t => t.pc == 0x1050 && t.reg 31 == dat 4 0x1004) = true := by decide +kernel
theorem test_jmp : after (.jmp (ow 0 6 0)) (world (probe [(6, dat 8 0x2000)])) (fun _ t => t.pc == 0x2000) = true := by decide +kernel
theorem test_jmp_table : after (.jmpTable (ex 0 6 0 0 0 0 0 3)) (world { probe [(6, dat 4 2)] with pc := 0x1000 })
    (fun _ t => t.pc == 0x1014) = true := by decide +kernel
theorem test_callr : after (.callr (ow 0 31 0)) (world { probe [(31, dat 4 0x2000)] with pc := 0x1000 })
    (fun _ t => t.pc == 0x2000 && t.reg 31 == dat 4 0x1004) = true := by decide +kernel
theorem test_ret : after (.ret (ow 0 31 0)) (world (probe [(31, dat 4 0x2000)])) (fun _ t => t.pc == 0x2000) = true := by decide +kernel
theorem test_exit : after (.exit (ow 0 0 0)) (world (probe [])) (fun _ t => t.halted && t.pc == 4) = true := by decide +kernel
theorem test_trap : after (.trap (ow 0 0 5)) (world (probe [])) (fun s t => t.stopped == some ⟨7, 0, 0, 5⟩ && t.pc == 4 &&
    ((s.ctx 0).messages.map fun m => m.e0) == [BitVec.ofNat 128 ((7 * 2 ^ 56 + 5) * 2 ^ 64)]) = true := by decide +kernel
theorem test_brk : after (.brk (ow 0 0 5)) (world (probe [])) (fun _ t => t.stopped == some ⟨6, 1, 0, 5⟩ && t.pc == 4) = true := by
  decide +kernel
theorem test_safe : after (.safe (ex 0 0 0 0 0 0 0xFF 0xFFFFFFFF)) (world { probe [(6, dat 3 1)] with dist := 9 })
    (fun _ t => t.dist == 0 && t.reg 6 == dat 3 1) = true := by decide +kernel
theorem test_yield : after (.yield (ow 0 0 0)) (world { probe [] with dist := 9 }) (fun _ t => t.dist == 0 && t.pc == 4) = true := by
  decide +kernel
/-! ## States and operands that meet the hypotheses of the statements -/

/-- A capability of the scratch of core 0 with every permission, its cursor at an offset; and one of SPACE 3. -/
def sc (off : Nat) : QReg := memCap 0x3FF 0 (2 ^ 51) (2 ^ 51 + 4096) (2 ^ 51 + off)
def vc (va : Nat) : QReg := memCap 0x3FF 3 0 0x10000 va
/-- The key of an offset in the scratch of core 0. -/
def sk (off : Nat) : Nat := memKey 0 3 off

/-- Registers of the common formats, a scratch capability in q10 and one of SPACE 3 in q13. -/
def R : Thread := probe [(5, dat 3 5), (6, dat 3 6), (7, dat 3 7), (8, dat 9 0x3F800000), (9, dat 9 0x40000000), (10, sc 16),
  (11, dat 4 64), (12, dat 1 0x0102), (13, vc 0x100), (14, dat 8 0x2000)]
/-- A page of grove memory at address 0 of context 0, readable, writable and executable, in the TLB of grove 0. -/
def page0 : Translation := { ctx := 0, base := 0, size := 4096, leaf := 2 ^ 63 + 2 ^ 62 + 2 ^ 61 + 2 ^ 60 + 2 * 2 ^ 52 }
def S : State := (world R).setGrove 0 { Grove.empty with tlb := [page0] }

theorem S_tidy : S.Tidy := by constructor <;> decide +kernel

theorem witness_IntegerArithmetic : (∃ f, arithRow (.add (ow 5 6 7)) = some (ow 5 6 7, false, false, f)) ∧
    S.admits R (ow 5 6 7) { tys := tysInt } (laneWidth (R.typeOf (ow 5 6 7))) ∧
    S.admits R (ex 5 10 7 0 0 3 0x40 0) { tys := tysInt } (laneWidth (R.typeOf (ex 5 10 7 0 0 3 0x40 0))) := by
  refine ⟨⟨_, rfl⟩, ?_⟩; unfold State.admits State.passesChecks; decide +kernel
theorem witness_ShiftsAndUnary : (∃ f, shiftRow (.sar (ow 5 6 7)) = some (ow 5 6 7, f)) ∧ (∃ f, unaryRow (.clz (ow 5 6 0)) = some (ow 5 6 0, f)) ∧
    S.admits R (ow 5 6 7) { tys := tysInt } (laneWidth (R.typeOf (ow 5 6 7))) ∧
    S.admits R (ow 5 6 0) { tys := tysInt, useB := false } (laneWidth (R.typeOf (ow 5 6 0))) := by
  refine ⟨⟨_, rfl⟩, ⟨_, rfl⟩, ?_⟩; unfold State.admits State.passesChecks; decide +kernel
theorem witness_LogicalNibbles : (∃ f, logicRow (.xor (ow 5 6 7)) = some (ow 5 6 7, f)) ∧ S.admits R (ow 5 6 7) nibbleUse 4 := by
  refine ⟨⟨_, rfl⟩, ?_⟩; unfold State.admits State.passesChecks; decide +kernel
theorem witness_MoveCopies : S.thread S.cur = some R ∧
    S.admits R (ow 5 6 0) { tys := tysData, nib := true, useB := false, litA := true } 4 ∧ (R.reg (ow 5 6 0).a).cap = false ∧
    (ow 5 10 0).hasLit = false ∧ (ow 5 10 0).ty = 0 ∧ (R.reg (ow 5 10 0).a).cap = true ∧ R.live (ow 5 10 0).g 4 = true ∧
    R.live0 (ow 5 10 0).g = true := by
  unfold State.admits State.passesChecks; decide +kernel
theorem witness_SelectAndShuffle : S.admits R (ow 5 6 7) nibbleUse 4 ∧ S.admits R (ow 5 6 12) { nibbleUse with anyB := true } 4 := by
  unfold State.admits State.passesChecks; decide +kernel
theorem witness_ElementMoves : let u : LaneUse := { tys := tysLn, indexB := true }
    S.admits R (ow 5 6 11) u (laneWidth (R.typeOf (ow 5 6 11))) ∧ R.typesOk (ow 5 6 11) u = true ∧ R.live0 (ow 5 6 11).g = true ∧
    S.admits R (ow 5 6 11) { u with useD := true } (laneWidth (R.typeOf (ow 5 6 11))) := by
  unfold State.admits State.passesChecks; decide +kernel
theorem witness_PackAndUnpack : (3, 2) ∈ packPairs ∧ R.typeOf (ow 5 6 7) = 3 ∧ S.admits R (ow 5 6 7) { tys := tysPack } 16 ∧
    (2, 1) ∈ packPairs ∧ R.typeOf (ow 5 12 0) = 1 ∧ S.admits R (ow 5 12 0) { tys := tysUnpack, useB := false } 16 := by
  unfold State.admits State.passesChecks; decide +kernel
theorem witness_FloatArithmetic : let R := R.setReg 5 (dat 9 0)
    (world R).admits R (ow 5 8 9) { tys := tysFp, useC := true } (laneWidth (R.typeOf (ow 5 8 9))) := by
  unfold State.admits State.passesChecks; decide +kernel
theorem witness_FloatSigns : (∃ f, signRow (.fmin (ow 5 8 9)) = some (ow 5 8 9, true, f)) ∧
    S.admits R (ow 5 8 9) { tys := tysFp } (laneWidth (R.typeOf (ow 5 8 9))) := by
  refine ⟨⟨_, rfl⟩, ?_⟩; unfold State.admits State.passesChecks; decide +kernel
theorem witness_FloatPatterns : (∃ f, patternRow (.fexp2 (ow 5 8 0)) = some (ow 5 8 0, f)) ∧
    S.admits R (ow 5 8 0) { tys := tysFp, useB := false } (laneWidth (R.typeOf (ow 5 8 0))) := by
  refine ⟨⟨_, rfl⟩, ?_⟩; unfold State.admits State.passesChecks; decide +kernel
/-- The least and the greatest magnitude below zero of f32: the smallest subnormal and the infinity. -/
theorem witness_SpecialValues : let f := floatFmt 9
    let inf := (2 ^ f.ebits - 1) * 2 ^ f.mbits
    (1 < 2 ^ (f.ebits + f.mbits) ∧ 0 < 1 ∧ 1 ≤ inf) ∧ (inf < 2 ^ (f.ebits + f.mbits) ∧ 0 < inf) := by decide +kernel
theorem witness_DotProducts : let R := (R.setReg 5 (dat 3 0)).setReg 4 (dat 9 0)
    (world R).admits R (ow 5 12 12) { tys := tysFdot, useC := true, accTag := some dotType } 32 ∧ fmtIsInt (R.typeOf (ow 5 12 12)) = true ∧
    (let R := R.setReg 6 (dat 10 0x3C00)
     (world R).admits R (ow 4 6 6) { tys := tysFdot, useC := true, accTag := some dotType } 32 ∧ fmtIsInt (R.typeOf (ow 4 6 6)) = false) := by
  unfold State.admits State.passesChecks; decide +kernel
theorem witness_Conversions : let e := ow 5 8 11
    fcvtRow (.fcvt e) = some e ∧ S.thread S.cur = some R ∧ (R.reg e.a).cap = false ∧ 1 ≤ (R.reg e.a).tag.toNat ∧ (R.reg e.a).tag.toNat ≤ 17 ∧
    cvtDest e = 11 ∧ fmtIsInt 9 = fmtIsInt (cvtDest e) ∧ 0 < elemCount (cvtDest e) ∧ R.guardBit e.g (fmtWidth (cvtDest e) * 0 / 4) = true := by
  decide +kernel
theorem witness_Compares : (ex 4 6 7 0 0x12 3 0 0).d.toNat % 2 = 0 ∧ (ex 4 6 7 0 0x12 3 0 0).sfd = false ∧
    S.passesChecks R (ex 4 6 7 0 0x12 3 0 0) { tys := tysInt } (laneWidth (R.typeOf (ex 4 6 7 0 0x12 3 0 0))) ∧
    S.passesChecks R (ex 4 8 9 0 0x12 9 0 0) { tys := tysFcmp } (laneWidth (R.typeOf (ex 4 8 9 0 0x12 9 0 0))) := by
  unfold State.passesChecks; decide +kernel
theorem witness_PredicateMoves : S.thread S.cur = some R ∧ (ex 7 1 2 3 0 0 0 0xE8).d.toNat < 8 ∧ R.live (ex 7 1 2 3 0 0 0 0xE8).g 4 = true ∧
    R.live0 (ow 7 1 2).g = true ∧ (∃ f, countRow (.pcnt (ow 5 1 0)) = some (ow 5 1 0, f)) ∧
    (ow 7 1 2).d.toNat < 8 ∧ (ow 7 1 2).a.toNat < 8 ∧ (ow 7 1 2).b.toNat < 8 := by
  refine ⟨?_, ?_, ?_, ?_, ⟨_, rfl⟩, ?_⟩ <;> decide +kernel
theorem witness_ControlTransfers : branchRow (.call (ow 0 0 20)) = some (ow 0 0 20, true) ∧ jumpRow (.jmp (ow 0 14 0)) = some (ow 0 14 0, false) ∧
    S.thread S.cur = some R ∧ R.live0 (ow 0 0 20).g = true ∧ targetOf (R.reg 14) = some 0x2000 ∧
    targetOf ⟨mkCap 0x80 3 1 0 0 0x100 0xFC, true, 27⟩ = some 0xFC ∧ (R.reg 11).cap = false ∧ (R.reg 11).tag = 4 := by decide +kernel

/-! ### Memory (08 R157 to R181) -/

/-- The hypotheses on an ordinary memory instruction at a key, in a machine whose operand needs no new translation. -/
def Ordinary (s : State) (t : Thread) (i : Instr) (k : Nat) (more : AccessUse → Access → Bool) : Prop :=
  ∃ u, s.thread s.cur = some t ∧ accessRow t i = some u ∧ u.live t ∧ s.operandAt t u s k ∧
    s.performsNow t u (u.access k (t.memAddr u.e)) ∧ more u (u.access k (t.memAddr u.e)) = true

def ordinary (s : State) (t : Thread) (i : Instr) (k : Nat) (more : AccessUse → Access → Bool) : Bool :=
  match accessRow t i with
  | none => false
  | some u =>
    let va := t.memAddr u.e
    let a := u.access k va
    let r := t.reg u.e.a
    let tr := s.translate (slotGrove s.cur) t.ctx va
    s.thread s.cur == some t && (if u.width = 0 then t.live0 u.e.g else t.live u.e.g u.width) && u.sources && va % u.use.size == 0 &&
      r.isMem && checkBytes r va u.use.size u.use.mask u.use.perm &&
      ((decide (capSpace r.bits ≤ 2) && s.formPhysical t.ctx (slotCore s.cur) (capSpace r.bits) va == .key k &&
          (s.remapping t.ctx (capSpace r.bits) va).isNone) ||
        (capSpace r.bits == 3 && decide (va < 2 ^ 57) && !s.mustWalk (slotGrove s.cur) t.ctx va && !s.moving t.ctx va && t.absent.isNone &&
          tr == (.page page0, s) && u.use.rights.all (leafHas page0.leaf) && k == page0.key va)) &&
      !u.e.rx && s.isLocal a.key && t.rx.isEmpty && t.pendErr.isEmpty && !s.opts.split && !s.losesBank t a && more u a

theorem ordinary_of {s : State} {t : Thread} {i : Instr} {k : Nat} {more : AccessUse → Access → Bool} (h : ordinary s t i k more = true) :
    Ordinary s t i k more := by
  unfold ordinary at h
  split at h
  · cases h
  · rename_i u hu
    simp only [Bool.and_eq_true, beq_iff_eq, Bool.or_eq_true, decide_eq_true_eq, Bool.not_eq_true', List.isEmpty_iff,
      Option.isNone_iff_eq_none, List.all_eq_true] at h
    obtain ⟨⟨⟨⟨⟨⟨⟨⟨⟨⟨⟨⟨⟨h1, h2⟩, h3⟩, h4⟩, h5⟩, h6⟩, h7⟩, h8⟩, h9⟩, h10⟩, h11⟩, h12⟩, h12'⟩, h13⟩ := h
    refine ⟨u, h1, hu, ⟨?_, h3⟩, ⟨h4, h5, h6, ?_⟩, ⟨h8, h9, by simp [h10], fun _ => by simp [h11], h12',
      by simp [h12]⟩, h13⟩
    · split at h2 <;> rename_i hw
      · rw [if_pos hw]; exact h2
      · rw [if_neg hw]; exact h2
    · rcases h7 with h7 | h7
      · exact Or.inl ⟨h7.1.1, h7.1.2, h7.2, rfl⟩
      · obtain ⟨⟨⟨⟨⟨⟨⟨a1, a2⟩, a3⟩, a3'⟩, a4⟩, a5⟩, a6⟩, a7⟩ := h7
        exact Or.inr ⟨a1, a2, ⟨a3, by simp [a4], a3'⟩, page0, a5, a6, a7⟩

/-- The hypotheses on an access that the level of its key serves. -/
def served (s : State) (ops : AccessOp → Bool) (_u : AccessUse) (a : Access) : Bool := ops a.op && levelServes a && (s.badWord a false).isNone

/-- A load of 16 bytes, one of a byte with post-increment, one through a page, and a capability. -/
theorem witness_LoadsRead :
    Ordinary S R (.ld (ow 5 10 0)) (sk 16) (fun _ a => a.op == .load && a.size == 16 && (S.badWord a false).isNone) ∧
    Ordinary S R (.ldsX (ex 5 10 0 0 0 1 0x40 1)) (sk 16) (fun _ a => a.op == .load && a.size == 1 && (S.badWord a false).isNone) ∧
    Ordinary S R (.ld (ow 5 13 0)) (memKey 0 2 0x100) (fun _ a => a.op == .load && (S.badWord a false).isNone) ∧
    Ordinary S R (.ldcap (ow 5 10 0)) (sk 16) (fun _ a => a.op == .ldcap && (S.badWord a false).isNone) :=
  ⟨ordinary_of (by decide +kernel), ordinary_of (by decide +kernel), ordinary_of (by decide +kernel), ordinary_of (by decide +kernel)⟩
theorem witness_StoresWrite : S.mem.wf = true ∧
    Ordinary S R (.st (ow 5 10 0)) (sk 16) (fun _ a => a.op == .store && (S.badWord a true).isNone) ∧
    Ordinary S R (.stsX (ex 12 10 0 0 0 1 0x40 1)) (sk 16) (fun _ a => a.op == .store && (S.badWord a true).isNone) ∧
    Ordinary S R (.stcap (ow 10 10 0)) (sk 16) (fun _ a => a.op == .stcap) ∧
    Ordinary S R (.cclr (ow 0 10 0)) (sk 16) (fun _ a => a.op == .cclr) :=
  ⟨by decide +kernel, ordinary_of (by decide +kernel), ordinary_of (by decide +kernel), ordinary_of (by decide +kernel),
    ordinary_of (by decide +kernel)⟩
/-- A full word for `ldfe` and `ldff`, an empty one for `stef`, and each found in the other state. -/
theorem witness_FullEmptyAccesses : S.feWait = [] ∧ (S.setFull (sk 16) true).feWait = [] ∧
    Ordinary (S.setFull (sk 16) true) R (.ldfe (ow 5 10 0)) (sk 16) (fun u a => served (S.setFull (sk 16) true) (· == .ldfe) u a &&
      (S.setFull (sk 16) true).isFull (sk 16)) ∧
    Ordinary (S.setFull (sk 16) true) R (.ldff (ow 5 10 0)) (sk 16) (served (S.setFull (sk 16) true) (· == .ldff)) ∧
    Ordinary S R (.stef (ow 11 10 0)) (sk 16) (fun u a => served S (· == .stef) u a && !S.isFull (sk 16)) ∧
    Ordinary S R (.fefillX (ex 0 10 0 0 1 0 0 0)) (sk 16) (served S (· == .fefill true)) ∧
    Ordinary S R (.ldfe (ow 5 10 0)) (sk 16) (fun u a => served S (· == .ldfe) u a && !S.isFull (sk 16)) ∧
    Ordinary (S.setFull (sk 16) true) R (.stef (ow 11 10 0)) (sk 16) (fun u a => served S (· == .stef) u a &&
      (S.setFull (sk 16) true).isFull (sk 16)) :=
  ⟨rfl, rfl, ordinary_of (by decide +kernel), ordinary_of (by decide +kernel), ordinary_of (by decide +kernel),
    ordinary_of (by decide +kernel), ordinary_of (by decide +kernel), ordinary_of (by decide +kernel)⟩
theorem witness_AtomicsUpdate :
    Ordinary S R (.atom (ow 5 10 11)) (sk 16) (served S (· == .atom 0)) ∧
    Ordinary S R (.cas (ow 11 10 11)) (sk 16) (served S (· == .cas none)) ∧
    Ordinary S R (.casX (ex 11 10 11 4 0 4 0x80 0)) (sk 16) (served S (· == .cas (some 4))) :=
  ⟨ordinary_of (by decide +kernel), ordinary_of (by decide +kernel), ordinary_of (by decide +kernel)⟩
/-- A relaxed load with seven outstanding is the last that passes. -/
theorem witness_RelaxedAccesses : let e := ex 5 10 0 0 0 0 0x8 0
    let a := mkAccess R .load (sk 16) 16 16 (2 ^ 32 - 1) QReg.zero none 0
    let t := { R with rx := List.replicate 7 ⟨a, false, false, 0, 0, none⟩ }
    (world t).thread (world t).cur = some t ∧ e.rx = true ∧ t.rx.length < 8 ∧ e.rel = false ∧ (world t).losesBank t a = false ∧
      (world t).remapping t.ctx (capSpace (t.reg e.a).bits) (t.memAddr e) = none ∧ t.live e.g 4 = true ∧ t.memAddr e % 16 = 0 ∧ (t.reg e.a).isMem = true ∧ checkBytes (t.reg e.a) (t.memAddr e) 16 (2 ^ 32 - 1) permPL = true ∧
      (world t).formPhysical t.ctx (slotCore (world t).cur) (capSpace (t.reg e.a).bits) (t.memAddr e) = .key (sk 16) := by decide +kernel
/-- Each of the five: a source of another type, a misaligned address, a capability that does not reach, no page, a page that lacks the
right. -/
theorem witness_AccessFaults : let t := (((R.setReg 15 (sc 20)).setReg 16 (sc 4096)).setReg 17 (memCap 0x3FF 3 0 0x10000 0x2000)).setReg 18 (memCap 0x3FF 3 0 0x10000 0x100)
    let s := (world t).setGrove 0 { Grove.empty with tlb := [{ page0 with leaf := 2 ^ 63 + 2 ^ 61 + 2 * 2 ^ 52 }] }
    s.thread s.cur = some t ∧ s.isHandler s.cur t = false ∧ t.live 0xFF 4 = true ∧ storeOk (ex 5 10 0 0 0 9 0 0) (t.reg 5) = false ∧
      t.memAddr (ow 5 15 0) % 16 ≠ 0 ∧ checkBytes (t.reg 16) (t.memAddr (ow 5 16 0)) 16 (2 ^ 32 - 1) permPL = false ∧
      (t.reg 17).isMem = true ∧ checkBytes (t.reg 17) 0x2000 16 (2 ^ 32 - 1) permPL = true ∧ capSpace (t.reg 17).bits = 3 ∧
      s.moving t.ctx 0x2000 = false ∧ s.mustWalk 0 t.ctx 0x2000 = false ∧ s.mustWalk 0 t.ctx 0x100 = false ∧ t.absent = none ∧
      after (.ld (ow 5 18 0)) ((world { t with absent := some 0 })) (fun _ t => t.stopped == some ⟨3, 5, 0, 0⟩) = true ∧ (s.translate 0 t.ctx 0x2000).1 = .absent ∧
      (match (s.translate 0 t.ctx 0x100).1 with | .page x => !leafHas x.leaf .load | _ => false) = true ∧
      checkBytes (t.reg 18) 0x100 16 (2 ^ 32 - 1) permPL = true := by decide +kernel
theorem witness_FencesAndWaits : S.thread S.cur = some R ∧ R.live0 0xFF = true ∧ R.pendErr = [] ∧
    after (.fence (ow 0 0 0)) S (fun _ t => t.pc == 4) = true ∧
    after (.waitX (ex 0 0 0 0 0 0 0 0)) (world { R with cp := 1 }) (fun _ t => t.pc == 0 && t.wait == .counters 0) = true := by decide +kernel

theorem test_ld : after (.ldsX (ex 5 10 0 0 0 1 0x40 1)) (S.writeNum (sk 16) 8 0x1234) (fun _ t =>
    t.reg 5 == dat 1 0x34 && (t.reg 10).lo == 2 ^ 51 + 17) = true := by decide +kernel
theorem test_st : after (.sts (ow 12 10 0)) S (fun s _ => s.readNum (sk 16) 16 == 0x0102) = true := by decide +kernel
theorem test_atom : after (.atom (ow 5 10 11)) (S.writeNum (sk 16) 8 (2 ^ 64 - 1)) (fun s t =>
    s.readNum (sk 16) 8 == 63 && (t.reg 5).lo == 2 ^ 64 - 1) = true := by decide +kernel
theorem test_cas : after (.cas (ow 11 10 15)) ((world (R.setReg 15 (dat 4 9))).writeNum (sk 16) 8 64) (fun s t =>
    s.readNum (sk 16) 8 == 9 && (t.reg 11).lo == 64) = true := by decide +kernel
theorem test_ldfe : after (.ldfe (ow 5 10 0)) ((S.writeNum (sk 16) 8 7).setFull (sk 16) true) (fun s t =>
    !s.isFull (sk 16) && t.reg 5 == dat 0 7) = true := by decide +kernel
theorem test_stcap : after (.stcap (ow 10 10 0)) S (fun s _ => s.hasTag (sk 16) && s.readNum (sk 16) 16 == (sc 16).bits.toNat) = true := by
  decide +kernel

/-! ### Ends, stops, capabilities, channels and crews (07 R153 to R155, 08 R182 to R190, 19, 20) -/

theorem witness_NotLiveOnlyPasses : S.thread S.cur = some R ∧ R.live0 0 = false ∧ R.live 0 32 = false ∧
    (∃ u sat f, arithRow (.add (Fields.oneWord 0 5 6 7)) = some (Fields.oneWord 0 5 6 7, u, sat, f)) ∧
    32 = Nat.max 4 (laneWidth (R.typeOf (Fields.oneWord 0 5 6 7))) :=
  ⟨rfl, by decide +kernel, by decide +kernel, ⟨_, _, _, rfl⟩, by decide +kernel⟩
theorem witness_TrapsStop : stopRow (.trap (ow 0 0 5)) = some (ow 0 0 5, 7, 0) ∧ stopRow (.brkX (ex 0 0 0 0 0 0 0 9)) = some (ex 0 0 0 0 0 0 0 9, 6, 1) ∧
    S.thread S.cur = some R ∧ R.live0 0xFF = true ∧ S.isHandler S.cur R = false := by decide +kernel
theorem witness_ExitHalts : S.thread S.cur = some R ∧ R.live0 0xFF = true ∧ R.pendErr = [] ∧ S.crewsOf (S.memberOf R) = [] ∧
    R.trig = false := by decide +kernel
theorem witness_SafePoints : S.thread S.cur = some R ∧ R.live0 0xFF = true ∧ R.pendErr = [] ∧ R.request = none ∧ R.rx = [] ∧ R.pair = false ∧
    after (.yield (ow 0 0 0)) (world { R with rx := [⟨mkAccess R .load (sk 16) 16 16 1 QReg.zero none 0, false, false, 0, 0, none⟩] })
      (fun _ t => t.pc == 0 && t.wait == .drain 5 false) = true := by decide +kernel
/-- The shortest and the longest length that `cset` can meet here, and a literal. -/
theorem witness_CapabilityDerivation : S.thread S.cur = some R ∧ R.live0 0xFF = true ∧ (R.reg 10).isMem = true ∧
    sourceB R (ow 5 10 11) 64 ∧ sourceB R (fld .lit 0xFF 5 10 0 0 0 0 0 0 4080) 4080 := by
  unfold sourceB; decide +kernel
theorem test_cset : gives (.cset (ow 5 10 11)) [(10, sc 16), (11, dat 4 64)] 5 (memCap 0x3FF 0 (2 ^ 51 + 16) (2 ^ 51 + 80) (2 ^ 51 + 16)) = true ∧
    gives (.csetX (fld .lit 0xFF 5 10 0 0 0 0 0 0 4081)) [(10, sc 16)] 5 ⟨(sc 16).bits, false, 0⟩ = true := by decide +kernel
theorem test_cperm : gives (.cperm (ow 5 10 11)) [(10, sc 16), (11, dat 4 0x201)] 5 (memCap 0x201 0 (2 ^ 51) (2 ^ 51 + 4096) (2 ^ 51 + 16)) = true := by
  decide +kernel
theorem test_cinc : gives (.cinc (ow 5 10 11)) [(10, sc 16), (11, dat 4 (2 ^ 64 - 16))] 5 (sc 0) = true := by decide +kernel
/-- A base capability and an authority of SPACE 3 whose bounds contain it. -/
theorem witness_CapabilityInspection : (authority (vc 0) (vc 0x100) permPSEAL && (vc 0x100).isMem) = true ∧ (R.reg 11).isInt = true ∧
    (R.reg 11).lo < 2 ^ 42 ∧ cgetRow (.cgetX (ex 5 10 0 0 8 0 0 0)) = some (ex 5 10 0 0 8 0 0 0) ∧
    gives (.cgetX (ex 5 10 0 0 8 0 0 0)) [(10, sc 16)] 5 (dat 4 (2 ^ 51 + 16)) = true ∧
    gives (.cget (ow 5 10 0)) [(10, sc 16)] 5 (dat 4 (2 ^ 51)) = true := by decide +kernel
theorem test_cseal : after (.cseal (ow 5 13 15)) (world (R.setReg 15 (vc 0))) (fun _ t => capKind (t.reg 5).bits == 4 && (t.reg 5).lo == 0x100) = true ∧
    after (.cunseal (ow 6 5 15)) (world ((R.setReg 15 (vc 0)).setReg 5 ⟨mkCap 0x37F 3 4 0 0 0x10000 0x100, true, 27⟩))
      (fun _ t => capKind (t.reg 6).bits == 0) = true := by decide +kernel
theorem test_ctest : after (.ctest (ow 4 10 0)) S (fun _ t => t.pred 4 == 0xFFFF && t.pred 5 == 0) = true ∧
    after (.ctestFit (ex 4 10 11 0 1 0 0 0)) S (fun _ t => t.pred 4 == 0xFFFF) = true := by decide +kernel

/-- Slot 0 sends to slot 1 of its own core, which holds another thread; its channel holds an entry. -/
def S2 : State :=
  ((world R).setSlot 1 { Slot.empty with quota := 1, thread := some { R with gtid := 1 } }).setSlot 0
    { Slot.empty with quota := 1, thread := some R, chan := [dat 3 9] }
theorem witness_Channels : S2.thread S2.cur = some R ∧ R.live0 0xFF = true ∧ sourceB R (fld .lit 0xFF 0 5 0 0 0 0 0 0 0x11000) 0x11000 ∧
    0x11000 < 2 ^ 17 ∧ R.rx = [] ∧ R.pendErr = [] ∧ 0x11000 / 2 ^ 16 = 1 ∧ (S2.slot S2.cur).chan = dat 3 9 :: [] ∧
    S2.hasSpill R.ctx (slotDie S2.cur) R.gtid = false ∧ (S.slot S.cur).chan = [] ∧
    after (.recv (ow 5 0 0)) S2 (fun s t => t.reg 5 == dat 3 9 && (s.slot 0).chan == []) = true ∧
    after (.recvTry (ex 5 2 0 0 1 0 0 0)) S (fun _ t => t.pred 2 == 0 && t.pred 3 == 0xFFFF) = true := by
  unfold sourceB; decide +kernel

/-- A named crew in entry 0, of which the thread is a member; q16 holds its handle. -/
def C0 : Crew := { Crew.free with used := true, gen := 1, ctx := 0, origin := .named 5, members := [0], ranks := [0] }
def RC : Thread := R.setReg 16 ((State.reset.setCrew 0 C0).crewHandle 0)
def SC (c : Crew) : State := (world RC).setCrew 0 c
theorem witness_CrewNames : S.thread S.cur = some R ∧ R.live0 0xFF = true ∧ S.crewNamed R.ctx false 5 = none ∧ S.crewTaken.mem 0 = false ∧
    (SC C0).crewNamed R.ctx false 5 = some 0 ∧ sourceB R (ex 5 0 11 2 0 0 0 0) 64 ∧ (2 ^ 52 / 2 ^ 52 != S.pkg) = true ∧
    after (.cmake (fld .extLit 0xFF 5 2 0 0 0 0 0 0 5)) S (fun s t => t.reg 5 == s.crewHandle 0 && t.pred 2 == 0xFFFF && (s.crew 0).gen == 1) = true ∧
    after (.cmake (fld .extLit 0xFF 5 2 0 0 0 0 0 0 5)) (SC C0) (fun _ t => t.reg 5 == dataInt (-2) && t.pred 3 == 0xFFFF) = true ∧
    after (.cmake (fld .extLit 0xFF 5 2 0 0 0 0 0 2 (2 ^ 52))) S (fun _ t => t.reg 5 == dataInt (-3)) = true ∧
    after (.cfind (fld .extLit 0xFF 5 0 0 2 0 0 0 0 5)) (SC C0) (fun s t => t.reg 5 == s.crewHandle 0) = true := by
  unfold sourceB; decide +kernel
/-- A member, a leaving member, no member, a pending joiner; and a named crew without members that `cfree` frees. -/
theorem witness_CrewMembership : (SC C0).namesCrew RC (ow 5 16 0) 0 ∧ (SC { C0 with members := [] }).namesCrew RC (ow 5 16 0) 0 ∧
    RC.wait = .none ∧ (SC C0).memberOf RC = 0 ∧ 0 ∈ C0.members ∧ 0 ∉ C0.leaves ∧ (SC { C0 with members := [] }).crewWaited 0 = false ∧
    after (.cjoin (ow 4 16 0)) (SC C0) (fun _ t => t.pred 5 == 0xFFFF) = true ∧
    after (.cleave (ow 4 16 0)) (SC C0) (fun s t => t.pred 4 == 0xFFFF && (s.crew 0).leaves == [0]) = true ∧
    after (.cjoin (ow 4 16 0)) (SC { C0 with leaves := [0] }) (fun s t => t.pred 4 == 0xFFFF && (s.crew 0).leaves == []) = true ∧
    after (.cjoin (ow 4 16 0)) (SC { C0 with members := [], ranks := [] }) (fun s t => t.pred 4 == 0xFFFF && (s.crew 0).members == [0]) = true ∧
    after (.cleave (ow 4 16 0)) (SC { C0 with members := [], joins := [0] }) (fun s _ => (s.crew 0).joins == []) = true ∧
    after (.cfree (ex 5 16 0 0 1 0 0 0)) (SC { C0 with members := [] }) (fun s t => t.reg 5 == dataInt 0 && !(s.crew 0).used) = true ∧
    after (.cfree (ex 5 16 0 0 1 0 0 0)) (SC C0) (fun _ t => t.reg 5 == dataInt (-1)) = true ∧
    after (.cstat (ex 5 16 0 0 2 0 0 0)) (SC C0) (fun _ t => t.reg 5 == lanes64 0 (2 ^ 15) 4) = true := by
  refine ⟨rfl, rfl, rfl, ?_⟩; decide +kernel
/-- A barrier with two members open in phase 0: one arrives and waits. -/
def C2 : Crew := { C0 with members := [0, 1], ranks := [0, 1], bar0 := { Barrier.idle with counted := [0, 1], ranks := [0, 1] } }
theorem witness_CollectivesArrive : (SC C2).namesCrew RC (ow 0 16 0) 0 ∧ RC.rx = [] ∧ RC.pendErr = [] ∧ contributes RC (ow 0 16 0) 0 0 ∧
    collectiveRow RC (.cvoteX (ex 5 16 0 0 1 0 0 0)) = some (ex 5 16 0 0 1 0 0 0, 2, .vote 1) ∧
    (credTys 0).getLsbD (RC.credType (ow 5 16 11)) = true ∧ srcOk (ow 5 16 11) (RC.credType (ow 5 16 11)) (RC.reg 11) = true ∧
    ((SC C2).meetArrival 0 0 { who := 0, kind := .plain, value := 0, waits := true }).1 = .taken 0 ∧ C2.waitRefused 0 0 = none ∧
    C2.waitRefused 0 7 = some 3 ∧ phaseReleased C2.bar0.phase 0 = false ∧ phaseReleased 1 0 = true ∧
    after (.cbar (ow 0 16 0)) (SC C2) (fun _ t => t.wait == .crew 0 0 0 0 (ow 0 16 0)) = true ∧
    after (.carr (ow 5 16 0)) (SC C2) (fun _ t => t.reg 5 == dat 4 0 && t.wait == .memory) = true ∧
    after (.cwait (ow 5 16 0)) (SC C2) (fun _ t => t.wait == .crew 0 0 0 1 (ow 5 16 0)) = true ∧
    after (.cwaitPh (ex 5 16 11 0 0 0 1 0)) (SC { C2 with bar0 := { C2.bar0 with phase := 65 } }) (fun _ t => t.reg 5 == lanes64 64 0 4) = true := by
  refine ⟨rfl, rfl, rfl, rfl, ?_⟩; decide +kernel

/-! ### System registers, the privileged escape and engines (11, 15, 17, 22 R366, 27 R431) -/

theorem witness_SystemRegisters : S.thread S.cur = some R ∧ R.live0 0xFF = true ∧ getsRow (.gets (ow 5 1 16)) = some (ow 5 1 16) ∧
    writeOnly 0x30 = false ∧ privRead 0x30 = true ∧ (S.threadUser R).priv = true ∧ privWrite 0x30 = true ∧ (R.reg 11).cap = false ∧
    R.rx = [] ∧ R.pendErr = [] ∧ (∃ t1, (S.regEffect (S.threadUser R) 0x30 64).thread S.cur = some t1) ∧
    after (.puts (ow 11 1 16)) S (fun s _ => (s.ctx 0).gtag == 64) = true ∧
    -- without system privilege
    (let s := S.setCtx 0 { Ctx.house with sys := false }
     (s.threadUser R).priv = false ∧ s.isHandler s.cur R = false ∧ after (.gets (ow 5 1 16)) s (fun _ t => t.frozen) = true) := by
  refine ⟨rfl, rfl, rfl, rfl, rfl, rfl, rfl, rfl, rfl, rfl, ⟨R, rfl⟩, ?_⟩; decide +kernel
theorem witness_Counters : S.thread S.cur = some R ∧ R.live0 0xFF = true ∧ S.ctx R.ctx ≠ Ctx.none ∧ (S.ctx R.ctx).mode ≠ .none ∧
    (ex 0 0 0 0 3 0 0 0xA07).imm.toNat / 256 % 256 ≤ 10 ∧
    after (.ctrSel (ex 0 0 0 0 3 0 0 0xA07)) S (fun s _ => (s.counter 0 7).event == 10) = true ∧
    after (.ctrStart (ex 0 0 0 0 1 0 0 0x80)) S (fun s _ => (s.counter 0 7).run) = true ∧
    after (.ctrStop (ex 0 0 0 0 2 0 0 0x80)) (S.setCtx 0 { Ctx.house with counters := [(7, ⟨5, 1, true⟩)] })
      (fun s _ => s.counter 0 7 == ⟨5, 1, false⟩) = true ∧
    after (.ctrRead (ow 5 0 7)) (S.setCtx 0 { Ctx.house with counters := [(7, ⟨5, 1, true⟩)] })
      (fun _ t => t.reg 5 == lanes64 5 257 8) = true := by decide +kernel
/-- A stopped thread in slot 1; a target that is absent; `migr` to track 1, which nothing else forbids, and to a track out of bounds. -/
def S3 : State := S.setSlot 1 { Slot.empty with quota := 1, thread := some { R with gtid := 64, stopped := some ⟨7, 0, 0, 5⟩, pc := 4 } }
theorem witness_SystemInstructions : S3.thread S3.cur = some R ∧ R.live0 0xFF = true ∧ (R.reg 11).isInt = true ∧ (R.reg 11).hi = 0 ∧
    S.slotOf (R.reg 11).lo = none ∧ S.savedOf R.ctx (R.reg 11).lo = none ∧ S3.slotOf (R.reg 11).lo = some 1 ∧ (1 : Nat) ≠ S3.cur ∧
    migrRow (.migr (ow 5 15 0)) = some (ow 5 15 0) ∧ S.migrGoal R (2 ^ 62 + 1) = some (some (.track 1)) ∧
    (S.setCtx 0 { Ctx.house with eff := [(0, { EffRegs.zero with tracks := 1 })] }).migrGoal R (2 ^ 62 + 1) = some none ∧
    (S.requestMigration R.ctx R.lcore (.track 1)).2.thread S.cur = some R ∧ S.privileged R = true ∧ R.rx = [] ∧ R.pendErr = [] ∧
    after (.tres (ow 5 11 0)) S (fun _ t => t.reg 5 == dataInt (-1)) = true ∧
    after (.tres (ow 5 11 0)) S3 (fun s t => t.reg 5 == dataInt 0 && (s.thread 1).any (·.stopped.isNone)) = true ∧
    after (.tlbi (ow 0 0 0)) S (fun s t => t.pc == 4 && (s.grove 0).tlb == []) = true ∧
    after (.tlbiCtx (ex 0 11 0 0 1 0 0 0)) S (fun s _ => (s.grove 0).tlb == []) = true ∧
    after (.tlbiVa (ex 0 15 0 0 2 0 0 0)) ((world (R.setReg 15 (dat 4 0x1000))).setGrove 0 (S.grove 0)) (fun s _ => (s.grove 0).tlb == [page0]) = true := by
  decide +kernel
/-- Nothing made through what is dropped is left; a relaxed access is, and the `tlbi` waits for it. -/
theorem witness_SystemInstructions_tlbi : ((S.put R).dropNamed 0 0 0 1).staleLeft 0 0 0 1 = false ∧
    ((S.put R).dropNamed 1 0 0 1).staleLeft 1 0 0 1 = false ∧ ((S.put R).dropNamed 2 0 0x1000 4096).staleLeft 2 0 0x1000 4096 = false ∧
    (let u : Thread := { R with gtid := 64, rx := [⟨{ mkAccess R .load (memKey 0 2 0) 0 8 0xFFFF QReg.zero none 4 with page := (0, 4096) }, false, false, 0, 0, none⟩] }
     after (.tlbi (ow 0 0 0)) (S.setSlot 1 { Slot.empty with quota := 1, thread := some u })
       (fun s t => t.wait == .tlb 0 0 0 1 (ow 0 0 0) && t.pc == 0 && (s.grove 0).tlb == []) = true) := by decide +kernel

/-- A thread of a context without system privilege; a frozen thread in slot 1; and a context record at offset 128 of the scratch. -/
def S4 : State := S.setSlot 1 { Slot.empty with quota := 1, thread := some { R with gtid := 64, frozen := true } }
def rootM : Nat := (mkCap 0x3FF 3 0 0 0 0x10000 0).toNat
def record : Nat := rootM + rootM * 2 ^ 128 + 0x1000 * 2 ^ 256 + 0x2000 * 2 ^ 320 + 4 * 2 ^ 384 + 1 * 2 ^ 416 + 0x80000000 * 2 ^ 512 +
  9 * 2 ^ 544 + 7 * 2 ^ 552 + 1 * 2 ^ 560
def S5 : State := ((((world (R.setReg 15 (sc 128)))).writeNum (sk 128) 128 record).setTag (sk 128) true).setTag (sk 144) true
def actB (act c : Nat) : Fields := fld .extLit 0xFF 5 15 0 0 1 0 0 0 (BitVec.ofNat 64 (act + c * 65536))
theorem witness_PrivilegedEscape :
    (let s := S.setCtx 0 { Ctx.house with sys := false }
     privRow s (.govset (ex 5 11 0 0 3 0 0 0)) = some (ex 5 11 0 0 3 0 0 0) ∧ s.thread s.cur = some R ∧ s.privileged R = false ∧
       s.isHandler s.cur R = false) ∧
    S4.thread S4.cur = some R ∧ S4.privileged R = true ∧ R.live0 0xFF = true ∧ (R.reg 11).isInt = true ∧
    R.privB (fld .extLit 0xFF 5 11 0 0 0 0 0 0 0) = some 0 ∧ S4.slotOf (R.reg 11).lo = some 1 ∧ (S3.thread 1).any (fun u => !u.frozen) = true ∧
    after (.thaw (fld .extLit 0xFF 5 11 0 0 0 0 0 0 0)) S4 (fun s t => t.reg 5 == dataInt 0 && (s.thread 1).any (!·.frozen)) = true ∧
    -- the ends of the range of the first parameters, and a parameter that is none
    after (.govset (fld .extLit 0xFF 5 11 0 0 3 0 0 0 0)) (world (R.setReg 11 (dat 4 4000000))) (fun s _ => s.power.limit == 4000000) = true ∧
    after (.govset (fld .extLit 0xFF 5 11 0 0 3 0 0 0 1)) (world (R.setReg 11 (dat 4 1))) (fun s _ => s.power.ramp == 1) = true ∧
    after (.govset (fld .extLit 0xFF 5 11 0 0 3 0 0 0 0)) (world (R.setReg 11 (dat 4 4000001))) (fun _ t => t.reg 5 == dataInt (-1)) = true ∧
    after (.govset (fld .extLit 0xFF 5 11 0 0 3 0 0 0 4)) (world (R.setReg 11 (dat 4 1))) (fun _ t => t.reg 5 == dataInt (-1)) = true ∧
    -- core 1, slot 2 to context 0 with PIN
    after (.slotw (ex 5 11 0 0 2 0 0 0)) (world (R.setReg 11 ⟨BitVec.ofNat 128 (2 ^ 64 + 2 ^ 32 + 4), false, 4⟩)) (fun s t =>
      (s.slot 18).pin && (s.slot 18).owner == 0 && t.reg 5 == dataInt 0) = true := by decide +kernel
theorem witness_PrivilegedEscape_cxsw : (S5.thread S5.cur = some (R.setReg 15 (sc 128))) ∧ S5.cxswAdmits 7 1 = true ∧
    recordOk (S5.readNum (sk 128) 128) (S5.hasTag (sk 128)) (S5.hasTag (sk 144)) = true ∧ S5.badRecord (sk 128) = none ∧
    recordOk 0 false false = false ∧ cxswRest 1 = 0 ∧
    after (.cxswCreate (actB 1 7)) S5 (fun s t => (s.ctx 7).mode == .created && (s.ctx 7).regs.weight == 9 && t.reg 5 == dataInt 0) = true ∧
    (let s (m : CtxMode) := { S5.setCtx 7 { Ctx.none with mode := m } with arg := { Arg.none with fields := actB 0 7 } }
     (s .created).cxswAdmits 7 2 = true ∧ (s .active).cxswAdmits 7 2 = false ∧
     after .cxswRun (s .created) (fun s _ => (s.ctx 7).mode == .active) = true ∧
     after .cxswSuspend (s .active) (fun s _ => (s.ctx 7).mode == .suspended) = true ∧
     after .cxswResume (s .suspended) (fun s _ => (s.ctx 7).mode == .active) = true ∧
     after .cxswFreeze (s .active) (fun s _ => (s.ctx 7).mode == .frozen) = true ∧
     after .cxswThawContext (s .frozen) (fun s _ => (s.ctx 7).mode == .suspended) = true ∧
     after .cxswTeardown (s .frozen) (fun s _ => (s.ctx 7).mode == .tornDown) = true ∧
     after .cxswPreemptCore (s .active) (fun _ t => t.reg 5 == dataInt (-1)) = true ∧
     after (.cxswCreate (actB 8 0)) S5 (fun s _ => s.ctxState 0 == 3 && (s.thread 0).any (·.request.isSome)) = true) := by decide +kernel

/-- A capability of grove memory, a control register of zeros and a length, beside the registers of `R`. -/
def gm (off : Nat) : QReg := memCap 0x3FF 1 0 0x10000 off
def RE : Thread := ((R.setReg 20 (gm 0x100)).setReg 21 (dat 3 0)).setReg 22 (dat 4 64)
def SE : State := (world RE).setGrove 0 { Grove.empty with budget := 1000 }
def zeroE : Fields := ex 20 0 22 21 5 0 0 0
def fillE : Fields := ex 20 11 22 0 3 0 0 0
theorem witness_EngineIssue : SE.thread SE.cur = some RE ∧ RE.live0 0xFF = true ∧ tileRow (.tzero zeroE) = some zeroE ∧
    (SE.tileOp RE zeroE).b.isInt = true ∧ (SE.tileOp RE zeroE).tileCheck = none ∧ SE.wordReached (SE.tileOp RE zeroE) SE ∧ SE.hasRoom RE 0 ∧
    ¬ SE.hasRoom { RE with tl := 255 } 0 ∧ copyRow (.cfill fillE) = some fillE ∧ (SE.copyOp RE fillE).copyCheck none 0 0 = .ok 8 ∧
    SE.wordReached (SE.copyOp RE fillE) SE ∧ (RE.reg 20).cap = true ∧
    (let e := ex 0 0 0 0 4 0 0 0x0000FF1F; e.imm.toNat / 2 ^ 16 % 32 ≤ 3 ∧ e.imm.toNat % 2 ^ 16 / 32 % 8 = 0) :=
  ⟨rfl, by decide +kernel, rfl, by decide +kernel, by decide +kernel, Or.inl ⟨by decide +kernel, rfl⟩,
    by unfold State.hasRoom; decide +kernel, by unfold State.hasRoom; decide +kernel, rfl, rfl, Or.inl ⟨by decide +kernel, rfl⟩,
    by decide +kernel, by decide +kernel⟩
theorem test_engine_issue : after (.tzero zeroE) SE (fun s t => (s.queue 0).ops.length == 1 && t.tl == 1 && t.pc == 12) = true ∧
    after (.cfill fillE) SE (fun s t => (s.queue 8).ops.length == 1 && t.cp == 1) = true ∧
    after (.tzero zeroE) (world { RE with tl := 255 }) (fun s t => (s.queue 0).ops.length == 0 && t.lost && t.pc == 0) = true ∧
    after (.tzero { zeroE with c := 20 }) SE (fun _ t => t.stopped == some ⟨2, 0, 0, 0⟩) = true := by decide +kernel

def zeroOp : EngineOp := { SE.tileOp RE zeroE with serial := 0, queue := 0 }
def fillOp : EngineOp := { SE.copyOp RE fillE with serial := 0, queue := 0 }
def SQ (k : Nat) (op : EngineOp) (unit : Nat) : State :=
  { SE.setQueue k { Queue.empty with ops := [op], appended := 1, unit } with arg := { Arg.none with index := k } }
theorem witness_EngineStatus : sourceB R (fld .extLit 0xFF 5 0 0 0 8 0 0 0 4) 4 ∧ sourceB R (fld .extLit 0xFF 5 0 0 0 8 0 0 0 8) 8 ∧
    sourceB R (fld .extLit 0xFF 5 0 0 0 8 0 0 0 15) 15 ∧ slotGrove S.cur < 192 ∧ (R.reg 10).cap = true ∧ capKind (R.reg 10).bits = 0 ∧
    capSpace (R.reg 10).bits = 0 ∧ (R.reg 10).lo.testBit 51 = true ∧
    after (.tstat (fld .extLit 0xFF 5 0 0 0 8 0 0 0 0)) (SQ 0 zeroOp 1) (fun _ t => (t.reg 5).lo / 2 ^ 32 == 0x111 && (t.reg 5).lo / 2 ^ 22 % 1024 == 5) = true ∧
    after (.qstat (fld .extLit 0xFF 5 0 0 0 5 0 0 0 9)) SE (fun _ t => t.reg 5 == dat 0 0) = true ∧
    after (.qstat (fld .extLit 0xFF 5 10 0 0 5 0 1 0 9)) (world R) (fun _ t =>
      t.reg 5 == ⟨BitVec.ofNat 128 (0x0083000000000000 * 2 ^ 64 + 9), true, 27⟩) = true ∧
    after (.rcread (fld .extLit 0xFF 5 0 0 0 7 0 0 0 63)) (S.setGrove 0 { Grove.empty with routes := [(63, 5)] }) (fun _ t => t.reg 5 == dat 4 5) = true := by
  unfold sourceB; decide +kernel

/-- A waiting head that a free unit takes; a join whose work has ended; a halted queue; and idle units for ballast. -/
def dispatchS : State := { SQ 0 zeroOp 0 with arg := { Arg.none with index := 0, index2 := 1 } }
def joinS : State := SQ 0 { zeroOp with kind := .join [(9, 0)] } 0
def haltS : State :=
  { SE.setQueue 0 { Queue.empty with ops := [zeroOp], mode := .halted, exlat := true } with arg := { Arg.none with writer := .thread 0, value := 0 } }
def ballastS : State := { SE with power := { Power.reset with ballast := true, asked := true, target := 10 ^ 9 }, arg := { Arg.none with index := 0, index2 := 3 } }
theorem witness_QueueEvents : dispatchS.unitFree 0 1 = true ∧ 0 < (dispatchS.grove 0).budget ∧ (0, dispatchS.queue 0) ∈ dispatchS.queues ∧
    dispatchS.headWaits 0 = true ∧ unitServes 1 0 (dispatchS.queue 0).headXop = true ∧ (∀ x ∈ dispatchS.queues, x = (0, dispatchS.queue 0)) ∧
    then_ .unitDispatch dispatchS (fun s => (s.queue 0).unit == 1) = true ∧
    (joinS.queue 0).mode = .running ∧ joinS.endedBefore (queueKey 0 0 9) 0 = true ∧ then_ .joinResolve joinS (fun s => (s.queue 0).ops == []) = true ∧
    (haltS.queue 0).mode = .halted ∧ haltS.thread 0 = some RE ∧ then_ .queueResume haltS (fun s => (s.queue 0).mode == .running && !(s.queue 0).exlat) = true ∧
    then_ .queueDiscard haltS (fun s => (s.queue 0).ops == []) = true ∧
    ballastS.power.ballast = true ∧ ballastS.loadWanted = true ∧ ballastS.power.filler = false ∧ ballastS.unitWanted 0 3 = false ∧ ballastS.unitFree 0 3 = true ∧ (ballastS.grove 0).ballast = [] ∧
    (ballastS.grove 0).dead.contains 3 = false ∧ then_ .ballastSliceEnd ballastS (fun s => (s.grove 0).ballast == [3]) = true := by decide +kernel

def isOk (x : Except EngineStop Unit) : Bool := match x with | .ok _ => true | _ => false
def isTranslation (x : Except EngineStop Unit) : Bool := match x with | .error (.translation _ _) => true | _ => false
def isData (x : Except EngineStop Unit) : Bool := match x with | .error (.data _) => true | _ => false
def isViolation (x : Except EngineStop Unit) : Bool := match x with | .error (.violation _ _) => true | _ => false
def isPause (x : Except EngineStop Unit) : Bool := match x with | .error .pause => true | _ => false
/-- Work to its end, a fault, an uncorrectable error, a violation, and a stop at a block. -/
def faultOp : EngineOp := { zeroOp with d := memCap 0x3FF 3 0 0x10000 0x4000 }
def dataOp : EngineOp := { fillOp with kind := .copy 0, a := gm 0x200 }
def violOp : EngineOp := { fillOp with d := memCap 0x3FF 0 0 4096 0 }
def rowsOp : EngineOp := { zeroOp with kind := .tile 2, ty := 9, mod := 512, imm := 0x0001, a := gm 0x400, b := gm 0x4000, d := QReg.zero
                                       f := dat 3 (129 + 16 * 2 ^ 32 + 129 * 2 ^ 64) }
def pauseS (k : Nat) : State := { SE.setQueue 0 { Queue.empty with ops := [rowsOp], appended := 1, unit := 3, prog := 127, started := true, stopping := k, stopRow := 128 } with
  arg := { Arg.none with index := 0 } }
theorem witness_EngineEnds : isOk ((SQ 0 zeroOp 1).workOn 0 zeroOp none).1 = true ∧ (((SQ 0 zeroOp 1).workOn 0 zeroOp none).2.queue 0).ops = [zeroOp] ∧
    zeroOp.w = none ∧ zeroOp.isTask = false ∧ ((SQ 0 zeroOp 1).queue 0).mode = .running ∧ ((SQ 0 zeroOp 1).queue 0).unit ≠ 0 ∧
    isOk ((SQ 8 fillOp 4).workOn 8 fillOp none).1 = true ∧ isTranslation ((SQ 0 faultOp 1).workOn 0 faultOp none).1 = true ∧
    isData (((SQ 8 dataOp 4).setPoison (memKey 0 2 0x200) true).workOn 8 dataOp none).1 = true ∧
    isViolation ((SQ 8 violOp 4).workOn 8 violOp none).1 = true ∧
    then_ .tileOpComplete (SQ 0 zeroOp 1) (fun s => (s.queue 0).ops == [] && (s.queue 0).done == 1) = true ∧
    then_ .copyComplete (SQ 8 fillOp 4) (fun s => (s.queue 8).ops == [] && (s.queue 8).done == 1 && s.byte (memKey 0 2 0x100) == 64) = true ∧
    then_ .engineTranslationFault (SQ 0 faultOp 1) (fun s => (s.queue 0).mode == .halted && (s.queue 0).exlat) = true ∧
    then_ .engineDataError ((SQ 8 dataOp 4).setPoison (memKey 0 2 0x200) true) (fun s => (s.queue 8).mode == .halted && (s.queue 8).edata) = true ∧
    then_ .engineCapabilityViolation (SQ 8 violOp 4) (fun s => (s.queue 8).mode == .frozen && (s.queue 8).ecap) = true := by decide +kernel
theorem witness_EngineEnds_pause : isPause ((pauseS 1).workOn 0 rowsOp (some 128)).1 = true ∧
    128 ≤ (((pauseS 1).workOn 0 rowsOp (some 128)).2.queue 0).prog ∧ ((pauseS 1).queue 0).stopping = 1 ∧
    then_ .currentBlockEnd (pauseS 1) (fun s => (s.queue 0).unit == 0 && (s.queue 0).prog == 128) = true ∧
    then_ .currentBlockEnd (pauseS 2) (fun s => (s.queue 0).ops == []) = true := by decide +kernel
theorem witness_EngineFills : ((SQ 0 zeroOp 1).queue 0).prog = 0 ∧ ((SQ 0 zeroOp 1).queue 0).whole = false ∧ zeroOp.b.lo % 16 = 0 ∧ zeroOp.d.lo % 16 = 0 ∧
    capSpace zeroOp.d.bits ≤ 2 ∧ (∀ i, i < 64 → (SQ 0 zeroOp 1).formPhysical 0 0 1 (0x100 + i) = .key (memKey 0 2 0x100 + i)) ∧ zeroOp.b.lo = 64 ∧
    zeroOp.xop = 5 ∧ fillOp.xop = 3 ∧ fillOp.b.lo = 64 := by decide +kernel

/-! ### Graphs, handles and the lay-by (13, 16, 22, 23) -/

/-- A five-level page table of context 0: page 0 to grove memory, readable and writable; page 1 to grove memory, readable and
executable; page 2 to HBM, readable and writable. -/
def tableS : State :=
  let s := S.setCtx 0 { Ctx.house with regs := { CtxRegs.zero with tracks := 7, ptroot := 0x1000, nframe := 2, save := 0x8000 } }
  let down (s : State) (k : Nat) : State := s.writeNum (memKey 0 0 (k * 0x1000)) 8 (2 ^ 63 + 2 ^ 57 + (k + 1) * 0x1000)
  let leaf (s : State) (i e : Nat) : State := s.writeNum (memKey 0 0 (0x5000 + 8 * i)) 8 (2 ^ 63 + e)
  leaf (leaf (leaf (down (down (down (down s 1) 2) 3) 4) 0 (2 ^ 62 + 2 ^ 61 + 2 * 2 ^ 52 + 0x20000)) 1 (2 ^ 62 + 2 ^ 60 + 2 * 2 ^ 52 + 0x21000))
    2 (2 ^ 62 + 2 ^ 61 + 0x30000)
/-- A record of a filler graph with one tile task, `tzero`, at 0x100; the task at 0x140 and the status word at 0x180. -/
def graphRecord : Nat := 0x140 + 0x180 * 2 ^ 192 + 1 * 2 ^ 256 + 1 * 2 ^ 328 + 0xFF * 2 ^ 336
def taskRecord : Nat := 1 + 0x200 * 2 ^ 128 + 5 * 2 ^ 192
def SG : State := (tableS.writeNum (memKey 0 2 0x20100) 64 graphRecord).writeNum (memKey 0 2 0x20140) 64 taskRecord
theorem test_walk : SG.walk 0 0x123 = .leaf 0 (2 ^ 63 + 2 ^ 62 + 2 ^ 61 + 2 * 2 ^ 52 + 0x20000) (memKey 0 0 0x5000) ∧
    SG.walk 0 0x3000 = .absent ∧ (SG.landingKey 0 0x123 .load).1 = some (memKey 0 2 0x20123) := by decide +kernel
def isError (k : Nat) (x : Except Nat Graph) : Bool := match x with | .error j => j == k | .ok _ => false
def graphOk (x : Except Nat Graph) (p : Graph → Bool) : Bool := match x with | .ok g => p g | .error _ => false
/-- The graph of the thread, running, with one task that is placed; a second task, blocked, for a `tpost` before it. -/
def G0 : Graph := { Graph.none with tasks := [{ GTask.none with state := .placed }, { GTask.none with state := .blocked, preds := 1 }], edges := [(0, 1)], status := 0x180 }
def ST : State := { SG.setGraph 0 G0 with nextGraph := 1 }
def graphQ : QReg := ⟨mkCap 0 0 5 0 0 0 0, true, 27⟩
theorem witness_GraphInstructions : R.rx = [] ∧ R.pendErr = [] ∧ R.optB (ex 5 13 0 0 0 0 0 0) = some none ∧ (R.reg 13).isRecord = true ∧
    graphOk (SG.admission 0 0x100 (some graphRecord) 0 0) (fun g => g.tasks.length == 1 && g.filler && g.status == 0x180) = true ∧
    isError 2 (SG.admission 0 0x100 none 0 0) = true ∧ isError 3 (SG.admission 0 0x120 (some graphRecord) 0 0) = true ∧
    after (.gsub (ex 5 13 0 0 0 0 0 0)) SG (fun s t => s.graphs.length == 1 && (t.reg 5).cap && t.wait == .memory && (s.ctx 0).serial == 1) = true ∧
    SG.graphOf R.gtid = none ∧ after (.tpost (ex 5 13 0 0 1 0 0 0)) SG (fun _ t => t.reg 5 == dataInt (-2)) = true ∧
    ST.graphOf R.gtid = some 0 ∧
    after (.tpost (fld .extLit 0xFF 5 15 0 0 1 0 0 0 1)) ((world (R.setReg 15 (vc 0x140))).setGrove 0 (ST.grove 0) |> fun s => { ST with slots := s.slots })
      (fun s t => t.reg 5 == lanes64 2 0 4 && (s.graph 0).edges == [(0, 1), (2, 1)]) = true ∧
    after (.trig (ex 0 0 0 0 2 0 0 0)) S (fun _ t => t.trig) = true ∧ after (.vread (ex 5 0 0 0 3 0 0 0)) S (fun _ t => t.reg 5 == lanes64 0 0 8) = true ∧
    graphQ.cap = true ∧ capKind graphQ.bits = 5 ∧ graphQ.lo / 2 ^ 52 = R.ctx ∧
    after (.gstat (ex 5 15 0 0 4 0 0 0)) { ST with slots := (world (R.setReg 15 graphQ)).slots } (fun _ t => t.reg 5 == lanes64 1 0 0) = true ∧
    after (.gabort (ex 0 15 0 0 5 0 0 0)) { ST with slots := (world (R.setReg 15 graphQ)).slots } (fun s _ => (s.graph 0).state == .abandoning) = true ∧
    after (.nwait (ex 6 0 0 0 6 0 0 0)) (S.setCtx 0 { Ctx.house with notices := [⟨7, 8⟩] }) (fun s t => t.reg 6 == dat 0 7 && t.reg 7 == dat 0 8 &&
      (s.ctx 0).notices == []) = true ∧
    after (.nwaitTry (ex 6 0 0 2 6 0 1 0)) S (fun _ t => t.pred 3 == 0xFFFF) = true := by decide +kernel

/-- A pool of four pages from 0x100000; a chain of one page in entry 0, whose handle is in q15; a chain that shares its page. -/
def poolCtx (l : Store PoolPage) : Ctx := { Ctx.house with poolBase := 0x100000, poolCount := 4, pool := l }
def H0 : Nat := mkHandle 0 1 0 1
def RH : Thread := R.setReg 15 (dat 8 H0)
def SH (h : Handle) (n : Nat) : State := ((world RH).setCtx 0 (poolCtx [(16, ⟨n, false⟩)])).setHandle 0 h
def chain : Handle := { gen := 1, live := true, held := false, tenant := 0, blocks := [0] }
def hE (x n : Nat) : Fields := fld .extLit 0xFF 5 15 0 2 (BitVec.ofNat 10 x) 0 0 0 (BitVec.ofNat 64 n)
theorem witness_HandleInstructions : (SH chain 1).thread 0 = some RH ∧ RH.rx = [] ∧ ((SH chain 1).ctx RH.ctx).mode ≠ .none ∧
    sourceB RH (hE 0 3) 3 ∧ (RH.reg 15).isInt = true ∧ handleTenant H0 = 0 ∧ handleIndex H0 = 0 ∧ handleGen H0 = 1 ∧ handleBound H0 = 1 ∧
    ((SH chain 1).handle 0).live = true ∧ ((SH chain 1).handle 1).live = false ∧ (1 : Nat) < handleEntries ∧ (SH chain 1).poolFree 0 = [1, 2, 3] ∧
    chain.blocks.Nodup ∧ ((SH chain 2).poolPage 0 0).count = 2 ∧
    -- all that is free, and one more
    after (.hnew (hE 0 3)) (SH chain 1) (fun s t => t.reg 5 == data64 (mkHandle 0 1 1 3) 8 && (s.handle 1).blocks == [1, 2, 3] && s.poolFree 0 == []) = true ∧
    after (.hnew (hE 0 4)) (SH chain 1) (fun _ t => t.reg 5 == dataInt (-4) && t.pred 3 == 0xFFFF) = true ∧
    after (.hext (hE 1 1)) (SH chain 1) (fun s t => t.reg 5 == data64 (mkHandle 0 1 0 2) 8 && (s.handle 0).blocks == [0, 1]) = true ∧
    after (.hxl (hE 2 0)) (SH chain 1) (fun _ t => (t.reg 5).lo == 0x100000 && capPerms (t.reg 5).bits == 0x302) = true ∧
    after (.hxl (hE 2 0)) (SH chain 2) (fun _ t => capPerms (t.reg 5).bits == 0x202) = true ∧
    after (.hxl (hE 2 1)) (SH chain 1) (fun _ t => t.reg 5 == dataInt (-3)) = true ∧
    after (.hfork (hE 3 0)) (SH chain 1) (fun s t => t.reg 5 == data64 (mkHandle 0 1 1 1) 8 && (s.poolPage 0 0).count == 2) = true ∧
    after (.hrel (hE 4 0)) (SH chain 1) (fun s t => t.reg 5 == data64 1 4 && !(s.handle 0).live && (s.handle 0).gen == 2) = true ∧
    after (.hrel (hE 4 0)) (SH { chain with held := true } 1) (fun _ t => t.reg 5 == dataInt (-6)) = true ∧
    after (.hcow (hE 5 0)) (SH chain 2) (fun s t => (t.reg 5).lo == 0x110000 && (s.handle 0).blocks == [1] && (s.poolPage 0 0).count == 1) = true ∧
    after (.hrel (hE 4 0)) (SH { chain with gen := 2 } 1) (fun _ t => t.reg 5 == dataInt (-2)) = true ∧
    after (.hrel (hE 4 0)) (SH { chain with live := false } 1) (fun _ t => t.reg 5 == dataInt (-2)) = true ∧
    after (.hstat (ex 5 15 0 0 6 0 0 0)) (SH chain 1) (fun _ t => (t.reg 5).lo / 2 ^ 48 == 1 && (t.reg 5).hi / 2 ^ 40 % 256 == 1) = true := by
  unfold sourceB; decide +kernel
theorem witness_HandleInstructions_tenant : handleTenant (mkHandle 9 1 0 1) ≠ RH.ctx ∧
    after (.hxl (hE 2 0)) { SH chain 1 with slots := (world (R.setReg 15 (dat 8 (mkHandle 9 1 0 1)))).slots } (fun _ t => t.reg 5 == dataInt (-1)) = true := by
  decide +kernel

/-- A park block at 0x100 whose wake word stands at 0x2000, in HBM, armed on 5. -/
def parkRecord : Nat := 0x2000 * 2 ^ 64 + 5 * 2 ^ 128
def page2 : Translation := { ctx := 0, base := 0x2000, size := 4096, leaf := 2 ^ 63 + 2 ^ 62 + 2 ^ 61 + 0x30000 }
def SP (v : Nat) : State :=
  let s := (S.setCtx 0 { Ctx.house with regs := { CtxRegs.zero with tracks := 7, ptroot := 2 ^ 51, nframe := 2, save := 0x8000 } }).setGrove 0
    { Grove.empty with tlb := [page0, page2] }
  (s.writeNum (memKey 0 2 0x100) 64 parkRecord).writeNum (memKey 0 0 0x30000) 8 v
def wakeKey : Nat := memKey 0 0 0x30000
def parkE : Fields := ex 5 13 0 2 0 0 0xFF 0xFFFFFFFF
def cont0 : Continuation :=
  { word := wakeKey, ctx := 0, gtid := 9, frame := 0, handle := none, thbm := some 20000, tcxl := none, w := 0, curve := none, cost := 0, energy := 0
    state := .parked, armed := true, value := none, since := 0, dueHbm := none, dueCxl := none, tier := 0, up := [], down := [], downTgt := 4, pro := false
    turn := 0, die := 0, core := 0, lcore := 0, slot := 3, d := 5, pk := 2, stepped := false, key := 0, pc := 0, due := none }
def wakeR (s : State) : State := { s with slots := (world (R.setReg 15 (vc 0x2000))).slots }
theorem witness_LayByInstructions : (parkBlock parkRecord).ok = true ∧ (parkBlock parkRecord).wakeVa = 0x2000 ∧ R.cp = 0 ∧ R.tl = 0 ∧
    ((SP 5).leafOf R 0x2000 / 2 ^ 52 % 16 = 0) ∧ (SP 5).parkRefused 0 (parkBlock parkRecord) wakeKey = none ∧
    ({ SP 5 with conts := [cont0] } : State).parkRefused 0 (parkBlock parkRecord) wakeKey = some 2 ∧
    then_ (.park parkE) (SP 5) (fun s => (s.thread 0).isNone && s.conts.length == 1 && (s.contOf wakeKey).any (fun c => c.armed && c.state == .parking)) = true ∧
    then_ (.park parkE) (SP 4) (fun s => (s.contOf wakeKey).any (fun c => !c.armed && c.value == some 4)) = true ∧
    after (.park parkE) { SP 5 with conts := [cont0] } (fun _ t => t.reg 5 == dataInt (-2) && t.pred 3 == 0xFFFF) = true ∧
    after (.wake (ex 0 15 11 2 1 0 0 0)) (wakeR { SP 5 with conts := [cont0] }) (fun s t => s.readNum wakeKey 8 == 64 && t.pred 2 == 0xFFFF &&
      (s.contOf wakeKey).any (fun c => !c.armed && c.value == some 64)) = true ∧
    after (.lpro (fld .extLit 0xFF 0 15 0 2 2 0 0 0 0)) (wakeR { SP 5 with conts := [cont0] }) (fun _ t => t.pred 2 == 0xFFFF) = true ∧
    after (.lpro (fld .extLit 0xFF 0 15 0 2 2 0 0 0 0)) (wakeR (SP 5)) (fun _ t => t.pred 3 == 0xFFFF) = true ∧
    after (.lstat (ex 5 15 0 0 3 0 0 0)) (wakeR { SP 5 with conts := [cont0], now := 9000 }) (fun _ t => (t.reg 5).lo / 2 ^ 60 == 2 &&
      (t.reg 5).lo % 2 ^ 32 == 9) = true := by decide +kernel

/-! ### Events of threads and contexts (08, 17) -/

def at_ (s : State) (a : Arg) : State := { s with arg := a }
def ix (n : Nat) : Arg := { Arg.none with index := n }
/-- A load and a store of the scratch, and a load of host memory. -/
def loadA : Access := mkAccess R .load (sk 16) 16 16 (2 ^ 32 - 1) QReg.zero (some 5) 0
def storeA : Access := mkAccess R .store (sk 16) 16 16 (2 ^ 32 - 1) (dat 0 7) none 0
def hostA : Access := mkAccess R .load (memKey 0 6 0) 0 8 0xFFFF QReg.zero (some 5) 4
def rxOf (a : Access) : Relaxed := ⟨a, false, false, 0, 0, none⟩
def T (t : Thread) : State := at_ (world t) (ix 0)
theorem witness_ThreadEvents :
    then_ .accessPerformed (T { R with wait := .memory }) (fun s => (s.thread 0).any (fun t => t.wait == .none)) = true ∧
    then_ .accessPerformed (T { R with wait := .upperHalf loadA (ow 5 10 0) 9 }) (fun s => (s.thread 0).any (fun t => t.reg 5 == dat 0 9)) = true ∧
    keyTgt hostA.key = 6 ∧
    then_ .accessPerformed (at_ (world { R with wait := .remote hostA (ow 5 10 0) }) { ix 0 with ok := true, data := [1, 2, 0, 0, 0, 0, 0, 0] })
      (fun s => (s.thread 0).any (fun t => t.reg 5 == dat 4 0x201)) = true ∧
    then_ .hostCompletionTimeout (T { R with wait := .remote hostA (ow 5 10 0) }) (fun s =>
      (s.thread 0).any (fun t => t.stopped == some ⟨4, 4, 0, 0⟩)) = true ∧
    then_ .relaxedAccessDone (at_ ((world { R with rx := [rxOf loadA] }).writeNum (sk 16) 16 3) (ix 0)) (fun s =>
      (s.thread 0).any (fun t => t.reg 5 == dat 0 3 && t.rx == [])) = true ∧
    then_ .relaxedAccessDone (T { R with rx := [rxOf storeA] }) (fun s => s.readNum (sk 16) 16 == 7) = true ∧
    then_ .relaxedAccessDone (at_ ((world { R with rx := [rxOf loadA] }).setPoison (sk 24) true) (ix 0)) (fun s =>
      (s.thread 0).any (fun t => t.pendErr.any (fun p => p.key == sk 24) && t.rx == [])) = true ∧
    then_ .threadDrainEnd (T { R with halted := true }) (fun s => (s.thread 0).isNone) = true ∧
    then_ .fetchBlockReturn (at_ S (ix 0)) (fun s => (s.thread 0).any (fun t => (findBlock t.fbuf 0).isSome)) = true := by decide +kernel
/-- A relaxed load whose lower half alone is performed, and then the rest of it; an error behind another one; a block from a copy. -/
theorem witness_ThreadEvents_halves : loadA.halves = true ∧ loadA.key % 16 = 0 ∧
    then_ .relaxedAccessDone (at_ ((world { R with rx := [rxOf loadA] }).writeNum (sk 16) 16 (3 + 4 * 2 ^ 64)) { ix 0 with value := 1 }) (fun s =>
      (s.thread 0).any (fun t => t.rx == [{ rxOf loadA with low := some 3 }] && t.reg 5 == R.reg 5)) = true ∧
    then_ .relaxedAccessDone (at_ ((world { R with rx := [{ rxOf loadA with low := some 9 }] }).writeNum (sk 16) 16 (3 + 4 * 2 ^ 64)) (ix 0)) (fun s =>
      (s.thread 0).any (fun t => t.reg 5 == dat 0 (9 + 4 * 2 ^ 64) && t.rx == [])) = true ∧
    (let p : PendingError := ⟨true, 0, 8, 8, 0⟩
     then_ .relaxedAccessDone (at_ ((world { R with pendErr := [p], rx := [rxOf loadA] }).setPoison (sk 24) true) (ix 0)) (fun s =>
       (s.thread 0).any (fun t => t.pendErr == [p, ⟨false, 0, sk 24, 24, 0⟩])) = true) := by decide +kernel
/-- Slot 0 sends to slot 1 of its core, whose channel holds seven entries. -/
def sendS (n : Nat) : State := at_ { (world { R with wait := .send (dat 3 9) none 1 (ow 0 5 0) }).setSlot 1
    { Slot.empty with quota := 1, thread := some { R with gtid := 64 }, chan := List.replicate n QReg.zero } with sendWait := [0] } (ix 0)
theorem witness_ThreadEvents_send : (sendS 7).sendWait.find? (fun x => (sendS 7).sendTarget x == some 1) = some 0 ∧
    ((sendS 7).slot 1).chan.length < 8 ∧ (sendS 7).hasSpill 0 0 64 = false ∧
    then_ .sendAccept (sendS 7) (fun s => (s.slot 1).chan.length == 8 && (s.thread 0).any (fun t => t.wait == .none && t.pc == 4)) = true ∧
    then_ .sendAccept (sendS 8) (fun s => (s.slot 1).chan.length == 8 && (s.thread 0).any (fun t => t.pc == 0)) = true := by decide +kernel

/-- Context 0 with a handler in slot 1 of its logical core 0, two frames and an empty page table. -/
def houseX : Ctx := { Ctx.house with remap := [(0, some 0)], regs := { CtxRegs.zero with tracks := 7, ptroot := 2 ^ 51, nframe := 2, save := 0x8000, handler := 0x80001000 } }
def W (t : Thread) (c : Ctx) (a : Arg) : State := at_ ((world t).setCtx 0 c) a
def handlerS : State := (W R { houseX with messages := [⟨1, 2⟩] } (ix 0)).setSlot 1
  { Slot.empty with quota := 1, thread := some { R with gtid := 64 }, chan := List.replicate 6 QReg.zero }
def savedV : Saved := { gtid := 64, frame := 1, lcore := 0, slot := 3, die := 0, grove := 0, core := 0, cp := 0, tl := 0, stepping := 0, frozen := false
                        stopped := none, pendErr := [], crewWait := none, due := none, skipBp := false, pc := 0 }
theorem witness_PreemptEvents : handlerS.handlerSlot 0 = some 1 ∧
    then_ .handlerMessageDeliver handlerS (fun s => (s.ctx 0).messages == [] && (s.slot 1).chan.drop 6 == [⟨1, false, 0⟩, ⟨2, false, 0⟩]) = true ∧
    then_ .hardPreemption (W { R with request := some .suspend, dist := 2049 } houseX (ix 0)) (fun s => (s.thread 0).isNone &&
      (s.ctx 0).saved.length == 1 && (s.ctx 0).frames == [0]) = true ∧
    then_ .saveFrameFree (W { R with request := some .suspend } { houseX with noFrame := [0], frames := [0] } (ix 0)) (fun s => (s.thread 0).isNone &&
      (s.ctx 0).frames == [0, 1]) = true ∧
    then_ .teardownEnd (at_ (State.reset.setCtx 0 { Ctx.house with mode := .tornDown }) (ix 0)) (fun s => (s.ctx 0).mode == .none) = true ∧
    then_ .coreOverheat (W R houseX { ix 0 with value := 95 }) (fun s => (s.core 0).temp == 95) = true ∧
    then_ .shareWrite (W R houseX { ix 0 with writer := .thread 0, value := 0x0503 }) (fun s => (s.ctx 0).regs.weight == 5 && (s.ctx 0).regs.tracks == 3) = true ∧
    then_ .slotReassign (W R houseX (ix 0)) (fun _ => true) = true := by decide +kernel
def pageX : Translation := { ctx := 0, base := 0, size := 2 ^ 21, leaf := 2 ^ 63 + 2 ^ 62 + 2 ^ 61 }
def resumeS : State := (W R { houseX with saved := [savedV], frames := [1] } (ix 0)).setGrove 0 { Grove.empty with tlb := [pageX] }
theorem witness_PreemptEvents_resume : (resumeS.resumeUnits 0).findSome? (resumeS.unitCores []) = some [(⟨0, 0, [savedV]⟩, 0)] ∧
    then_ .threadResume resumeS (fun s => (s.thread 3).any (fun t => t.gtid == 64) && (s.ctx 0).saved == []) = true := by decide +kernel
/-- A migration of logical core 0 to core 1 that all its threads have met, and one whose slots are taken. -/
def moveM : Migration := { ctx := 0, lcore := 0, core := 0, goal := .core 1, dest := none, slots := [], left := [], skidder := 0 }
def moveS (m : Migration) : State := { W { R with migrating := true } houseX (ix 0) with migrations := [m] }
theorem witness_PreemptEvents_migrate : (moveS moveM).migrationOf 0 0 = some moveM ∧ (moveS moveM).copiesBlock moveM = false ∧
    (moveS moveM).lcoreSlots 0 0 0 = [0] ∧ (((moveS moveM).goalCores 0 (.core 1) ++ (moveS moveM).goalCores 0 .cooler).find?
      (({ moveS moveM with migrations := [] } : State).coreHolds 0 [0] 0)) = some 1 ∧
    then_ .migrationTransfer (moveS moveM) (fun s => (s.migrationOf 0 0).any (fun m => m.dest == some 1 && m.slots == [0])) = true ∧
    then_ .migrationRemap (moveS { moveM with dest := some 1, slots := [0] }) (fun s => (s.thread 16).any (fun t => !t.migrating) && (s.thread 0).isNone &&
      Store.get none (s.ctx 0).remap 0 == some 1) = true := by decide +kernel

/-! ### Events of the Landings, the lay-by and queue pairs (13, 16, 17, 22, 23, 25) -/

/-- An image at 0x1000: one entry, no safe points, four bytes of code at 0x1080; the machine at stage 5. -/
def imageHead : Nat := 0x314B4C49 + 1 * 2 ^ 32 + 1 * 2 ^ 48 + 4 * 2 ^ 96
def stage5 (s : State) : State := { s with boot := { s.boot with stage := 5 } }
def SK : State := at_ (tableS.writeNum (memKey 0 2 0x21000) 64 imageHead) { Arg.none with writer := .thread 0, addr := 0x1000 }
def kernel0 : Kernel := { image := 0x1000, code := 0x1080, size := 4, entries := [0], evicted := false, evictedAt := 0 }
def withKernel (s : State) (k : Kernel) : State := s.setCtx 0 { s.ctx 0 with kernels := [(0x1000, some k)] }
theorem witness_LandingEvents : SK.userOf SK.arg.writer = some { priv := true, ctx := 0, sel := 0, slot := some 0 } ∧
    SK.registration 0 0x1000 = (0, some kernel0) ∧ (SK.registration 0 0x2000).1 = 2 ∧ SK.kernelOf 0 0x1000 = none ∧
    then_ .kernelRegister SK (fun s => (s.ctx 0).kresult == 0 && s.kernelOf 0 0x1000 == some kernel0) = true ∧
    then_ .kernelEvict (withKernel SK kernel0) (fun s => s.kernelOf 0 0x1000 == some { kernel0 with evicted := true }) = true ∧
    then_ .kernelEvict SK (fun s => (s.ctx 0).kresult == 7) = true ∧
    then_ .kernelUnregister (at_ (withKernel SK { kernel0 with evicted := true, evictedAt := 1 }) { ix 0 with addr := 0x1000 }) (fun s => s.kernelOf 0 0x1000 == none) = true ∧
    then_ .landingTick (at_ { S with deadLandings := [3] } (ix 3)) (fun s => s.eff 0 3 == S.eff 0 3) = true ∧
    then_ .graphSubmit (at_ SG { Arg.none with writer := .thread 0, value := 0x100 }) (fun s => s.graphs.length == 1 && (s.ctx 0).gresult == 0) = true ∧
    then_ .graphSubmit (at_ SG { Arg.none with writer := .thread 0, value := 0x4000 }) (fun s => s.graphs.length == 0 && (s.ctx 0).gresult == 2) = true ∧
    then_ .landingTick (at_ { S.setCtx 0 { Ctx.house with regs := { CtxRegs.zero with weight := 5 } } with now := 10000 } (ix 3)) (fun s => Store.get 0 s.ticked 3 == 1 && s.eff 0 3 == { EffRegs.zero with weight := 5 }) = true ∧
    then_ .graphAbandoned (at_ (State.reset.setGraph 0 { G0 with state := .abandoning }) (ix 0)) (fun s => s.graph 0 == Graph.none) = true := by
  decide +kernel
def tileG : Graph := { Graph.none with tasks := [{ GTask.none with state := .ready, tile := true }], filler := true, status := 0x180 }
def SPl : State := at_ (stage5 (State.reset.setGraph 0 tileG)) (ix 0)
def contS : State := at_ (stage5 (((W R houseX Arg.none).setGrove 0 { Grove.empty with tlb := [pageX] }).setGraph 0 G0))
  (ix 0) |> fun s => { s with conts := [{ cont0 with state := .ready, gtid := 0, value := some 7 }] }
theorem witness_LandingEvents_place : (SPl.nextPlacement 0 0).map (·.1) = some (.task 0 0) ∧
    (contS.nextPlacement 0 0).map (·.1) = some (.cont 0 0) ∧
    then_ .continuationPlacement contS (fun s => (s.thread 3).any (fun t => t.gtid == 0)) = true ∧
    (let k : Resident := { ctx := 0, kernel := 0x1000, size := 64, code := [], whole := false, skidder := 4, used := 0 }
     let s := at_ ((withKernel (world { R with pc := 0x1080, wait := .kernel }) kernel0).setGrove 0 { Grove.empty with kernels := [k] })
       { ix 0 with addr := 0x1000 }
     (s.grove 0).resident 0 0x1000 = some k ∧ then_ .kernelCopyComplete s (fun s => (s.thread 0).any (fun t => t.wait == .none)) = true) := by
  decide +kernel
/-- A task of two threads, neither of which has been placed; its launch block stands at 0x200. -/
def waveG : Graph := { Graph.none with
  tasks := [{ GTask.none with state := .placed, launch := 0x200, width := 2, crew := some 0 }], filler := true, status := 0x180 }
def waveS : State := at_ (stage5 ((((withKernel tableS kernel0).setGraph 0 waveG).writeNum (memKey 0 2 0x20200) 32
    (rootM + 0x1080 * 2 ^ 128 + 2 * 2 ^ 192)).setTag (memKey 0 2 0x20200) true)) Arg.none
def isLaunch (l : Launch) (x : Except Nat Launch) : Bool := match x with | .ok y => l == y | .error _ => false
def launchOf (s : State) : Launch := match s.launchAt 0 0x200 true with | .ok l => l | .error _ => ⟨0, 0, 0, 0, false⟩
def startS : State := waveS.setGraph 0 { waveG with tasks := [{ GTask.none with state := .ready, launch := 0x200 }] }
theorem witness_LandingEvents_wave : waveS.mayPlace 0 0 = true ∧ isLaunch (launchOf waveS) (waveS.launchAt 0 0x200 true) = true ∧
    waveS.kernelAt 0 (launchOf waveS).entry = some kernel0 ∧ (waveS.trackSlots 0 0 1 (launchOf waveS).pair kernel0 2 2 0).isSome = true ∧
    then_ .wavePlacement waveS (fun s => ((s.graph 0).task 0).next == 2 &&
      s.slots.any fun (e : Nat × Slot) => e.2.thread.any fun t => t.pc == 0x1080 && t.reg 2 == dat 4 1) = true ∧
    -- a ready task of two threads, on the slowest track, which a filler graph tries first
    startS.candidates 0 = [((0, 0, 1), .task 0 0)] ∧ startS.taskTracks 0 0 = [2, 1, 0] ∧ isLaunch (launchOf waveS) (startS.launchAt 0 0x200 true) = true ∧
    startS.entryKernel 0 (launchOf waveS).entry = some kernel0 ∧ (startS.trackSlots 0 0 2 (launchOf waveS).pair kernel0 2 2 0).isSome = true ∧
    (startS.takeCrew (implicitCrew 0 0 0 0 2)).isSome = true ∧
    then_ .taskPlacement startS (fun s => ((s.graph 0).task 0).state == .placed && ((s.graph 0).task 0).track == 2 && ((s.graph 0).task 0).next == 2) = true := by
  decide +kernel
/-- A tile task, `tzero` with FB 64 and a control register of zeros; a graph that a tick recomputes: one ready task of a milestone. -/
def zeroTask : TileFields := { TileFields.none with ops := 0x200, xop := 5, fb := 64 }
def SPt : State := (at_ (stage5 (((tableS.setGraph 0 { tileG with tasks := [{ GTask.none with state := .ready, tile := true, fields := zeroTask }] }).writeNum
  (memKey 0 2 0x20200) 16 (gm 0x100).bits.toNat).setTag (memKey 0 2 0x20200) true)) (ix 0))
def tickG : Graph := { Graph.none with tasks := [{ GTask.none with state := .ready, mstone := 1, cost := 10, energy := 1000 }], curves := [⟨100, 50, 80, 200, 300⟩] }
def tickS : State := at_ { (stage5 S).setGraph 0 tickG with now := 10000 } (ix 0)
theorem witness_LandingEvents_tick : (let h := 0 + 2 * 16
     SPt.candidates 0 = [((0, 0, 1), .task 0 0)] ∧ (SPt.taskTracks 0 0).head? = some 2 ∧
     (choose ((trackGroves 0 2).filter fun h => decide ((SPt.queue (queueKey 0 h 4)).ops.length < queueDepth 4)) 0).isSome = true ∧
     (tileInstrOf zeroTask).wf = true ∧ (SPt.taskOp 0 0 h).tileCheck = none ∧ (SPt.taskOp 0 0 h).w = none ∧ (SPt.taskOp 0 0 h).b.isInt = true) ∧
    then_ .taskPlacement SPt (fun s => ((s.graph 0).task 0).state == .placed && s.queues.length == 1) = true ∧
    tickG.time 10000 = 10 ∧ (tickG.withDead 10 == tickG) = true ∧ tickG.complete = false ∧ (∀ t ∈ tickG.tasks, t.failed = false) ∧
    ({ tickG with rval := tickG.remaining 10, jrem := tickG.remainingEnergy } : Graph).abandonReason (S.ctx 0).regs.kappa 10 = 0 ∧
    then_ .landingTick tickS (fun s => (s.graph 0).rval == tickG.remaining 10 && ((s.graph 0).task 0).key == keyOf (tickG.delayLoss 10 0) 1000 &&
      (s.graph 0).state == .running) = true := by decide +kernel

/-- A parked continuation with a chain of one page, whose block at 0x100000 lies at a level. -/
def layS (tgt : Nat) (c : Continuation) : State :=
  let e := 2 ^ 63 + 2 ^ 62 + 2 ^ 61 + 2 ^ 59 + 2 ^ 58 + tgt * 2 ^ 52 + 0x40000
  let s := tableS.writeNum (memKey 0 0 0x5800) 128 ((List.range 16).foldl (fun n i => n + (e + i * 4096) * 2 ^ (64 * i)) 0)
  at_ { (s.setCtx 0 { s.ctx 0 with poolBase := 0x100000, poolCount := 4, pool := [(16, ⟨1, false⟩)] }).setHandle 0 { chain with held := true } with
    conts := [c], tagBase := 2 ^ 30, cxlDram := 2 ^ 30, cxlFlash := 2 ^ 30, dramFree := [0], flashFree := [0], hbmFree := [0], now := 30000000 }
    { Arg.none with addr := wakeKey }
def held0 : Continuation := { cont0 with handle := some 0, gtid := 2 ^ 32 }
theorem witness_LayByEvents : (layS 0 held0).contOf wakeKey = some held0 ∧
    then_ .parkSaveWritten (layS 0 { held0 with state := .parking }) (fun s => s.contOf wakeKey == some held0) = true ∧
    (layS 4 held0).toPromote held0 ((layS 4 held0).stage1Count held0) = [0] ∧
    then_ .parkSaveWritten (layS 4 { held0 with state := .parking, value := some 3, armed := false })
      (fun s => (s.contOf wakeKey).any fun c => c.state == .stage1 && c.up == [0]) = true ∧
    (layS 0 held0).toDemote held0 0 = [0] ∧
    then_ .thbmExpiry (layS 0 { held0 with dueHbm := some 20000000 }) (fun s => (s.contOf wakeKey).any fun c => c.down == [0] && c.downTgt == 4) = true ∧
    (layS 4 held0).toDemote held0 4 = [0] ∧
    then_ .tcxlExpiry (layS 4 { held0 with dueCxl := some 30000000 }) (fun s => (s.contOf wakeKey).any fun c => c.down == [0] && c.downTgt == 5) = true ∧
    (layS 4 held0).blockKey 0 0 = some (memKey 0 4 0x40000) ∧ (layS 4 held0).blockMoving held0 0 = false ∧ (layS 4 held0).contArg = some held0 ∧
    (layS 4 held0).graphOf held0.gtid = none ∧ (layS 4 held0).promotionPage 0 0 = some 0 ∧
    then_ .pageMoveStart (layS 4 { held0 with up := [0], state := .stage1 }) (fun s => s.moves.length == 1 && s.hbmFree == [] &&
      (s.contOf wakeKey).any fun c => c.up == [] && c.turn == 1) = true ∧
    -- a pool of no pages while no handle is live; a pool while one is; a page that does not serve
    then_ .kvpoolWrite (at_ S { Arg.none with writer := .thread 0, value := 0x100000 }) (fun s => (s.ctx 0).poolBase == 0x100000) = true ∧
    then_ .kvpoolWrite (at_ (layS 0 held0) { Arg.none with writer := .thread 0, value := 0x200000 }) (fun s => (s.ctx 0).poolBase == 0x100000) = true ∧
    S.poolPageOk 0 0x100000 = false ∧
    then_ .kvpoolWrite (at_ S { Arg.none with writer := .thread 0, value := 0x100001 }) (fun s => (s.ctx 0).poolBase == 0) = true := by decide +kernel
/-- A wake before the save with nothing to promote; a timer with no page free; a demotion that starts. -/
theorem witness_LayByEvents_edges : (layS 0 held0).toPromote held0 ((layS 0 held0).stage1Count held0) = [] ∧ (layS 0 held0).moves = [] ∧
    then_ .parkSaveWritten (layS 0 { held0 with state := .parking, value := some 3, armed := false })
      (fun s => (s.contOf wakeKey).any fun c => c.state == .ready) = true ∧
    then_ .thbmExpiry { layS 0 { held0 with dueHbm := some 20000000, tcxl := some 10 } with dramFree := [] } (fun s => (s.contOf wakeKey).any fun c =>
      c.down == [] && c.dueHbm == none && c.dueCxl == some 30010000) = true ∧
    ((layS 0 held0).poolPage 0 0).shared = false ∧ (layS 0 held0).blockMoving held0 0 = false ∧
    then_ .pageMoveStart (layS 0 { held0 with down := [0] }) (fun s => s.moves.length == 1 && s.dramFree == [] &&
      (s.contOf wakeKey).any fun c => c.down == [] && c.tier == 1) = true := by decide +kernel
/-- A move of the page whose continuation has gone. -/
def moveP : PageMove := ⟨0, 0x100000, memKey 0 4 0x40000, memKey 0 0 0x50000, wakeKey, 0, 2 ^ 32, 0, memKey 0 0 0x5800, 2 ^ 63 + 2 ^ 62 + 4 * 2 ^ 52 + 0x40000, false⟩
/-- A page group of 16 entries that maps the page of a move. -/
def moveT : State :=
  let s := loopUp 16 (fun i s => s.writeNum (moveP.leaf + 8 * i) 8 (moveP.entry + 4096 * i)) { layS 4 held0 with conts := [], moves := [moveP] }
  at_ s { Arg.none with addr := wakeKey }
theorem moveT_tags : moveT.tagsClear moveP.dst 65536 moveP.leaf 128 ∧ moveT.tagsClear moveP.dst 65536 moveP.src 65536 ∧
    moveT.tagsClear moveP.dst 65536 moveP.dst 65536 ∧ moveT.tagsClear moveP.src 65536 moveP.dst 65536 := by
  have hd : ∀ i, i < 65536 → ¬ 3 < keyTgt (moveP.dst + i) := fun i h => by simp only [moveP, memKey, keyTgt]; omega
  refine ⟨fun i j hi _ h => hd i hi h.1, fun i j hi _ h => hd i hi h.1, fun i j hi _ h => hd i hi h.1, fun i j hi hj h => ?_⟩
  obtain ⟨-, g, hg, he⟩ := h
  have hp : moveT.pkg = 0 ∧ moveT.tagBase = 2 ^ 30 ∧ moveT.cxlDram = 2 ^ 30 ∧ moveT.cxlFlash = 2 ^ 30 := by decide +kernel
  simp only [State.tagByte, State.cxlGranule, hp, moveP, memKey, keyPa] at hg he
  split at hg
  · injection hg; omega
  · split at hg
    · injection hg; omega
    · exact absurd hg (by simp)
theorem witness_LayByEvents_move :
    (moveT.moves.filter fun m => m.word == moveT.arg.addr)[moveT.arg.index]? = some moveP ∧ moveT.staleLeft 2 moveP.ctx moveP.va 65536 = false ∧
      moveP.src % 65536 = 0 ∧ moveP.dst % 65536 = 0 ∧ moveP.src ≠ moveP.dst ∧ keyTgt moveP.src ≤ 5 ∧ keyTgt moveP.dst ≤ 5 ∧
      moveT.contAt moveP.ctx moveP.frame = none ∧ moveT.leafKept moveP = true ∧ moveP.leaf + 128 ≤ moveP.dst ∧ moveT.cxlDram % 16 = 0 ∧
      moveP.entry < 2 ^ 64 ∧ keyPa moveP.dst + 65536 ≤ 2 ^ 52 ∧ moveP.leaf % 128 = 0 ∧ keyTgt moveP.leaf = 0 := by decide +kernel

/-! ### Queue pairs (25 R403) -/

/-- A record of a command for a pair of port 1, at 0x40, by the thread in slot 0; its rings of 16 entries lie in the page at 0x2000. -/
def qpRec (qpn port dst : Nat) : Nat :=
  qpn + port * 2 ^ 32 + dst * 2 ^ 40 + 7 * 2 ^ 48 + 0x2000 * 2 ^ 256 + 0x2400 * 2 ^ 320 + 0x2800 * 2 ^ 384 + 0x444 * 2 ^ 448
def pair1 (st : Nat) : QueuePair := { (QueuePair.new 0 1).take (qpRec 0 1 0) with state := st, rkey := 9 }
def QS (v : Nat) (l : Store (Option QueuePair)) : State :=
  at_ { tableS.writeNum (memKey 0 2 0x20040) 64 v with qps := l } { Arg.none with writer := .thread 0, addr := 0x40, index := 4096 }
def qpIs (s : State) (k : Nat) (f : QueuePair → Bool) : Bool := (s.qp k).any f
theorem witness_QueuePairEvents_record : (QS (qpRec 0x1000 1 1) []).qpRecord 0 (qpRec 0x1000 1 1) := by
  unfold State.qpRecord; decide +kernel
theorem witness_QueuePairEvents : let one (st : Nat) : Store (Option QueuePair) := [(4096, some (pair1 st))]
    (QS (qpRec 0x1000 1 1) []).freeQp 1 = some 4096 ∧
    then_ .qpCreate (QS (qpRec 0x1000 1 1) []) (fun s => s.qpres == 0x1000 * 2 ^ 40 && qpIs s 4096 fun q => q.state == 1 && q.owner == 0) = true ∧
    then_ .qpCreate (QS (qpRec 0x1000 1 3) []) (fun s => s.qpres == 3) = true ∧
    then_ .qpCreate (QS (qpRec 0x1000 4 1) []) (fun s => s.qpres == 2) = true ∧
    (QS (qpRec 0x1FFF 1 1) (one 0)).ownedQp 0 (qpRec 0x1FFF 1 1) = none ∧
    then_ .qpModify (QS (qpRec 0x1FFF 1 1) (one 0)) (fun s => s.qpres == 0x1FFF * 2 ^ 40 + 4) = true ∧
    (QS (qpRec 0x1000 1 2) (one 1)).ownedQp 0 (qpRec 0x1000 1 2) = some (4096, pair1 1) ∧ qpFieldsOk (qpRec 0x1000 1 2) = true ∧
    then_ .qpModify (QS (qpRec 0x1000 1 2) (one 1)) (fun s => s.qpres == 0x1000 * 2 ^ 40 && qpIs s 4096 fun q => q.state == 2 && q.cq == 0x2800) = true ∧
    qpFieldsOk (qpRec 0x1000 1 2 + 2 ^ 256) = false ∧
    then_ .qpModify (QS (qpRec 0x1000 1 2 + 2 ^ 256) (one 1)) (fun s => s.qpres == 0x1000 * 2 ^ 40 + 2) = true ∧
    then_ .qpModify (QS (qpRec 0x1000 1 3) (one 1)) (fun s => s.qpres == 0x1000 * 2 ^ 40 + 3) = true ∧
    then_ .qpModify (QS (qpRec 0x1000 1 4) (one 3)) (fun s => s.qpres == 0x1000 * 2 ^ 40 && qpIs s 4096 fun q => q.state == 4) = true ∧
    then_ .qpDestroy (QS (qpRec 0x1000 1 0) (one 3)) (fun s => s.qpres == 0x1000 * 2 ^ 40 && s.qps == []) = true := by decide +kernel
/-- A port all of whose pairs are taken. -/
def fullQps : Store (Option QueuePair) := (List.range 4096).map fun i => (4096 + i, some (pair1 0))
theorem get_map_mem (l : List Nat) (i : Nat) (h : i ∈ l) :
    Store.get none (l.map fun i => (4096 + i, some (pair1 0))) (4096 + i) = some (pair1 0) := by
  induction l with
  | nil => cases h
  | cons a r ih =>
    rw [List.map_cons, Store.get]
    split
    · rfl
    · exact ih ((List.mem_cons.mp h).resolve_left fun e => by omega)
theorem qs_pair (v : Nat) (l : Store (Option QueuePair)) (k : Nat) : (QS v l).qp k = Store.get none l k := rfl
theorem witness_QueuePairEvents_full (v : Nat) : (QS v fullQps).freeQp 1 = none := by
  simp only [State.freeQp, qs_pair, Option.map_eq_none_iff, List.find?_eq_none]
  intro i hi
  rw [Nat.mul_one, fullQps, get_map_mem _ i hi]
  exact Bool.false_ne_true
/-- A write of 8 bytes at 0x2C00, signalled, and the doorbells. -/
def workReq (op : Nat) : Nat := op + 1 * 2 ^ 8 + 8 * 2 ^ 32 + 0x2C00 * 2 ^ 64
def busyQ (op : Nat) : QueuePair := { pair1 3 with sendProd := 1, busy := true, wr := workReq op }
def busyS (op fail : Nat) (ok : Bool) : State := let s := QS 0 [(4096, some { busyQ op with fail })]; at_ s { s.arg with ok, data := [1, 2, 3, 4, 5, 6, 7, 8] }
def ring (w : Nat) : Arg := { Arg.none with writer := .thread 0, value := 0x1000 * 2 ^ 40 + 2 ^ 36 + w }
theorem witness_QueuePairEvents_work :
    then_ .qpDoorbellSend (at_ (QS 0 [(4096, some (pair1 3))]) (ring 1)) (fun s => qpIs s 4096 fun q => q.sendProd == 1) = true ∧
    then_ .qpDoorbellRecv (at_ (QS 0 [(4096, some (pair1 2))]) (ring (2 ^ 16 + 65535))) (fun s => qpIs s 4096 fun q => q.recvProd == 65535) = true ∧
    then_ .qpDoorbellSend (at_ (QS 0 [(4096, some { pair1 3 with owner := 1 })]) (ring 1)) (fun s => qpIs s 4096 fun q => q.sendProd == 0) = true ∧
    (let s := (QS 0 [(4096, some { pair1 3 with sendProd := 1 })]).writeNum (memKey 0 0 0x30000) 64 (workReq 0)
     (s.workAt 4096 { pair1 3 with sendProd := 1 } 0).1 = .done (workReq 0) ∧ s.portWaits 0 0x2C00 8 = false ∧
     then_ .workRequest s (fun s => qpIs s 4096 fun q => q == busyQ 0) = true) ∧
    (busyQ 0).wr / 2 ^ 8 % 2 = 1 ∧
    then_ .workRequestComplete (busyS 0 0 true) (fun s => s.readNum (memKey 0 0 0x30800) 17 == 8 * 2 ^ 32 + 2 ^ 128 &&
      qpIs s 4096 fun q => q.completions == 1 && !q.busy && q.sendCons == 1) = true ∧
    then_ .workRequestComplete (busyS 1 0 true) (fun s => s.readNum (memKey 0 0 0x30C00) 8 == 0x0807060504030201) = true ∧
    then_ .workRequestComplete (busyS 0 1 true) (fun s => s.readNum (memKey 0 0 0x30800) 4 == 2 ^ 24) = true ∧
    then_ .workRequestComplete (busyS 0 0 false) (fun s => qpIs s 4096 fun q => q.state == 4 && q.completions == 1) = true ∧
    then_ .qpRetryTimeout (busyS 0 0 false) (fun s => s.readNum (memKey 0 0 0x30800) 4 == 3 * 2 ^ 24) = true ∧
    then_ .qpRetryTimeout (busyS 0 0 true) (fun s => qpIs s 4096 fun q => q.retries == 1) = true := by decide +kernel
/-- A request of a peer of the pair for 8 bytes at 0x2C00. -/
def peerQ (st : Nat) (key addr v : Nat) : State :=
  at_ ((QS 0 [(4096, some { pair1 st with recvProd := 1 })]).writeNum (memKey 0 0 0x30400) 16 (0x2C00 + 8 * 2 ^ 64))
    { Arg.none with index := 4096, index2 := key, addr, value := v, data := [1, 0, 0, 0, 0, 0, 0, 0, 5, 0, 0, 0, 0, 0, 0, 0] }
def short (s : State) : State := at_ s { s.arg with data := s.arg.data.take 8 }
def answered (ok : Bool) (v : Nat) (s : State) : Bool := s.hostOut == [{ requester := 2 ^ 16 + 4096, ok, value := v }]
theorem witness_QueuePairEvents_in :
    then_ .rdmaWriteIn (peerQ 2 8 0x2C00 0) (answered false 1) = true ∧
    (peerQ 2 9 0x2C00 0).portWaits 0 0x2C00 16 = false ∧ ((peerQ 2 9 0x2C00 0).portWrite 0 4096 0x2C00 16 (1 + 5 * 2 ^ 64)).1 = .done 0 ∧
    then_ .rdmaWriteIn (peerQ 2 9 0x2C00 0) (fun s => answered true 0 s && s.readNum (memKey 0 0 0x30C00) 16 == 1 + 5 * 2 ^ 64) = true ∧
    ((peerQ 3 9 0x2400 8).portRead 0 4096 0x2400 8).1 = .done 0x2C00 ∧ then_ .rdmaReadIn (peerQ 3 9 0x2400 8) (answered true 0x2C00) = true ∧
    then_ .rdmaAtomicIn (peerQ 3 9 0x2400 1) (fun s => answered true 0x2C00 s && s.readNum (memKey 0 0 0x30400) 8 == 0x2C01) = true ∧
    then_ .rdmaAtomicIn (peerQ 3 9 0x2400 0) (fun s => answered true 0x2C00 s && s.readNum (memKey 0 0 0x30400) 8 == 0x2C00) = true ∧
    then_ .sendIn (at_ (QS 0 [(4096, some (pair1 2))]) { Arg.none with index := 4096 }) (answered false 2) = true ∧
    then_ .sendIn (short (peerQ 2 9 0 0)) (fun s => answered true 1 s && s.readNum (memKey 0 0 0x30C00) 8 == 1 &&
      s.readNum (memKey 0 0 0x30800) 8 == 5 * 2 ^ 16 + 8 * 2 ^ 32 && qpIs s 4096 fun q => q.recvCons == 1) = true := by decide +kernel

/-! ### Debug, power, the host, links and start-up (25 to 28) -/

/-- A write of a debug register by the thread in slot 0, which targets the thread in slot 1. -/
def dbgS (g : Nat) (u : Thread) : State :=
  let s := S.setSlot 1 { Slot.empty with quota := 1, thread := some { u with gtid := 64 } }
  at_ { s with dbg := { s.dbg with target := BitVec.ofNat 64 g } } { Arg.none with writer := .thread 0 }
def stopKind (k c : Nat) (o : Option Thread) : Bool := o.any fun t => t.stopped.any fun x => x.kind == k && x.cause == c
def bp (i : Nat) (t : Thread) : State :=
  let s := at_ (world t) (ix 0); { s with dbg := { s.dbg with ctls := s.dbg.ctls.set i (1 + t.pc.toNat), keys := s.dbg.keys.set i t.gtid } }
theorem witness_DebugEvents_break : (bp 0 R).ready 0 = true ∧ (bp 7 R).breakMatches R 7 ∧ ¬ (bp 7 R).breakMatches R 6 ∧ ¬ (bp 7 R).breakMatches R 0 ∧
    then_ .breakpointMatch (bp 0 R) (fun s => stopKind 6 2 (s.thread 0)) = true ∧
    then_ .breakpointMatch (bp 7 R) (fun s => (s.thread 0).any fun t => t.stopped.any fun x => x.info == 7) = true := by
  unfold State.breakMatches; decide +kernel
theorem witness_DebugEvents : (dbgS 64 R).mayWrite (.thread 0) = true ∧ (dbgS 99 R).slotOf 99 = none ∧ (dbgS 99 R).savedHas 99 = false ∧
    then_ .debugStop (dbgS 99 R) (fun s => s.dbg.result == 1) = true ∧
    (let s := (dbgS 99 R).setCtx 0 { Ctx.house with saved := [{ savedV with gtid := 99 }] }
     s.savedHas 99 = true ∧ then_ .debugStep s (fun s => s.dbg.result == 3) = true) ∧
    (dbgS 64 R).slotOf 64 = some 1 ∧
    then_ .debugResume (dbgS 64 { R with stopped := some ⟨6, 2, 0, 0⟩ }) (fun s => (s.thread 1).any fun t => t.stopped.isNone && t.skipBp) = true ∧
    then_ .debugStep (dbgS 64 { R with stopped := some ⟨6, 2, 0, 0⟩ }) (fun s => (s.thread 1).any fun t => t.stopped.isNone && t.stepping == 1) = true ∧
    then_ .debugStop (dbgS 64 { R with stopped := some ⟨6, 2, 0, 0⟩ }) (fun s => s.dbg.result == 2) = true ∧
    then_ .debugResume (dbgS 64 R) (fun s => s.dbg.result == 2) = true ∧
    then_ .debugStop (dbgS 64 { R with frozen := true }) (fun s => s.dbg.result == 2) = true ∧
    then_ .debugStop (dbgS 64 R) (fun s => (s.thread 1).any (·.debugStop)) = true ∧
    then_ .debugStop (dbgS 64 { R with wait := .memory }) (fun s => stopKind 6 4 (s.thread 1)) = true ∧
    (T { R with stepping := 2 }).stepDone { R with stepping := 2 } = true ∧
    then_ .stepStop (T { R with stepping := 2 }) (fun s => stopKind 6 3 (s.thread 0)) = true := by decide +kernel
def logA (v : Nat) : Arg := { Arg.none with writer := .thread 0, value := v }
theorem witness_DebugEvents_trace :
    then_ .logEnable (at_ S (logA 0xC00)) (fun s => s.dbg.logctl == 0xC00) = true ∧ then_ .logEnable (at_ S (logA 0xB01)) (fun s => s.dbg.logctl == 0xC00) = true ∧
    2 ^ 27 < 2 ^ 15 * 4096 - 4096 + 768 * 2 ^ 12 ∧ 0x1000 + 768 * 2 ^ 12 ≤ 2 ^ 27 ∧
    then_ .sampleEnable (at_ S (logA (255 * 2 ^ 32 + 0x1C01))) (fun s => s.dbg.smpctl == 0xC00) = true ∧
    then_ .sampleEnable (at_ S (logA (256 * 2 ^ 32 + 0x1C01))) (fun s => s.dbg.smpctl == 256 * 2 ^ 32 + 0x1C01 &&
      s.readNum (s.dieKey 3 0x1000) 16 == 0) = true ∧
    (let s := { S with now := 65536000000, dbg := { S.dbg with logctl := 0x1C01, smpctl := 256 * 2 ^ 32 + 0x1C01 } }
     let s := { s with osc := 65536 * 256 * 28 }
     (s.core 0).logCycle + 65535 ≤ s.cycle 0 ∧
     then_ .logDeltaOverflow (at_ s (ix 0)) (fun s => s.readNum (s.logRing 0 + 16) 4 == 0xFFFFF000 && s.readNum (s.logRing 0) 8 == 1) = true ∧
     -- 64 records held, and one more
     (let full (n : Nat) : State := at_ (s.setCore 0 { s.core 0 with logHeld := List.replicate n 7 }) (ix 0)
      then_ .logDeltaOverflow { full 63 with busy := true } (fun s => (s.core 0).logHeld.length == 64 && !(s.core 0).logLost && s.readNum (s.logRing 0) 8 == 0) = true ∧
      then_ .logDeltaOverflow (full 63) (fun s => (s.core 0).logHeld == [] && s.readNum (s.logRing 0) 8 == 64) = true ∧
      then_ .logDeltaOverflow (full 64) (fun s => (s.core 0).logHeld.length == 64 && (s.core 0).logLost) = true) ∧
     -- the turn of the cycle is still to come; it has been taken
     s.sampleNow 0 = false ∧ ({ s with osc := s.osc + 28 } : State).sampleDue 0 = false ∧
     (let done : State := at_ (s.setCore 0 { s.core 0 with taken := 2 ^ 24 + 1 }) (ix 0)
      let held (n : Nat) : State := { done with dbg := { done.dbg with held := if n = 0 then [] else [(0, List.replicate n 5)] } }
      done.sampleNow 0 = true ∧
      then_ .pcSample done (fun s => s.readNum (s.dieKey 0 0x1000) 8 == 1 && s.readNum (s.dieKey 0 0x1000 + 48) 8 == 65536000000) = true ∧
      (held 63).heldSamples 0 = List.replicate 63 5 ∧
      then_ .pcSample { held 63 with busy := true } (fun s => (s.heldSamples 0).length == 64 && s.dbg.samples == [0, 0, 0, 0]) = true ∧
      then_ .pcSample (held 64) (fun s => s.readNum (s.dieKey 0 0x1008) 8 == 1 && s.dbg.samples == [0, 0, 0, 0] && (s.heldSamples 0).length == 64) = true)) := by
  decide +kernel

/-- Dies of 100 mW each, a window of 1,000 mJ; the demands of the dies are 100 mW each. -/
def powS (target : Nat) : State :=
  let s := stage5 S
  at_ { s with now := 1000000, power := { s.power with fixed := [100, 100, 100, 100], parts := [200, 200, 200, 200], limit := 4000, ramp := 1000, target, pkg := 10 ^ 9, windowStart := 0, asked := true, ringKind := 1 } }
    { Arg.none with addr := 100 + 100 * 2 ^ 32 + 100 * 2 ^ 64 + 100 * 2 ^ 96, value := 1000, index := 7 }
theorem witness_PowerEvents : (powS 0).power.windowStart < (powS 0).power.pkg ∧
    then_ .budgetRefill (at_ (powS 0) (ix 0)) (fun s => s.power.pkg == 10 ^ 9 + 100000 && (s.slot 0).quota == 100000) = true ∧
    then_ .budgetRefill (at_ (powS 0) (ix 3)) (fun s => s.slots == S.slots) = true ∧
    then_ .governorWindowEnd (powS 100000) (fun s => s.power.seq == 1 && s.power.misses == 1 && s.power.k == 0x1000 && s.power.estimate == 400) = true ∧
    (powS 0).power.produced ≠ 7 + 2 ^ (powS 0).power.ringLog ∧
    (powS 0).power.ringBase + 64 + 64 * 2 ^ (powS 0).power.ringLog ≤ 2 ^ 52 ∧
    then_ .governorWindowEnd (powS 0) (fun s => s.power.records.length == 1 && s.power.misses == 0 && s.readNum (memKey 0 6 0) 8 == 1 &&
      s.readNum (memKey 0 6 72) 8 == 0 && s.readNum (memKey 0 6 64) 8 == 1000000) = true := by decide +kernel

def hostA32 (r a : Nat) : Arg := { Arg.none with index := r, addr := a }
def hostS (a : Arg) : State := at_ (stage5 (S.writeNum (memKey 0 0 0x40000) 4 0x04030201)) a
theorem witness_SystemEvents : S.userOf (.thread 0) = some { priv := true, ctx := 0, sel := 0, slot := some 0 } ∧
    then_ .rasClear (at_ { S with ras := { S.ras with ue := 3, ctrl := 2 } } (logA (2 ^ 24))) (fun s => s.ras.ue == 0 && s.ras.ctrl == 2) = true ∧
    then_ .systemRegisterWrite (at_ (S.setCtx 0 { Ctx.house with mode := .suspended }) { logA 0x5FFF with index2 := 0x21 }) (fun s =>
      (s.ctx 0).regs.ptroot == 0x5000) = true ∧
    (S.ctx 0).mode = .active ∧ then_ .systemRegisterWrite (at_ S { logA 5 with index2 := 0x26 }) (fun s => (s.ctx 0).regs.limit == 5) = true ∧
    then_ .systemRegisterWrite (at_ (S.setCtx 0 { Ctx.house with sys := false }) { logA 1 with index2 := 0x10 }) (fun s => (s.ctx 0).gtag == 0) = true ∧
    writeOnly 0x68 = false ∧ then_ .hostRegisterRead32 (hostS (hostA32 3 (8 * 0x68))) (fun s => s.hostOut == [⟨3, true, 0⟩] && s.hostLatch == [(3, some (0x68, 16))]) = true ∧
    Store.get none (({ hostS (hostA32 3 (8 * 0x68 + 4)) with hostLatch := [(3, some (0x68, 16))] } : State).hostLatch) 3 = some (0x68, 16) ∧
    then_ .hostRegisterRead32 { hostS (hostA32 3 (8 * 0x68 + 4)) with hostLatch := [(3, some (0x68, 16))] } (fun s => s.hostOut == [⟨3, true, 16⟩]) = true ∧
    (hostS Arg.none).hostReaches (memKey 0 0 0x40000) 4 = true ∧
    then_ .hostRequest (hostS { hostA32 3 (memKey 0 0 0x40000) with value := 4 }) (fun s => s.hostOut == [⟨3, true, 0x04030201⟩]) = true ∧
    then_ .hostRequest (hostS { hostA32 3 (memKey 0 0 0x40001) with index2 := 1, data := [9, 8] }) (fun s => s.readNum (memKey 0 0 0x40000) 4 == 0x04080901) = true ∧
    then_ .hostRequest (hostS { hostA32 3 5 with index2 := 6 }) (fun s => s.hostFrozen == [(3, 0)] && (s.ctx 0).messages.length == 1) = true ∧
    then_ .hostRequest { hostS { hostA32 3 5 with index2 := 4 } with hostFrozen := [(3, 0)] } (fun s => s.hostOut == [⟨3, false, 0⟩]) = true := by decide +kernel
theorem witness_SystemEvents_faults : keyTgt (sk 16) < 4 ∧ keyPkg (sk 16) = S.pkg ∧ S.beyond (keyTgt (sk 16)) (keyPa (sk 16)) = false ∧
    then_ .scrubPass (at_ S { Arg.none with addr := sk 16, ok := true }) (fun s => s.poisoned (sk 16) && s.ras.ue == 1) = true ∧
    then_ .scrubPass (at_ S { Arg.none with addr := sk 16 }) (fun s => !s.poisoned (sk 16)) = true ∧
    then_ .controlFault (at_ S (ix 0)) (fun s => (s.core 0).dead && stopKind 4 3 (s.thread 0) && s.ras.ctrl == 1) = true ∧
    then_ .controlFault (at_ S { ix 191 with value := 1, index2 := 2 }) (fun s => (s.grove 191).dead == [2]) = true ∧
    then_ .controlFault (at_ S { ix 3 with value := 2 }) (fun s => s.deadLandings == [3]) = true ∧
    then_ .ptpMessage (at_ S { ix 0 with ok := true, value := 1000001 }) (fun s => s.now == 1000001 && s.slew == 0 && s.ptpSync) = true ∧
    then_ .ptpMessage (at_ S { ix 0 with ok := true, value := 1000000 }) (fun s => s.now == 0 && s.slew == 1000000) = true ∧
    then_ .ptpMessage (at_ { S with ptpSync := true, slew := 5 } (ix 0)) (fun s => !s.ptpSync && s.slew == 0) = true := by decide +kernel

/-- Link `n` in a state; group 0 open; a peer's load and store of grove memory. -/
def linkS (n st : Nat) (a : Arg) : State := at_ ((stage5 S).setLink n { Link.reset with state := st, lanes := linkLanes n, expect := 5 }) { a with index := n }
def linkIs (s : State) (n : Nat) (f : Link → Bool) : Bool := f (s.link n)
def peerLoad : Access := mkAccess R .load (memKey 0 2 0x40000) 0 8 0xFFFF QReg.zero none 4
/-- A request of package 1 with the SEQ that is next, in a flit that group 0 has accepted. -/
def peerS (seq : Nat) (a : Access) : State :=
  let s := stage5 S
  at_ { s.setLink 0 { Link.reset with state := 1, lanes := linkLanes 0, expect := 5, holds := 3 } with seenTo := Store.put 0 [] 1 seq }
    { Arg.none with index := 1, index2 := seq, value := 2, peer := .access a }
def acked (f : Nat) : State :=
  let s := linkS 3 1 { Arg.none with ok := true, value := 5, addr := 8, index2 := f }
  s.setLink 3 { s.link 3 with buffer := [⟨7, .request 1⟩, ⟨8, .request 2⟩, ⟨9, .request 3⟩] }
theorem witness_LinkEvents :
    then_ .linkTrainingEnd (linkS 9 0 { Arg.none with value := linkLanes 9 }) (fun s => linkIs s 9 fun l => l.state == 1) = true ∧
    then_ .linkTrainingEnd (linkS 0 0 { Arg.none with value := linkLanes 0 / 2 }) (fun s => linkIs s 0 fun l => l.state == 2) = true ∧
    then_ .linkTrainingEnd (linkS 0 0 { Arg.none with value := linkLanes 0 / 2 - 1 }) (fun s => linkIs s 0 fun l => l.state == 3) = true ∧
    then_ .laneFailure (linkS 0 1 Arg.none) (fun s => linkIs s 0 fun l => l.state == 2) = true ∧
    then_ .linkLoss (linkS 0 2 Arg.none) (fun s => linkIs s 0 fun l => l.state == 3 && l.lanes == 0) = true ∧
    then_ .linkRetrain { linkS 0 3 Arg.none with now := 10000000 } (fun s => linkIs s 0 fun l => l.state == 0) = true ∧
    then_ .degradedRetrain (linkS 0 2 Arg.none) (fun s => linkIs s 0 fun l => l.state == 1) = true ∧
    then_ .flitReceive (linkS 3 1 { Arg.none with ok := true, value := 5 }) (fun s => linkIs s 3 fun l => l.expect == 6) = true ∧
    then_ .flitReceive (linkS 3 1 { Arg.none with ok := true, value := 6 }) (fun s => linkIs s 3 fun l => l.expect == 5) = true ∧
    then_ .flitReceive (linkS 3 1 Arg.none) (fun s => linkIs s 3 fun l => l.replay && l.crcerr == 1 && l.retry == 1) = true ∧
    then_ .flitReceive (linkS 4 1 Arg.none) (fun s => linkIs s 4 fun l => !l.replay && l.crcerr == 1) = true ∧
    -- the flits that a good one acknowledges; the replay of those left
    then_ .flitReceive (acked 0) (fun s => linkIs s 3 fun l => l.buffer == [⟨9, .request 3⟩] && l.line == [] && l.holds == flitPackets) = true ∧
    then_ .flitReceive (acked 1) (fun s => linkIs s 3 fun l => l.line == [.flit 9] && l.retry == 1) = true ∧
    then_ .flitReceive (linkS 3 1 Arg.none) (fun s => linkIs s 3 fun l => l.line == [.report 4] && l.holds == 0) = true ∧
    (peerS 65535 peerLoad).delivers 0 = true ∧ (peerS 65535 peerLoad).isLocal peerLoad.key = true ∧ (peerS 0 peerLoad).badWord peerLoad false = none ∧
    (peerS 65535 peerLoad).seen 1 65535 = false ∧ (peerS 65535 peerLoad).savedReply 1 65535 = none ∧ (1 : Nat) ≠ (peerS 0 peerLoad).pkg ∧
    then_ .packetRequest ((peerS 65535 peerLoad).writeNum (memKey 0 2 0x40000) 8 7) (fun s => s.replies == [⟨1, 65535, true, 0, 7⟩] &&
      (s.link 0).holds == 2 && s.arrived == []) = true ∧
    ((peerS 0 peerLoad).setPoison peerLoad.key true).badWord peerLoad false = some peerLoad.key ∧
    then_ .packetRequest ((peerS 0 peerLoad).setPoison peerLoad.key true) (fun s => s.replies == [⟨1, 0, false, 0, 0⟩]) = true ∧
    (peerS 0 { peerLoad with op := .store, data := dat 4 9 }).badWord { peerLoad with op := .store, data := dat 4 9 } true = none ∧
    then_ .packetRequest (peerS 0 { peerLoad with op := .store, data := dat 4 9 }) (fun s => s.readNum (memKey 0 2 0x40000) 8 == 9) = true ∧
    (let s := { peerS 0 peerLoad with replies := [⟨1, 0, true, 0, 0⟩, ⟨1, 1, true, 0, 0⟩] }
     s.savedReply 1 0 ≠ none ∧ then_ .packetRequest s (fun t => t.replies == s.replies && (t.link 0).buffer == [⟨0, .reply 1 0⟩]) = true ∧
       then_ .replyAck s (fun t => t.replies == [⟨1, 1, true, 0, 0⟩] && (t.link 0).holds == 2) = true) := by decide +kernel
/-- A 16-byte load of a peer, by halves; a request that comes out of order. -/
def peerLoad16 : Access := mkAccess R .load (memKey 0 2 0x40000) 0 16 0xFFFFFFFF QReg.zero none 4
def halfS (far : Store (Option (Nat × Bool))) (ok : Bool) : State :=
  let s := peerS 7 peerLoad16
  { s.writeNum (memKey 0 2 0x40000) 16 (3 + 4 * 2 ^ 64) with farHalf := far, arg := { s.arg with ok } }
theorem witness_LinkEvents_halves : peerLoad16.halves = true ∧ peerLoad16.key % 16 = 0 ∧ Store.rising (halfS [(2 ^ 16 + 7, some (9, true))] false).farHalf = true ∧
    then_ .packetRequest (halfS [] true) (fun s => Store.get none s.farHalf (2 ^ 16 + 7) == some (3, true) && s.replies == []) = true ∧
    then_ .packetRequest (halfS [(2 ^ 16 + 7, some (9, true))] false) (fun s => s.farHalf == [] && s.replies == [⟨1, 7, true, 0, 9 + 4 * 2 ^ 64⟩]) = true ∧
    -- the SEQ after a gap waits; it is performed when the gap has closed; one that has been seen, and one that finds 64 replies kept, is dropped
    (let s (q past v : Nat) : State := { peerS q peerLoad with seenTo := Store.put 0 [] 1 past, arg := { (peerS q peerLoad).arg with value := v } }
     then_ .packetRequest (s 8 7 0) (fun t => t.arrived.length == 1 && t.replies == [] && t.seenAhead 1 == [8] && Store.get 0 t.seenTo 1 == 7) = true ∧
     then_ .packetRequest (s 7 7 0) (fun t => t.arrived == [] && t.replies.length == 1 && Store.get 0 t.seenTo 1 == 8) = true ∧
     then_ .packetRequest { s 7 7 0 with arrived := [⟨1, 8, 1, .access peerLoad, false⟩], seenPast := [(1, [8])] } (fun t => t.arrived == [] &&
       (t.replies.map (·.seq)) == [7, 8] && Store.get 0 t.seenTo 1 == 9) = true ∧
     (s 7 8 0).seen 1 7 = true ∧ then_ .packetRequest (s 7 8 0) (fun t => t.replies == [] && t.arrived == []) = true ∧
     (s 7 32776 0).seen 1 7 = false ∧ (s 7 32775 0).seen 1 7 = true ∧
     then_ .packetRequest { s 7 7 0 with replies := List.replicate 64 ⟨1, 3, true, 0, 0⟩ } (fun t => t.replies.length == 64 && t.arrived == []) = true) ∧
    (linkS 0 3 Arg.none).delivers 0 = false ∧
    then_ .replyAck { linkS 0 3 { Arg.none with index := 0 } with replies := [⟨0, 0, true, 0, 0⟩] } (fun s => s.replies.length == 1) = true := by
  decide +kernel
def farA : Access := mkAccess R .load (memKey 1 2 0) 0 8 0xFFFF QReg.zero (some 5) 4
def sentS (tries : Nat) (ok : Bool) : State :=
  at_ { (stage5 (world { R with wait := .remote farA (ow 5 10 0) })).setLink 0 { Link.reset with state := 1, lanes := 8, holds := 1 } with now := 100000, requests := [{ id := 6, dest := 1, seq := 0, cls := 1, size := 8, who := .thread 0, tries := tries, since := 0, sent := true, withdrawn := false }] }
    { Arg.none with index := 6, ok, value := 77 }
theorem witness_LinkEvents_requests : ((sentS 0 true).sentRequest 6).isSome = true ∧
    then_ .packetReply (sentS 0 true) (fun s => s.requests == [] && (s.thread 0).any fun t => t.reg 5 == dat 4 77) = true ∧
    then_ .packetReply (sentS 0 false) (fun s => s.requests == [] && stopKind 4 0 (s.thread 0)) = true ∧
    then_ .retransmitTimeout (sentS 8 false) (fun s => s.requests == [] && stopKind 4 2 (s.thread 0)) = true ∧
    then_ .retransmitTimeout (sentS 7 false) (fun s => ((s.sentRequest 6).any fun r => r.tries == 8 && r.since == 100000) && (s.link 0).e2e == 1 &&
      (s.link 0).buffer == [⟨0, .request 6⟩] && (s.link 0).line == [.flit 0]) = true := by decide +kernel

/-- A record in force; the machine at power-on; a recovery of a stage. -/
def goodCfg : ConfigRecord := { ConfigRecord.none with pkg := 3, limit := 1000, ramp := 500, fixed := [10, 10, 10, 10] }
def bootA (f : Nat) (ok : Bool) (v : Nat) : Arg := { Arg.none with index2 := f, value := v, cfg := { goodCfg with domain := if ok then 191 else 192 }, ok := true, addr := 2 ^ 20 }
def bootS (a : Arg) (b : Boot) : State := at_ { State.reset with boot := b } a
theorem witness_BootEvents :
    then_ .powerOnReset (bootS (bootA 0 true 1) Boot.reset) (fun s => s.boot.stage == 5 && s.pkg == 3 && s.power.target == 540) = true ∧
    then_ .powerOnReset (bootS (bootA 1 true 1) Boot.reset) (fun s => s.boot.stage == 0 && s.boot.err == 1) = true ∧
    then_ .powerOnReset (bootS (bootA 0 true 1) { Boot.reset with fused := 2 }) (fun s => s.boot.stage == 1 && s.boot.window) = true ∧
    then_ .powerOnReset (bootS (bootA 0 false 1) Boot.reset) (fun s => s.boot.stage == 2 && s.boot.err == 3) = true ∧
    then_ .powerOnReset (bootS (bootA 4 true 1) Boot.reset) (fun s => s.boot.stage == 3 && s.boot.err == 4) = true ∧
    then_ .recoveryFirmware (bootS Arg.none { Boot.reset with window := true, failed := 2 }) (fun s => s.boot.result == 1 && s.boot.doorbell == 1) = true ∧
    then_ .recoveryConfig (bootS Arg.none { Boot.reset with window := true, failed := 2 }) (fun s => s.boot.result == 4) = true ∧
    then_ .recoveryConfig (bootS Arg.none Boot.reset) (fun s => s.boot.result == 0) = true ∧
    (let b := { Boot.reset with window := true, failed := 2, result := 1, doorbell := 1, length := 67104768 }
     then_ .recoveryVerifyEnd (bootS (bootA 0 true 5) b) (fun s => s.boot.stage == 5 && s.boot.result == 2 && s.boot.src == 1) = true ∧
     then_ .recoveryVerifyEnd (bootS (bootA 0 true 5) { b with length := 67104769 }) (fun s => s.boot.result == 3) = true ∧
     then_ .recoveryVerifyEnd (bootS (bootA 0 true 5) { b with fused := 6 }) (fun s => s.boot.result == 3) = true ∧
     then_ .recoveryVerifyEnd (bootS (bootA 4 true 5) { b with doorbell := 2, length := 1 }) (fun s => s.boot.stage == 3 && s.boot.err == 4) = true) ∧
    then_ .getVersion (bootS Arg.none Boot.reset) (fun s => s.boot.spdm == [(1, 0, [])]) = true ∧
    then_ .getMeasurements (bootS (ix 1) { Boot.reset with stage := 5, imageDigest := 9, spdmStep := 3 }) (fun s => s.boot.spdm == [(6, 1, [9])]) = true := by decide +kernel

/-! ### Further clauses of the statements above: each has its state here -/

theorem witness_NotLiveOnlyPasses_rows : let e := Fields.oneWord 0 5 6 7
    scalarRow (.cjoin e) = some e ∧ scalarRow (.stcap e) = some e ∧ scalarRow (.movTag e) = some e ∧
    laneRow R (.shuf e) = some (e, 4) ∧ laneRow R (.fdot e) = some (e, 32) ∧ laneRow R (.st e) = some (e, 4) ∧ R.live 0 4 = false ∧
    movRow (.mov (Fields.oneWord 0 5 10 0)) = some (Fields.oneWord 0 5 10 0) ∧ (R.reg 10).cap = true ∧
    extRow (.ext e) = some e ∧ R.typeOf e ≠ 0 ∧ fcvtRow (.fcvt e) = some e ∧ e.hasWord1 = false ∧ (R.setReg 6 (dat 0 1)).reg 6 = dat 0 1 ∧
    (∀ k, k < elemCount (cvtDest e) → R.guardBit e.g (fmtWidth (cvtDest e) * k / 4) = false) ∧
    laneRow (R.setReg 6 (dat 0 1)) (.ext e) = some (e, 4) ∧
    after (.cjoin e) S (fun s t => s == S.put (R.next e) && t.pc == 4) = true := by decide +kernel
/-- A walk that meets an entry with an uncorrectable error. -/
def badWalk : State := ((world R).setCtx 0 { Ctx.house with regs := { CtxRegs.zero with ptroot := 0x1000 } }).setPoison (memKey 0 0 0x1000) true
theorem witness_AccessFaults_walk : (badWalk.translate 0 0 0x100).1.isBad = true ∧ badWalk.mustWalk 0 0 0x100 = false ∧ badWalk.moving 0 0x100 = false ∧
    after (.ld (ow 5 13 0)) badWalk (fun _ t => t.stopped == some ⟨4, 0, 0, 0⟩) = true := by decide +kernel
/-- Each active lane of an integer `fdot` draws once under `.sr`. -/
theorem test_fdot_draws : after (.fdotX (ex 5 12 12 5 0 1 0x5 0)) (world (R.setReg 5 (dat 3 0)))
    (fun _ t => t.gen.toNat == (R.gen.toNat + 4 * 0x9E3779B97F4A7C15) % 2 ^ 64) = true := by decide +kernel

/-- A member of a crew, and an error pending. -/
def pend0 : PendingError := ⟨false, 0, memKey 0 2 0x40, 0x40, 0⟩
theorem store_sound (s : State) (h : (s.crews.all fun e => decide (e.2.members.Nodup ∧ e.2.joins.Nodup ∧ (e.2.used = false → e.2.members = [] ∧ e.2.joins = []))) = true) :
    s.crewsSound := by
  intro ci
  have key : ∀ l : Store Crew, (l.all fun e => decide (e.2.members.Nodup ∧ e.2.joins.Nodup ∧ (e.2.used = false → e.2.members = [] ∧ e.2.joins = []))) = true →
      (Store.get Crew.free l ci).members.Nodup ∧ (Store.get Crew.free l ci).joins.Nodup ∧
        ((Store.get Crew.free l ci).used = false → (Store.get Crew.free l ci).members = [] ∧ (Store.get Crew.free l ci).joins = []) := by
    intro l
    induction l with
    | nil => intro; exact ⟨List.nodup_nil, List.nodup_nil, fun _ => ⟨rfl, rfl⟩⟩
    | cons a r ih =>
      intro h
      rw [List.all_cons, Bool.and_eq_true] at h
      rw [Store.get]
      split
      · exact of_decide_eq_true h.1
      · exact ih h.2
  exact key s.crews h
theorem witness_ExitHalts_more : (SC C0).thread (SC C0).cur = some RC ∧ RC.pendErr = [] ∧ RC.wait = .none ∧ (SC C0).memberOf RC ∈ C0.members ∧
    after (.exit (ow 0 0 0)) (SC C0) (fun s t => t.halted && (s.crew 0).members == []) = true ∧
    after (.exit (ow 0 0 0)) (world { R with pendErr := [pend0] }) (fun _ t => t.stopped == some ⟨4, 0, 0, 0⟩ && t.pendErr == [] && t.pc == 0) = true := by
  decide +kernel
theorem witness_ExitHalts_sound : (SC C0).crewsSound := store_sound _ (by decide +kernel)
theorem witness_SafePoints_more : let p : Thread := { R with pair := true, slice := 2 }
    after (.safe (ex 0 0 0 0 0 0 0xFF 0xFFFFFFFF)) (world { R with pendErr := [pend0] }) (fun _ t => t.stopped == some ⟨4, 0, 0, 0⟩ && t.pc == 0) = true ∧
    after (.yield (ow 0 0 0)) (world { R with pendErr := [pend0] }) (fun _ t => t.stopped == some ⟨4, 0, 0, 0⟩ && t.pendErr == []) = true ∧
    (world p).mem.wf = true ∧ p.rx = [] ∧ p.request = none ∧
    after (.safe (ex 0 0 0 0 0 0 0xFF 0xFFFFFFFF)) (world p) (fun s t => t.held == 18 && t.pc == 12 &&
      s.readNum (s.checkpointKey 0) 16 != 0) = true := by decide +kernel

/-- A crew that stands, of which the thread is no member: its join waits. -/
def C7 : Crew := { C0 with members := [7], ranks := [7], bar0 := { Barrier.idle with phase := 3, counted := [7], ranks := [7] } }
theorem witness_CrewMembership_more : (SC C7).namesCrew RC (ow 4 16 0) 0 ∧ (0 : Nat) ∉ C7.members ∧ C7.joins = [] ∧
    (C7.bar 0).complete = false ∧ (C7.bar 1).complete = false ∧ (C7.bar 2).complete = false ∧ (C7.bar 3).complete = false ∧ C7.lateAt ≠ (SC C7).tick + 1 ∧
    after (.cjoin (ow 4 16 0)) (SC C7) (fun s t => t.pred 4 == 0xFFFF && (s.crew 0).members == [7] && (s.crew 0).joins == [0] && (s.crew 0).bar0 == C7.bar0) = true ∧
    after (.cstat (ex 5 16 0 0 2 0 0 0)) (SC { C7 with faults := 5, joins := [0] }) (fun _ t => (t.reg 5).hi / 16 % 2048 == 5 && (t.reg 5).hi / 2 % 2 == 1) = true := by
  refine ⟨rfl, ?_⟩; decide +kernel
theorem witness_CollectivesArrive_format : let t := RC.setReg 7 (dat 0 1)
    collectiveRow t (.cred (ow 5 16 7)) = some (ow 5 16 7, 3, .red 0 0) ∧ t.credType (ow 5 16 7) = 0 ∧
    after (.cred (ow 5 16 7)) ((world t).setCrew 0 C2) (fun _ t => t.stopped == some ⟨2, 0, 0, 0⟩) = true := by
  refine ⟨rfl, ?_⟩; decide +kernel

/-- `tres` with SKIP, gtid 64, of a thread stopped at PC 4; at a PC that is none; of one that is not stopped; of one that is saved. -/
def skipS (pc : Nat) (stop : Option Stop) : State :=
  let r := R.setReg 15 ⟨BitVec.ofNat 128 (2 ^ 64 + 64), false, 4⟩
  ((world r).setGrove 0 { Grove.empty with tlb := [page0] }).setSlot 1 { Slot.empty with quota := 1, thread := some { r with gtid := 64, stopped := stop, pc := BitVec.ofNat 64 pc } }
def savedT (stop : Option Stop) : State :=
  (world R).setCtx 0 { Ctx.house with saved := [{ savedV with stopped := stop, pc := 0x40 }] }
theorem witness_SystemInstructions_skip : (skipS 4 (some ⟨7, 0, 0, 5⟩)).slotOf 64 = some 1 ∧
    after (.tres (ow 5 15 0)) (skipS 4 (some ⟨7, 0, 0, 5⟩)) (fun s t => t.reg 5 == dataInt 0 && (s.thread 1).any fun u => u.stopped.isNone && u.pc == 8) = true ∧
    after (.tres (ow 5 15 0)) (skipS 5 (some ⟨7, 0, 0, 5⟩)) (fun s t => t.reg 5 == dataInt (-2) && (s.thread 1).any fun u => u.stopped.isSome && u.pc == 5) = true ∧
    after (.tres (ow 5 15 0)) (skipS 4 none) (fun _ t => t.reg 5 == dataInt (-1)) = true ∧
    (savedT (some ⟨7, 0, 0, 5⟩)).savedOf 0 64 = some { savedV with stopped := some ⟨7, 0, 0, 5⟩, pc := 0x40 } ∧ (savedT none).slotOf 64 = none ∧
    after (.tres (ow 5 11 0)) (savedT (some ⟨7, 0, 0, 5⟩)) (fun s t => t.reg 5 == dataInt 0 && (s.ctx 0).saved.all (·.stopped.isNone)) = true ∧
    after (.tres (ow 5 11 0)) (savedT none) (fun _ t => t.reg 5 == dataInt (-1)) = true := by decide +kernel
theorem witness_SystemInstructions_code : (skipS 4 (some ⟨7, 0, 0, 5⟩)).codeLength 1
    { R.setReg 15 ⟨BitVec.ofNat 128 (2 ^ 64 + 64), false, 4⟩ with gtid := 64, stopped := some ⟨7, 0, 0, 5⟩, pc := 4 } 4 := by
  refine ⟨rfl, by decide +kernel, rfl, fun t h => ?_, page0, by decide +kernel, by decide +kernel, by decide +kernel, by decide +kernel, fun _ _ => rfl, by decide +kernel⟩
  cases h; rfl

/-- `thaw` with SKIP; of a queue; of a host function. -/
def thawE (k : Nat) : Fields := fld .extLit 0xFF 5 11 0 0 0 0 0 0 (BitVec.ofNat 64 k)
def frozenQ : State := { S.setQueue 0 { Queue.empty with ops := [zeroOp], appended := 1, mode := .frozen, ecap := true } with
  slots := (world (R.setReg 11 (dat 4 0))).slots, hostFrozen := [(64, 0), (0, 3)] }
theorem witness_PrivilegedEscape_thaw :
    after (.thaw (thawE 4)) S4 (fun s t => t.reg 5 == dataInt 0 && (s.thread 1).any fun u => !u.frozen && u.pc == 4) = true ∧
    after (.thaw (thawE 0)) S3 (fun s t => t.reg 5 == dataInt (-1) && (s.thread 1).isSome) = true ∧
    after (.thaw (thawE 0)) S (fun _ t => t.reg 5 == dataInt (-1)) = true ∧
    after (.thaw (thawE 1)) frozenQ (fun s t => t.reg 5 == dataInt 0 && (s.queue 0).mode == .halted && (s.queue 0).headEnded && !(s.queue 0).ecap) = true ∧
    after (.thaw (thawE 1)) S (fun _ t => t.reg 5 == dataInt (-1)) = true ∧
    after (.thaw (thawE 2)) frozenQ (fun s t => t.reg 5 == dataInt 0 && s.hostFrozen == [(64, 0)]) = true ∧
    after (.thaw (thawE 2)) S (fun _ t => t.reg 5 == dataInt (-1)) = true ∧
    -- the issuing core, whose slot 0 holds a thread; a context that stands cannot be created
    after (.slotw (ex 5 11 0 0 2 0 0 0)) (world (R.setReg 11 ⟨BitVec.ofNat 128 (2 ^ 64 + 5), false, 4⟩)) (fun s t => t.reg 5 == dataInt 0 &&
      (s.slot 2).owner == 0 && (s.slot 2).pin && (s.slot 0).deferred == some (0, true) && !(s.slot 0).pin) = true ∧
    S5.cxswAdmits 0 1 = false ∧ after (.cxswCreate (actB 1 0)) S5 (fun _ t => t.reg 5 == dataInt (-1)) = true := by decide +kernel
theorem witness_PrivilegedEscape_code : S4.codeLength 1 { R with gtid := 64, frozen := true } 4 := by
  refine ⟨rfl, by decide +kernel, rfl, fun t h => ?_, page0, by decide +kernel, by decide +kernel, by decide +kernel, by decide +kernel, fun _ _ => rfl, by decide +kernel⟩
  cases h; rfl

def isResidue (x : Except EngineStop Unit) : Bool := match x with | .error .residue => true | _ => false
/-- A completion word at 0x800 of grove memory, which is incremented; one in host memory, which is not; a task's operation; a block with
two residue mismatches, of a task. -/
def wordOp (w : QReg) : EngineOp := { zeroOp with w := some w }
def wordS (w : QReg) : State := SQ 0 (wordOp w) 1
def wholeOf (s : State) (k : Nat) : State := s.setQueue k { s.queue k with whole := true }
def keyIs (x : Except EngineStop Nat) (k : Nat) : Bool := match x with | .ok j => j == k | _ => false
def keyFaults (x : Except EngineStop Nat) : Bool := match x with | .error (.translation _ _) => true | _ => false
def taskG : Graph := { Graph.none with tasks := [{ GTask.none with state := .placed, tile := true }, { GTask.none with state := .blocked, preds := 1 }], edges := [(0, 1)], filler := true, status := 0x180 }
def taskOpS (op : EngineOp) (u : Nat) : State := let s := SQ 4 op u; { s.setGraph 0 taskG with nextGraph := 1, now := 5000 }
def tileOp : EngineOp := { zeroOp with isTask := true, gtid := 0 }
def resOp : EngineOp := { zeroOp with kind := .tile 0, isTask := true, gtid := 0, ty := 1, mod := 0x80, imm := 1 + 8 * 2 ^ 16, d := gm 0x2000, a := gm 0x400, b := gm 0x4000
                                      f := dat 3 (1 + 32 * 2 ^ 32 + 1 * 2 ^ 64 + 2 * 2 ^ 96) }
def resS : State := let s := taskOpS resOp 1; { s with arg := { s.arg with resid := [0, 0] } }
theorem witness_EngineEnds_word : let s1 := ((wordS (gm 0x800)).workOn 0 (wordOp (gm 0x800)) none).2
    isOk ((wordS (gm 0x800)).workOn 0 (wordOp (gm 0x800)) none).1 = true ∧ (s1.queue 0).ops = [wordOp (gm 0x800)] ∧
    keyIs ((wordOp (gm 0x800)).wordKey (gm 0x800) |>.run.run (wholeOf s1 0)).1 (memKey 0 2 0x800) = true ∧ s1.isLocal (memKey 0 2 0x800) = true ∧
    s1.poisoned (memKey 0 2 0x800) = false ∧
    then_ .tileOpComplete (wordS (gm 0x800)) (fun s => (s.queue 0).ops == [] && s.readNum (memKey 0 2 0x800) 8 == 1) = true ∧
    keyFaults ((wordOp (vc 0x4000)).wordKey (vc 0x4000) |>.run.run (wholeOf ((wordS (vc 0x4000)).workOn 0 (wordOp (vc 0x4000)) none).2 0)).1 = true ∧
    then_ .tileOpComplete (wordS (vc 0x4000)) (fun s => (s.queue 0).mode == .halted && (s.queue 0).exlat && (s.queue 0).whole && (s.queue 0).ops.length == 1) = true := by
  decide +kernel
theorem witness_EngineEnds_task : isOk ((taskOpS tileOp 1).workOn 4 tileOp none).1 = true ∧ keyCode 4 ≤ 4 ∧
    ((taskOpS tileOp 1).workOn 4 tileOp none).2.graphOf tileOp.gtid = some 0 ∧
    then_ .tileOpComplete (taskOpS tileOp 1) (fun s => (s.queue 4).ops == [] && ((s.graph 0).task 0).state == .done && ((s.graph 0).task 1).state == .ready) = true ∧
    isResidue (resS.workOn 4 resOp none).1 = true ∧ ((resS.workOn 4 resOp none).2.queue 4).ops = [resOp] ∧
    (resS.workOn 4 resOp none).2.graphOf resOp.gtid = some 0 ∧
    then_ .tileOpComplete resS (fun s => (s.queue 4).mode == .halted && (s.queue 4).eres && (s.queue 4).headEnded && ((s.graph 0).task 0).failed) = true := by
  decide +kernel

/-- The failure codes of room and of shape; a shared page without one free; a sticky page. -/
theorem witness_HandleInstructions_codes : (∀ k, k < 1 → ((SH chain 1).handle k).live = true) ∧
    after (.hnew (hE 0 0)) (SH chain 1) (fun _ t => t.reg 5 == dataInt (-5) && t.pred 3 == 0xFFFF) = true ∧
    after (.hext (hE 1 4)) (SH chain 1) (fun _ t => t.reg 5 == dataInt (-4)) = true ∧
    after (.hext (hE 1 0)) (SH chain 1) (fun _ t => t.reg 5 == dataInt (-5)) = true ∧
    (let s := (SH chain 2).setCtx 0 { poolCtx [(16, ⟨2, false⟩)] with poolCount := 1 }
     s.poolFree 0 = [] ∧ (s.poolPage 0 0).shared = true ∧ after (.hcow (hE 5 0)) s (fun _ t => t.reg 5 == dataInt (-4)) = true) ∧
    (let s := (SH chain 2).setCtx 0 (poolCtx [(16, ⟨4095, true⟩)])
     (s.poolPage 0 0).shared = true ∧ after (.hcow (hE 5 0)) s (fun s t => (t.reg 5).lo == 0x110000 && s.poolPage 0 0 == ⟨4095, true⟩) = true) ∧
    after (.hstat (ex 5 15 0 0 6 0 0 0)) (SH { chain with gen := 2 } 1) (fun _ t => t.reg 5 == dataInt (-2)) = true ∧
    after (.hstat (ex 5 15 0 0 6 0 0 0)) { SH chain 1 with slots := (world (R.setReg 15 (dat 8 (mkHandle 9 1 0 1)))).slots } (fun _ t =>
      t.reg 5 == dataInt (-1)) = true := by decide +kernel
/-- A machine whose handle entries are all live. -/
def allLive (n : Nat) : State := { SH chain 1 with handles := (List.range n).map fun i => (i, chain) }
theorem allLive_entry (l : List Nat) (i : Nat) (h : i ∈ l) : Store.get Handle.free (l.map fun i => (i, chain)) i = chain := by
  induction l with
  | nil => cases h
  | cons a r ih =>
    rw [List.map_cons, Store.get]
    split
    · rfl
    · exact ih ((List.mem_cons.mp h).resolve_left fun e => by simp_all)
theorem witness_HandleInstructions_full (n i : Nat) (h : i < n) : ((allLive n).handle i).live = true := by
  have e : (allLive n).handle i = chain := allLive_entry _ i (List.mem_range.mpr h)
  rw [e]; rfl
/-- A pool whose pages 0 and 1 stand in HBM at 0x40000 and 0x60000, the table's groups at 0x5800 and 0x5880. -/
def poolS : State :=
  let grp (s : State) (k pa : Nat) : State :=
    s.writeNum (memKey 0 0 k) 128 ((List.range 16).foldl (fun n i => n + (2 ^ 63 + 2 ^ 62 + 2 ^ 61 + 2 ^ 58 + pa + i * 4096) * 2 ^ (64 * i)) 0)
  let s := grp (grp tableS 0x5800 0x40000) 0x5880 0x60000
  { (s.setCtx 0 { s.ctx 0 with poolBase := 0x100000, poolCount := 4, pool := [(16, ⟨2, false⟩)] }).setHandle 0 chain with
    tagBase := 2 ^ 30, slots := (world RH).slots }
def poolAt (p : Nat) (right : Right) (a w : Nat) : Bool :=
  a % 65536 == 0 && (List.range 16).all fun i =>
    let va := poolS.poolVa 0 p + 4096 * i
    poolS.landingKey 0 va right == (some (a + 4096 * i), poolS) &&
      (poolS.walkKeys va 5 (poolS.ctx 0).regs.ptroot).all fun k => decide (k / 128 * 128 + 128 ≤ w ∨ w + 65536 ≤ k / 128 * 128)
theorem poolAt_sound {p : Nat} {right : Right} {a w : Nat} (h : poolAt p right a w = true) : poolS.pageAt 0 p right a w := by
  simp only [poolAt, Bool.and_eq_true, beq_iff_eq, List.all_eq_true, List.mem_range, decide_eq_true_eq] at h
  exact ⟨h.1, fun i hi => ⟨(h.2 i hi).1, (h.2 i hi).2⟩⟩
theorem witness_HandleInstructions_cow : poolS.mem.single = [] ∧ poolS.mem.double = [] ∧ keyTgt (memKey 0 0 0x60000) ≤ 3 ∧
    poolAt 0 .load (memKey 0 0 0x40000) (memKey 0 0 0x60000) = true ∧ poolAt 1 .store (memKey 0 0 0x60000) (memKey 0 0 0x60000) = true ∧
    (poolS.poolPage 0 0).shared = true ∧ poolS.poolFree 0 = [1, 2, 3] := by decide +kernel
theorem witness_HandleInstructions_pages : poolS.pageAt 0 0 .load (memKey 0 0 0x40000) (memKey 0 0 0x60000) ∧
    poolS.pageAt 0 1 .store (memKey 0 0 0x60000) (memKey 0 0 0x60000) ∧ poolS.tagsClear (memKey 0 0 0x40000) 65536 (memKey 0 0 0x60000) 65536 := by
  obtain ⟨-, -, -, a, b, -⟩ := witness_HandleInstructions_cow
  exact ⟨poolAt_sound a, poolAt_sound b, fun i j hi _ h => by
    have : 3 < keyTgt (memKey 0 0 0x40000 + i) := h.1
    simp only [memKey, keyTgt] at this; omega⟩
theorem witness_EngineFills_plan : ((SQ 0 zeroOp 1).queue 0).ahead = [] ∧ ((SQ 0 zeroOp 1).queue 0).planEnd = 0 ∧ memKey 0 2 0x100 % 16 = 0 ∧
    (∀ i, i < 64 → (SQ 0 zeroOp 1).remapping 0 1 (0x100 + i) = none) ∧ (SQ 0 zeroOp 1).isLocal (memKey 0 2 0x100) = true := by decide +kernel

/-- A resumed thread of a graph, with its wake milestone, parks; its `park` is refused while a request is pending. -/
def curve0 : Curve := ⟨100, 50, 80, 200, 300⟩
def mile0 : WakeMile := { gtid := 0, curve := curve0, at_ := 0, cost := 1, energy := 1, placed := some (0, 0), dead := false }
def wakeG : Graph := { G0 with curves := [curve0], wakes := [mile0] }
def SPg (v : Nat) (t : Thread) : State := { (SP v).setGraph 0 wakeG with nextGraph := 1, slots := (world t).slots }
theorem witness_LayByInstructions_graph : (SPg 5 R).graphOf R.gtid = some 0 ∧ wakeG.wakes.find? (fun w => w.gtid == R.gtid && w.placed.isSome) = some mile0 ∧
    then_ (.park parkE) (SPg 5 R) (fun s => (s.thread 0).isNone && s.conts.length == 1 && (s.graph 0).earned == 100 && (s.graph 0).wakes == []) = true ∧
    after (.park parkE) { SPg 5 R with conts := [cont0] } (fun s t => t.reg 5 == dataInt (-2) && (s.graph 0).earned == 100) = true ∧
    -- refused with a pre-emption pending: it passes, and is saved
    then_ (.park parkE) { SPg 5 { R with request := some .suspend } with conts := [cont0] } (fun s => (s.thread 0).isNone &&
      (s.ctx 0).saved.any fun v => v.pc == 12) = true := by decide +kernel

/-- The last thread of a task of a graph leaves, and one of two; the milestone counts, and the successor is ready. -/
def drainG (w : Nat) : Graph := { Graph.none with
  tasks := [{ GTask.none with state := .placed, mstone := 1, width := w }, { GTask.none with state := .blocked, preds := 1, mstone := 2 }]
  edges := [(0, 1)], curves := [curve0, curve0], status := 0x180 }
def drainS (w : Nat) : State := at_ { (SG.setGraph 0 (drainG w)) with nextGraph := 1, slots := (world { R with halted := true }).slots } (ix 0)
theorem witness_ThreadEvents_drain : (drainS 1).graphOf R.gtid = some 0 ∧ ((drainG 1).task 0).exited + 1 ≥ ((drainG 1).task 0).width ∧
    (1 : Nat) ∈ (drainG 1).succs 0 ∧ ((drainG 1).task 0).released = false ∧ (drainG 1).predsOf 0 = [] ∧ ((drainG 1).succs 0).Nodup ∧
    then_ .threadDrainEnd (drainS 1) (fun s => (s.thread 0).isNone && ((s.graph 0).task 0).state == .done && ((s.graph 0).task 1).state == .ready &&
      (s.ctx 0).value == 100 && (s.graph 0).mdone == 1) = true ∧
    then_ .threadDrainEnd (drainS 2) (fun s => (s.thread 0).isNone && ((s.graph 0).task 0).state == .placed && ((s.graph 0).task 0).exited == 1 &&
      (s.ctx 0).value == 0) = true := by decide +kernel

/-- A walk of a page in which the thread waits; a walk that found an error, and one whose page is absent. -/
def walkS (w : Walking) : State := at_ ((world { R with wait := .walk 0 0x100 }).setGrove 0 { Grove.empty with walks := [w] }) { ix 0 with ok := true }
def walk0 (x : Option Translation) (bad : Bool) : Walking := { ctx := 0, va := 0x100, found := x, bad, stale := false }
theorem witness_ThreadEvents_walk : (walk0 none false).covers 0 0x100 = true ∧ (walkS (walk0 none false)).moving 0 0x100 = false ∧
    then_ .pageWalkEnd (walkS (walk0 (some page0) false)) (fun s => (s.grove 0).tlb.contains page0 && (s.grove 0).walks == [] && (s.thread 0).any fun t => t.absent.isNone) = true ∧
    then_ .pageWalkEnd (walkS (walk0 none true)) (fun s => (s.grove 0).tlb == [] && (s.thread 0).any fun t => t.absent.isNone) = true ∧
    then_ .pageWalkEnd (walkS (walk0 none false)) (fun s => (s.grove 0).tlb == [] && (s.thread 0).any fun t => t.absent == some 0) = true := by decide +kernel

/-- Core 0 at a boundary of its rotation: context 0 has its target, context 1 lacks slots, and every slot but slot 5 is pinned. -/
def giveS : State := at_ { (((State.reset.setCtx 0 Ctx.house).setCtx 1 { Ctx.house with eff := [(0, { EffRegs.zero with weight := 1 })] })) with
  slots := (List.range 16).map fun i => (i, { Slot.empty with quota := 1, pin := i != 5 }) } (ix 0)
theorem witness_PreemptEvents_share : giveS.dueShare = some 0 ∧ (giveS.shareTarget 0 0) ≤ giveS.ownedOf 0 0 ∧ giveS.neediest 0 = some 1 ∧ giveS.slotReserved 5 = false ∧
    then_ .slotReassign giveS (fun s => (s.slot 5).owner == 1 && (s.slot 4).owner == 0) = true ∧
    then_ .slotReassign (at_ giveS (ix 1)) (fun s => (s.slot 5).owner == 0) = true ∧
    -- a context with a slot, and one whose engine waits for a peer package, are not yet gone
    then_ .teardownEnd (at_ ((world R).setCtx 0 { Ctx.house with mode := .tornDown }) (ix 0)) (fun s => (s.ctx 0).mode == .tornDown) = true := by decide +kernel
/-- A core that grows hot: its logical core is asked to leave, or cannot, and then its slots are masked. -/
def hotS (c : Ctx) : State := W R c { ix 0 with value := 1521 }
theorem witness_PreemptEvents_hot : ((hotS houseX).core 0).temp ≤ hotTemp ∧ hotTemp < 1521 ∧ (hotS houseX).lcoresOn 0 = [(0, 0)] ∧
    then_ .coreOverheat (hotS houseX) (fun s => s.migrations.length == 1 && (s.thread 0).any fun t => t.request == some .migrate) = true := by decide +kernel
/-- A logical core of a context that owns no slot elsewhere. -/
def tightS : State := { (world { R with gtid := 2 ^ 52 }).setCtx 1 houseX with arg := { ix 0 with value := 1521 } }
theorem witness_PreemptEvents_tight : tightS.lcoresOn 0 = [(1, 0)] ∧ ((tightS.setCore 0 { tightS.core 0 with temp := 1521 }).requestMigration 1 0 .cooler).1 = -2 ∧
    then_ .coreOverheat tightS (fun s => (List.range 16).all fun i => (s.slot i).thermal) = true := by decide +kernel
theorem witness_PreemptEvents_transfer : (moveS { moveM with dest := some 1, slots := [0], left := [0], skidder := 1 }).thread (0 * 16 + 0) ≠ none ∧
    then_ .migrationTransfer (moveS { moveM with dest := some 1, slots := [0], left := [0], skidder := 1 }) (fun s =>
      s.migrations == [{ moveM with dest := some 1, slots := [0], left := [], skidder := 1 }]) = true ∧ (moveS moveM).freeSkidder 0 ≠ 0 ∧ (moveS moveM).halfDone moveM = false ∧
    (moveS moveM).copiesWhole { moveM with dest := some 1, slots := [0] } 1 = true := by decide +kernel

/-- A placement while a slot is due to pass; a copy no skidder has begun; a tick that is not due. -/
theorem witness_LandingEvents_due : giveS.dueShare ≠ none ∧ then_ .taskPlacement (at_ giveS (ix 0)) (fun s => s == at_ giveS (ix 0)) = true ∧
    (let k : Resident := { ctx := 0, kernel := 0x1000, size := 64, code := [], whole := false, skidder := 0, used := 0 }
     let s := at_ ((withKernel (world { R with pc := 0x1080, wait := .kernel }) kernel0).setGrove 0 { Grove.empty with kernels := [k] }) { ix 0 with addr := 0x1000 }
     s.freeSkidder 0 ≠ 0 ∧ then_ .kernelCopyComplete s (fun s => (s.grove 0).kernels.any (fun r => r.skidder != 0 && !r.whole) &&
       (s.thread 0).any (fun t => t.wait == .kernel)) = true) ∧
    then_ .landingTick (at_ { S with now := 9999 } (ix 3)) (fun s => Store.get 0 s.ticked 3 == 0) = true ∧
    waveS.dueShare = none ∧ SPl.dueShare = none ∧ contS.dueShare = none ∧ startS.dueShare = none ∧ SPt.dueShare = none := by decide +kernel

/-- A demotion to flash with no page of it free; a page move whose M software has cleared before it dropped the page; a pool beyond 2^57. -/
def moveO : PageMove := { moveP with entry := moveP.entry + 2 ^ 58, obeyed := true }
theorem witness_LayByEvents_more : then_ .tcxlExpiry { layS 4 { held0 with dueCxl := some 30000000 } with flashFree := [] } (fun s =>
      (s.contOf wakeKey).any fun c => c.down == [] && c.downTgt == 5 && c.dueCxl == none) = true ∧
    then_ .kvpoolWrite (at_ S { Arg.none with writer := .thread 0, value := (2 ^ 41 - 1) * 65536 + 2 }) (fun s => (s.ctx 0).poolCount == 0) = true ∧
    ({ moveT with moves := [moveO] } : State).leafCleared moveO = true ∧ ({ moveT with moves := [moveO] } : State).leafKept moveO = false ∧
    moveO.src = moveP.src ∧ moveO.dst = moveP.dst ∧ moveO.leaf = moveP.leaf := by decide +kernel

/-- A port whose TLB misses while a walk outlasts the step; one whose page is absent; a page in host memory at 0x3000. -/
def walks (s : State) : State := at_ s { s.arg with walk := true }
def hostPage (s : State) : State := s.writeNum (memKey 0 0 0x5018) 8 (2 ^ 63 + 2 ^ 62 + 2 ^ 61 + 6 * 2 ^ 52)
def isWaits (x : PortEnd × State) : Bool := x.1 == .waits
def keyOver (x : Except EngineStop Nat) : Bool := match x with | .ok k => decide (3 < keyTgt k) | _ => false
theorem witness_QueuePairEvents_ports :
    (let s := at_ { QS 0 [(4096, some (pair1 3))] with slots := (world { R with rx := [rxOf loadA] }).slots } (ring 1)
     s.writerReleased s.arg.writer = false ∧ then_ .qpDoorbellSend s (fun s => qpIs s 4096 fun q => q.sendProd == 0) = true) ∧
    (let q := { pair1 3 with sendProd := 1 }
     let s := walks ((QS 0 [(4096, some q)]).writeNum (memKey 0 0 0x30000) 64 (workReq 0))
     isWaits (s.workAt 4096 q 0) = true ∧ then_ .workRequest s (fun s => qpIs s 4096 fun x => x == q) = true) ∧
    then_ .workRequest ((QS 0 [(4096, some { pair1 3 with sendProd := 1 })]).writeNum (memKey 0 0 0x30000) 64 (workReq 5)) (fun s =>
      qpIs s 4096 fun x => x.busy && x.fail == 1) = true ∧
    ((peerQ 2 9 0x4000 0).portWrite 0 4096 0x4000 16 (1 + 5 * 2 ^ 64)).1 = .fails ∧ then_ .rdmaWriteIn (peerQ 2 9 0x4000 0) (answered false 1) = true ∧
    isWaits ((walks (peerQ 2 9 0x2C00 0)).portWrite 0 4096 0x2C00 16 (1 + 5 * 2 ^ 64)) = true ∧
    then_ .rdmaWriteIn (walks (peerQ 2 9 0x2C00 0)) (fun s => s.hostOut == [] && s.readNum (memKey 0 0 0x30C00) 16 == 0) = true ∧
    ((peerQ 3 9 0x4000 8).portRead 0 4096 0x4000 8).1 = .fails ∧ then_ .rdmaReadIn (peerQ 3 9 0x4000 8) (answered false 1) = true ∧
    isWaits ((walks (peerQ 3 9 0x2400 8)).portRead 0 4096 0x2400 8) = true ∧ then_ .rdmaReadIn (walks (peerQ 3 9 0x2400 8)) (fun s => s.hostOut == []) = true ∧
    keyOver (((portOp 0 4096).key portReach 0x3000 .store).run.run (hostPage (peerQ 3 9 0x3000 1))).1 = true ∧
    then_ .rdmaAtomicIn (hostPage (peerQ 3 9 0x3000 1)) (answered false 1) = true := by decide +kernel

/-- A power record sent to a remote ring through pair 2 of context 0, on port 0; a pair that is not in RTS. -/
def remoteS (st : Nat) : State := { powS 0 with power := { (powS 0).power with ringKind := 2, ringQpn := 0x1002 }, qps := [(2, some { pair1 st with owner := 0 })] }
theorem witness_PowerEvents_remote : (remoteS 3).power.ringQpn - 0x1000 = 2 ∧
    then_ .governorWindowEnd (remoteS 3) (fun s => s.power.records.length == 1 && s.power.produced == 1) = true ∧
    then_ .governorWindowEnd (remoteS 2) (fun s => s.power.records.length == 0 && s.power.produced == 0) = true ∧
    (powS 0).refillDue 0 = true ∧ then_ .budgetRefill (at_ { powS 0 with now := 999 } (ix 0)) (fun s => s.power.pkg == 10 ^ 9) = true ∧
    (powS 0).dueWindow = true ∧ then_ .governorWindowEnd { powS 0 with now := 999999 } (fun s => s.power.seq == 0) = true := by decide +kernel

/-- The host's own view of memory at 0x10; a clock that is held through another port; a step that comes too late. -/
def cxlS (a : Arg) : State := { hostS a with memBase := 0x40000, memSize := 64 }
theorem witness_SystemEvents_more : (cxlS Arg.none).cxlMemKey 0 4 = some (memKey 0 0 0x40000) ∧ (cxlS Arg.none).cxlMemKey 61 4 = none ∧
    then_ .hostRequest (cxlS { hostA32 3 0 with index2 := 7, value := 4 }) (fun s => s.hostOut == [⟨3, true, 0x04030201⟩]) = true ∧
    then_ .hostRequest (cxlS { hostA32 3 1 with index2 := 8, data := [9, 8] }) (fun s => s.readNum (memKey 0 0 0x40000) 4 == 0x04080901) = true ∧
    then_ .ptpMessage (at_ { S with ptpSync := true, ptpPort := 0, ptpHeld := [0, 2], slew := 5 } (ix 0)) (fun s =>
      s.ptpSync && s.slew == 5 && s.ptpPort == 2 && s.ptpHeld == [2]) = true ∧
    then_ .ptpMessage (at_ { S with ptpOnce := true } { ix 0 with ok := true, value := 1000001 }) (fun s => s.now == 0 && s.slew == 1000001) = true ∧
    then_ .ptpMessage (at_ { S with nextGraph := 1 } { ix 0 with ok := true, value := 1000001 }) (fun s => s.now == 0 && s.slew == 1000001) = true := by decide +kernel

/-- Packets of a group that has accepted no flit. -/
theorem witness_LinkEvents_silent : (let s := (peerS 0 peerLoad).setLink 0 { (peerS 0 peerLoad).link 0 with holds := 0 }
     s.delivers 0 = false ∧ then_ .packetRequest s (fun t => t == s) = true) ∧
    (let s := (sentS 0 true).setLink 0 { (sentS 0 true).link 0 with holds := 0 }
     s.delivers 0 = false ∧ then_ .packetReply s (fun t => t == s) = true) := by decide +kernel

/-- SPDM: the requests in order, one out of order, an index without a measurement, the count, and all with a signature. -/
def spdmS (step k : Nat) (ok : Bool) : State :=
  bootS { Arg.none with index := k, ok } { Boot.reset with stage := 5, imageDigest := 9, recordDigest := 8, romver := 1, fused := 2, spdmStep := step }
theorem witness_BootEvents_spdm :
    then_ .getVersion (spdmS 3 0 false) (fun s => s.boot.spdm == [(1, 1, [0x13])] && s.boot.spdmStep == 1) = true ∧
    then_ .getCapabilities (spdmS 1 0 false) (fun s => s.boot.spdm == [(2, 1, [0x16])] && s.boot.spdmStep == 2) = true ∧
    then_ .getCapabilities (spdmS 0 0 false) (fun s => s.boot.spdm == [(2, 2, [])] && s.boot.spdmStep == 0) = true ∧
    then_ .negotiateAlgorithms (spdmS 2 0 true) (fun s => s.boot.spdm == [(3, 1, [384, 384])] && s.boot.spdmStep == 3) = true ∧
    then_ .negotiateAlgorithms (spdmS 2 0 false) (fun s => s.boot.spdm == [(3, 1, [0, 0])] && s.boot.spdmStep == 2) = true ∧
    then_ .challenge (spdmS 2 0 true) (fun s => s.boot.spdm == [(5, 2, [])]) = true ∧
    then_ .challenge (spdmS 3 0 true) (fun s => s.boot.spdm.length == 1 && s.fresh == State.reset.fresh + 1) = true ∧
    then_ .getMeasurements (spdmS 3 0 false) (fun s => s.boot.spdm == [(6, 1, [3])]) = true ∧
    then_ .getMeasurements (spdmS 3 0xFF false) (fun s => s.boot.spdm == [(6, 1, [9, 8, 1, 2])]) = true ∧
    then_ .getMeasurements (spdmS 3 4 false) (fun s => s.boot.spdm == [(6, 3, [])]) = true := by decide +kernel

/-! ### The whole machine -/

/-- A term with a row of the table and the bytes the decoder reads from its words. -/
theorem witness_DecodeRoundTrip : (Instr.faddX (ex 10 11 3 0 0 9 0x40 0)).row ≠ none ∧ (Instr.faddX (ex 10 11 3 0 0 9 0x40 0)).wf = true ∧
    (decode (encodeBytes (.faddX (ex 10 11 3 0 0 9 0x40 0)) ++ [1]) matches .ok (.faddX _)) = true := by decide +kernel
theorem test_sample_words : Obligations.SampleWords := by unfold Obligations.SampleWords; refine ⟨?_, ?_, ?_, ?_, ?_, ?_, ?_, ?_⟩ <;> rfl
/-- `add q5, q6, q7` at the PC, placed as the host places it, 6 + 7 in its registers; a turn of the thread; an event. -/
def turnS : State := { (State.reset.withFetchWord 32 0x3FC014C7).setThread 0 R with agenda := [⟨0, .turn 0 TurnOpts.plain, false, []⟩] }
theorem witness_StepRunsInstruction : (match turnS.agenda with
      | [⟨0, .turn 0 o, false, []⟩] =>
        let s2 : State := { ({ turnS with agenda := [] } : State).elapse 0 with opts := o, cur := 0 }
        s2.ready 0 && (s2.thread 0).any fun t => !t.debugStop && !t.pair && (match s2.fetch 0 t with
          | (.bytes l _, _) => (match decode l with | .ok (.add e) => e == ow 5 6 7 | _ => false)
          | _ => false)
      | _ => false) = true ∧
    (match step turnS with | .next s => (s.thread 0).any fun t => t.pc == R.pc + 4 && t.reg 5 == dat 3 13 | _ => false) = true ∧
    (match step { S with agenda := [⟨0, .event .linkLoss (ix 0), false, []⟩] } with | .next s => s.agenda == [] | _ => false) = true := by decide +kernel
/-- A turn that has been taken; the turn of the next cycle, which is of slot 1, that has no thread and whose lender has none: a bubble. -/
theorem witness_StepRunsInstruction_turns : let taken : State := turnS.setCore 0 { turnS.core 0 with taken := 1 }
    let later : State := { turnS with osc := 28 }
    (taken.elapse 0).cycle 0 < ((taken.elapse 0).core 0).taken ∧
    (match step taken with | .next s => (s.thread 0).any fun t => t.pc == R.pc | _ => false) = true ∧
    later.cycle 0 = 1 ∧ later.ready 1 = false ∧ later.mayBorrow 1 = false ∧
    (match step later with | .next s => ((s.thread 0).any fun t => t.pc == R.pc) && (s.core 0).taken == 2 | _ => false) = true := by decide +kernel
/-- The turn of slot 1, which is empty, lent to its partner's thread; a long instruction does not take it; a word that an error hits. -/
def lentS (i : Nat) (n : Nat) : State := { (State.reset.withFetchWord n i).setSlot (lender 1) { Slot.empty with quota := 1, thread := some R } with
  osc := 28, agenda := [⟨0, .turn 0 TurnOpts.plain, false, []⟩] }
theorem witness_StepRunsInstruction_lent :
    (lentS 0x3FC014C7 32).ready 1 = false ∧ (lentS 0x3FC014C7 32).mayBorrow 1 = true ∧ isLong (.add (ow 5 6 7)) = false ∧
    (match step (lentS 0x3FC014C7 32) with | .next s => (s.thread (lender 1)).any fun t => t.pc == 4 && t.reg 5 == dat 3 13 | _ => false) = true ∧
    (let s := lentS (numOf (encodeBytes (.div (ow 5 6 7)))) 32
     isLong (.div (ow 5 6 7)) = true ∧ s.mayBorrow 1 = true ∧
     (match step s with | .next s => (s.thread (lender 1)).any fun t => t.pc == R.pc && t.reg 5 == R.reg 5 | _ => false) = true) ∧
    (match step { turnS with agenda := [⟨0, .turn 0 TurnOpts.plain, false, [(page0.key 0 / 8, true)]⟩] } with
      | .next s => stopKind 4 0 (s.thread 0) | _ => false) = true := by decide +kernel
/-- Bytes that are no instruction, and a PC whose page is absent. -/
theorem witness_StepRunsInstruction_stops :
    (match step (State.reset.withFetchWord 32 0x3FFC0000) with | .next s => stopKind 1 1 (s.thread 0) | _ => false) = true ∧
    (match step { W { R with pc := 0x3000 } houseX Arg.none with agenda := [⟨0, .turn 0 TurnOpts.plain, false, []⟩] } with
      | .next s => (s.thread 0).any fun t => t.stopped.any fun x => x.kind == 3 | _ => false) = true ∧
    fetchable page0.leaf = true ∧ tlbFind (S.grove 0).tlb 0 0 = some page0 ∧ S.isLocal (page0.key 0) = true ∧ lengthOf (S.byte (page0.key 0 + 3)) ≤ 64 := by
  decide +kernel
theorem witness_TidyKept : S.Tidy ∧ (match step { S with agenda := [⟨0, .event .linkLoss (ix 0), false, []⟩] } with | .next _ => true | _ => false) = true :=
  ⟨S_tidy, by decide +kernel⟩

/-- The machines above are in order, as the statements ask. -/
def tidy (s : State) : Bool :=
  s.mem.wf && Store.rising s.slots && Store.rising s.ctxs && Store.rising s.queues && Store.rising s.crews && Store.rising s.cores &&
  Store.rising s.links && Store.rising s.qps && Store.rising s.groves && Store.rising s.graphs && Store.rising s.handles &&
  s.ctxs.all fun e => Store.rising e.2.counters && Store.rising e.2.pool && Store.rising e.2.kernels
theorem tidy_sound {s : State} (h : tidy s = true) : s.Tidy := by
  simp only [tidy, Bool.and_eq_true, List.all_eq_true] at h
  obtain ⟨⟨⟨⟨⟨⟨⟨⟨⟨⟨⟨a, b⟩, c⟩, d⟩, e⟩, f⟩, g⟩, h⟩, i⟩, j⟩, k⟩, l⟩ := h
  exact ⟨a, b, c, d, e, f, g, h, i, j, k, fun x hx => (l x hx).1.1, fun x hx => (l x hx).1.2, fun x hx => (l x hx).2⟩
theorem witness_states_tidy : [S, S2, S3, S4, S5, SE, SQ 0 zeroOp 0, dispatchS, joinS, haltS, ballastS, SG, ST, T R, sendS 7, handlerS, resumeS,
    moveS moveM, SK, withKernel SK kernel0, SPl, contS, waveS, layS 4 held0, QS (qpRec 0x1000 1 1) [(4096, some (pair1 1))], busyS 0 0 true, peerQ 2 9 0x2C00 0,
    dbgS 64 R, bp 7 R, powS 0, hostS Arg.none, linkS 3 1 Arg.none, peerS 0 peerLoad, sentS 0 true].all tidy = true := by decide +kernel

end Sys2Proof.Tests
end

section
/-!
PROOF. Every step keeps the tables in order and memory in its canonical form (02 R27): one lemma per operation of the machine says
that it leads from a tidy machine to a tidy machine; `step` is composed of them.
-/
namespace Sys2Proof.Machine
set_option Elab.async false

/-! ## Tidy values: contexts, and the outcomes that hold a machine -/

/-- The tables of a context are in order. -/
def Ctx.Tidy (x : Ctx) : Prop :=
  Store.rising x.counters = true ∧ Store.rising x.pool = true ∧ Store.rising x.kernels = true

/-- What a context has to keep in order. -/
abbrev Ctx.tables (x : Ctx) := (x.counters, x.pool, x.kernels)

theorem Ctx.Tidy.of_tables {x y : Ctx} (h : x.Tidy) (e : y.tables = x.tables := by rfl) : y.Tidy := by
  simp only [Ctx.tables, Prod.mk.injEq] at e
  obtain ⟨e1, e2, e3⟩ := e
  unfold Ctx.Tidy
  rw [e1, e2, e3]
  exact h

/-- The machine that an instruction or an event goes on with, where it goes on, is tidy. -/
def Result.Tidy : Result → Prop
  | .next s => s.Tidy
  | _ => True

/-- A machine that is there is tidy. -/
def TidySome : Option State → Prop
  | some s => s.Tidy
  | none => True

/-- The machine of a pair that is there is tidy. -/
def TidyPair {α : Type} : Option (α × State) → Prop
  | some p => p.2.Tidy
  | none => True

/-- A computation of an engine leads from a tidy machine to a tidy machine, whether it ends or stops. -/
def Eng.Tidy {α : Type} (m : Eng α) : Prop := ∀ s : State, s.Tidy → (m.run.run s).2.Tidy

theorem TidySome.out {o : Option State} {s : State} (h : TidySome o) (e : o = some s) : s.Tidy := by subst e; exact h
theorem TidyPair.out {α : Type} {o : Option (α × State)} {a : α} {s : State} (h : TidyPair o) (e : o = some (a, s)) : s.Tidy := by
  subst e; exact h
theorem State.Tidy.out {α : Type} {p : α × State} {a : α} {s : State} (h : p.2.Tidy) (e : p = (a, s)) : s.Tidy := by subst e; exact h
theorem State.Tidy.out₂ {α β : Type} {p : α × β × State} {a : α} {b : β} {s : State} (h : p.2.2.Tidy) (e : p = (a, b, s)) : s.Tidy := by
  subst e; exact h

/-! ## Branches and loops -/

theorem State.Tidy.ite {c : Prop} [Decidable c] {a b : State} (ha : a.Tidy) (hb : b.Tidy) : (if c then a else b).Tidy := by
  split <;> assumption
theorem State.Tidy.ite_snd {α : Type} {c : Prop} [Decidable c] {a b : α × State} (ha : a.2.Tidy) (hb : b.2.Tidy) :
    (if c then a else b).2.Tidy := by split <;> assumption
theorem Ctx.Tidy.ite {c : Prop} [Decidable c] {a b : Ctx} (ha : a.Tidy) (hb : b.Tidy) : (if c then a else b).Tidy := by
  split <;> assumption
theorem Result.Tidy.ite {c : Prop} [Decidable c] {a b : Result} (ha : Result.Tidy a) (hb : Result.Tidy b) :
    Result.Tidy (if c then a else b) := by split <;> assumption

theorem Result.Tidy.next {s : State} (h : s.Tidy) : Result.Tidy (.next s) := h

theorem State.Tidy.getD {o : Option State} {s : State} (ho : TidySome o) (h : s.Tidy) : (o.getD s).Tidy := by
  cases o with
  | none => exact h
  | some _ => exact ho
theorem TidySome.map {α : Type} {f : α → State} {o : Option α} (hf : ∀ a, (f a).Tidy) : TidySome (o.map f) := by
  cases o with
  | none => trivial
  | some a => exact hf a

theorem TidySome.bind {α : Type} {f : α → Option State} {o : Option α} (hf : ∀ a, TidySome (f a)) : TidySome (o.bind f) := by
  cases o with
  | none => trivial
  | some a => exact hf a
theorem TidySome.findSome? {α : Type} {f : α → Option State} {l : List α} (hf : ∀ a, TidySome (f a)) : TidySome (l.findSome? f) := by
  cases h : l.findSome? f with
  | none => trivial
  | some s => obtain ⟨a, _, ha⟩ := List.exists_of_findSome?_eq_some h; exact (hf a).out ha
theorem TidyPair.findSome? {α β : Type} {f : α → Option (β × State)} {l : List α} (hf : ∀ a, TidyPair (f a)) :
    TidyPair (l.findSome? f) := by
  cases h : l.findSome? f with
  | none => trivial
  | some p => obtain ⟨a, _, ha⟩ := List.exists_of_findSome?_eq_some h; exact (hf a).out ha
theorem TidySome.pair {β : Type} {o : Option State} {b : β} (ho : TidySome o) : TidyPair (o.map fun s => (b, s)) := by
  cases o with
  | none => trivial
  | some _ => exact ho
theorem TidyPair.map {α β : Type} {f : α → β × State} {o : Option α} (hf : ∀ a, (f a).2.Tidy) : TidyPair (o.map f) := by
  cases o with
  | none => trivial
  | some a => exact hf a

theorem State.Tidy.foldl {β : Type} {f : State → β → State} {l : List β} {s : State} (h : s.Tidy)
    (hf : ∀ s b, s.Tidy → (f s b).Tidy) : (l.foldl f s).Tidy := foldl_keeps State.Tidy f hf l s h
theorem State.Tidy.foldl_snd {α β : Type} {f : α × State → β → α × State} {l : List β} {p : α × State} (h : p.2.Tidy)
    (hf : ∀ p b, p.2.Tidy → (f p b).2.Tidy) : (l.foldl f p).2.Tidy := foldl_keeps (fun p : α × State => p.2.Tidy) f hf l p h
theorem State.Tidy.loopUp {f : Nat → State → State} {n : Nat} {s : State} (h : s.Tidy) (hf : ∀ i s, s.Tidy → (f i s).Tidy) :
    (loopUp n f s).Tidy := by
  induction n with
  | zero => exact h
  | succ n ih => exact hf n _ ih

/-! ## Computations of engines -/

section
variable {α β : Type} {s : State}

theorem Eng.Tidy.run {m : Eng α} (hm : Eng.Tidy m) (h : s.Tidy) : (m.run.run s).2.Tidy := hm s h
theorem Eng.Tidy.pure {a : α} : Eng.Tidy (pure a : Eng α) := fun _ h => h
theorem Eng.Tidy.throw {e : EngineStop} : Eng.Tidy (throw e : Eng α) := fun _ h => h
theorem Eng.Tidy.set (h : s.Tidy) : Eng.Tidy (set s : Eng PUnit) := fun _ _ => h
theorem Eng.Tidy.modify {f : State → State} (hf : ∀ s, s.Tidy → (f s).Tidy) : Eng.Tidy (modify f : Eng PUnit) := hf

theorem Eng.Tidy.bind {m : Eng α} {f : α → Eng β} (hm : Eng.Tidy m) (hf : ∀ a, Eng.Tidy (f a)) : Eng.Tidy (m >>= f) := by
  intro s h
  have h1 := hm s h
  simp only [ExceptT.run_bind, StateT.run_bind]
  generalize hr : m.run.run s = r at h1
  obtain ⟨x, s1⟩ := r
  cases x with
  | ok a => exact hf a s1 h1
  | error e => exact h1

theorem Eng.Tidy.get_bind {f : State → Eng β} (hf : ∀ s, s.Tidy → Eng.Tidy (f s)) : Eng.Tidy (get >>= f) := fun s h => hf s h s h

theorem Eng.Tidy.ite {c : Prop} [Decidable c] {m n : Eng α} (hm : Eng.Tidy m) (hn : Eng.Tidy n) : Eng.Tidy (if c then m else n) := by
  split <;> assumption

/-- A step of a `do` block that only one branch takes, before what follows. -/
theorem Eng.Tidy.ite_join {c : Prop} [Decidable c] {m : Eng α} {n : Eng β} (hm : Eng.Tidy m) (hn : Eng.Tidy n) :
    Eng.Tidy (if c then m >>= fun _ => n else n) := .ite (.bind hm fun _ => hn) hn

/-- Two branches of a `do` block, before what follows. -/
theorem Eng.Tidy.ite_joins {c : Prop} [Decidable c] {m n : Eng α} {f : α → Eng β} (hm : Eng.Tidy m) (hn : Eng.Tidy n)
    (hf : ∀ a, Eng.Tidy (f a)) : Eng.Tidy (if c then m >>= f else n >>= f) := .ite (.bind hm hf) (.bind hn hf)

theorem Eng.Tidy.forM {f : α → Eng PUnit} {l : List α} (hf : ∀ a, Eng.Tidy (f a)) : Eng.Tidy (l.forM f) := by
  induction l with
  | nil => exact .pure
  | cons a r ih => exact .bind (hf a) fun _ => ih

theorem Eng.Tidy.foldlM {f : β → α → Eng β} {l : List α} {b : β} (hf : ∀ b a, Eng.Tidy (f b a)) : Eng.Tidy (l.foldlM f b) := by
  induction l generalizing b with
  | nil => exact .pure
  | cons a r ih => exact .bind (hf b a) fun _ => ih

theorem Eng.Tidy.mapM {f : α → Eng β} {l : List α} (hf : ∀ a, Eng.Tidy (f a)) : Eng.Tidy (l.mapM f) := by
  induction l with
  | nil => exact .pure
  | cons a r ih => rw [List.mapM_cons]; exact .bind (hf a) fun _ => .bind ih fun _ => .pure

end

/-! ## Tables -/

/-- A part of a table keeps its order. -/
theorem Store.rising_filterMap {α : Type} (f : Nat × α → Option (Nat × α)) (hf : ∀ e x, f e = some x → x.1 = e.1) (m : Store α)
    (h : Store.rising m = true) : Store.rising (m.filterMap f) = true := by
  induction m with
  | nil => rfl
  | cons e r ih =>
    rw [Store.rising_cons, Bool.and_eq_true] at h
    obtain ⟨ha, hr⟩ := h
    cases he : f e with
    | none => rw [List.filterMap_cons_none he]; exact ih hr
    | some x =>
      rw [List.filterMap_cons_some he, Store.rising_cons, Bool.and_eq_true]
      refine ⟨?_, ih hr⟩
      unfold Store.above at *
      simp only [List.all_eq_true, decide_eq_true_eq, List.mem_filterMap] at *
      rintro y ⟨z, hz, hy⟩
      rw [hf e x he, hf z y hy]
      exact ha z hz

theorem Store.rising_filter {α : Type} (p : Nat × α → Bool) (m : Store α) (h : Store.rising m = true) :
    Store.rising (m.filter p) = true := by
  rw [← List.filterMap_eq_filter]
  refine Store.rising_filterMap _ (fun e x hx => ?_) m h
  rw [(Option.guard_eq_some_iff.1 hx).1]

/-- A table whose values that end up empty are left out. -/
theorem Store.rising_mapKept {α : Type} {c : Nat × α → Prop} [∀ e, Decidable (c e)] {f : Nat × α → α} {m : Store α}
    (h : Store.rising m = true) : Store.rising (m.filterMap fun e => if c e then none else some (e.1, f e)) = true := by
  refine Store.rising_filterMap _ (fun e x hx => ?_) m h
  split at hx
  · cases hx
  · cases hx; rfl

theorem Store.mem_put {α : Type} [DecidableEq α] (d : α) (m : Store α) (k : Nat) (v : α) {e : Nat × α}
    (h : e ∈ Store.put d m k v) : e = (k, v) ∨ e ∈ m := by
  induction m with
  | nil =>
    simp only [Store.put] at h
    split at h
    · exact absurd h List.not_mem_nil
    · exact .inl (List.mem_singleton.1 h)
  | cons x r ih =>
    simp only [Store.put] at h
    split_ifs at h <;> simp only [List.mem_cons] at h ⊢ <;> tauto

/-- A value that a table holds, or its default. -/
theorem Store.get_mem {α : Type} (d : α) (m : Store α) (k : Nat) : Store.get d m k = d ∨ (k, Store.get d m k) ∈ m := by
  induction m with
  | nil => exact .inl rfl
  | cons e r ih =>
    obtain ⟨j, v⟩ := e
    simp only [Store.get]
    split
    · next hk => exact .inr (hk ▸ List.mem_cons_self ..)
    · exact ih.imp_right (List.mem_cons_of_mem _)

/-! ## The tables of a machine -/

/-- What a machine has to keep in order. -/
abbrev State.tables (s : State) :=
  (s.mem, s.slots, s.ctxs, s.queues, s.crews, s.cores, s.links, s.qps, s.groves, s.graphs, s.handles)

/-- A machine with the same tables is as tidy. -/
theorem State.Tidy.of_tables {s s' : State} (h : s.Tidy) (e : s'.tables = s.tables := by rfl) : s'.Tidy := by
  simp only [State.tables, Prod.mk.injEq] at e
  obtain ⟨e1, e2, e3, e4, e5, e6, e7, e8, e9, e10, e11⟩ := e
  constructor <;> simp only [e1, e2, e3, e4, e5, e6, e7, e8, e9, e10, e11]
  exacts [h.mem, h.slots, h.ctxs, h.queues, h.crews, h.cores, h.links, h.pairs, h.groves, h.graphs, h.handles, h.counters, h.pools,
    h.kernels]

theorem State.Tidy.withDbg {s : State} {d : Debug} (h : s.Tidy) : ({ s with dbg := d } : State).Tidy := h.of_tables
theorem State.Tidy.withConts {s : State} {l : List Continuation} (h : s.Tidy) : ({ s with conts := l } : State).Tidy := h.of_tables

/-- A machine of which memory has changed, in its canonical form. -/
theorem State.Tidy.of_mem {s s' : State} (h : s.Tidy) (hm : s'.mem.wf = true) (e : s'.tables.2 = s.tables.2 := by rfl) : s'.Tidy := by
  have h1 : ({ s with mem := s'.mem } : State).Tidy := { h with mem := hm }
  exact h1.of_tables (Prod.ext rfl e)

theorem Ctx.Tidy.none : Ctx.none.Tidy := ⟨rfl, rfl, rfl⟩

theorem State.Tidy.ctx_mem {s : State} (h : s.Tidy) {e : Nat × Ctx} (he : e ∈ s.ctxs) : e.2.Tidy :=
  ⟨h.counters e he, h.pools e he, h.kernels e he⟩

theorem State.Tidy.ctx {s : State} (h : s.Tidy) {c : Nat} : (s.ctx c).Tidy := by
  rcases Store.get_mem Ctx.none s.ctxs c with hn | hm
  · unfold State.ctx; rw [hn]; exact Ctx.Tidy.none
  · exact h.ctx_mem hm

/-- A machine whose contexts are replaced by tidy ones. -/
theorem State.Tidy.withCtxs {s : State} {l : Store Ctx} (h : s.Tidy) (hr : Store.rising l = true) (hl : ∀ e ∈ l, e.2.Tidy) :
    ({ s with ctxs := l } : State).Tidy :=
  { h with ctxs := hr, counters := fun e he => (hl e he).1, pools := fun e he => (hl e he).2.1, kernels := fun e he => (hl e he).2.2 }

theorem State.Tidy.setCtx {s : State} {c : Nat} {v : Ctx} (h : s.Tidy) (hv : v.Tidy) : (s.setCtx c v).Tidy :=
  h.withCtxs (State.setCtx_rising s c v h.ctxs) fun _ he =>
    (Store.mem_put _ _ _ _ he).elim (fun e => e ▸ hv) h.ctx_mem

/-- A context of which another part than its tables changes. -/
theorem State.Tidy.editCtx {s : State} {c : Nat} {v : Ctx} (h : s.Tidy) (e : v.tables = (s.ctx c).tables := by rfl) :
    (s.setCtx c v).Tidy := h.setCtx (h.ctx.of_tables e)

theorem State.Tidy.mapCtxs {s : State} {f : Nat × Ctx → Nat × Ctx} (h : s.Tidy) (hk : ∀ e, (f e).1 = e.1)
    (hf : ∀ e, e.2.Tidy → (f e).2.Tidy) : ({ s with ctxs := s.ctxs.map f } : State).Tidy := by
  refine h.withCtxs (Store.rising_map f hk _ h.ctxs) fun e he => ?_
  obtain ⟨x, hx, rfl⟩ := List.mem_map.1 he
  exact hf x (h.ctx_mem hx)

theorem State.Tidy.withSlots {s : State} {l : Store Slot} (h : s.Tidy) (hl : Store.rising l = true) :
    ({ s with slots := l } : State).Tidy := { h with slots := hl }
theorem State.Tidy.withQueues {s : State} {l : Store Queue} (h : s.Tidy) (hl : Store.rising l = true) :
    ({ s with queues := l } : State).Tidy := { h with queues := hl }
theorem State.Tidy.withGroves {s : State} {l : Store Grove} (h : s.Tidy) (hl : Store.rising l = true) :
    ({ s with groves := l } : State).Tidy := { h with groves := hl }
theorem State.Tidy.withGraphs {s : State} {l : Store Graph} (h : s.Tidy) (hl : Store.rising l = true) :
    ({ s with graphs := l } : State).Tidy := { h with graphs := hl }
theorem State.Tidy.withHandles {s : State} {l : Store Handle} (h : s.Tidy) (hl : Store.rising l = true) :
    ({ s with handles := l } : State).Tidy := { h with handles := hl }

theorem State.Tidy.mapSlots {s : State} {f : Nat × Slot → Nat × Slot} (h : s.Tidy) (hk : ∀ e, (f e).1 = e.1) :
    ({ s with slots := s.slots.map f } : State).Tidy := h.withSlots (Store.rising_map f hk _ h.slots)
theorem State.Tidy.mapQueues {s : State} {f : Nat × Queue → Nat × Queue} (h : s.Tidy) (hk : ∀ e, (f e).1 = e.1) :
    ({ s with queues := s.queues.map f } : State).Tidy := h.withQueues (Store.rising_map f hk _ h.queues)

/-- A machine whose contexts are mapped one by one, beside parts that are no tables. -/
theorem State.Tidy.of_mapCtxs {s s' : State} {f : Nat × Ctx → Nat × Ctx} (h : s.Tidy) (ec : s'.ctxs = s.ctxs.map f)
    (hk : ∀ e, (f e).1 = e.1) (hf : ∀ e, e.2.Tidy → (f e).2.Tidy) (e : { s' with ctxs := s.ctxs }.tables = s.tables := by rfl) :
    s'.Tidy := by
  have h1 : ({ s' with ctxs := s.ctxs } : State).Tidy := h.of_tables e
  exact (h1.mapCtxs hk hf).of_tables (by rw [← ec])

/-- A machine whose slots and contexts are mapped one by one, beside parts that are no tables. -/
theorem State.Tidy.of_mapMembers {s s' : State} {f : Nat × Slot → Nat × Slot} {g : Nat × Ctx → Nat × Ctx} (h : s.Tidy)
    (es : s'.slots = s.slots.map f) (ec : s'.ctxs = s.ctxs.map g) (hf : ∀ e, (f e).1 = e.1) (hk : ∀ e, (g e).1 = e.1)
    (hg : ∀ e, e.2.Tidy → (g e).2.Tidy) (e : { s' with slots := s.slots, ctxs := s.ctxs }.tables = s.tables := by rfl) : s'.Tidy := by
  have h1 : ({ s' with slots := s.slots, ctxs := s.ctxs } : State).Tidy := h.of_tables e
  exact ((h1.mapSlots hf).mapCtxs hk hg).of_tables (by rw [← es, ← ec])

theorem State.Tidy.setSlot {s : State} {n : Nat} {v : Slot} (h : s.Tidy) : (s.setSlot n v).Tidy :=
  h.withSlots (State.setSlot_rising s n v h.slots)
theorem State.Tidy.setQueue {s : State} {n : Nat} {v : Queue} (h : s.Tidy) : (s.setQueue n v).Tidy :=
  h.withQueues (State.setQueue_rising s n v h.queues)
theorem State.Tidy.setGrove {s : State} {n : Nat} {v : Grove} (h : s.Tidy) : (s.setGrove n v).Tidy :=
  h.withGroves (State.setGrove_rising s n v h.groves)
theorem State.Tidy.setGraph {s : State} {n : Nat} {v : Graph} (h : s.Tidy) : (s.setGraph n v).Tidy :=
  h.withGraphs (State.setGraph_rising s n v h.graphs)
theorem State.Tidy.setHandle {s : State} {n : Nat} {v : Handle} (h : s.Tidy) : (s.setHandle n v).Tidy :=
  h.withHandles (State.setHandle_rising s n v h.handles)
theorem State.Tidy.setCore {s : State} {n : Nat} {v : CoreState} (h : s.Tidy) : (s.setCore n v).Tidy :=
  { h with cores := State.setCore_rising s n v h.cores }
theorem State.Tidy.setCrew {s : State} {n : Nat} {v : Crew} (h : s.Tidy) : (s.setCrew n v).Tidy :=
  { h with crews := State.setCrew_rising s n v h.crews }
theorem State.Tidy.setLink {s : State} {n : Nat} {v : Link} (h : s.Tidy) : (s.setLink n v).Tidy :=
  { h with links := State.setLink_rising s n v h.links }
theorem State.Tidy.setQp {s : State} {n : Nat} {v : Option QueuePair} (h : s.Tidy) : (s.setQp n v).Tidy :=
  { h with pairs := State.setQp_rising s n v h.pairs }

end Sys2Proof.Machine
end

section
namespace Sys2Proof.Machine
set_option Elab.async false
variable {s : State}

/-! ## Memory (26 R417) -/

theorem State.Tidy.setByte {k : Nat} {v : Byte} (h : s.Tidy) : (s.setByte k v).Tidy := h.of_mem (s.setByte_wf k v h.mem)
theorem State.Tidy.setFull {k : Nat} {v : Bool} (h : s.Tidy) : (s.setFull k v).Tidy := h.of_mem (s.setFull_wf k v h.mem)
theorem State.Tidy.setTag {k : Nat} {v : Bool} (h : s.Tidy) : (s.setTag k v).Tidy := h.of_mem (s.setTag_wf k v h.mem)
theorem State.Tidy.setPoison {k : Nat} {v : Bool} (h : s.Tidy) : (s.setPoison k v).Tidy := h.of_mem (s.setPoison_wf k v h.mem)
theorem State.Tidy.freshWord {k : Nat} (h : s.Tidy) : (s.freshWord k).Tidy := h.of_mem (s.freshWord_wf k h.mem)
theorem State.Tidy.detect {k : Nat} (h : s.Tidy) : (s.detect k).Tidy := h.setPoison.of_tables.ite h
theorem State.Tidy.correct {k : Nat} (h : s.Tidy) : (s.correct k).Tidy :=
  h.of_mem (s.correct_wf k h.mem) (by unfold State.correct; split <;> rfl)
theorem State.Tidy.hitWord {w : Nat × Bool} (h : s.Tidy) : (s.hitWord w).Tidy :=
  h.of_mem (s.hitWord_wf w h.mem) (by unfold State.hitWord; extract_lets m; split <;> [rfl; split <;> rfl])
theorem State.Tidy.writeNibbles {k n v mask : Nat} (h : s.Tidy) : (s.writeNibbles k n v mask).Tidy :=
  h.of_mem (s.writeNibbles_wf k n v mask h.mem) (by rw [State.writeNibbles_mem])

/-! ## Energy (26 R407, R408) -/

theorem State.Tidy.countEvent {c ev n : Nat} (h : s.Tidy) : (s.countEvent c ev n).Tidy := by
  unfold State.countEvent
  dsimp only
  split
  · refine h.setCtx ⟨Store.rising_map _ (fun e => ?_) _ h.ctx.1, h.ctx.2⟩
    split <;> rfl
  · exact h

end Sys2Proof.Machine
end

section
namespace Sys2Proof.Machine
set_option Elab.async false
variable {s : State}

/-! ## Machine/State -/

theorem State.Tidy.reset : State.reset.Tidy := by constructor <;> decide

/-! ## Machine/Basic -/

theorem State.Tidy.setThread {n : Nat} {t : Thread} (h : s.Tidy) : (s.setThread n t).Tidy := h.setSlot

theorem State.Tidy.takeFree (h : s.Tidy) : s.takeFree.2.Tidy := h.of_tables

theorem State.Tidy.writeNum {k n v : Nat} (h : s.Tidy) : (s.writeNum k n v).Tidy := h.writeNibbles

/-! ## Machine/Charge -/

theorem State.Tidy.credit {die c : Nat} {g : Option Nat} {pj : Nat} (h : s.Tidy) : (s.credit die c g pj).Tidy := by
  unfold State.credit
  refine .countEvent ?_
  split
  · exact h.of_tables.editCtx.setGraph
  · exact h.of_tables.editCtx

theorem State.Tidy.chargeUnit {grove unit : Nat} {gtid : Word64} {pj : Nat} (h : s.Tidy) : (s.chargeUnit grove unit gtid pj).Tidy :=
  h.setGrove.credit

theorem State.Tidy.spend {core key : Nat} (h : s.Tidy) : (s.spend core key).Tidy := h.of_tables

/-! ## Machine/Crew -/

theorem State.Tidy.giveResults {ci b : Nat} {bar : Barrier} (h : s.Tidy) : (s.giveResults ci b bar).Tidy := by
  unfold State.giveResults
  refine h.mapSlots fun _ => ?_
  repeat' split
  all_goals rfl

theorem State.Tidy.dropTaker {ci b : Nat} {m : MemberId} (h : s.Tidy) : (s.dropTaker ci b m).Tidy := h.setCrew

theorem State.Tidy.heldTaken {ci b phase : Nat} (h : s.Tidy) : (s.heldTaken ci b phase).Tidy := by
  unfold State.heldTaken
  refine h.of_mapMembers rfl rfl (fun e => ?_) (fun _ => rfl) (fun _ he => he)
  split <;> rfl

theorem State.Tidy.tell {pkgs : List Nat} {op : PeerOp} (h : s.Tidy) : (s.tell pkgs op).Tidy := h.of_tables

theorem State.Tidy.breakMember {ci b : Nat} {who : MemberId} {cause : Nat} (h : s.Tidy) : (s.breakMember ci b who cause).Tidy := by
  unfold State.breakMember
  refine h.of_mapMembers rfl rfl (fun e => ?_) (fun _ => rfl) (fun _ he => he)
  split
  · split <;> rfl
  · rfl

theorem State.Tidy.breakHeld {ci b cause : Nat} {l : List MemberId} (h : s.Tidy) : (s.breakHeld ci b cause l).Tidy :=
  h.foldl fun _ _ h1 => h1.breakMember.ite h1.tell

theorem State.Tidy.applyBoundary {ci : Nat} (h : s.Tidy) : (s.applyBoundary ci).Tidy :=
  ((h.setCrew.foldl fun _ _ h1 => h1.tell).foldl fun _ _ h1 => h1.tell).foldl fun _ _ h1 => h1.breakHeld

theorem State.Tidy.releaseOnce {ci b : Nat} (h : s.Tidy) : (s.releaseOnce ci b).Tidy :=
  (h.applyBoundary.ite h).giveResults.tell.setCrew.breakHeld.heldTaken

theorem State.Tidy.settle {ci n : Nat} (h : s.Tidy) : (s.settle ci n).Tidy := by
  induction n generalizing s with
  | zero => exact h
  | succ n ih => exact .ite (ih h.releaseOnce) (.ite (ih h.releaseOnce) (.ite (ih h.releaseOnce) (.ite (ih h.releaseOnce) h)))

theorem State.Tidy.openEmpty {ci b : Nat} (h : s.Tidy) : (s.openEmpty ci b).Tidy := h.releaseOnce.ite h

theorem State.Tidy.departCrew {m : MemberId} {fault : Bool} {ci : Nat} (h : s.Tidy) : (s.departCrew m fault ci).Tidy :=
  h.setCrew.tell.settle.ite h.setCrew.settle

theorem State.Tidy.departFar {m : MemberId} {fault : Bool} (h : s.Tidy) : (s.departFar m fault).Tidy := h.of_tables

theorem State.Tidy.departAll {m : MemberId} {fault : Bool} (h : s.Tidy) : (s.departAll m fault).Tidy :=
  (h.foldl fun _ _ h1 => h1.departCrew).departFar

/-! ## Machine/Translate -/

theorem State.Tidy.groupPage {c va key : Nat} (h : s.Tidy) : (s.groupPage c va key).2.Tidy := h.ite_snd h.of_tables

theorem State.Tidy.correctWalk {c va : Nat} {w : Walk} (h : s.Tidy) : (s.correctWalk c va w).Tidy := by
  unfold State.correctWalk
  split
  · exact h
  · split
    · exact (h.foldl fun _ _ h1 => h1.correct).detect
    · exact (h.foldl fun _ _ h1 => h1.correct).foldl fun _ _ h1 => h1.correct
    · exact h.foldl fun _ _ h1 => h1.correct

theorem State.Tidy.translationOf {c va : Nat} {w : Walk} (h : s.Tidy) : (s.translationOf c va w).2.Tidy := by
  unfold State.translationOf
  split
  · dsimp only
    exact h.correctWalk
  · dsimp only
    exact h.correctWalk
  · exact h.correctWalk.groupPage.ite_snd h.correctWalk

theorem State.Tidy.mapped {c va : Nat} (h : s.Tidy) : (s.mapped c va).2.Tidy := by
  unfold State.mapped
  split
  · next e => exact h.translationOf.out e

theorem State.Tidy.tlbFill {g : Nat} {t : Translation} (h : s.Tidy) : (s.tlbFill g t).Tidy := h.setGrove

theorem State.Tidy.translate {g c va : Nat} (h : s.Tidy) : (s.translate g c va).2.Tidy := by
  unfold State.translate
  split
  · exact h
  · split
    · next e =>
        split
        · exact (h.mapped.out e).tlbFill
        · exact h.mapped.out e

theorem State.Tidy.beginWalk {g c va : Nat} (h : s.Tidy) : (s.beginWalk g c va).Tidy := by
  unfold State.beginWalk
  split
  · next e => exact h.ite (h.mapped.out e).setGrove

theorem State.Tidy.dropTranslations {p : Translation → Bool} {q : Walking → Bool} (h : s.Tidy) : (s.dropTranslations p q).Tidy :=
  h.withGroves (Store.rising_mapKept h.groves)

theorem State.Tidy.dropNamed {kind c va size : Nat} (h : s.Tidy) : (s.dropNamed kind c va size).Tidy := by
  unfold State.dropNamed
  refine h.dropTranslations.mapSlots fun _ => ?_
  split <;> rfl

theorem State.Tidy.form {c core space a : Nat} {r : Right} (h : s.Tidy) : (s.form c core space a r).2.Tidy := by
  unfold State.form
  split
  · split
    · exact h
    · split
      · next e =>
          split
          · exact h.translate.out e
          · exact h.translate.out e
          · exact (h.translate.out e).ite_snd (h.translate.out e)
  · exact h

/-! ## Machine/Ops -/

theorem State.Tidy.holdMessage {c : Nat} {m : Message} (h : s.Tidy) : (s.holdMessage c m).Tidy := h.editCtx

theorem State.Tidy.postMessage {c : Nat} {m : Message} (h : s.Tidy) : (s.postMessage c m).Tidy := h.holdMessage.countEvent

theorem State.Tidy.report {n : Nat} {t : Thread} {kind cause detail : Nat} {info : Word32} {addr : Nat} (h : s.Tidy) :
    (s.report n t kind cause detail info addr).Tidy :=
  ((h.of_tables.ite h.holdMessage).ite h.holdMessage).countEvent

theorem State.Tidy.stopThread {n kind cause detail : Nat} {info : Word32} {addr : Nat} (h : s.Tidy) :
    (s.stopThread n kind cause detail info addr).Tidy := by
  unfold State.stopThread
  split
  · exact h
  · exact h.setThread.report

theorem State.Tidy.faultDeparts {m : MemberId} (h : s.Tidy) : (s.faultDeparts m).Tidy :=
  h.departAll.foldl fun _ _ h1 => h1.stopThread

theorem State.Tidy.coreFault {n cause addr : Nat} (h : s.Tidy) : (s.coreFault n cause addr).Tidy := by
  unfold State.coreFault
  split
  · exact h
  · exact h.stopThread.faultDeparts

theorem State.Tidy.beginStop {c : Nat} {w : Stopping} (h : s.Tidy) : (s.beginStop c w).Tidy := by
  unfold State.beginStop
  refine h.editCtx.mapSlots fun _ => ?_
  repeat' split
  all_goals rfl

theorem State.Tidy.freezeThread {n kind addr : Nat} (h : s.Tidy) : (s.freezeThread n kind addr).Tidy := by
  unfold State.freezeThread
  split
  · exact h
  · exact h.setThread.report.beginStop.ite h.setThread.report

theorem State.Tidy.take {n : Nat} {a : Trap} (h : s.Tidy) : (s.take n a).Tidy := by
  unfold State.take
  split
  · exact h.stopThread
  · exact h.stopThread
  · exact h.coreFault.ite h.stopThread
  · exact h.stopThread
  · exact h.stopThread
  · exact h.freezeThread
  · exact h.freezeThread

theorem Result.Tidy.onThread {f : Thread → State} (hf : ∀ t, (f t).Tidy) : Result.Tidy (s.onThread f) := by
  unfold State.onThread
  split
  · trivial
  · exact hf _

theorem State.Tidy.put {t : Thread} (h : s.Tidy) : (s.put t).Tidy := h.setThread

theorem State.Tidy.trap {x : Trap} (h : s.Tidy) : (s.trap x).Tidy := h.take

theorem State.Tidy.forfeit {t : Thread} {bank : Bool} (h : s.Tidy) : (s.forfeit t bank).Tidy := h.put

theorem State.Tidy.scalar {e : Fields} {f : Thread → State} (h : s.Tidy) (hf : ∀ t, (f t).Tidy) : Result.Tidy (s.scalar e f) :=
  .onThread fun _ => (hf _).ite h.put

theorem State.Tidy.retry {t : Thread} {w : Wait} (h : s.Tidy) : (s.retry t w).Tidy := h.put

theorem State.Tidy.finish {t : Thread} {e : Fields} {v : QReg} (h : s.Tidy) : (s.finish t e v).Tidy := h.put

theorem State.Tidy.finishMem {t : Thread} {e : Fields} {v : QReg} (h : s.Tidy) : (s.finishMem t e v).Tidy := h.put

/-! ## Machine/Wake -/

theorem State.Tidy.setPoolPage {c p : Nat} {v : PoolPage} (h : s.Tidy) : (s.setPoolPage c p v).Tidy :=
  h.setCtx ⟨h.ctx.1, Store.rising_put _ _ _ _ h.ctx.2.1, h.ctx.2.2⟩

theorem State.Tidy.noteObeyed {kind c va size : Nat} (h : s.Tidy) : (s.noteObeyed kind c va size).Tidy := h.of_tables

theorem State.Tidy.setCont {c : Continuation} (h : s.Tidy) : (s.setCont c).Tidy := h.of_tables

theorem State.Tidy.wakeMile {c : Continuation} (h : s.Tidy) : (s.wakeMile c).Tidy := by
  unfold State.wakeMile
  split
  · exact h.setGraph
  · exact h

theorem State.Tidy.startStage1 {c : Continuation} (h : s.Tidy) : (s.startStage1 c).Tidy := h.setCont

theorem State.Tidy.wakeWrite {word v : Nat} (h : s.Tidy) : (s.wakeWrite word v).Tidy := by
  unfold State.wakeWrite
  split
  · exact h
  · exact h.wakeMile.setCont.ite h.wakeMile.startStage1

/-! ## Machine/Zalfer -/

theorem State.Tidy.sendPacket {dest : Nat} {p : Packet} (h : s.Tidy) : (s.sendPacket dest p).Tidy := by
  unfold State.sendPacket
  split
  · exact h.setLink
  · exact h

theorem State.Tidy.ask {dest cls : Nat} {who : Asker} (h : s.Tidy) : (s.ask dest cls who).Tidy := h.of_tables

theorem State.Tidy.sendRequest {r : OutRequest} (h : s.Tidy) : (s.sendRequest r).Tidy := by
  unfold State.sendRequest
  split
  · exact h.setLink.of_tables
  · exact h.of_tables

theorem State.Tidy.sendRequests {n : Nat} (h : s.Tidy) : (State.sendRequests n s).Tidy := by
  induction n generalizing s with
  | zero => exact h
  | succ n ih =>
    unfold State.sendRequests
    split
    · exact ih h.sendRequest
    · exact h

/-! ## Machine/Mem -/

theorem State.Tidy.eccWrite {w : Nat × Nat} (h : s.Tidy) : (s.eccWrite w).Tidy := h.freshWord.ite h.correct

theorem State.Tidy.writeAccess {a : Access} {v : Nat} (h : s.Tidy) : (s.writeAccess a v).Tidy :=
  (h.writeNibbles.foldl fun _ _ h1 => h1.eccWrite).foldl fun _ _ h1 => h1.setTag

theorem State.Tidy.readAccess {a : Access} (h : s.Tidy) : (s.readAccess a).1.Tidy := h.foldl fun _ _ h1 => h1.correct

theorem State.Tidy.wakeWords {a : Access} (h : s.Tidy) : (s.wakeWords a).Tidy := h.foldl fun _ _ h1 => h1.wakeWrite

theorem State.Tidy.storeAccess {a : Access} {v : Nat} (h : s.Tidy) : (s.storeAccess a v).Tidy := h.writeAccess.wakeWords

theorem State.Tidy.perform {a : Access} (h : s.Tidy) : (s.perform a).state.Tidy := by
  unfold State.perform
  dsimp only
  split
  case h_1 | h_10 => split <;> [exact h.detect; exact h.readAccess]
  case h_2 => split <;> [exact h.detect; exact h.storeAccess]
  case h_3 => exact h.storeAccess
  case h_4 =>
    split
    · split <;> [exact h.detect; exact h.readAccess.setFull]
    · exact h
  case h_5 =>
    split
    · split <;> [exact h.detect; exact h.readAccess]
    · exact h
  case h_6 => split <;> [exact h; exact h.storeAccess.setFull]
  case h_7 => exact h.foldl fun _ _ h1 => h1.setFull
  case h_8 => split <;> [exact h.detect; exact h.readAccess.storeAccess]
  case h_9 => split <;> [exact h.detect; exact h.readAccess.storeAccess.ite h.readAccess]
  case h_11 => exact h.writeAccess.setTag
  case h_12 => exact h.setTag

theorem State.Tidy.saveReply {src seq : Nat} {ok : Bool} {status value : Nat} (h : s.Tidy) :
    (s.saveReply src seq ok status value).Tidy :=
  h.of_tables.sendPacket

theorem State.Tidy.served {n : Nat} {a : Access} {r : Performed} (h : s.Tidy) (hr : r.state.Tidy) : (s.served n a r).Tidy := by
  unfold State.served
  split
  · exact h.of_tables.saveReply
  · split
    · split
      · exact hr.take
      · exact h.setThread
      · exact h
    · exact h

theorem State.Tidy.serveWord {w n : Nat} (h : s.Tidy) : (State.serveWord w n s).Tidy := by
  induction n generalizing s with
  | zero => exact h
  | succ n ih =>
    unfold State.serveWord
    split
    · exact h
    · exact ih (h.of_tables.perform.served h.of_tables.perform)

theorem State.Tidy.serveAccess {a : Access} (h : s.Tidy) : (s.serveAccess a).Tidy := by
  unfold State.serveAccess
  split
  · exact h.foldl fun _ _ h1 => h1.serveWord
  · exact h.foldl fun _ _ h1 => h1.serveWord
  · exact h.foldl fun _ _ h1 => h1.serveWord
  · exact h

theorem State.Tidy.takePending {n : Nat} {t : Thread} {p : PendingError} (h : s.Tidy) : (s.takePending n t p).Tidy :=
  h.setThread.stopThread.faultDeparts.ite h.setThread.stopThread

theorem State.Tidy.orElsePending {t : Thread} {scope : Nat} {k : State} (h : s.Tidy) (hk : k.Tidy) :
    (s.orElsePending t scope k).Tidy := by
  unfold State.orElsePending
  split
  · exact h.takePending
  · exact hk

theorem State.Tidy.performOrdinary {t : Thread} {e : Fields} {a : Access} (h : s.Tidy) : (s.performOrdinary t e a).Tidy := by
  unfold State.performOrdinary
  split
  all_goals
    dsimp only
    split
    · exact h.put.of_tables
    · exact h.perform.trap
    · exact h.perform.put.serveAccess

theorem State.Tidy.performLower {t : Thread} {e : Fields} {a : Access} (h : s.Tidy) : (s.performLower t e a).Tidy := by
  unfold State.performLower
  split
  · exact h.detect.trap
  · exact h.perform.put

theorem State.Tidy.takeBank {k : Nat} (h : s.Tidy) : (s.takeBank k).Tidy := h.setGrove.ite h

theorem State.Tidy.spendAccess {a : Access} (h : s.Tidy) : (s.spendAccess a).Tidy := h.ite h.spend.takeBank

theorem State.Tidy.issueOrdinary {t : Thread} {e : Fields} {a : Access} (h : s.Tidy) : (s.issueOrdinary t e a).Tidy :=
  h.retry.ite (h.forfeit.ite ((h.spendAccess.put.ite h.spendAccess.put.ask).ite (h.spendAccess.performLower.ite
    h.spendAccess.performOrdinary)))

theorem State.Tidy.askRelaxed {n f : Nat} (h : s.Tidy) : (State.askRelaxed n f s).Tidy := by
  induction f generalizing s with
  | zero => exact h
  | succ f ih =>
    unfold State.askRelaxed
    split
    · exact h
    · split
      · exact h
      · split
        · exact h
        · exact ih h.setThread.ask

theorem State.Tidy.issueRelaxed {t : Thread} {e : Fields} {a : Access} (h : s.Tidy) : (s.issueRelaxed t e a).Tidy :=
  h.forfeit.ite (h.forfeit.ite h.spendAccess.put)

theorem State.Tidy.issue {t : Thread} {e : Fields} {a : Access} (h : s.Tidy) : (s.issue t e a).Tidy :=
  (h.orElsePending (h.issueRelaxed.ite h.issueOrdinary)).ite (h.issueRelaxed.ite h.issueOrdinary)

theorem State.Tidy.withKey {t : Thread} {space va : Nat} {rights : List Right} {go : State → Nat → State} (h : s.Tidy)
    (hgo : ∀ s k, s.Tidy → (go s k).Tidy) : (s.withKey t space va rights go).Tidy := by
  unfold State.withKey
  refine .ite h.trap (.ite h.beginWalk.retry (.ite h.retry ?_))
  dsimp only
  generalize hr : rights.foldl _ _ = r
  have h1 : r.2.Tidy := hr ▸ .foldl_snd h fun p _ h2 => by split <;> [exact h2.form; exact h2]
  obtain ⟨x, s1⟩ := r
  cases x with
  | key k =>
    dsimp only
    split
    · exact h1.retry
    · exact hgo _ _ h1
  | _ => exact State.Tidy.trap h1

theorem State.Tidy.memOperand {t : Thread} {e : Fields} {u : MemUse} {go : State → Nat → Nat → State} (h : s.Tidy)
    (hgo : ∀ s1 k k1, s1.Tidy → (go s1 k k1).Tidy) : (s.memOperand t e u go).Tidy :=
  h.trap.ite (h.trap.ite (h.withKey fun _ _ h1 => hgo _ _ _ h1))

/-! ## Machine/Save -/

theorem State.Tidy.putGranule {k : Nat} {g : Granule} (h : s.Tidy) : (s.putGranule k g).Tidy :=
  h.writeNum.freshWord.freshWord.setTag

theorem State.Tidy.putGranules {k : Nat} {l : List Granule} (h : s.Tidy) : (s.putGranules k l).Tidy := by
  induction l generalizing s k with
  | nil => exact h
  | cons g r ih => exact ih h.putGranule

theorem State.Tidy.putVa {g c va : Nat} {l : List Granule} (h : s.Tidy) : (s.putVa g c va l).Tidy := by
  induction l generalizing s va with
  | nil => exact h
  | cons x r ih =>
    unfold State.putVa
    dsimp only
    refine ih ?_
    split
    · exact h.form.putGranule
    · exact h.form

theorem State.Tidy.getVa {g c n va : Nat} (h : s.Tidy) : (s.getVa g c n va).2.Tidy := by
  induction n generalizing s va with
  | zero => exact h
  | succ n ih =>
    unfold State.getVa
    refine ih ?_
    split
    · exact h.form
    · exact h.form.takeFree

theorem State.Tidy.chargeFrame {g c va n : Nat} (h : s.Tidy) : (s.chargeFrame g c va n).Tidy := by
  unfold State.chargeFrame
  exact h.credit

theorem State.Tidy.checkpointOf {n : Nat} {t : Thread} {qmask pmask : Nat} (h : s.Tidy) : (s.checkpointOf n t qmask pmask).Tidy :=
  h.putGranules

theorem State.Tidy.checkpoint {n : Nat} {t : Thread} (h : s.Tidy) : (s.checkpoint n t).Tidy := h.checkpointOf

theorem State.Tidy.rollback {n : Nat} {t : Thread} (h : s.Tidy) : (s.rollback n t).Tidy := h.putGranules.setThread

/-! ## Machine/EngineMem -/

theorem EngineOp.key_tidy {op : EngineOp} {r : QReg} {a : Nat} {right : Right} : Eng.Tidy (op.key r a right) := by
  unfold EngineOp.key
  refine .get_bind fun s h => .ite_join .throw (.ite (.bind (.set h.beginWalk) fun _ => .bind .throw fun _ => ?_) ?_)
  all_goals
    refine .bind (.set h.form) fun _ => ?_
    split
    · exact .ite .throw .pure
    all_goals exact .throw

theorem farAccess_tidy {a : Nat} : Eng.Tidy (farAccess a) := .get_bind fun _ _ => .ite .pure .throw

theorem State.Tidy.setFar {k : Nat} {l : List FarPart} (h : s.Tidy) : (s.setFar k l).Tidy := h.of_tables

theorem EngineOp.askFar_tidy {op : EngineOp} {x : Access} {write : Bool} : Eng.Tidy (op.askFar x write) := by
  unfold EngineOp.askFar
  refine .get_bind fun s h => ?_
  split
  · exact .ite .throw (.ite .pure .throw)
  · exact .bind (.set h.ask.setFar) fun _ => .throw

theorem EngineOp.dropFar_tidy {op : EngineOp} {p : FarPart → Bool} : Eng.Tidy (op.dropFar p) := .modify (fun _ h1 => h1.setFar)

theorem State.Tidy.endFar {k req : Nat} {ok : Bool} {v : Nat} (h : s.Tidy) : (s.endFar k req ok v).Tidy := h.setFar

theorem State.Tidy.farGranule (h : s.Tidy) : s.farGranule.2.Tidy := h.of_tables.ite_snd h.of_tables

theorem State.Tidy.farTag {k : Nat} (h : s.Tidy) : (s.farTag k).2.Tidy := h.of_tables.ite_snd h

theorem EngineOp.readGranule_tidy {op : EngineOp} {r : QReg} {a : Nat} : Eng.Tidy (op.readGranule r a) := by
  have hlost : ∀ {s : State} {k x}, s.Tidy → Eng.Tidy (do set (s.detect k); throw x : Eng (Nat × Bool)) := fun h =>
    .bind (.set h.detect) fun _ => .throw
  unfold EngineOp.readGranule
  refine .bind EngineOp.key_tidy fun _ => .get_bind fun s h => .ite (.ite (.bind EngineOp.askFar_tidy fun _ => .pure) ?_) ?_
  · exact .bind farAccess_tidy fun _ => .bind (.set h.farGranule) fun _ => .pure
  · exact .ite (hlost h) (.ite (hlost h) (.bind (.set h.correct.correct) fun _ => .pure))

theorem EngineOp.writeGranule_tidy {op : EngineOp} {r : QReg} {a v mask : Nat} {tag : Bool} :
    Eng.Tidy (op.writeGranule r a v mask tag) := by
  unfold EngineOp.writeGranule
  refine .bind EngineOp.key_tidy fun _ => .get_bind fun s h => .ite (.ite (.bind EngineOp.askFar_tidy fun _ => ?_) farAccess_tidy)
    ?_
  · exact EngineOp.dropFar_tidy
  · dsimp only
    split
    · exact .bind (.set h.detect) fun _ => .throw
    · exact .set h.writeAccess.setTag

theorem EngineOp.readNum_tidy {op : EngineOp} {r : QReg} {a n : Nat} : Eng.Tidy (op.readNum r a n) :=
  .bind (.foldlM fun _ _ => .bind EngineOp.readGranule_tidy fun _ => .pure) fun _ => .pure

theorem needCap_tidy {r : QReg} {a n perm : Nat} : Eng.Tidy (needCap r a n perm) := Eng.Tidy.pure.ite Eng.Tidy.throw

/-! ## Machine/Operands -/

theorem State.Tidy.spendStream {key : Nat} {x : StreamUse} (h : s.Tidy) : (s.spendStream key x).Tidy :=
  (h.spend.ite h).spend.ite (h.spend.ite h)

theorem State.Tidy.withSources {e : Fields} {u : LaneUse} {w : Nat → Nat} {go : State → Thread → Nat → Sources → State}
    (h : s.Tidy) (hgo : ∀ s1 t k x, s1.Tidy → (go s1 t k x).Tidy) : Result.Tidy (s.withSources e u w go) := by
  unfold State.withSources
  refine .onThread fun _ => ?_
  split
  all_goals
    split
    · exact h.put.ite h.trap
    · dsimp only
      split
      · exact h.put
      · split
        · exact h.trap
        · exact h.retry
        · split
          · exact h.forfeit
          · split
            · exact h.detect.trap
            · exact hgo _ _ _ _ ((h.foldl fun _ _ h1 => h1.spendStream).foldl fun _ _ h1 => h1.readAccess.ite h1)

theorem State.Tidy.finishLanes {t : Thread} {e : Fields} {mask v tag : Nat} (h : s.Tidy) : (s.finishLanes t e mask v tag).Tidy :=
  h.writeAccess.put.ite h.put

theorem State.Tidy.lanewise {e : Fields} {u : LaneUse} {f : Nat → Nat → Nat → Nat → Nat → Nat × Nat} (h : s.Tidy) :
    Result.Tidy (s.lanewise e u f) :=
  h.withSources fun _ _ _ _ h1 => h1.finishLanes

theorem State.Tidy.wholewise {e : Fields} {u : LaneUse} {w tag : Nat → Nat} {f : Sources → Nat} (h : s.Tidy) :
    Result.Tidy (s.wholewise e u w tag f) :=
  h.withSources fun _ _ _ _ h1 => h1.finishLanes

/-! ## Machine/Float -/

theorem State.Tidy.floatOp {e : Fields} {useB useC : Bool} {f : Bool → Val → Val → Val → Val} (h : s.Tidy) :
    Result.Tidy (s.floatOp e useB useC f) :=
  h.lanewise

theorem State.Tidy.exactOp {e : Fields} {useB : Bool} {f : FloatFmt → Nat → Nat → Nat} (h : s.Tidy) :
    Result.Tidy (s.exactOp e useB f) :=
  h.lanewise

theorem State.Tidy.specialOp {e : Fields} {f : Val → Val} (h : s.Tidy) : Result.Tidy (s.specialOp e f) := h.floatOp

theorem State.Tidy.seriesOp {e : Fields} {f : FloatFmt → Rnd → Bool → Bool → Nat → Val → Nat} (h : s.Tidy) :
    Result.Tidy (s.seriesOp e f) :=
  h.lanewise

theorem State.Tidy.froundOp {e : Fields} (h : s.Tidy) : Result.Tidy (s.froundOp e) := h.lanewise

theorem State.Tidy.fdotOp {e : Fields} (h : s.Tidy) : Result.Tidy (s.fdotOp e) := h.withSources fun _ _ _ _ h1 => h1.finishLanes

theorem State.Tidy.fcvtOp {e : Fields} (h : s.Tidy) : Result.Tidy (s.fcvtOp e) :=
  .onThread fun _ => (h.trap.ite h.put).ite (h.put.ite (h.trap.ite h.finish))

/-! ## Machine/Queue -/

theorem State.Tidy.countOp {gtid : Word64} {tile : Bool} {f : Nat → Nat} (h : s.Tidy) : (s.countOp gtid tile f).Tidy := by
  unfold State.countOp
  split
  all_goals
    split
    · split
      · exact h.setThread
      · exact h
    · exact h.editCtx

theorem State.Tidy.uncount {op : EngineOp} {code : Nat} (h : s.Tidy) : (s.uncount op code).Tidy := h.ite h.countOp

theorem State.Tidy.stampHead {k : Nat} (h : s.Tidy) : (s.stampHead k).Tidy := h.setQueue.of_tables

theorem State.Tidy.newHead {k : Nat} (h : s.Tidy) : (s.newHead k).Tidy := h.setQueue.stampHead

theorem State.Tidy.appendOp {k : Nat} {op : EngineOp} (h : s.Tidy) : (s.appendOp k op).Tidy := h.setQueue.newHead.ite h.setQueue

theorem State.Tidy.failTask {op : EngineOp} (h : s.Tidy) : (s.failTask op).Tidy := by
  unfold State.failTask
  split
  · exact h.setGraph
  · exact h

theorem State.Tidy.popHead {k : Nat} (h : s.Tidy) : (s.popHead k).Tidy := h.setQueue.setFar.newHead.ite h.setQueue.setFar

theorem State.Tidy.endHead {k : Nat} (h : s.Tidy) : (s.endHead k).Tidy := by
  unfold State.endHead
  split
  · exact h
  · exact h.setQueue.uncount.popHead

theorem State.Tidy.discardOp {k : Nat} {op : EngineOp} (h : s.Tidy) : (s.discardOp k op).Tidy :=
  (h.ite h.uncount.failTask).popHead.ite (h.ite h.uncount.failTask).setQueue

theorem State.Tidy.queueMessage {k kind cause addr : Nat} (h : s.Tidy) : (s.queueMessage k kind cause addr).Tidy := h.postMessage

theorem State.Tidy.haltTranslation {k addr : Nat} (h : s.Tidy) : (s.haltTranslation k addr).Tidy := h.setQueue.queueMessage

theorem State.Tidy.haltEnded {k cause addr : Nat} (h : s.Tidy) : (s.haltEnded k cause addr).Tidy := by
  unfold State.haltEnded
  dsimp only
  split
  · exact h
  · exact h.setQueue.uncount.failTask.queueMessage

theorem State.Tidy.freezeQueue {k kind addr : Nat} (h : s.Tidy) : (s.freezeQueue k kind addr).Tidy := h.setQueue.queueMessage

theorem State.Tidy.engineStop {k : Nat} {a : EngineStop} (h : s.Tidy) : (s.engineStop k a).Tidy := by
  unfold State.engineStop
  split
  · exact h.haltTranslation
  · exact h.haltEnded
  · exact h.freezeQueue
  · exact h.haltEnded
  · exact h

theorem State.Tidy.resumeQueue {k : Nat} (h : s.Tidy) : (s.resumeQueue k).Tidy :=
  h.ite (h.setQueue.popHead.ite (h.setQueue.ite h.setQueue.stampHead))

theorem State.Tidy.discardQueue {k : Nat} (h : s.Tidy) : (s.discardQueue k).Tidy :=
  h.ite (h.foldl fun _ _ h1 => h1.discardOp).setQueue

theorem State.Tidy.thawQueue {k : Nat} (h : s.Tidy) : (s.thawQueue k).Tidy := by
  unfold State.thawQueue
  split
  all_goals
    dsimp only
    split
    · exact h.setQueue
    · exact h.setQueue.uncount.failTask

theorem State.Tidy.dropQueues {c : Nat} (h : s.Tidy) : (s.dropQueues c).Tidy := h.withQueues (Store.rising_filter _ _ h.queues)

theorem EngineOp.wordKey_tidy {op : EngineOp} {w : QReg} : Eng.Tidy (op.wordKey w) :=
  .bind EngineOp.key_tidy fun _ => .ite .pure .throw

theorem EngineOp.increment_tidy {op : EngineOp} : Eng.Tidy op.increment := by
  unfold EngineOp.increment
  split
  · exact .pure
  · refine .bind EngineOp.wordKey_tidy fun _ => .get_bind fun _ h => .ite (.bind EngineOp.askFar_tidy fun _ => .pure) ?_
    exact .ite (.bind (.set h.detect) fun _ => .throw) (.set h.writeAccess)

/-! ## Machine/Tile -/

theorem modQueue_tidy {k : Nat} {f : Queue → Queue} : Eng.Tidy (modQueue k f) := .modify (fun _ h1 => h1.setQueue)

theorem pauseAt_tidy {k : Nat} {limit : Option Nat} : Eng.Tidy (pauseAt k limit) := by
  unfold pauseAt
  refine .get_bind fun _ h1 => ?_
  split
  · exact Eng.Tidy.throw.ite Eng.Tidy.pure
  · exact Eng.Tidy.pure

theorem noteFormat_tidy {k : Nat} {bad : Bool} : Eng.Tidy (noteFormat k bad) := modQueue_tidy.ite Eng.Tidy.pure

theorem EngineOp.readRow_tidy {op : EngineOp} {i addr c : Nat} : Eng.Tidy (op.readRow i addr c) := by
  refine .bind EngineOp.readNum_tidy fun _ => .ite_joins EngineOp.readNum_tidy .pure fun _ => ?_
  exact .ite_joins EngineOp.readNum_tidy .pure fun _ => .pure

theorem EngineOp.rowAddrs_tidy {op : EngineOp} {i : Nat} : Eng.Tidy (op.rowAddrs i) :=
  (EngineOp.readNum_tidy.bind fun _ => EngineOp.readNum_tidy.bind fun _ => Eng.Tidy.pure).ite Eng.Tidy.pure

theorem EngineOp.oldGranule_tidy {op : EngineOp} {qk : Nat} {r : QReg} {a : Nat} : Eng.Tidy (op.oldGranule qk r a) := by
  unfold EngineOp.oldGranule
  refine .bind EngineOp.readGranule_tidy fun _ => .get_bind fun _ _ => ?_
  split <;> exact .pure

theorem EngineOp.oldNum_tidy {op : EngineOp} {qk : Nat} {r : QReg} {a n : Nat} : Eng.Tidy (op.oldNum qk r a n) :=
  .bind (.foldlM fun _ _ => .bind EngineOp.oldGranule_tidy fun _ => .pure) fun _ => .pure

theorem EngineOp.computeRow_tidy {op : EngineOp} {x : LoopData} {r : LoopRow} {old g : Nat} : Eng.Tidy (op.computeRow x r old g) :=
  .ite (.get_bind fun _ h => .bind (.set h.takeFree) fun _ => .pure) .pure

theorem planned_tidy {qk hi : Nat} {ws : List EngineWrite} {gens : List Nat} : Eng.Tidy (planned qk hi ws gens) := modQueue_tidy

theorem EngineOp.checkBlock_tidy {op : EngineOp} {qk b : Nat} : Eng.Tidy (op.checkBlock qk b) :=
  .get_bind fun _ h => .ite .pure (.bind (.set (h.loopUp fun _ _ h1 => h1.of_tables)) fun _ =>
    .bind modQueue_tidy fun _ => .ite .throw .pure)

theorem EngineOp.readLoop_tidy {op : EngineOp} {qk b : Nat} : Eng.Tidy (op.readLoop qk b) := by
  have hnums : ∀ {l : List Nat} {r : QReg} {f : Nat → Nat} {n : Nat}, Eng.Tidy (l.mapM fun i => op.readNum r (f i) n) :=
    .mapM fun _ => EngineOp.readNum_tidy
  refine .get_bind fun _ _ => .bind hnums fun _ => .ite_joins hnums .pure fun _ => .ite_joins EngineOp.readNum_tidy .pure fun _ =>
    ?_
  refine .bind (.mapM fun _ => .bind EngineOp.rowAddrs_tidy fun _ => .ite_join needCap_tidy EngineOp.readRow_tidy) fun _ => ?_
  exact .bind noteFormat_tidy fun _ => .bind EngineOp.checkBlock_tidy fun _ => .bind modQueue_tidy fun _ => .pure

theorem EngineOp.blockLoop_tidy {op : EngineOp} {qk b : Nat} : Eng.Tidy (op.blockLoop qk b) := by
  unfold EngineOp.blockLoop
  refine .get_bind fun _ _ => ?_
  split
  · exact .ite .pure EngineOp.readLoop_tidy
  · exact EngineOp.readLoop_tidy

theorem EngineOp.mulRow_tidy {op : EngineOp} {qk i : Nat} : Eng.Tidy (op.mulRow qk i) :=
  .bind EngineOp.blockLoop_tidy fun _ => .ite_join needCap_tidy (.bind EngineOp.oldNum_tidy fun _ =>
    .get_bind fun _ _ => .bind EngineOp.computeRow_tidy fun _ => planned_tidy)

theorem EngineOp.srcVals_tidy {op : EngineOp} {i : Nat} : Eng.Tidy (op.srcVals i) :=
  EngineOp.readNum_tidy.bind fun _ => Eng.Tidy.pure

theorem EngineOp.sfxRow_tidy {op : EngineOp} {qk i g : Nat} : Eng.Tidy (op.sfxRow qk i g) :=
  .bind EngineOp.srcVals_tidy fun _ => .ite (.bind EngineOp.readNum_tidy fun _ => .pure) (.bind EngineOp.oldNum_tidy fun _ => .pure)

theorem EngineOp.cvtRow_tidy {op : EngineOp} {i g : Nat} : Eng.Tidy (op.cvtRow i g) := by
  unfold EngineOp.cvtRow
  refine .bind EngineOp.srcVals_tidy fun _ => .ite (.get_bind fun _ h => ?_) .pure
  exact .bind (.set (h.takeFree.ite_snd h)) fun _ => .pure

theorem EngineOp.rowGroup_tidy {op : EngineOp} {qk lo : Nat} : Eng.Tidy (op.rowGroup qk lo) :=
  .get_bind fun _ _ => .bind (.foldlM fun _ _ => .ite_joins EngineOp.sfxRow_tidy EngineOp.cvtRow_tidy fun _ => .pure) fun _ =>
    planned_tidy

theorem EngineOp.planRed_tidy {op : EngineOp} {qk : Nat} : Eng.Tidy (op.planRed qk) :=
  .bind EngineOp.oldNum_tidy fun _ => .bind (.mapM fun _ => EngineOp.readNum_tidy) fun _ => planned_tidy

theorem takeRoutes_tidy {qk : Nat} : Eng.Tidy (takeRoutes qk) := by
  unfold takeRoutes
  refine .get_bind fun _ h => ?_
  split
  · exact .pure
  · exact .bind (.set h.setGrove) fun _ => .bind modQueue_tidy fun _ => .pure

theorem EngineOp.planSnap_tidy {op : EngineOp} {qk : Nat} : Eng.Tidy (op.planSnap qk) := .bind takeRoutes_tidy fun _ => planned_tidy

theorem EngineOp.planNext_tidy {op : EngineOp} {qk : Nat} : Eng.Tidy (op.planNext qk) := by
  have hdrop : ∀ {m : Eng Unit} {p}, Eng.Tidy m → Eng.Tidy (m >>= fun _ => op.dropFar p) := fun h => .bind h fun _ =>
    EngineOp.dropFar_tidy
  unfold EngineOp.planNext
  refine .get_bind fun _ _ => ?_
  split
  case h_1 | h_2 => exact hdrop EngineOp.mulRow_tidy
  case h_3 | h_4 => exact hdrop EngineOp.rowGroup_tidy
  case h_5 => exact hdrop EngineOp.planRed_tidy
  case h_6 => exact hdrop EngineOp.planSnap_tidy

theorem EngineOp.writePlanned_tidy {op : EngineOp} {qk : Nat} {w : EngineWrite} : Eng.Tidy (op.writePlanned qk w) :=
  .bind EngineOp.writeGranule_tidy fun _ => modQueue_tidy

theorem rowDone_tidy {qk i : Nat} : Eng.Tidy (rowDone qk i) := modQueue_tidy

theorem EngineOp.writeRow_tidy {op : EngineOp} {qk i : Nat} : Eng.Tidy (op.writeRow qk i) :=
  .get_bind fun _ _ => .forM (fun _ => EngineOp.writePlanned_tidy)

theorem EngineOp.runRows_tidy {op : EngineOp} {qk : Nat} {limit : Option Nat} : Eng.Tidy (op.runRows qk limit) := by
  refine .get_bind fun _ _ => .bind (.forM fun _ => .bind pauseAt_tidy fun _ => .get_bind fun _ _ => ?_) fun _ => ?_
  · exact .ite_join EngineOp.planNext_tidy (.bind EngineOp.writeRow_tidy fun _ => rowDone_tidy)
  · exact .bind pauseAt_tidy fun _ => .bind modQueue_tidy fun _ => .get_bind fun _ _ => .ite .throw .pure

theorem EngineOp.runOnce_tidy {op : EngineOp} {qk : Nat} {limit : Option Nat} : Eng.Tidy (op.runOnce qk limit) :=
  .get_bind fun _ _ => .ite_join EngineOp.planNext_tidy (.ite_join .throw (.bind EngineOp.writeRow_tidy fun _ =>
    .ite modQueue_tidy .pure))

theorem EngineOp.zeroGranule_tidy {op : EngineOp} {p : Nat} : Eng.Tidy (op.zeroGranule p) := EngineOp.writeGranule_tidy

theorem EngineOp.runZero_tidy {op : EngineOp} {qk : Nat} {limit : Option Nat} : Eng.Tidy (op.runZero qk limit) :=
  .get_bind fun _ _ => .ite_join .throw (.forM fun _ =>
    .ite modQueue_tidy (.bind EngineOp.zeroGranule_tidy fun _ => modQueue_tidy))

theorem EngineOp.runTile_tidy {op : EngineOp} {qk : Nat} {limit : Option Nat} : Eng.Tidy (op.runTile qk limit) := by
  unfold EngineOp.runTile
  split
  case h_5 => exact EngineOp.runZero_tidy
  case h_6 => exact EngineOp.runOnce_tidy
  all_goals exact EngineOp.runRows_tidy

theorem EngineOp.planTo_tidy {op : EngineOp} {qk key n : Nat} : Eng.Tidy (op.planTo qk key n) := by
  induction n with
  | zero => exact .pure
  | succ n ih =>
    unfold EngineOp.planTo
    refine .get_bind fun s _ => ?_
    dsimp only
    split
    · exact .pure
    · exact .ite .pure (.bind op.planNext_tidy fun _ => ih)

theorem EngineOp.tileAhead_tidy {op : EngineOp} {qk key : Nat} : Eng.Tidy (op.tileAhead qk key) := by
  unfold EngineOp.tileAhead
  split
  · refine .get_bind fun _ h1 => ?_
    split
    · exact Eng.Tidy.pure.ite (EngineOp.zeroGranule_tidy.bind fun _ => modQueue_tidy)
    · exact Eng.Tidy.pure
  · refine EngineOp.planTo_tidy.bind fun _ => ?_
    split
    · exact EngineOp.writePlanned_tidy
    · exact Eng.Tidy.pure

theorem State.Tidy.routeAdd {qk : Nat} {op : EngineOp} (h : s.Tidy) : (s.routeAdd qk op).Tidy := h.setGrove.ite h

theorem State.Tidy.withWord {t : Thread} {op : EngineOp} {go : State → State} (h : s.Tidy) (hgo : ∀ s, s.Tidy → (go s).Tidy) :
    (s.withWord t op go).Tidy := by
  unfold State.withWord
  split
  · exact hgo _ h
  · split
    · next e => exact hgo _ ((EngineOp.wordKey_tidy.run h).out e)
    · next e => exact ((EngineOp.wordKey_tidy.run h).out e).trap
    · next e => exact ((EngineOp.wordKey_tidy.run h).out e).trap
    · next e => exact ((EngineOp.wordKey_tidy.run h).out e).retry
    · next e => exact ((EngineOp.wordKey_tidy.run h).out e).trap

theorem State.Tidy.enqueue {t : Thread} {e : Fields} {code : Nat} {op : EngineOp} (h : s.Tidy) : (s.enqueue t e code op).Tidy :=
  h.forfeit.ite h.put.appendOp

theorem State.Tidy.tileInstr {e : Fields} (h : s.Tidy) : Result.Tidy (s.tileInstr e) := by
  unfold State.tileInstr
  refine h.scalar fun _ => ?_
  dsimp only
  split
  · exact h.trap
  · split
    · exact h.trap
    · exact h.withWord fun _ h1 => h1.enqueue

/-! ## Machine/Copy -/

theorem EngineOp.srcRow_tidy {op : EngineOp} {i : Nat} : Eng.Tidy (op.srcRow i) :=
  (EngineOp.readNum_tidy.bind fun _ => needCap_tidy.bind fun _ => Eng.Tidy.pure).ite Eng.Tidy.pure

theorem EngineOp.srcAt_tidy {op : EngineOp} {p : Nat} : Eng.Tidy (op.srcAt p) := EngineOp.srcRow_tidy.bind fun _ => Eng.Tidy.pure

theorem takeKept_tidy {a : Nat} {x : Nat × Bool × Nat} : Eng.Tidy (takeKept a x) := by
  unfold takeKept
  split
  · exact Eng.Tidy.pure
  · exact Eng.Tidy.throw

theorem EngineOp.sourceGranule_tidy {op : EngineOp} {qk p : Nat} : Eng.Tidy (op.sourceGranule qk p) := by
  unfold EngineOp.sourceGranule
  refine .ite .pure (.bind EngineOp.srcAt_tidy fun _ => .get_bind fun _ _ => ?_)
  split
  · exact EngineOp.readGranule_tidy
  · refine .bind EngineOp.key_tidy fun _ => ?_
    extract_lets kept
    have hk : ∀ j b, Eng.Tidy (kept j b) := fun j b => by
      unfold kept
      split
      · exact takeKept_tidy
      · exact EngineOp.readGranule_tidy
    refine .ite (hk _ _) (.get_bind fun _ h => .bind (.set h.takeFree) fun _ => .bind EngineOp.srcAt_tidy fun _ => ?_)
    exact .ite (hk _ _) EngineOp.readGranule_tidy

theorem EngineOp.copyGranule_tidy {op : EngineOp} {qk p : Nat} : Eng.Tidy (op.copyGranule qk p) :=
  .bind EngineOp.sourceGranule_tidy fun _ => .bind EngineOp.writeGranule_tidy fun _ => EngineOp.dropFar_tidy

theorem EngineOp.keepSource_tidy {op : EngineOp} {qk : Nat} : Eng.Tidy (op.keepSource qk) := .get_bind fun _ _ => modQueue_tidy

theorem EngineOp.runCopy_tidy {op : EngineOp} {qk : Nat} {limit : Option Nat} : Eng.Tidy (op.runCopy qk limit) :=
  .get_bind fun _ _ => EngineOp.keepSource_tidy.bind fun _ => .forM
    (fun _ => pauseAt_tidy.bind fun _ => modQueue_tidy.ite (EngineOp.copyGranule_tidy.bind fun _ => modQueue_tidy))

theorem EngineOp.copyAhead_tidy {op : EngineOp} {qk key : Nat} : Eng.Tidy (op.copyAhead qk key) := by
  unfold EngineOp.copyAhead
  refine .get_bind fun _ h1 => ?_
  refine EngineOp.keepSource_tidy.bind fun _ => ?_
  split
  · exact Eng.Tidy.pure.ite (EngineOp.copyGranule_tidy.bind fun _ => modQueue_tidy)
  · exact Eng.Tidy.pure

theorem State.Tidy.copyInstr {e : Fields} (h : s.Tidy) : Result.Tidy (s.copyInstr e) := by
  unfold State.copyInstr
  refine h.scalar fun _ => ?_
  split
  all_goals
    dsimp only
    split
    · exact h.trap
    · split
      · exact h.trap
      · exact h.withWord fun _ h1 => h1.enqueue

theorem State.Tidy.qstatPlain {e : Fields} (h : s.Tidy) : Result.Tidy (s.qstatPlain e) := by
  unfold State.qstatPlain
  refine h.scalar fun _ => ?_
  split
  · exact h.trap
  · exact h.trap.ite h.finish

theorem State.Tidy.qstatHandle {e : Fields} (h : s.Tidy) : Result.Tidy (s.qstatHandle e) := by
  unfold State.qstatHandle
  refine h.scalar fun _ => ?_
  split
  · exact h.trap
  · exact h.trap.ite (h.trap.ite h.finish)

/-! ## Machine/Preempt -/

theorem State.Tidy.unwaitFrame {c n : Nat} (h : s.Tidy) : (s.unwaitFrame c n).Tidy := h.editCtx.ite h

theorem State.Tidy.emptySlot {n : Nat} (h : s.Tidy) : (s.emptySlot n).Tidy := by
  unfold State.emptySlot
  split
  · exact h.unwaitFrame.setSlot.setSlot.ite h.unwaitFrame.setSlot
  · exact h.setSlot.setSlot.ite h.setSlot

theorem State.Tidy.withdraw {n : Nat} (h : s.Tidy) : (s.withdraw n).Tidy := by
  unfold State.withdraw
  split
  · exact h
  · exact (h.of_tables.editCtx.ite h.of_tables).setThread

theorem State.Tidy.endStop {c : Nat} (h : s.Tidy) : (s.endStop c).Tidy := by
  unfold State.endStop
  split
  · dsimp only
    split
    · exact h
    · exact h.editCtx
  · dsimp only
    split <;> exact h

theorem State.Tidy.spillChannel {n : Nat} {t : Thread} (h : s.Tidy) : (s.spillChannel n t).Tidy := h.editCtx.setSlot

theorem State.Tidy.waitFrame {c n : Nat} (h : s.Tidy) : (s.waitFrame c n).Tidy := h.editCtx

theorem State.Tidy.saveThread {n : Nat} {t : Thread} {qmask pmask : Nat} {hard : Bool} (h : s.Tidy) :
    (s.saveThread n t qmask pmask hard).Tidy := by
  unfold State.saveThread
  dsimp only
  split
  · exact h.waitFrame
  · exact h.editCtx.spillChannel.putVa.chargeFrame.emptySlot.endStop

theorem State.Tidy.meet {n qmask pmask : Nat} {hard : Bool} (h : s.Tidy) : (s.meet n qmask pmask hard).Tidy := by
  unfold State.meet
  split
  · exact h
  · split
    · exact h
    · split
      · exact h.withdraw.departAll.emptySlot.endStop
      · split
        · split
          · split
            · dsimp only
              split
              · exact h.waitFrame
              · split
                · exact (h.ite h.withdraw).stopThread.takePending
                · exact (h.ite h.withdraw).stopThread.takePending.spillChannel.setThread
            · dsimp only
              split
              · exact h.waitFrame
              · split
                · exact (h.ite h.withdraw).stopThread.takePending
                · exact (h.ite h.withdraw).stopThread.takePending.saveThread
          · split
            · dsimp only
              split
              · exact h.waitFrame
              · split
                · exact (h.ite h.withdraw).stopThread
                · exact (h.ite h.withdraw).stopThread.spillChannel.setThread
            · dsimp only
              split
              · exact h.waitFrame
              · split
                · exact (h.ite h.withdraw).stopThread
                · exact (h.ite h.withdraw).stopThread.saveThread
        · split
          · split
            · dsimp only
              split
              · exact h.waitFrame
              · split
                · exact (h.ite h.withdraw).takePending
                · exact (h.ite h.withdraw).takePending.spillChannel.setThread
            · dsimp only
              split
              · exact h.waitFrame
              · split
                · exact (h.ite h.withdraw).takePending
                · exact (h.ite h.withdraw).takePending.saveThread
          · split
            · dsimp only
              split
              · exact h.waitFrame
              · split
                · exact h.ite h.withdraw
                · exact (h.ite h.withdraw).spillChannel.setThread
            · dsimp only
              split
              · exact h.waitFrame
              · split
                · exact h.ite h.withdraw
                · exact (h.ite h.withdraw).saveThread

theorem State.Tidy.meetHard {n : Nat} (h : s.Tidy) : (s.meetHard n).Tidy := h.meet

theorem State.Tidy.meetRequests (h : s.Tidy) : s.meetRequests.Tidy := h.foldl fun _ _ h1 => h1.meetHard

theorem State.Tidy.honour {n qmask pmask : Nat} (h : s.Tidy) : (s.honour n qmask pmask).Tidy := by
  unfold State.honour
  split
  · exact h.meet.ite h
  · exact h

theorem State.Tidy.request {n : Nat} {r : Request} (h : s.Tidy) : (s.request n r).Tidy := by
  unfold State.request
  split
  · exact h.ite h.setThread
  · exact h

theorem State.Tidy.tellGang {ci : Nat} (h : s.Tidy) : (s.tellGang ci).Tidy := h.foldl fun _ _ h1 => h1.tell

theorem State.Tidy.spreadGang {m : MemberId} (h : s.Tidy) : (s.spreadGang m).Tidy :=
  ((h.foldl fun _ _ h1 => h1.request).foldl fun _ _ h1 => h1.tellGang).foldl fun _ _ h1 => h1.tell

theorem State.Tidy.preemptCore {c core : Nat} (h : s.Tidy) : (s.preemptCore c core).Tidy :=
  (h.foldl fun _ _ h1 => h1.request).foldl fun _ _ h1 => h1.spreadGang

/-! ## Machine/Channel -/

theorem State.Tidy.dropFetches {n : Nat} (h : s.Tidy) : (s.dropFetches n).Tidy := h.of_tables

theorem State.Tidy.fenceOp {e : Fields} (h : s.Tidy) : Result.Tidy (s.fenceOp e) :=
  h.scalar fun _ => h.orElsePending (h.retry.ite h.dropFetches.put)

theorem State.Tidy.waitOp {e : Fields} (h : s.Tidy) : Result.Tidy (s.waitOp e) := by
  unfold State.waitOp
  refine h.scalar fun _ => ?_
  split
  · split
    · exact h.takePending
    · exact h.put
  · split
    · exact h.takePending
    · exact h.retry

theorem State.Tidy.release {t : Thread} {scope : Nat} {all : Bool} {k : State} (h : s.Tidy) (hk : k.Tidy) :
    (s.release t scope all k).Tidy :=
  h.orElsePending (h.retry.ite hk)

theorem State.Tidy.redeliver {n f : Nat} (h : s.Tidy) : (s.redeliver n f).Tidy := by
  induction f generalizing s with
  | zero => exact h
  | succ f ih =>
    unfold State.redeliver
    dsimp only
    split
    · exact h
    · split
      · exact .ite h (ih h.editCtx.setSlot)
      · exact h

theorem State.Tidy.takeEntry {n : Nat} {t : Thread} {d : BitVec 5} (h : s.Tidy) : TidyPair (s.takeEntry n t d) := by
  unfold State.takeEntry
  split
  · trivial
  · exact h.setSlot

theorem State.Tidy.wakeRecv {n : Nat} (h : s.Tidy) : (s.wakeRecv n).Tidy := by
  unfold State.wakeRecv
  split
  · exact h
  · split
    · split
      · next e => exact (h.takeEntry.out e).setThread.redeliver
      · exact h
    · exact h

theorem State.Tidy.acceptSend {n : Nat} (h : s.Tidy) : (s.acceptSend n).Tidy := by
  unfold State.acceptSend
  split
  · exact h
  · split
    · split
      · exact h
      · exact h.of_tables.setThread
      · exact h.of_tables.setThread.editCtx
      · exact h.of_tables.setThread.setSlot.wakeRecv
    · exact h

theorem evSendAccept_tidy (h : s.Tidy) : Result.Tidy (evSendAccept s) := by
  unfold evSendAccept
  split
  · exact h
  · split
    · exact h.acceptSend
    · split
      · exact h.acceptSend
      · exact h

theorem State.Tidy.discardSends {before : State} (h : s.Tidy) : (before.discardSends s).Tidy := h.foldl fun _ _ h1 => h1.acceptSend

theorem State.Tidy.sendOp {e : Fields} (h : s.Tidy) : Result.Tidy (s.sendOp e) := by
  unfold State.sendOp
  refine h.scalar fun _ => ?_
  split
  · exact h.trap
  · exact h.trap.ite (h.trap.ite (h.release h.put.of_tables))

theorem evHandlerMessageDeliver_tidy (h : s.Tidy) : Result.Tidy (evHandlerMessageDeliver s) := by
  unfold evHandlerMessageDeliver
  dsimp only
  split
  · exact .ite h h.editCtx.setSlot.wakeRecv
  · exact h

/-! ## Machine/Graphs -/

theorem State.Tidy.landingKey {c va : Nat} {r : Right} (h : s.Tidy) : (s.landingKey c va r).2.Tidy := by
  unfold State.landingKey
  split
  · exact h
  · split
    · next e => exact h.mapped.out e

theorem State.Tidy.readWith {right : Right} {c va n : Nat} (h : s.Tidy) : (s.readWith right c va n).2.Tidy := by
  unfold State.readWith
  split
  · next e => exact h.landingKey.out e
  · next e => exact (h.landingKey.out e).ite_snd (h.landingKey.out e).of_tables

theorem State.Tidy.landingRead {c va n : Nat} (h : s.Tidy) : (s.landingRead c va n).2.Tidy := h.readWith

theorem State.Tidy.landingWrite {c va v : Nat} (h : s.Tidy) : (s.landingWrite c va v).Tidy := by
  unfold State.landingWrite
  split
  · next e => exact (h.landingKey.out e).storeAccess.ite (h.landingKey.out e).ask
  · next e => exact h.landingKey.out e

theorem State.Tidy.putStatus {k : Nat} (h : s.Tidy) : (s.putStatus k).Tidy := h.landingWrite

theorem State.Tidy.serveNotice {c : Nat} (h : s.Tidy) : (s.serveNotice c).Tidy := by
  unfold State.serveNotice
  dsimp only
  split
  · split
    · split
      · exact h.editCtx.setThread
      · exact h
    · exact h
  · exact h

theorem State.Tidy.enterNotice {c lo hi : Nat} (h : s.Tidy) : (s.enterNotice c lo hi).Tidy := h.editCtx.ite h.editCtx.serveNotice

theorem State.Tidy.enterDue {n : Nat} (h : s.Tidy) : (State.enterDue n s).Tidy := by
  induction n generalizing s with
  | zero => exact h
  | succ n ih =>
    unfold State.enterDue
    split
    · exact ih h.of_tables.enterNotice
    · exact h

theorem State.Tidy.noticeAfter {req c lo hi : Nat} (h : s.Tidy) : (s.noticeAfter req c lo hi).Tidy := h.of_tables.enterDue

theorem State.Tidy.noticeOf {req : Nat} {g : Graph} {reason : Nat} (h : s.Tidy) : (s.noticeOf req g reason).Tidy := h.noticeAfter

theorem State.Tidy.finishGraph {k code reason : Nat} (h : s.Tidy) : (s.finishGraph k code reason).Tidy :=
  (h.landingWrite.noticeOf.ite h.landingWrite).setGraph

theorem State.Tidy.credited {k v : Nat} (h : s.Tidy) : (s.credited k v).Tidy := h.editCtx.setGraph

theorem State.Tidy.creditWake {gtid : Word64} (h : s.Tidy) : (s.creditWake gtid).Tidy := by
  unfold State.creditWake
  split
  · exact h
  · dsimp only
    split
    · exact h
    · exact h.setGraph.credited

theorem State.Tidy.dropSaved {c : Nat} {p : Word64 → Bool} (h : s.Tidy) : (s.dropSaved c p).Tidy :=
  h.editCtx.foldl fun _ _ h1 => h1.departAll

theorem State.Tidy.dropGraphOps {k : Nat} (h : s.Tidy) : (s.dropGraphOps k).Tidy := by
  unfold State.dropGraphOps
  refine h.foldl fun _ _ h1 => ?_
  refine .foldl ?_ fun _ _ h2 => h2.discardOp
  split
  · exact h1.setQueue.ite h1
  · exact h1

theorem State.Tidy.dropConts {p : Continuation → Bool} (h : s.Tidy) : (s.dropConts p).Tidy := by
  unfold State.dropConts
  refine .foldl (.of_tables (.foldl h fun s c h1 => ?_) rfl) fun _ _ h1 => h1.departAll
  split
  · exact h1.editCtx.setHandle
  · exact h1.editCtx

theorem State.Tidy.abandonGraph {k reason : Nat} (h : s.Tidy) : (s.abandonGraph k reason).Tidy := by
  unfold State.abandonGraph
  split
  · dsimp only
    split
    · exact h
    · exact h.setGraph
    · exact ((h.setGraph.putStatus.foldl fun _ _ h1 => h1.setCrew).foldl fun _ _ h1 => h1.request).dropSaved.dropConts.dropGraphOps
  · dsimp only
    split
    · exact h
    · exact h
    · exact ((h.setGraph.putStatus.foldl fun _ _ h1 => h1.setCrew).foldl fun _ _ h1 => h1.request).dropSaved.dropConts.dropGraphOps

theorem evGraphAbandoned_tidy (h : s.Tidy) : Result.Tidy (evGraphAbandoned s) := h.finishGraph.ite h

theorem State.Tidy.keyConts {k : Nat} (h : s.Tidy) : (s.keyConts k).Tidy := h.of_tables

theorem State.Tidy.recompute {k : Nat} (h : s.Tidy) : (s.recompute k).Tidy := by
  have h1 : ∀ {c : Prop} [Decidable c] {g : Graph}, (if c then (s.setGraph k g).putStatus k else s.setGraph k g).Tidy :=
    h.setGraph.putStatus.ite h.setGraph
  exact h.ite (h1.finishGraph.ite (h1.ite (h1.abandonGraph.ite (h1.abandonGraph.ite h1.setGraph.keyConts))))

theorem State.Tidy.takeRegs {die : Nat} (h : s.Tidy) : (s.takeRegs die).Tidy := by
  unfold State.takeRegs
  refine h.mapCtxs (fun _ => ?_) fun _ h1 => h1
  rfl

theorem State.Tidy.recomputeDie {die : Nat} (h : s.Tidy) : (s.recomputeDie die).Tidy :=
  (h.ite h.takeRegs).ite ((h.ite h.takeRegs).foldl fun _ _ h1 => h1.recompute)

theorem evLandingTick_tidy (h : s.Tidy) : Result.Tidy (evLandingTick s) := h.of_tables.recomputeDie.ite h

theorem State.Tidy.handOn {gtid : Word64} (h : s.Tidy) : (s.handOn gtid).Tidy := by
  unfold State.handOn
  split
  · exact h
  · exact h.setGraph.ite h

theorem State.Tidy.taskDone {k i : Nat} (h : s.Tidy) : (s.taskDone k i).Tidy := by
  unfold State.taskDone
  dsimp only
  split
  · exact h
  · refine .recomputeDie (.setGraph ?_)
    split
    · refine .setGraph ?_
      split
      · exact h.setCrew
      · exact h
    · refine .putStatus (.setGraph (.credited (.setGraph ?_)))
      split
      · exact h.setCrew
      · exact h

theorem State.Tidy.threadGone {gtid : Word64} (h : s.Tidy) : (s.threadGone gtid).Tidy := by
  unfold State.threadGone
  split
  · exact h
  · exact h.setGraph.taskDone.ite h.setGraph

theorem State.Tidy.suspendGraphs {c : Nat} (h : s.Tidy) : (s.suspendGraphs c).Tidy := h.foldl fun _ _ h1 => h1.setGraph.putStatus

theorem State.Tidy.resumeGraphs {c : Nat} (h : s.Tidy) : (s.resumeGraphs c).Tidy :=
  (h.foldl fun _ _ h1 => h1.setGraph.putStatus.abandonGraph.ite h1.setGraph.putStatus).foldl fun _ _ h1 => h1.recomputeDie

/-! ## Machine/EngineEvents -/

theorem State.Tidy.startHead {k unit : Nat} (h : s.Tidy) : (s.startHead k unit).Tidy := by
  unfold State.startHead
  dsimp only
  split
  · exact h
  · exact h.setQueue

theorem State.Tidy.chargeWork {k unit : Nat} {op : EngineOp} {q : Queue} {whole : Bool} (h : s.Tidy) :
    (s.chargeWork k unit op q whole).Tidy :=
  h.chargeUnit.countEvent.ite (h.chargeUnit.ite (h.chargeUnit.ite h.chargeUnit.countEvent))

theorem State.Tidy.worked {k : Nat} {op : EngineOp} {act : Eng Unit} (h : s.Tidy) (hact : Eng.Tidy act) :
    (s.worked k op act).2.Tidy := (hact.run h.of_tables).chargeWork

theorem State.Tidy.workOn {k : Nat} {op : EngineOp} {limit : Option Nat} (h : s.Tidy) : (s.workOn k op limit).2.Tidy :=
  h.ite_snd (h.worked (.ite EngineOp.runTile_tidy EngineOp.runCopy_tidy))

theorem State.Tidy.workAhead {k : Nat} {op : EngineOp} {key : Nat} (h : s.Tidy) : (s.workAhead k op key).2.Tidy :=
  h.ite_snd (h.worked (.ite EngineOp.tileAhead_tidy EngineOp.copyAhead_tidy))

theorem State.Tidy.finishOp {k : Nat} {op : EngineOp} (h : s.Tidy) : (s.finishOp k op).Tidy := by
  unfold State.finishOp
  dsimp only
  generalize hr : op.increment.run.run _ = r
  have h1 : r.2.Tidy := hr ▸ EngineOp.increment_tidy.run h.setQueue
  obtain ⟨e | _, s1⟩ := r
  · cases e with
    | pause => exact h1
    | _ => exact State.Tidy.engineStop h1
  · have h2 : ((s1.routeAdd k op).endHead k).Tidy := State.Tidy.endHead (State.Tidy.routeAdd h1)
    dsimp only
    split
    · exact h2.taskDone
    · exact h2

theorem evUnitDispatch_tidy (h : s.Tidy) : Result.Tidy (evUnitDispatch s) := by
  unfold evUnitDispatch
  split
  · dsimp only
    split
    · split
      · exact h
      · split
        · next e => exact h.workAhead.out e
        · next e => exact (h.workAhead.out e).engineStop
        · next e => exact h.workAhead.out e
        · exact h
    · split
      · exact h
      · split
        · exact h
        · exact h.startHead
  · dsimp only
    split
    · split
      · exact h
      · split
        · next e => exact h.workOn.out e
        · next e => exact (h.workOn.out e).engineStop
        · exact h
        · exact h
    · split
      · exact h
      · split
        · exact h
        · exact h.startHead

theorem evTileOpComplete_tidy (h : s.Tidy) : Result.Tidy (evTileOpComplete s) := by
  unfold evTileOpComplete
  dsimp only
  split
  · exact h
  · split
    · exact h
    · split
      · next e => exact (h.workOn.out e).finishOp
      · next e => exact (h.workOn.out e).engineStop
      · next e => exact h.workOn.out e
      · exact h

theorem evCopyComplete_tidy (h : s.Tidy) : Result.Tidy (evCopyComplete s) := by
  unfold evCopyComplete
  dsimp only
  split
  · exact h
  · split
    · exact h
    · split
      · next e => exact (h.workOn.out e).finishOp
      · next e => exact h.workOn.out e
      · exact h

theorem State.Tidy.engineTrouble {ahead : Bool} {p : EngineStop → Bool} (h : s.Tidy) : Result.Tidy (s.engineTrouble ahead p) := by
  unfold State.engineTrouble
  split
  · dsimp only
    split
    · exact h
    · split
      · next e => exact .ite (h.workAhead.out e).engineStop h
      · exact h
  · dsimp only
    split
    · exact h
    · split
      · next e => exact .ite (h.workOn.out e).engineStop h
      · exact h

theorem evEngineTranslationFault_tidy (h : s.Tidy) : Result.Tidy (evEngineTranslationFault s) := h.engineTrouble

theorem State.Tidy.queueStoreError {k : Nat} {double : Bool} (h : s.Tidy) : (s.queueStoreError k double).Tidy :=
  h.ite (h.of_tables.haltEnded.ite h.of_tables)

theorem evEngineDataError_tidy (h : s.Tidy) : Result.Tidy (evEngineDataError s) := by
  unfold evEngineDataError
  split
  · exact h.engineTrouble
  · exact h.queueStoreError

theorem evEngineCapabilityViolation_tidy (h : s.Tidy) : Result.Tidy (evEngineCapabilityViolation s) := h.engineTrouble

theorem evJoinResolve_tidy (h : s.Tidy) : Result.Tidy (evJoinResolve s) := by
  unfold evJoinResolve
  dsimp only
  split
  · exact h.endHead.ite h
  · exact h

theorem evCurrentBlockEnd_tidy (h : s.Tidy) : Result.Tidy (evCurrentBlockEnd s) := by
  unfold evCurrentBlockEnd
  dsimp only
  split
  · exact h
  · split
    · exact h
    · split
      · next e => exact .ite (h.workOn.out e) (.ite (h.workOn.out e).discardOp (h.workOn.out e).setQueue)
      · next e => exact (h.workOn.out e).engineStop
      · next e => exact (h.workOn.out e).discardOp.ite (h.workOn.out e).finishOp

/-! ## Machine/CrewOps -/

theorem State.Tidy.onCrew {kind : Nat} {e : Fields} {sound : Thread → Bool} {here : Thread → Nat → State} (h : s.Tidy)
    (hhere : ∀ t k, (here t k).Tidy) : Result.Tidy (s.onCrew kind e sound here) := by
  unfold State.onCrew
  refine h.scalar fun _ => ?_
  split
  · exact h.trap
  · exact h.trap.ite ((hhere _ _).ite h.put.ask)

theorem State.Tidy.takeCrew {c : Crew} (h : s.Tidy) : TidyPair (s.takeCrew c) := TidyPair.map fun _ => h.setCrew

theorem State.Tidy.freeCrew {ci : Nat} (h : s.Tidy) : (s.freeCrew ci).Tidy := h.setCrew

theorem State.Tidy.crewDone {t : Thread} {e : Fields} (h : s.Tidy) : (s.crewDone t e).Tidy := h.put

theorem State.Tidy.tryFree {ci : Nat} (h : s.Tidy) : (s.tryFree ci).2.Tidy := by
  unfold State.tryFree
  dsimp only
  split
  · exact h
  · exact h.ite_snd h.freeCrew

theorem State.Tidy.joinCrew {ci : Nat} {m : MemberId} (h : s.Tidy) : (s.joinCrew ci m).2.Tidy :=
  (h.setCrew.ite_snd h).ite_snd (h.ite_snd h.setCrew.settle)

theorem State.Tidy.leaveCrew {ci : Nat} {m : MemberId} (h : s.Tidy) : (s.leaveCrew ci m).2.Tidy :=
  (h.ite_snd h.setCrew).ite_snd (h.setCrew.tell.ite_snd h)

theorem State.Tidy.memberOp {kind : Nat} {e : Fields} {f : State → Nat → MemberId → Bool × State} (h : s.Tidy)
    (hf : ∀ s1 k k1, s1.Tidy → (f s1 k k1).2.Tidy) : Result.Tidy (s.memberOp kind e f) := by
  unfold State.memberOp
  refine h.onCrew fun _ _ => ?_
  dsimp only
  split
  · exact (hf _ _ _ h.put).put
  · exact hf _ _ _ h.put

theorem State.Tidy.meetArrival {ci b : Nat} {a : Arrival} (h : s.Tidy) : (s.meetArrival ci b a).2.Tidy :=
  h.ite_snd (h.ite_snd h.openEmpty.setCrew)

theorem State.Tidy.arrive {t : Thread} {e : Fields} {ci : Nat} {v : Collective} (h : s.Tidy) : (s.arrive t e ci v).Tidy := by
  unfold State.arrive
  split
  · dsimp only
    split
    · exact h.meetArrival.trap
    · exact h.meetArrival.retry
    · exact h.meetArrival.crewDone
    · exact h.meetArrival.crewDone.settle
  · dsimp only
    split
    · exact h.meetArrival.trap
    · exact h.meetArrival.retry
    · exact h.meetArrival.put
    · exact h.meetArrival.put.settle

theorem State.Tidy.collective {e : Fields} {f : Thread → Except Trap Collective} (h : s.Tidy) : Result.Tidy (s.collective e f) := by
  unfold State.collective
  refine h.scalar fun _ => ?_
  split
  · exact h.trap
  · split
    · exact h.trap
    · exact h.release (h.arrive.ite h.put.ask)

theorem State.Tidy.cwaitOp {e : Fields} (h : s.Tidy) : Result.Tidy (s.cwaitOp e) := by
  unfold State.cwaitOp
  refine h.onCrew fun _ _ => ?_
  split
  all_goals
    dsimp only
    split
    · exact h.trap
    · exact h.crewDone.ite h.put

theorem State.Tidy.peerArrive {ci b : Nat} {a : Arrival} (h : s.Tidy) : (s.peerArrive ci b a).2.Tidy := by
  unfold State.peerArrive
  split
  · next e =>
      split
      · exact h.meetArrival.out e
      · exact h.meetArrival.out e
      · exact h.meetArrival.out e
      · exact (h.meetArrival.out e).settle

theorem State.Tidy.peerAwait {ci b : Nat} {k : Option Nat} {m : MemberId} (h : s.Tidy) : (s.peerAwait ci b k m).2.Tidy := by
  unfold State.peerAwait
  split
  · exact h
  · exact h.ite_snd h.setCrew

theorem State.Tidy.keepRelease {ci b : Nat} {r : PhaseResult} (h : s.Tidy) : (s.keepRelease ci b r).Tidy := by
  unfold State.keepRelease
  split
  · exact h
  · exact h.setCrew

theorem State.Tidy.takeRelease {pkg ci b : Nat} {r : PhaseResult} (h : s.Tidy) : (s.takeRelease pkg ci b r).Tidy := by
  unfold State.takeRelease
  refine h.keepRelease.mapSlots fun _ => ?_
  repeat' split
  all_goals rfl

theorem State.Tidy.takeBroken {pkg ci : Nat} (h : s.Tidy) : (s.takeBroken pkg ci).Tidy :=
  .foldl (h.of_mapCtxs rfl (fun _ => rfl) fun _ he => he) fun _ _ h1 => h1.stopThread

theorem State.Tidy.takeJoined {pkg ci : Nat} {who : MemberId} {gang : Bool} (h : s.Tidy) : (s.takeJoined pkg ci who gang).Tidy :=
  h.of_tables.ite h.of_tables

theorem State.Tidy.joinedFar {who : MemberId} {pkg ci : Nat} {gang : Bool} (h : s.Tidy) : (s.joinedFar who pkg ci gang).Tidy :=
  h.ite h.of_tables

theorem State.Tidy.takeWaits {pkg ci : Nat} {now : Bool} (h : s.Tidy) : (s.takeWaits pkg ci now).Tidy := h.of_tables

theorem State.Tidy.takeLeft {pkg ci : Nat} {who : MemberId} (h : s.Tidy) : (s.takeLeft pkg ci who).Tidy := h.of_tables

theorem State.Tidy.takeGang {ci : Nat} {who : MemberId} (h : s.Tidy) : (s.takeGang ci who).Tidy :=
  (h.foldl fun _ _ h1 => h1.request).tellGang.ite h

theorem State.Tidy.tellWaits (h : s.Tidy) : s.tellWaits.Tidy :=
  h.foldl fun _ _ h1 => h1.ite (h1.foldl fun _ _ h2 => h2.ite h2.setCrew.tell)

/-! ## Machine/Kernels -/

theorem State.Tidy.setKernel {c image : Nat} {k : Option Kernel} (h : s.Tidy) : (s.setKernel c image k).Tidy :=
  h.setCtx ⟨h.ctx.1, h.ctx.2.1, Store.rising_put _ _ _ _ h.ctx.2.2⟩

theorem State.Tidy.registerKernel {c addr : Nat} (h : s.Tidy) : (s.registerKernel c addr).Tidy := by
  unfold State.registerKernel
  refine .editCtx ?_
  split
  · exact h.setKernel
  · exact h

theorem State.Tidy.evictKernel {c addr : Nat} (h : s.Tidy) : (s.evictKernel c addr).Tidy := by
  unfold State.evictKernel
  split
  · exact (h.ite h.setKernel).editCtx
  · exact h.editCtx

theorem State.Tidy.dropCopies {c image : Nat} (h : s.Tidy) : (s.dropCopies c image).Tidy :=
  h.withGroves (Store.rising_mapKept h.groves)

theorem evKernelUnregister_tidy (h : s.Tidy) : Result.Tidy (evKernelUnregister s) := by
  unfold evKernelUnregister
  dsimp only
  split
  · exact h.setKernel.dropCopies.ite h
  · exact h

theorem State.Tidy.codeWords {c n va : Nat} (h : s.Tidy) : (s.codeWords c n va).2.Tidy := by
  induction n generalizing s va with
  | zero => exact h
  | succ n ih =>
    unfold State.codeWords
    refine ih ?_
    split
    · exact .ite_snd h h.takeFree
    · exact h.takeFree

theorem State.Tidy.needCopy {g c : Nat} {k : Kernel} (h : s.Tidy) : (s.needCopy g c k).2.Tidy := by
  unfold State.needCopy
  split
  · dsimp only
    split
    · exact h.setGrove
    · exact h
  · split
    · next e =>
        dsimp only
        split
        · exact h.setGrove
        · dsimp only
          exact (h.codeWords.out e).setGrove.credit

theorem evKernelCopyComplete_tidy (h : s.Tidy) : Result.Tidy (evKernelCopyComplete s) := by
  unfold evKernelCopyComplete
  dsimp only
  split
  · split
    · exact h
    · split
      · exact h.setGrove
      · refine h.setGrove.mapSlots fun _ => ?_
        repeat' split
        all_goals rfl
  · exact h

/-! ## Machine/Admit -/

theorem State.Tidy.enterGraph {g : Graph} (h : s.Tidy) : (s.enterGraph g).Tidy := by
  unfold State.enterGraph
  extract_lets k x s1 _ s2
  have h1 : s1.Tidy := h.editCtx
  have h2 : s2.Tidy := .of_tables (h1.setGraph (n := k) (v := g)) rfl
  exact h2.putStatus.recomputeDie

theorem State.Tidy.submit {c v : Nat} (h : s.Tidy) : (s.submit c v).Tidy := by
  have hput : ∀ {s : State} {r}, s.Tidy → (s.setCtx c { s.ctx c with gresult := r }).Tidy := fun h => h.editCtx
  unfold State.submit
  refine .ite (hput h) ?_
  dsimp only
  split
  · exact hput h
  · exact hput h.enterGraph

/-! ## Machine/Restore -/

theorem State.Tidy.takeLcore {c core : Nat} (h : s.Tidy) : (s.takeLcore c core).2.Tidy := by
  unfold State.takeLcore
  split
  · exact h
  · dsimp only
    split
    · exact h.editCtx
    · exact h

theorem State.Tidy.rekeyAll {c l d : Nat} (h : s.Tidy) : (s.rekeyAll c l d).Tidy := by
  unfold State.rekeyAll
  refine h.mapSlots fun _ => ?_
  repeat' split
  all_goals rfl

theorem State.Tidy.remapCore {c l d : Nat} (h : s.Tidy) : (s.remapCore c l d).Tidy := h.editCtx.rekeyAll.ite h.editCtx

/-- `State.getVa` is abstracted first, with the function unfolded as a function: the kernel would run it to
compare the two sides. -/
theorem State.Tidy.readFrame {g c i : Nat} (h : s.Tidy) : (s.readFrame g c i).2.Tidy := by
  suffices hs : ∀ get, get = State.getVa → ∀ f, f = State.readFrame →
      (∀ {s g c n va}, s.Tidy → (get s g c n va).2.Tidy) → (f s g c i).2.Tidy from hs _ rfl _ rfl fun h => h.getVa
  intro get hg f hf hget
  delta State.readFrame at hf
  rw [← hg] at hf
  subst hf
  exact hget (hget (hget h))

theorem State.Tidy.restoreCopy {n : Nat} {t : Thread} (h : s.Tidy) : (s.restoreCopy n t).2.Tidy := by
  unfold State.restoreCopy
  split
  · exact h
  · split
    · next e => exact h.needCopy.out e

theorem State.Tidy.fillSlot {n : Nat} {t : Thread} {f : FrameThread} {frame : Nat} (h : s.Tidy) :
    (s.fillSlot n t f frame).Tidy := by
  unfold State.fillSlot
  dsimp only
  split
  · exact h.putGranules.chargeFrame.restoreCopy.setThread.redeliver.checkpoint
  · exact h.putGranules.chargeFrame.restoreCopy.setThread.redeliver

theorem State.Tidy.resumeWait {t : Thread} {w : Option Wait} (h : s.Tidy) : (s.resumeWait t w).2.Tidy := by
  unfold State.resumeWait
  split
  · extract_lets c bar m
    refine .ite_snd ?_ (.ite_snd h h)
    split
    · exact h.dropTaker
    · exact h
  · exact .ite_snd h h
  · exact h
  · exact h

theorem State.Tidy.frameStop {flags : Nat} {v : Saved} (h : s.Tidy) : (s.frameStop flags v).2.Tidy := by
  unfold State.frameStop
  split
  · exact h
  · split
    · exact h
    · exact h.of_tables

/-- As `State.Tidy.readFrame`, with `State.readFrame` abstracted. -/
theorem State.Tidy.restoreSaved {c core : Nat} {v : Saved} (h : s.Tidy) : (s.restoreSaved c core v).Tidy := by
  suffices hs : ∀ read, read = State.readFrame → ∀ f, f = State.restoreSaved →
      (∀ {s g c i}, s.Tidy → (read s g c i).2.Tidy) → (f s c core v).Tidy from hs _ rfl _ rfl fun h => h.readFrame
  intro read hr f hf hread
  delta State.restoreSaved at hf
  rw [← hr] at hf
  subst hf
  exact (hread h).editCtx.remapCore.frameStop.resumeWait.fillSlot

theorem evThreadResume_tidy (h : s.Tidy) : Result.Tidy (evThreadResume s) := by
  unfold evThreadResume
  split
  · exact h
  · exact h.foldl fun _ _ h1 => h1.foldl fun _ _ h2 => h2.restoreSaved

/-! ## Machine/Migrate -/

theorem State.Tidy.requestMigration {c l : Nat} {goal : MigrationGoal} (h : s.Tidy) : (s.requestMigration c l goal).2.Tidy := by
  unfold State.requestMigration
  split
  · exact h
  · exact h.ite_snd (h.ite_snd (h.of_tables.foldl fun _ _ h1 => h1.request))

theorem State.Tidy.migrOp {e : Fields} (h : s.Tidy) : Result.Tidy (s.migrOp e) := by
  unfold State.migrOp
  refine h.scalar fun _ => ?_
  split
  · exact h.trap
  · split
    · exact h.trap
    · exact h.finish
    · split
      · next e =>
          split
          · exact (h.requestMigration.out e).finish
          · exact h.requestMigration.out e

theorem evCoreOverheat_tidy (h : s.Tidy) : Result.Tidy (evCoreOverheat s) := by
  unfold evCoreOverheat
  extract_lets core was _ s1
  have h1 : s1.Tidy := h.setCore
  refine .ite ?_ (.next h1)
  generalize hr : List.foldl _ (false, s1) _ = r
  have h2 : r.2.Tidy := hr ▸ .foldl_snd h1 fun _ _ h3 => h3.requestMigration
  exact (h2.foldl fun _ _ h3 => h3.setSlot).ite h2

theorem State.Tidy.leaveTracks (h : s.Tidy) : s.leaveTracks.Tidy := h.foldl fun _ _ h1 => h1.foldl fun _ _ h2 => h2.requestMigration

theorem State.Tidy.endMigrating {n : Nat} (h : s.Tidy) : (s.endMigrating n).Tidy := by
  unfold State.endMigrating
  split
  · exact h.setThread.redeliver
  · exact h

theorem State.Tidy.setMigration {m m' : Migration} (h : s.Tidy) : (s.setMigration m m').Tidy := h.of_tables

theorem State.Tidy.beginTransfer {m : Migration} {ns : List Nat} {d u : Nat} (h : s.Tidy) : (s.beginTransfer m ns d u).Tidy :=
  h.setMigration.foldl fun _ _ h1 => h1.needCopy

theorem State.Tidy.moveGranules {a b n : Nat} (h : s.Tidy) : (s.moveGranules a b n).Tidy := by
  induction n generalizing s a b with
  | zero => exact h
  | succ n ih => exact ih h.putGranule.setPoison.setPoison.setFull.setFull

theorem State.Tidy.transferSlot {m : Migration} {d i : Nat} (h : s.Tidy) : (s.transferSlot m d i).Tidy := by
  unfold State.transferSlot
  dsimp only
  split
  · exact h
  · exact h.moveGranules.credit

theorem evMigrationTransfer_tidy (h : s.Tidy) : Result.Tidy (evMigrationTransfer s) := by
  unfold evMigrationTransfer
  split
  · exact h
  · split
    · exact h.setMigration.transferSlot
    · exact h
    · dsimp only
      split
      · exact h
      · split
        · exact h.of_tables.foldl fun _ _ h1 => h1.endMigrating
        · exact h.ite h.beginTransfer

theorem State.Tidy.moveThread {n d : Nat} (h : s.Tidy) : (s.moveThread n d).Tidy := by
  unfold State.moveThread
  split
  · exact h
  · dsimp only
    split
    · exact h.emptySlot.restoreCopy.setThread.endMigrating.checkpoint
    · exact h.emptySlot.restoreCopy.setThread.endMigrating

theorem evMigrationRemap_tidy (h : s.Tidy) : Result.Tidy (evMigrationRemap s) := by
  unfold evMigrationRemap
  split
  · exact h
  · split
    · exact .ite h (h.of_tables.remapCore.foldl fun _ _ h1 => h1.moveThread)
    · exact h

/-! ## Machine/Handles -/

theorem State.Tidy.takePages {c n : Nat} (h : s.Tidy) : (s.takePages c n).2.Tidy := h.foldl fun _ _ h1 => h1.setPoolPage

theorem State.Tidy.raisePage {c p : Nat} (h : s.Tidy) : (s.raisePage c p).Tidy := h.ite (h.setPoolPage.editCtx.ite h.setPoolPage)

theorem State.Tidy.lowerPage {c p : Nat} (h : s.Tidy) : (s.lowerPage c p).Tidy := h.ite h.setPoolPage

theorem State.Tidy.copyGranules {a b n : Nat} (h : s.Tidy) : (s.copyGranules a b n).Tidy := by
  induction n generalizing s a b with
  | zero => exact h
  | succ n ih => exact ih h.correct.correct.detect.detect.putGranule.setPoison.setPoison

theorem State.Tidy.copyPage {c p q : Nat} (h : s.Tidy) : (s.copyPage c p q).Tidy := by
  unfold State.copyPage
  refine h.foldl fun _ _ h1 => ?_
  split
  · next e =>
      split
      · next e' => exact ((h1.landingKey.out e).landingKey.out e').of_tables.copyGranules
      · next e' => exact (h1.landingKey.out e).landingKey.out e'
  · next e => exact h1.landingKey.out e

theorem State.Tidy.hnew {c n : Nat} (h : s.Tidy) : (s.hnew c n).2.Tidy := by
  unfold State.hnew
  split
  · exact h
  · exact h.ite_snd (h.ite_snd (h.foldl fun _ _ h1 => h1.setPoolPage).setHandle)

theorem State.Tidy.hext {c hd n : Nat} (h : s.Tidy) : (s.hext c hd n).2.Tidy := by
  unfold State.hext
  split
  · exact h
  · exact h.ite_snd (h.ite_snd (h.foldl fun _ _ h1 => h1.setPoolPage).setHandle)

theorem State.Tidy.hxl {c hd blk : Nat} (h : s.Tidy) : (s.hxl c hd blk).2.Tidy := by
  unfold State.hxl
  split
  · exact h
  · exact h.ite_snd h

theorem State.Tidy.hfork {c hd : Nat} (h : s.Tidy) : (s.hfork c hd).2.Tidy := by
  unfold State.hfork
  split
  · exact h
  · split
    · exact h
    · exact (h.foldl fun _ _ h1 => h1.raisePage).setHandle

theorem State.Tidy.hrel {c hd : Nat} (h : s.Tidy) : (s.hrel c hd).2.Tidy := by
  unfold State.hrel
  split
  · exact h
  · exact h.ite_snd (h.foldl fun _ _ h1 => h1.lowerPage).setHandle

theorem State.Tidy.hcow {c hd blk : Nat} (h : s.Tidy) : (s.hcow c hd blk).2.Tidy := by
  unfold State.hcow
  split
  · exact h
  · split
    · exact h
    · split
      · next e =>
          split
          · exact h.ite_snd h
          · exact h.ite_snd (h.takePages.out e).copyPage.lowerPage.setHandle

theorem State.Tidy.handleStep {t : Thread} {e : Fields} {f : State → HandleResult} (h : s.Tidy)
    (hf : ∀ s1, s1.Tidy → (f s1).2.Tidy) : (s.handleStep t e f).Tidy :=
  (hf _ h).put

theorem State.Tidy.handleOp {e : Fields} {useA useB order : Bool} {f : State → Nat → Nat → Nat → HandleResult} (h : s.Tidy)
    (hf : ∀ s1 k k1 k2, s1.Tidy → (f s1 k k1 k2).2.Tidy) : Result.Tidy (s.handleOp e useA useB order f) := by
  unfold State.handleOp
  refine h.scalar fun _ => ?_
  split
  · split
    · dsimp only
      split <;> exact h.trap
    · split
      · dsimp only
        split
        · exact h.trap
        · exact h.release (h.handleStep fun _ h1 => hf _ _ _ _ h1)
      · dsimp only
        split
        · exact h.trap
        · exact h.handleStep fun _ h1 => hf _ _ _ _ h1
  · exact h.trap.ite ((h.release (h.handleStep fun _ h1 => hf _ _ _ _ h1)).ite (h.handleStep fun _ h1 => hf _ _ _ _ h1))

theorem State.Tidy.writePool {c v : Nat} (h : s.Tidy) : (s.writePool c v).Tidy := h.ite h.editCtx

/-! ## Machine/LayBy -/

theorem State.Tidy.withBlock {t : Thread} {r : QReg} {va n : Nat} {go : State → Nat → State} (h : s.Tidy)
    (hgo : ∀ s1 k, s1.Tidy → (go s1 k).Tidy) : (s.withBlock t r va n go).Tidy := by
  unfold State.withBlock
  refine h.withKey fun s1 _ h1 => ?_
  split
  · exact h1.retry
  · split
    · exact hgo _ _ h1.of_tables
    · split
      · exact h1.detect.trap
      · exact hgo _ _ (h1.foldl fun _ _ h2 => h2.correct)

theorem State.Tidy.parkNow {t : Thread} {e : Fields} {b : ParkBlock} {word : Nat} (h : s.Tidy) : (s.parkNow t e b word).Tidy := by
  unfold State.parkNow
  extract_lets n c x i v hd thbm cont s1 _ u l _ s2 va s3 _ s4
  have h1 : s1.Tidy := by
    unfold s1
    clear_value hd
    cases hd with
    | none => exact h
    | some j => exact h.setHandle
  have h2 : s2.Tidy := State.Tidy.editCtx (v := { s1.ctx c with frames := x.frames.add i }) h1
  have h3 : s3.Tidy := h2.putVa.chargeFrame
  have h4 : s4.Tidy := h3.emptySlot.withConts.endStop
  exact h4.ite h4.wakeMile

theorem State.Tidy.parkRefusal {t : Thread} {e : Fields} {k : Nat} (h : s.Tidy) : (s.parkRefusal t e k).Tidy :=
  h.put.honour.ite h.put

theorem State.Tidy.contReady {c : Continuation} (h : s.Tidy) : (s.contReady c).Tidy := by
  unfold State.contReady
  dsimp only
  split
  · exact h.setCont.keyConts
  · exact h.setCont

theorem State.Tidy.movesEnded {ctx frame : Nat} (h : s.Tidy) : (s.movesEnded ctx frame).Tidy := by
  unfold State.movesEnded
  split
  · exact h
  · split
    · exact h
    · split
      · exact h.contReady
      · split
        · exact h.setCont.ite h.of_tables.setHandle.editCtx
        · exact h.setCont.ite h.of_tables.editCtx
      · exact h.setCont.ite h
      · exact h

theorem evParkSaveWritten_tidy (h : s.Tidy) : Result.Tidy (evParkSaveWritten s) := by
  unfold evParkSaveWritten
  split
  · exact .ite h (.ite h.startStage1.movesEnded h.setCont)
  · exact h

theorem State.Tidy.demotionDone {c : Continuation} (h : s.Tidy) : (s.demotionDone c).Tidy := h.setCont

theorem State.Tidy.startDemotion {c : Continuation} {src dst : Nat} (h : s.Tidy) : (s.startDemotion c src dst).Tidy :=
  h.demotionDone.ite h.setCont

theorem evThbmExpiry_tidy (h : s.Tidy) : Result.Tidy (evThbmExpiry s) := by
  unfold evThbmExpiry
  split
  · exact h.startDemotion.ite h
  · exact h

theorem evTcxlExpiry_tidy (h : s.Tidy) : Result.Tidy (evTcxlExpiry s) := by
  unfold evTcxlExpiry
  split
  · exact h.startDemotion.ite h
  · exact h

theorem State.Tidy.startMove {c : Continuation} {p src dst : Nat} (h : s.Tidy) : (s.startMove c p src dst).Tidy :=
  h.dropNamed.of_tables

theorem State.Tidy.takeTier {dst : Nat} (h : s.Tidy) : (s.takeTier dst).2.Tidy := by
  unfold State.takeTier
  split
  all_goals
    split
    · exact h.of_tables
    · exact h

theorem State.Tidy.nextUp {c : Continuation} (h : s.Tidy) : (s.nextUp c).Tidy := by
  unfold State.nextUp
  split
  · exact h
  · split
    · exact h.setCont.movesEnded
    · split
      · exact h
      · split
        · exact h.setCont.movesEnded
        · split
          · exact h
          · exact h.of_tables.setCont.startMove

theorem State.Tidy.nextDown {c : Continuation} (h : s.Tidy) : (s.nextDown c).Tidy := by
  unfold State.nextDown
  split
  · exact h
  · split
    · split
      · exact h.demotionDone
      · split
        · exact h
        · split
          · split
            · exact h.demotionDone
            · split
              · next e => exact (h.takeTier.out e).demotionDone
              · next e => exact (h.takeTier.out e).setCont.startMove
          · split
            · exact h.demotionDone
            · split
              · next e => exact (h.takeTier.out e).demotionDone
              · next e => exact (h.takeTier.out e).setCont.startMove
    · split
      · exact h.setCont
      · split
        · exact h
        · split
          · split
            · exact h.setCont
            · split
              · next e => exact (h.takeTier.out e).setCont
              · next e => exact (h.takeTier.out e).setCont.startMove
          · split
            · exact h.setCont
            · split
              · next e => exact (h.takeTier.out e).setCont
              · next e => exact (h.takeTier.out e).setCont.startMove

theorem evPageMoveStart_tidy (h : s.Tidy) : Result.Tidy (evPageMoveStart s) := by
  unfold evPageMoveStart
  split
  · exact h
  · exact .ite h (.ite h.nextUp h.nextDown)

theorem State.Tidy.freePage {key : Nat} (h : s.Tidy) : (s.freePage key).Tidy := by
  unfold State.freePage
  split <;> exact h.of_tables

theorem State.Tidy.rewriteLeaf {m : PageMove} (h : s.Tidy) : (s.rewriteLeaf m).Tidy := h.foldl fun _ _ h1 => h1.storeAccess

theorem State.Tidy.settleLeaf {m : PageMove} (h : s.Tidy) : (s.settleLeaf m).Tidy :=
  h.rewriteLeaf.ite (h.rewriteLeaf.ite (h.of_tables.rewriteLeaf.ite h.of_tables))

theorem evBlockMoveComplete_tidy (h : s.Tidy) : Result.Tidy (evBlockMoveComplete s) := by
  unfold evBlockMoveComplete
  split
  · exact h
  · split
    · exact h
    · dsimp only
      split
      · exact h.copyGranules.settleLeaf.freePage.dropNamed.of_tables.credit
      · exact .ite h.copyGranules.settleLeaf.freePage.dropNamed.of_tables.credit.demotionDone
          h.copyGranules.settleLeaf.freePage.dropNamed.of_tables.credit.movesEnded

theorem State.Tidy.wordOperand {t : Thread} {e : Fields} {perm : Nat} {rights : List Right} {go : State → Nat → Nat → State}
    (h : s.Tidy) (hgo : ∀ s1 k k1, s1.Tidy → (go s1 k k1).Tidy) : (s.wordOperand t e perm rights go).Tidy :=
  h.trap.ite (h.trap.ite (h.withKey fun _ _ h1 => hgo _ _ _ h1))

theorem State.Tidy.lproNow {c : Continuation} {n : Nat} (h : s.Tidy) : (s.lproNow c n).Tidy := h.setCont.movesEnded

/-! ## Machine/Placement -/

theorem State.Tidy.launchIn {k i : Nat} {l : Launch} {crew n idx : Nat} (h : s.Tidy) : (s.launchIn k i l crew n idx).Tidy := by
  unfold State.launchIn
  dsimp only
  split
  · exact h.takeLcore.restoreCopy.setThread.checkpoint
  · exact h.takeLcore.restoreCopy.setThread

theorem State.Tidy.launchAll {k i : Nat} {l : Launch} {crew idx : Nat} {ns : List Nat} (h : s.Tidy) :
    (s.launchAll k i l crew idx ns).Tidy := by
  induction ns generalizing s idx with
  | nil => exact h
  | cons n r ih => exact ih h.launchIn

theorem State.Tidy.placeThreads {k i track pick : Nat} (h : s.Tidy) : TidySome (s.placeThreads k i track pick) := by
  rw [State.placeThreads]
  split
  · trivial
  · split
    · trivial
    · split
      · trivial
      · split
        · trivial
        · next e =>
          have h1 := h.takeCrew.out e
          exact h1.setGraph.launchAll

theorem State.Tidy.placeWave {k i pick : Nat} (h : s.Tidy) : TidySome (s.placeWave k i pick) := by
  rw [State.placeWave]
  split
  · split
    · trivial
    · split
      · trivial
      · exact h.setGraph.launchAll
  · trivial

theorem State.Tidy.refuseHead {qk : Nat} {op : EngineOp} {kind addr : Nat} (h : s.Tidy) : (s.refuseHead qk op kind addr).Tidy :=
  h.setQueue.newHead.freezeQueue

theorem State.Tidy.placeTileOn {k i track grove : Nat} (h : s.Tidy) : TidySome (s.placeTileOn k i track grove) := by
  unfold State.placeTileOn
  extract_lets g t qk op s1 bad freeze
  have h1 : s1.Tidy := h.setGraph
  have hbad : ∀ {s : State}, s.Tidy → TidySome (bad s) := fun h => h.setGraph.ite h.abandonGraph
  have hfreeze : ∀ {s : State} {kind a}, s.Tidy → TidySome (freeze s kind a) := fun h => by
    unfold freeze
    split
    · trivial
    · exact h.refuseHead
  split
  · exact hbad h1
  · split
    · exact hfreeze h1
    · exact hbad h1
    · cases op.w with
      | none => exact h1.appendOp
      | some w =>
        dsimp only
        generalize hr : (op.wordKey w).run.run s1 = r
        have h2 : r.2.Tidy := hr ▸ EngineOp.wordKey_tidy.run h1
        obtain ⟨e | _, s2⟩ := r
        · cases e with
          | violation => exact hfreeze h2
          | translation => exact hbad h2
          | pause => trivial
          | _ => exact State.Tidy.appendOp h2
        · exact State.Tidy.appendOp h2

theorem State.Tidy.placeTile {k i track pick : Nat} (h : s.Tidy) :
    TidySome (s.placeTile k i track pick) := .bind fun _ => h.placeTileOn

theorem State.Tidy.placeTask {k i pick : Nat} (h : s.Tidy) : TidySome (s.placeTask k i pick) :=
  .findSome? fun _ => by split <;> [exact h.placeTile; exact h.placeThreads]

theorem State.Tidy.placeCont {k frame : Nat} (h : s.Tidy) : TidySome (s.placeCont k frame) := by
  rw [State.placeCont]
  split
  · trivial
  · next c _ =>
    refine .map fun core => ?_
    generalize hr : s.readFrame _ _ _ = r
    have h0 : r.2.Tidy := hr ▸ h.readFrame
    obtain ⟨f, s0⟩ := r
    dsimp only at h0 ⊢
    exact (State.Tidy.ite h0.remapCore.setGraph.fillSlot.report h0.remapCore.setGraph.fillSlot).setCont.movesEnded

theorem State.Tidy.placeCandidate {pick : Nat} {x : Candidate} (h : s.Tidy) : TidySome (s.placeCandidate pick x) := by
  cases x with
  | task => exact h.placeTask
  | cont => exact h.placeCont

theorem State.Tidy.nextPlacement {die pick : Nat} (h : s.Tidy) : TidyPair (s.nextPlacement die pick) :=
  .findSome? fun _ => h.placeCandidate.pair

theorem State.Tidy.shareSlot {n : Nat} (h : s.Tidy) : (s.shareSlot n).Tidy := by
  unfold State.shareSlot
  dsimp only
  split
  · exact h
  · split
    · exact h.setSlot
    · exact h

theorem evTaskPlacement_tidy (h : s.Tidy) : Result.Tidy (evTaskPlacement s) := by
  unfold evTaskPlacement
  split
  · exact h
  · split
    · next e => exact h.nextPlacement.out e
    · exact h

theorem evContinuationPlacement_tidy (h : s.Tidy) : Result.Tidy (evContinuationPlacement s) := by
  unfold evContinuationPlacement
  split
  · exact h
  · split
    · next e => exact h.nextPlacement.out e
    · exact h

theorem evWavePlacement_tidy (h : s.Tidy) : Result.Tidy (evWavePlacement s) := .ite (.next (.getD h.placeWave h)) (.next h)

theorem evSlotReassign_tidy (h : s.Tidy) : Result.Tidy (evSlotReassign s) := (h.setCore.foldl fun _ _ h1 => h1.shareSlot).ite h

/-! ## Machine/Governor -/

theorem State.Tidy.refillCore {core budget : Nat} (h : s.Tidy) : (s.refillCore core budget).Tidy := h.foldl fun _ _ h1 => h1.setSlot

theorem State.Tidy.creditStatic {die : Nat} (h : s.Tidy) : (s.creditStatic die).Tidy := h.of_tables.editCtx

theorem State.Tidy.unmaskCool {die : Nat} (h : s.Tidy) : (s.unmaskCool die).Tidy := h.foldl fun _ _ h1 => h1.setSlot

theorem State.Tidy.refillDie {die : Nat} (h : s.Tidy) : (s.refillDie die).Tidy :=
  ((((h.foldl fun _ _ h1 => h1.setSlot).foldl fun _ _ h1 => h1.refillCore).foldl fun _ _ h1 => h1.setCore).foldl fun _ _ h1 =>
    h1.setGrove).creditStatic.unmaskCool

theorem evBudgetRefill_tidy (h : s.Tidy) : Result.Tidy (evBudgetRefill s) := h.of_tables.refillDie.ite h

theorem State.Tidy.correction {meas : Nat} (h : s.Tidy) : (s.correction meas).2.Tidy := h.of_tables.ite_snd h

theorem State.Tidy.writeRecord {record : Nat} (h : s.Tidy) : (s.writeRecord record).Tidy := h.writeNum.writeNum

theorem evGovernorWindowEnd_tidy (h : s.Tidy) : Result.Tidy (evGovernorWindowEnd s) :=
  .ite h (h.correction.writeRecord.ite h.correction).of_tables

theorem evBallastSliceEnd_tidy (h : s.Tidy) : Result.Tidy (evBallastSliceEnd s) :=
  .ite (h.credit.of_tables.ite h.credit.of_tables.setGrove) (h.setGrove.ite h)

/-! ## Machine/Fetch -/

theorem State.Tidy.copyBlock {r : Resident} {i va key : Nat} (h : s.Tidy) : (s.copyBlock r i va key).2.Tidy := h.of_tables

theorem State.Tidy.askBlock {n : Nat} {t : Thread} {va k : Nat} (h : s.Tidy) : (s.askBlock n t va k).Tidy := h.ite h.ask

theorem State.Tidy.refill {n : Nat} {t : Thread} {va : Nat} (h : s.Tidy) : (s.refill n t va).2.Tidy := by
  unfold State.refill
  dsimp only
  refine .ite_snd h (.ite_snd h (.ite_snd h.beginWalk ?_))
  have h1 : (s.translate (slotGrove n) t.ctx va).2.Tidy := h.translate
  split
  · exact h1
  · exact h1
  · refine .ite_snd h1 (.ite_snd h1 ?_)
    split
    · dsimp only; exact h1.copyBlock
    · refine .ite_snd h1.askBlock ?_
      dsimp only
      exact h1.foldl fun _ _ h2 => h2.correct.detect

theorem State.Tidy.getBlock {n : Nat} {t : Thread} {va : Nat} (h : s.Tidy) : (s.getBlock n t va).2.Tidy := by
  unfold State.getBlock
  split
  · exact h
  · exact h.refill

theorem State.Tidy.fetch {m : Nat} {t : Thread} (h : s.Tidy) : (s.fetch m t).2.Tidy := by
  unfold State.fetch
  dsimp only
  split
  · exact h
  · split
    · next e => exact h.getBlock.out e
    · next e => exact h.getBlock.out e
    · next e => exact h.getBlock.out e
    · next e => exact h.getBlock.out e
    · next e => exact h.getBlock.out e
    · next e =>
        split
        · exact h.getBlock.out e
        · split
          · split <;> exact h.getBlock.out e
          · split
            · next e' => exact (h.getBlock.out e).getBlock.out e'
            · next e' => exact (h.getBlock.out e).getBlock.out e'
            · next e' => exact (h.getBlock.out e).getBlock.out e'
            · next e' => exact (h.getBlock.out e).getBlock.out e'
            · next e' => exact (h.getBlock.out e).getBlock.out e'
            · next e' => split <;> exact (h.getBlock.out e).getBlock.out e'

/-! ## Machine/System -/

theorem State.Tidy.safePoint {t : Thread} {e : Fields} {qmask pmask : Nat} (h : s.Tidy) : (s.safePoint t e qmask pmask).Tidy :=
  h.release (h.of_tables.put.checkpointOf.ite h.of_tables.put).honour

theorem State.Tidy.stopAfter {e : Fields} {kind cause : Nat} (h : s.Tidy) : Result.Tidy (s.stopAfter e kind cause) :=
  h.scalar fun _ => h.put.stopThread

theorem State.Tidy.skipLength {n : Nat} {t : Thread} (h : s.Tidy) : (s.skipLength n t).2.Tidy := by
  unfold State.skipLength
  refine .ite_snd h ?_
  generalize hr : State.refill _ _ _ _ = r
  have h1 : r.2.Tidy := hr ▸ State.Tidy.refill h.of_tables
  obtain ⟨x, s1⟩ := r
  cases x with
  | block b => exact .ite_snd h1 h1
  | pending => exact h1.takeFree
  | _ => exact h1

theorem State.Tidy.goOn {n : Nat} {t : Thread} {skip : Bool} {f : Thread → Thread} (h : s.Tidy) : (s.goOn n t skip f).2.Tidy := by
  unfold State.goOn
  split
  · split
    · next e => exact (h.skipLength.out e).setThread
    · next e => exact h.skipLength.out e
    · next e => exact h.skipLength.out e
  · exact h.setThread

theorem State.Tidy.clearFlag {c frame i : Nat} (h : s.Tidy) : (s.clearFlag c frame i).Tidy := by
  unfold State.clearFlag
  dsimp only
  split
  · next e => exact (h.landingRead.out e).landingWrite.ite (h.landingRead.out e)
  · next e => exact h.landingRead.out e

theorem State.Tidy.goOnSaved {c : Nat} {v : Saved} {skip : Bool} {i : Nat} {f : Saved → Saved} (h : s.Tidy) :
    (s.goOnSaved c v skip i f).2.Tidy := by
  unfold State.goOnSaved
  split
  · dsimp only
    split
    · next e => exact (h.skipLength.out e).editCtx.clearFlag.landingWrite
    · next e => exact h.skipLength.out e
    · next e => exact h.skipLength.out e
  · exact h.editCtx.clearFlag

theorem State.Tidy.goOnResult {t : Thread} {e : Fields} {r : Except Wait Int × State} (h : r.2.Tidy) :
    (State.goOnResult t e r).Tidy := by
  unfold State.goOnResult
  split
  · exact State.Tidy.finish h
  · exact State.Tidy.retry h

theorem State.Tidy.tlbiOp {e : Fields} {kind : Nat} {f : Thread → Option (Nat × Nat × Nat)} (h : s.Tidy) :
    Result.Tidy (s.tlbiOp e kind f) := by
  unfold State.tlbiOp
  refine h.scalar fun _ => ?_
  split
  · exact h.trap
  · split
    · exact h.trap
    · exact h.release (h.put.noteObeyed.dropNamed.put.ite h.put.noteObeyed.dropNamed.put)

theorem State.Tidy.drainEnd {n : Nat} {t : Thread} (h : s.Tidy) : (s.drainEnd n t).Tidy := h.emptySlot.threadGone.endStop

theorem evThreadDrainEnd_tidy (h : s.Tidy) : Result.Tidy (evThreadDrainEnd s) := by
  unfold evThreadDrainEnd
  dsimp only
  split
  · exact h.drainEnd.ite h
  · exact h

theorem State.Tidy.drainHalted {before : State} (h : s.Tidy) : (before.drainHalted s).Tidy := h.foldl fun _ _ h1 => h1.drainEnd

/-! ## Machine/Debug -/

theorem State.Tidy.debugTurn {n : Nat} (h : s.Tidy) : TidySome (s.debugTurn n) := by
  unfold State.debugTurn
  split
  · trivial
  · split
    · exact h.stopThread
    · exact .map (fun _ => h.stopThread)

theorem evBreakpointMatch_tidy (h : s.Tidy) : Result.Tidy (evBreakpointMatch s) := by
  unfold evBreakpointMatch
  dsimp only
  split
  · exact .ite (.getD h.debugTurn h) h
  · exact h

theorem State.Tidy.stopNow {n : Nat} {t : Thread} (h : s.Tidy) : (s.stopNow n t).Tidy := by
  unfold State.stopNow
  split
  · exact h.setThread.report
  · exact h.setThread.report
  · exact h.stopThread
  · exact h.setThread
  · exact h.setThread
  · exact h.setThread
  · exact h.setThread
  · exact h.setThread
  · exact h.setThread
  · exact h.setThread
  · exact h.setThread
  · exact h.setThread
  · exact h.stopThread.ite h.setThread
  · exact h.setThread.ite h.withdraw.stopThread

theorem State.Tidy.takeStops (h : s.Tidy) : s.takeStops.Tidy := h.foldl fun _ _ h1 => h1.setThread.stopNow

theorem State.Tidy.debugAct {act : Nat} (h : s.Tidy) : (s.debugAct act).2.Tidy := by
  unfold State.debugAct
  split
  · dsimp only
    split
    · exact h
    · split
      · exact h
      · exact h.setThread.ite_snd h
  · dsimp only
    split
    · exact h
    · split
      · exact h
      · exact h.setThread.ite_snd h
  · dsimp only
    split
    · exact h
    · split
      · exact h
      · exact h.ite_snd h.stopNow

theorem State.Tidy.debugCommand {v : Nat} (h : s.Tidy) : (s.debugCommand v).Tidy := by
  unfold State.debugCommand
  dsimp only
  split
  · exact h
  · exact h.debugAct.of_tables

theorem evDebugResume_tidy (h : s.Tidy) : Result.Tidy (evDebugResume s) := h.debugCommand.ite h

theorem evDebugStep_tidy (h : s.Tidy) : Result.Tidy (evDebugStep s) := h.debugCommand.ite h

theorem evDebugStop_tidy (h : s.Tidy) : Result.Tidy (evDebugStop s) := h.debugCommand.ite h

theorem State.Tidy.stepped {before : State} {n : Nat} (h : s.Tidy) : (before.stepped s n).Tidy := by
  unfold State.stepped
  split
  · exact h.ite (h.ite (h.setThread.ite h.setThread))
  · exact h

theorem evStepStop_tidy (h : s.Tidy) : Result.Tidy (evStepStop s) := by
  unfold evStepStop
  dsimp only
  split
  · exact .ite h.setThread.stopThread h
  · exact h

theorem State.Tidy.storeNum {k n v : Nat} (h : s.Tidy) : (s.storeNum k n v).Tidy := h.storeAccess

theorem State.Tidy.logPut {core w : Nat} (h : s.Tidy) : (s.logPut core w).Tidy := by
  unfold State.logPut
  exact h.storeNum.storeNum.setCore.credit

theorem State.Tidy.logDrain {core : Nat} (h : s.Tidy) : (s.logDrain core).Tidy := h.ite (h.setCore.foldl fun _ _ h1 => h1.logPut)

theorem State.Tidy.logWord {core w upto : Nat} (h : s.Tidy) : (s.logWord core w upto).Tidy := h.setCore.ite h.setCore.logDrain

theorem State.Tidy.logFiller {core : Nat} (h : s.Tidy) : (s.logFiller core).Tidy := h.logWord

theorem State.Tidy.noteChange {n cls reason : Nat} (h : s.Tidy) : (s.noteChange n cls reason).Tidy := h.setCore

theorem State.Tidy.logChange {core now w : Nat} (h : s.Tidy) : (s.logChange core now w).Tidy :=
  (h.loopUp fun _ _ h1 => h1.logFiller).logWord

theorem State.Tidy.closeCycle {core now : Nat} (h : s.Tidy) : (s.closeCycle core now).Tidy :=
  h.setCore.foldl fun _ _ h1 => h1.logChange

theorem State.Tidy.closeCycles {before : State} (h : s.Tidy) : (before.closeCycles s).Tidy := h.foldl fun _ _ h1 => h1.closeCycle

theorem State.Tidy.logChanges {before : State} (h : s.Tidy) : (before.logChanges s).Tidy :=
  (h.foldl fun _ _ h1 => h1.ite h1.noteChange).ite h

theorem State.Tidy.writeLogctl {v : Nat} (h : s.Tidy) : (s.writeLogctl v).Tidy :=
  h.ite ((((h.foldl fun _ _ h1 => h1.closeCycle).ite h).of_tables.foldl fun _ _ h1 => h1.storeNum.setCore).ite
    ((h.foldl fun _ _ h1 => h1.closeCycle).ite h).of_tables)

theorem evLogEnable_tidy (h : s.Tidy) : Result.Tidy (evLogEnable s) := h.writeLogctl.ite h

theorem evLogDeltaOverflow_tidy (h : s.Tidy) : Result.Tidy (evLogDeltaOverflow s) := h.logFiller.ite h

theorem State.Tidy.writeSmpctl {v : Nat} (h : s.Tidy) : (s.writeSmpctl v).Tidy :=
  h.ite (((h.of_tables.foldl fun _ _ h1 => h1.setCore).foldl fun _ _ h1 => h1.storeNum).ite h.of_tables)

theorem evSampleEnable_tidy (h : s.Tidy) : Result.Tidy (evSampleEnable s) := h.writeSmpctl.ite h

theorem State.Tidy.dropSample {die ring : Nat} (h : s.Tidy) : (s.dropSample die ring).Tidy := h.storeNum.of_tables

theorem State.Tidy.putSample {die w : Nat} (h : s.Tidy) : (s.putSample die w).Tidy := by
  unfold State.putSample
  exact h.storeNum.storeNum.storeNum.withDbg.credit

theorem State.Tidy.setHeld {die : Nat} {l : List Nat} (h : s.Tidy) : (s.setHeld die l).Tidy := h.of_tables

theorem State.Tidy.sampleDrain {die : Nat} (h : s.Tidy) : (s.sampleDrain die).Tidy :=
  .ite h (h.setHeld.foldl fun _ _ h1 => h1.putSample)

theorem evPcSample_tidy (h : s.Tidy) : Result.Tidy (evPcSample s) := .ite h (h.setCore.dropSample.ite h.setCore.setHeld.sampleDrain)

theorem State.Tidy.takeRecords (h : s.Tidy) : s.takeRecords.Tidy :=
  (h.foldl fun _ _ h1 => h1.logDrain).foldl fun _ _ h1 => h1.sampleDrain

/-! ## Machine/QueuePairs -/

theorem State.Tidy.portDone {k : Nat} (h : s.Tidy) : (s.portDone k).Tidy := h.setFar

theorem State.Tidy.portRun {act : Eng Nat} (h : s.Tidy) (hact : Eng.Tidy act) : (s.portRun act).2.Tidy := by
  unfold State.portRun
  have h1 := hact { s with opts := { s.opts with walk := s.arg.walk } } h.of_tables
  split
  all_goals
    next e => rw [e] at h1; exact h1

theorem State.Tidy.portRead {c k va n : Nat} (h : s.Tidy) : (s.portRead c k va n).2.Tidy :=
  h.ite_snd (h.ite_snd (h.portRun EngineOp.readNum_tidy))

theorem EngineOp.askParts_tidy {op : EngineOp} {va v : Nat} {l : List (Nat × Nat)} : Eng.Tidy (op.askParts va v l) :=
  .forM fun _ => .bind EngineOp.key_tidy fun _ => .get_bind fun _ _ => .ite (.bind EngineOp.askFar_tidy fun _ => .pure) .pure

theorem EngineOp.writeParts_tidy {op : EngineOp} {va v : Nat} {l : List (Nat × Nat)} : Eng.Tidy (op.writeParts va v l) := by
  refine .forM fun _ => .bind EngineOp.key_tidy fun _ => .get_bind fun _ h => .ite ?_ (.ite farAccess_tidy .pure)
  dsimp only
  split
  · exact .bind (.set h.detect) fun _ => .throw
  · exact .set h.storeAccess

theorem State.Tidy.portWrite {c k va n v : Nat} (h : s.Tidy) : (s.portWrite c k va n v).2.Tidy := by
  have hw : ∀ {op : EngineOp} {l}, Eng.Tidy (do op.writeParts va v l; pure 0 : Eng Nat) := .bind EngineOp.writeParts_tidy fun _ =>
    .pure
  unfold State.portWrite
  refine .ite_snd h (.ite_snd h ?_)
  dsimp only
  generalize hr : s.portRun _ = r
  have h1 : r.2.Tidy := hr ▸ h.portRun (.bind EngineOp.askParts_tidy fun _ => .pure)
  obtain ⟨x, s1⟩ := r
  cases x with
  | done v => exact State.Tidy.portRun h1 hw
  | _ => exact h1

theorem State.Tidy.portPost {c k va n v : Nat} (h : s.Tidy) : (s.portPost c k va n v).Tidy := by
  unfold State.portPost
  split
  · exact h
  · refine h.foldl fun _ _ h1 => ?_
    split
    · next e => exact (h1.form.out e).storeAccess.ite (h1.form.out e).ask
    · next e => exact h1.form.out e

theorem State.Tidy.complete {k index op status len value : Nat} (h : s.Tidy) : (s.complete k index op status len value).Tidy := by
  unfold State.complete
  split
  · exact h
  · exact h.portPost.setQp

theorem State.Tidy.workAt {k : Nat} {q : QueuePair} {i : Nat} (h : s.Tidy) : (s.workAt k q i).2.Tidy := h.portRead

theorem State.Tidy.flushedOp {a : PortEnd} (h : s.Tidy) : (s.flushedOp a).2.Tidy := by
  unfold State.flushedOp
  split
  · exact h
  · exact h
  · exact h.of_tables

theorem State.Tidy.flushQp {k n : Nat} (h : s.Tidy) : (s.flushQp k n).Tidy := by
  induction n generalizing s with
  | zero => exact h
  | succ n ih =>
    unfold State.flushQp
    split
    · exact h
    · refine .ite h.setQp ?_
      dsimp only
      split
      · exact h.workAt.flushedOp.complete
      · exact ih h.workAt.flushedOp.complete.setQp

theorem State.Tidy.errorQp {k : Nat} (h : s.Tidy) : (s.errorQp k).Tidy := by
  unfold State.errorQp
  split
  · exact h
  · exact h.setQp.flushQp

theorem State.Tidy.moveQp {k dst v : Nat} (h : s.Tidy) : (s.moveQp k dst v).Tidy := by
  unfold State.moveQp
  split
  · exact h
  · split
    · exact h.setQp
    · exact h.errorQp
    · exact h.setQp

theorem State.Tidy.qpResult {qpn r : Nat} (h : s.Tidy) : (s.qpResult qpn r).Tidy := h.of_tables

theorem State.Tidy.qpCreate {c v : Nat} (h : s.Tidy) : (s.qpCreate c v).Tidy := by
  unfold State.qpCreate
  split
  · next e =>
      dsimp only
      split
      · exact h.qpResult
      · split
        · exact h.qpResult
        · split
          · exact h.qpResult
          · exact (h.takeFree.out e).setQp.moveQp.qpResult

theorem State.Tidy.qpModify {c v : Nat} (h : s.Tidy) : (s.qpModify c v).Tidy := by
  unfold State.qpModify
  split
  · exact h.qpResult.ite h.qpResult
  · exact h.qpResult.ite (h.qpResult.ite (h.qpResult.ite h.moveQp.qpResult))

theorem State.Tidy.qpDestroy {c v : Nat} (h : s.Tidy) : (s.qpDestroy c v).Tidy := by
  unfold State.qpDestroy
  split
  · exact h.qpResult
  · split
    · exact h.qpResult
    · exact h.flushQp.setQp.qpResult

theorem State.Tidy.qpCommand {c w : Nat} (h : s.Tidy) : (s.qpCommand c w).Tidy := by
  unfold State.qpCommand
  dsimp only
  split
  · exact h
  · split
    · exact h.qpResult
    · split
      · exact h.qpCreate
      · exact h.qpModify
      · exact h.qpDestroy

theorem State.Tidy.qpEvent {act : Nat} (h : s.Tidy) : Result.Tidy (s.qpEvent act) := by
  unfold State.qpEvent
  split
  · exact h.qpCommand
  · exact h

theorem evQpCreate_tidy (h : s.Tidy) : Result.Tidy (evQpCreate s) := h.qpEvent

theorem evQpModify_tidy (h : s.Tidy) : Result.Tidy (evQpModify s) := h.qpEvent

theorem evQpDestroy_tidy (h : s.Tidy) : Result.Tidy (evQpDestroy s) := h.qpEvent

theorem State.Tidy.doorbell {c w : Nat} (h : s.Tidy) : (s.doorbell c w).Tidy := by
  unfold State.doorbell
  split
  all_goals
    dsimp only
    split
    · exact h
    · split
      · exact h
      · exact h.ite (h.setQp.ite h)

theorem State.Tidy.doorbellEvent {recv : Bool} (h : s.Tidy) : Result.Tidy (s.doorbellEvent recv) := by
  unfold State.doorbellEvent
  split
  · exact h.doorbell.ite h
  · exact h

theorem evQpDoorbellSend_tidy (h : s.Tidy) : Result.Tidy (evQpDoorbellSend s) := h.doorbellEvent

theorem evQpDoorbellRecv_tidy (h : s.Tidy) : Result.Tidy (evQpDoorbellRecv s) := h.doorbellEvent

theorem State.Tidy.workCheck {k : Nat} {q : QueuePair} {w : Nat} (h : s.Tidy) : (s.workCheck k q w).2.Tidy :=
  h.ite_snd (h.portRead.ite_snd h)

theorem evWorkRequest_tidy (h : s.Tidy) : Result.Tidy (evWorkRequest s) := by
  unfold evWorkRequest
  dsimp only
  split
  · exact h
  · split
    · exact h
    · split
      · next e => exact h.workAt.out e
      · next e => exact (h.workAt.out e).ite (h.workAt.out e).setQp.portDone
      · next e =>
          split
          · exact h.workAt.out e
          · split
            · next e' => exact (h.workAt.out e).workCheck.out e'
            · next e' => exact ((h.workAt.out e).workCheck.out e').setQp.portDone
            · next e' => exact ((h.workAt.out e).workCheck.out e').setQp.portDone

theorem State.Tidy.endWork {k : Nat} {q : QueuePair} {status len value : Nat} (h : s.Tidy) :
    (s.endWork k q status len value).Tidy := by
  unfold State.endWork
  split
  · split
    · dsimp only
      split
      · exact h.complete
      · exact h.complete.setQp.errorQp
    · dsimp only
      split
      · exact h.complete
      · exact h.complete.setQp
  · split
    · dsimp only
      split
      · exact h
      · exact h.setQp.errorQp
    · dsimp only
      split
      · exact h
      · exact h.setQp

theorem evWorkRequestComplete_tidy (h : s.Tidy) : Result.Tidy (evWorkRequestComplete s) := by
  unfold evWorkRequestComplete
  split
  · dsimp only
    split
    · exact h
    · exact .ite h (.ite h.endWork h.endWork)
  · dsimp only
    split
    · exact h
    · split
      · exact h
      · split
        · exact h.endWork
        · split
          · exact h.endWork
          · split
            · next e => exact h.portWrite.out e
            · next e => exact (h.portWrite.out e).endWork.portDone
            · next e => exact (h.portWrite.out e).endWork.portDone

theorem evQpRetryTimeout_tidy (h : s.Tidy) : Result.Tidy (evQpRetryTimeout s) := by
  unfold evQpRetryTimeout
  split
  · dsimp only
    split
    · exact h
    · exact .ite h h.setQp
  · dsimp only
    split
    · exact h
    · exact .ite h h.endWork

theorem State.Tidy.answer {k : Nat} {ok : Bool} {v : Nat} (h : s.Tidy) : (s.answer k ok v).Tidy := h.of_tables

theorem State.Tidy.rdmaIn {b : Nat} {f : QueuePair → State} (h : s.Tidy) (hf : ∀ x, (f x).Tidy) : Result.Tidy (s.rdmaIn b f) := by
  unfold State.rdmaIn
  split
  · exact h
  · exact .ite h.answer (hf _)

theorem evRdmaWriteIn_tidy (h : s.Tidy) : Result.Tidy (evRdmaWriteIn s) := by
  unfold evRdmaWriteIn
  refine h.rdmaIn fun _ => ?_
  dsimp only
  split
  · exact h
  · split
    · next e => exact h.portWrite.out e
    · exact h.answer.portDone
    · next e => exact (h.portWrite.out e).answer.portDone

theorem evRdmaReadIn_tidy (h : s.Tidy) : Result.Tidy (evRdmaReadIn s) := by
  unfold evRdmaReadIn
  refine h.rdmaIn fun _ => ?_
  split
  · exact h
  · split
    · next e => exact h.portRead.out e
    · next e => exact (h.portRead.out e).answer.portDone
    · next e => exact (h.portRead.out e).answer.portDone

theorem EngineOp.atomic_tidy {op : EngineOp} {va : Nat} {add : Bool} {x y : Nat} : Eng.Tidy (op.atomic va add x y) := by
  unfold EngineOp.atomic
  refine .bind EngineOp.key_tidy fun _ => .get_bind fun _ h => .ite .throw (.ite EngineOp.askFar_tidy ?_)
  dsimp only
  split
  · exact .bind (.set h.perform) fun _ => .pure
  · exact .throw

theorem evRdmaAtomicIn_tidy (h : s.Tidy) : Result.Tidy (evRdmaAtomicIn s) := by
  unfold evRdmaAtomicIn
  refine h.rdmaIn fun q => ?_
  extract_lets va x y
  refine .ite h (.ite h.answer ?_)
  split
  · next e => exact (h.portRun EngineOp.atomic_tidy).out e
  · exact h.answer.portDone
  · next e => exact ((h.portRun EngineOp.atomic_tidy).out e).answer.portDone

theorem evSendIn_tidy (h : s.Tidy) : Result.Tidy (evSendIn s) := by
  unfold evSendIn
  extract_lets k n
  split
  · exact h
  · next q _ =>
    refine .ite (.next h.answer) ?_
    extract_lets fin
    have hfin : ∀ {s : State} {ok}, s.Tidy → (fin s ok).Tidy := fun h => by
      unfold fin
      dsimp only
      split
      · exact h.complete.portDone
      · exact h.complete.portDone.setQp.answer
    split
    · next e => exact h.portRead.out e
    · next e =>
      have h1 := h.portRead.out e
      exact .next (.ite h1 (hfin h1))
    · next e =>
      have h1 := h.portRead.out e
      refine .ite (.next h1) (.ite (.next (hfin h1)) ?_)
      split
      · next e => exact h1.portWrite.out e
      · next e => exact hfin (h1.portWrite.out e)
      · next e => exact hfin (h1.portWrite.out e)

/-! ## Machine/SysReg -/

theorem State.Tidy.readReg {u : RegUser} {n : Nat} (h : s.Tidy) : TidyPair (s.readReg u n) := by
  unfold State.readReg
  split
  · trivial
  · exact h

theorem State.Tidy.writeCtxReg {c n v : Nat} (h : s.Tidy) : (s.writeCtxReg c n v).Tidy := by
  unfold State.writeCtxReg
  split
  · exact h.ite (h.editCtx.ite h)
  · exact h.ite h.editCtx
  · exact h.ite h.editCtx
  · exact h.ite h.editCtx
  · exact h.ite h.editCtx
  · exact h.ite h.editCtx
  · exact h.ite h

theorem State.Tidy.queueControl {ctx die v : Nat} (h : s.Tidy) : (s.queueControl ctx die v).Tidy := by
  unfold State.queueControl
  split
  · exact h.ite h.resumeQueue
  · exact h.ite h.discardQueue
  · exact h.ite h

theorem State.Tidy.writeKernelReg {c v : Nat} (h : s.Tidy) : (s.writeKernelReg c v).Tidy := by
  unfold State.writeKernelReg
  split
  · exact h.registerKernel
  · exact h.evictKernel
  · exact h

theorem State.Tidy.clearRas {v : Nat} (h : s.Tidy) : (s.clearRas v).Tidy := h.of_tables

theorem State.Tidy.writeBreak {n v : Nat} (h : s.Tidy) : (s.writeBreak n v).Tidy := h.of_tables.ite h.of_tables

theorem State.Tidy.regEffect {u : RegUser} {n v : Nat} (h : s.Tidy) : (s.regEffect u n v).Tidy := by
  unfold State.regEffect
  split
  · split <;> exact h.of_tables
  · exact h.ite h.editCtx
  · exact h.submit
  · exact h.queueControl
  · exact h.ite h.writeKernelReg
  · exact h.ite h.writePool
  · exact h.clearRas
  · exact h.of_tables
  · exact h.debugCommand
  · exact h.writeLogctl
  · exact h.writeSmpctl
  · exact h.qpCommand
  · exact h.doorbell
  · exact h.writeBreak.ite h.writeCtxReg

theorem State.Tidy.writeReg {u : RegUser} {n v : Nat} (h : s.Tidy) : TidySome (s.writeReg u n v) := by
  unfold State.writeReg
  split
  · trivial
  · exact h.regEffect

theorem State.Tidy.getsOp {e : Fields} (h : s.Tidy) : Result.Tidy (s.getsOp e) := by
  unfold State.getsOp
  refine h.scalar fun _ => ?_
  split
  · exact h
  · split
    · exact h.trap
    · next e => exact (h.readReg.out e).finish

theorem State.Tidy.putsOp {e : Fields} (h : s.Tidy) : Result.Tidy (s.putsOp e) := by
  unfold State.putsOp
  refine h.scalar fun _ => ?_
  split
  · exact h.trap
  · split
    · exact h
    · dsimp only
      split
      · refine h.release ?_
        split
        · exact h.trap
        · next e =>
            split
            · exact h.writeReg.out e
            · exact (h.writeReg.out e).put
      · split
        · exact h.trap
        · next e =>
            split
            · exact h.writeReg.out e
            · exact (h.writeReg.out e).put

theorem State.Tidy.setCounter {c k : Nat} {v : Counter} (h : s.Tidy) : (s.setCounter c k v).Tidy :=
  h.setCtx ⟨Store.rising_put _ _ _ _ h.ctx.1, h.ctx.2⟩

theorem State.Tidy.ctrReadOp {e : Fields} (h : s.Tidy) : Result.Tidy (s.ctrReadOp e) := h.scalar fun _ => h.finish

theorem State.Tidy.runCounters {e : Fields} {run : Bool} (h : s.Tidy) : Result.Tidy (s.runCounters e run) :=
  h.scalar fun _ => (h.foldl fun _ _ h1 => h1.setCounter).put

theorem State.Tidy.writeEvent {n v : Nat} (h : s.Tidy) : Result.Tidy (s.writeEvent n v) := by
  unfold State.writeEvent
  split
  · exact h
  · exact .getD h.writeReg h

theorem evKernelRegister_tidy (h : s.Tidy) : Result.Tidy (evKernelRegister s) := h.writeEvent

theorem evKernelEvict_tidy (h : s.Tidy) : Result.Tidy (evKernelEvict s) := h.writeEvent

theorem evGraphSubmit_tidy (h : s.Tidy) : Result.Tidy (evGraphSubmit s) := h.writeEvent

theorem evKvpoolWrite_tidy (h : s.Tidy) : Result.Tidy (evKvpoolWrite s) := h.writeEvent

theorem evShareWrite_tidy (h : s.Tidy) : Result.Tidy (evShareWrite s) := h.writeEvent

theorem evRasClear_tidy (h : s.Tidy) : Result.Tidy (evRasClear s) := h.writeEvent

theorem evQueueResume_tidy (h : s.Tidy) : Result.Tidy (evQueueResume s) := h.writeEvent

theorem evQueueDiscard_tidy (h : s.Tidy) : Result.Tidy (evQueueDiscard s) := h.writeEvent

theorem evSystemRegisterWrite_tidy (h : s.Tidy) : Result.Tidy (evSystemRegisterWrite s) := h.writeEvent.ite h

theorem State.Tidy.hostAnswer {requester : Nat} {ok : Bool} {v : Nat} (h : s.Tidy) : (s.hostAnswer requester ok v).Tidy :=
  h.of_tables

theorem evHostRegisterRead32_tidy (h : s.Tidy) : Result.Tidy (evHostRegisterRead32 s) := by
  unfold evHostRegisterRead32
  split
  · exact h
  · dsimp only
    split
    · exact h.hostAnswer
    · split
      · split
        · exact h
        · next e => exact (h.readReg.out e).of_tables.hostAnswer
      · split
        · split
          · split
            · exact h.of_tables.hostAnswer
            · split
              · exact h
              · next e => exact (h.readReg.out e).hostAnswer
          · split
            · exact h
            · next e => exact (h.readReg.out e).hostAnswer
        · exact h

/-! ## Machine/Boot -/

theorem State.Tidy.configure {r : ConfigRecord} (h : s.Tidy) : (s.configure r).Tidy := h.of_tables

theorem State.Tidy.bootLate {failing : Nat} {demands : List Nat} (h : s.Tidy) : (s.bootLate failing demands).Tidy :=
  h.of_tables.ite h.of_tables

theorem State.Tidy.bootRecord {verifies : Bool} {r : ConfigRecord} {digest failing : Nat} {demands : List Nat} (h : s.Tidy) :
    (s.bootRecord verifies r digest failing demands).Tidy :=
  h.of_tables.bootLate.ite h.of_tables

theorem State.Tidy.bootImage {src failing : Nat} {verifies : Bool} (h : s.Tidy) : (s.bootImage src failing verifies).Tidy :=
  h.of_tables.bootRecord.ite h.of_tables

theorem State.Tidy.powerOn : s.powerOn.Tidy := State.Tidy.reset.of_tables

theorem evPowerOnReset_tidy : Result.Tidy (evPowerOnReset s) :=
  .ite (.next (State.Tidy.powerOn (s := s)).of_tables) (.next (State.Tidy.powerOn (s := s)).of_tables.bootImage)

theorem evRecoveryFirmware_tidy (h : s.Tidy) : Result.Tidy (evRecoveryFirmware s) := h.of_tables

theorem evRecoveryConfig_tidy (h : s.Tidy) : Result.Tidy (evRecoveryConfig s) := h.of_tables

theorem evRecoveryVerifyEnd_tidy (h : s.Tidy) : Result.Tidy (evRecoveryVerifyEnd s) :=
  .ite h (.ite (h.of_tables.bootImage.ite h.of_tables) (h.of_tables.bootRecord.ite h.of_tables))

theorem State.Tidy.spdm {code lo hi next : Nat} {values : Option (List Nat)} (h : s.Tidy) :
    Result.Tidy (s.spdm code lo hi next values) := by
  unfold State.spdm
  split <;> exact .ite h.of_tables (.ite h.of_tables h.of_tables)

theorem evGetVersion_tidy (h : s.Tidy) : Result.Tidy (evGetVersion s) := h.spdm

theorem evGetCapabilities_tidy (h : s.Tidy) : Result.Tidy (evGetCapabilities s) := h.spdm

theorem evNegotiateAlgorithms_tidy (h : s.Tidy) : Result.Tidy (evNegotiateAlgorithms s) := h.spdm

theorem evGetCertificate_tidy (h : s.Tidy) : Result.Tidy (evGetCertificate s) := by
  unfold evGetCertificate
  exact h.of_tables.spdm

theorem evChallenge_tidy (h : s.Tidy) : Result.Tidy (evChallenge s) := by
  unfold evChallenge
  exact h.of_tables.spdm

theorem evGetMeasurements_tidy (h : s.Tidy) : Result.Tidy (evGetMeasurements s) := h.of_tables.spdm

/-! ## Machine/Control -/

theorem State.Tidy.brOp {e : Fields} (h : s.Tidy) : Result.Tidy (s.brOp e) := h.scalar fun _ => h.put

theorem State.Tidy.callOp {e : Fields} (h : s.Tidy) : Result.Tidy (s.callOp e) := h.scalar fun _ => h.put

theorem State.Tidy.jumpOp {e : Fields} {f : Thread → Thread} (h : s.Tidy) : Result.Tidy (s.jumpOp e f) := by
  unfold State.jumpOp
  refine h.scalar fun _ => ?_
  split
  · exact h.put
  · exact h.trap

/-! ## Machine/Derive -/

theorem State.Tidy.deriveOp {e : Fields} {f : QReg → Nat → QReg} (h : s.Tidy) : Result.Tidy (s.deriveOp e f) := by
  unfold State.deriveOp
  refine h.scalar fun _ => ?_
  split
  · exact h.trap
  · exact h.trap.ite (h.trap.ite h.finish)

theorem State.Tidy.cgetOp {e : Fields} (h : s.Tidy) : Result.Tidy (s.cgetOp e) := h.scalar fun _ => h.finish

theorem State.Tidy.csealOp {e : Fields} (h : s.Tidy) : Result.Tidy (s.csealOp e) :=
  h.scalar fun _ => h.trap.ite (h.trap.ite (h.trap.ite (h.trap.ite h.finish)))

theorem State.Tidy.cunsealOp {e : Fields} (h : s.Tidy) : Result.Tidy (s.cunsealOp e) :=
  h.scalar fun _ => h.trap.ite (h.trap.ite h.finish)

/-! ## Machine/Host -/

theorem State.Tidy.hostWrite {k : Nat} {l : List Byte} (h : s.Tidy) : (s.hostWrite k l).Tidy := h.foldl fun _ _ h1 => h1.perform

theorem State.Tidy.hostRead {k n : Nat} (h : s.Tidy) : (s.hostRead k n).2.Tidy := by
  unfold State.hostRead
  refine h.foldl_snd fun _ _ h1 => ?_
  split
  · exact h1
  · exact h1.perform.ite_snd h1

theorem State.Tidy.freezeFunction {f c kind addr : Nat} (h : s.Tidy) : (s.freezeFunction f c kind addr).Tidy :=
  h.ite h.of_tables.postMessage

theorem State.Tidy.hostRegWrite {n v : Nat} (h : s.Tidy) : (s.hostRegWrite n v).Tidy := by
  unfold State.hostRegWrite
  split
  · exact h
  · exact .getD h.writeReg h

theorem State.Tidy.hostGet {f k n : Nat} (h : s.Tidy) : (s.hostGet f k n).Tidy := by
  unfold State.hostGet
  split
  · split
    · next e => exact (h.hostRead.out e).hostAnswer
    · next e => exact (h.hostRead.out e).hostAnswer
  · exact h.hostAnswer

theorem State.Tidy.hostPut {k : Nat} {l : List Byte} (h : s.Tidy) : (s.hostPut k l).Tidy := h.hostWrite.ite h

theorem evHostRequest_tidy (h : s.Tidy) : Result.Tidy (evHostRequest s) := by
  unfold evHostRequest
  extract_lets f a n up posted
  refine .ite (.next (h.ite h.hostAnswer)) ?_
  split
  · exact h.hostGet.ite h.hostAnswer
  · exact h.hostPut.ite h
  · exact h.hostAnswer.ite h.hostAnswer
  · exact h.of_tables
  · split
    · exact h.hostAnswer
    · split
      · exact h.hostAnswer
      · next e => exact (h.readReg.out e).hostAnswer
  · exact h.hostRegWrite.ite h
  · exact h.freezeFunction.ite h
  · refine .next ?_
    split
    · exact h.hostGet.ite h.hostAnswer
    · exact h.hostAnswer
  · refine .next ?_
    split
    · exact h.hostPut.ite h
    · exact h
  · exact h

/-! ## Machine/Integer -/

theorem State.Tidy.intOp {e : Fields} {useC sat : Bool} {f : Nat → Int → Int → Int → Int} (h : s.Tidy) :
    Result.Tidy (s.intOp e useC sat f) :=
  h.lanewise

theorem State.Tidy.shiftOp {e : Fields} {f : Nat → Nat → Nat → Nat} (h : s.Tidy) : Result.Tidy (s.shiftOp e f) := h.lanewise

theorem State.Tidy.intOp1 {e : Fields} {f : Nat → Nat → Nat} (h : s.Tidy) : Result.Tidy (s.intOp1 e f) := h.lanewise

/-! ## Machine/Landing -/

theorem State.Tidy.recordOp {e : Fields} {go : State → Thread → Option Nat → Option Nat → State} (h : s.Tidy)
    (hgo : ∀ s1 t x x1, s1.Tidy → (go s1 t x x1).Tidy) : Result.Tidy (s.recordOp e go) := by
  unfold State.recordOp
  refine h.scalar fun x1 => ?_
  split
  · exact h.trap
  · dsimp only
    split
    · exact h.trap
    · refine h.release ?_
      split
      · exact h.trap
      · exact hgo _ _ _ _ h

theorem State.Tidy.graphCap {c ser : Nat} (h : s.Tidy) : (s.graphCap c ser).2.Tidy := h.of_tables

theorem State.Tidy.nextNotice {t : Thread} {e : Fields} (h : s.Tidy) : TidyPair (s.nextNotice t e) := by
  unfold State.nextNotice
  dsimp only
  split
  · trivial
  · exact h.editCtx

/-! ## Machine/ThreadEvents -/

theorem State.Tidy.completeRemote {n : Nat} {t : Thread} {a : Access} {e : Fields} {ok : Bool} {old cause : Nat} {cap : Bool}
    (h : s.Tidy) : (s.completeRemote n t a e ok old cause cap).Tidy :=
  h.setThread.ite h.setThread.take

theorem State.Tidy.toHost {a : Access} {ok : Bool} (h : s.Tidy) : (s.toHost a ok).Tidy := h.perform.ite h

theorem State.Tidy.performUpper {n : Nat} {t : Thread} {a : Access} {e : Fields} {low : Nat} (h : s.Tidy) :
    (s.performUpper n t a e low).Tidy := by
  unfold State.performUpper
  split
  · exact h.detect.take
  · exact h.perform.setThread

theorem State.Tidy.afterReturn {n : Nat} (h : s.Tidy) : (s.afterReturn n).Tidy := by
  unfold State.afterReturn
  split
  · exact h.setThread.ite h
  · exact h

theorem evAccessPerformed_tidy (h : s.Tidy) : Result.Tidy (evAccessPerformed s) := by
  unfold evAccessPerformed
  dsimp only
  split
  · exact h
  · split
    · exact h.ite h.setThread
    · exact h.performUpper.afterReturn
    · exact .ite h h.toHost.completeRemote.afterReturn
    · exact h

theorem State.Tidy.relaxedDone {n i : Nat} {t : Thread} {r : Relaxed} (h : s.Tidy) : (s.relaxedDone n i t r).Tidy := by
  unfold State.relaxedDone
  split
  all_goals
    split
    all_goals
      dsimp only
      split
      · exact h.perform.setThread.serveAccess
      · exact h.perform.setThread
      · exact h

theorem State.Tidy.relaxedLower {n i : Nat} {t : Thread} {r : Relaxed} (h : s.Tidy) : (s.relaxedLower n i t r).Tidy := by
  unfold State.relaxedLower
  split
  · exact h.detect.setThread
  · exact h.perform.setThread

theorem evRelaxedAccessDone_tidy (h : s.Tidy) : Result.Tidy (evRelaxedAccessDone s) := by
  unfold evRelaxedAccessDone
  split
  all_goals
    dsimp only
    split
    · exact h
    · split
      · exact h
      · exact .ite h.toHost.setThread (.ite h (h.relaxedLower.ite h.relaxedDone))

theorem evHostCompletionTimeout_tidy (h : s.Tidy) : Result.Tidy (evHostCompletionTimeout s) := by
  unfold evHostCompletionTimeout
  split
  · dsimp only
    split
    · exact h
    · split
      · exact h.setThread.ite h
      · exact h
  · dsimp only
    split
    · exact h
    · split
      · exact h.completeRemote.ite h
      · exact h

theorem State.Tidy.takeBlock {n : Nat} {t : Thread} {b : CodeBlock} (h : s.Tidy) : (s.takeBlock n t b).Tidy := h.setThread

theorem State.Tidy.fetched {n : Nat} {g : Word64} {va v : Nat} (h : s.Tidy) : (s.fetched n g va v).Tidy := by
  unfold State.fetched
  split
  · exact h.takeBlock
  · exact h

theorem State.Tidy.fetchFails {n : Nat} {g : Word64} {va cause : Nat} (h : s.Tidy) : (s.fetchFails n g va cause).Tidy := by
  unfold State.fetchFails
  split
  · exact h.ite h.stopThread
  · exact h

theorem evFetchBlockReturn_tidy (h : s.Tidy) : Result.Tidy (evFetchBlockReturn s) := by
  unfold evFetchBlockReturn
  dsimp only
  split
  · exact h
  · refine .ite (.next h) ?_
    generalize hr : State.refill _ _ _ _ = r
    have h1 : r.2.Tidy := hr ▸ State.Tidy.refill h.of_tables
    obtain ⟨x, s1⟩ := r
    cases x with
    | block => exact State.Tidy.takeBlock h1
    | _ => exact h1

theorem State.Tidy.markAbsent {g : Nat} {w : Walking} (h : s.Tidy) : (s.markAbsent g w).Tidy := by
  unfold State.markAbsent
  refine h.mapSlots fun _ => ?_
  repeat' split
  all_goals rfl

theorem evPageWalkEnd_tidy (h : s.Tidy) : Result.Tidy (evPageWalkEnd s) := by
  unfold evPageWalkEnd
  dsimp only
  split
  · exact h
  · split
    · exact h.setGrove
    · split
      · split
        · exact h.setGrove.tlbFill
        · exact h.setGrove.ite h.setGrove.markAbsent
      · split
        · next e => exact (h.setGrove.mapped.out e).tlbFill
        · next e => exact (h.setGrove.mapped.out e).markAbsent
        · next e => exact h.setGrove.mapped.out e

theorem evHardPreemption_tidy (h : s.Tidy) : Result.Tidy (evHardPreemption s) := by
  unfold evHardPreemption
  dsimp only
  split
  · exact h.meetHard.ite h
  · exact h

theorem evSaveFrameFree_tidy (h : s.Tidy) : Result.Tidy (evSaveFrameFree s) := by
  unfold evSaveFrameFree
  split
  · exact h.meetHard
  · exact h

/-! ## Machine/Links -/

theorem evLinkTrainingEnd_tidy (h : s.Tidy) : Result.Tidy (evLinkTrainingEnd s) :=
  .ite h (.ite h.setLink (.ite h.setLink h.setLink))

theorem evLaneFailure_tidy (h : s.Tidy) : Result.Tidy (evLaneFailure s) := .ite h.setLink h

theorem evLinkLoss_tidy (h : s.Tidy) : Result.Tidy (evLinkLoss s) := .ite h.setLink h

theorem evLinkRetrain_tidy (h : s.Tidy) : Result.Tidy (evLinkRetrain s) := .ite h.setLink h

theorem evDegradedRetrain_tidy (h : s.Tidy) : Result.Tidy (evDegradedRetrain s) := .ite h.setLink h

theorem evFlitReceive_tidy (h : s.Tidy) : Result.Tidy (evFlitReceive s) := .ite h (.ite h.setLink (.ite h.setLink h))

theorem State.Tidy.deliver {n : Nat} (h : s.Tidy) : (s.deliver n).Tidy := h.setLink

theorem State.Tidy.closeRequest {r : OutRequest} (h : s.Tidy) : (s.closeRequest r).Tidy := h.of_tables

theorem State.Tidy.completePeer {n : Nat} {t : Thread} {kind : Nat} {e : Fields} {status v : Nat} (h : s.Tidy) :
    (s.completePeer n t kind e status v).Tidy := by
  unfold State.completePeer
  split
  · split
    · exact h.setThread.dropTaker.take
    · split
      · exact h.setThread.dropTaker.take
      · split
        · dsimp only
          split
          · exact h.setThread.dropTaker.setThread
          · exact h.setThread.dropTaker.take.ite h.setThread.dropTaker.setThread
        · dsimp only
          split
          · exact h.setThread.dropTaker.setThread
          · exact h.setThread.dropTaker.take.ite h.setThread.dropTaker.setThread
        · dsimp only
          split
          · exact h.setThread.dropTaker.setThread
          · exact h.setThread.dropTaker.take.ite h.setThread.dropTaker.setThread
        · split
          · dsimp only
            split
            · exact h.setThread.dropTaker.setThread
            · exact h.setThread.dropTaker.take.ite h.setThread.dropTaker.setThread
          · exact h.setThread.dropTaker.setThread
        · exact h.setThread.dropTaker.setThread
        · exact (h.setThread.dropTaker.joinedFar.ite h.setThread.dropTaker).setThread
        · exact h.setThread.dropTaker.setThread
        · exact h.setThread.dropTaker.setThread
        · exact h.setThread.dropTaker.setThread
        · exact h.setThread.dropTaker.setThread
  · split
    · exact h.setThread.take
    · split
      · exact h.setThread.take
      · split
        · dsimp only
          split
          · exact h.setThread.setThread
          · exact h.setThread.take.ite h.setThread.setThread
        · dsimp only
          split
          · exact h.setThread.setThread
          · exact h.setThread.take.ite h.setThread.setThread
        · dsimp only
          split
          · exact h.setThread.setThread
          · exact h.setThread.take.ite h.setThread.setThread
        · split
          · dsimp only
            split
            · exact h.setThread.setThread
            · exact h.setThread.take.ite h.setThread.setThread
          · exact h.setThread.setThread
        · exact h.setThread.setThread
        · exact (h.setThread.joinedFar.ite h.setThread).setThread
        · exact h.setThread.setThread
        · exact h.setThread.setThread
        · exact h.setThread.setThread
        · exact h.setThread.setThread

theorem State.Tidy.withdrawnFar {n : Nat} (h : s.Tidy) : (s.withdrawnFar n).Tidy := by
  unfold State.withdrawnFar
  split
  · exact h.setThread.meetHard
  · exact h

theorem State.Tidy.answerRequest {r : OutRequest} {ok : Bool} {cause status v : Nat} (h : s.Tidy) :
    (s.answerRequest r ok cause status v).Tidy := by
  unfold State.answerRequest
  split
  · exact h.closeRequest.enterDue
  · exact h.closeRequest.endFar
  · exact h.closeRequest.fetched.ite h.closeRequest.fetchFails
  · split
    · split
      · dsimp only
        split
        · exact h.closeRequest
        · split
          · exact h.closeRequest.withdrawnFar
          · exact h.closeRequest.completePeer.afterReturn
          · exact h.closeRequest
      · dsimp only
        split
        · exact h.closeRequest
        · split
          · exact h.closeRequest.withdrawnFar
          · exact h.closeRequest.stopThread.afterReturn
          · exact h.closeRequest
    · split
      · dsimp only
        split
        · exact h.closeRequest
        · split
          · exact h.closeRequest.completeRemote.afterReturn
          · exact h.closeRequest.completePeer.afterReturn
          · exact h.closeRequest
      · dsimp only
        split
        · exact h.closeRequest
        · split
          · exact h.closeRequest.completeRemote.afterReturn
          · exact h.closeRequest.stopThread.afterReturn
          · exact h.closeRequest
  · split
    · dsimp only
      split
      · exact h.closeRequest
      · split
        · exact h.closeRequest
        · split
          · exact h.closeRequest
          · exact h.closeRequest.setThread
    · dsimp only
      split
      · exact h.closeRequest
      · split
        · exact h.closeRequest
        · split
          · exact h.closeRequest
          · exact h.closeRequest.setThread

theorem State.Tidy.withdrawFar (h : s.Tidy) : s.withdrawFar.Tidy :=
  h.foldl fun _ _ h1 => h1.closeRequest.withdrawnFar.ite h1.of_tables.ask

theorem evPacketReply_tidy (h : s.Tidy) : Result.Tidy (evPacketReply s) := by
  unfold evPacketReply
  split
  · exact h
  · exact h.deliver.sendPacket.answerRequest.ite h

theorem State.Tidy.countRetransmission {dest : Nat} (h : s.Tidy) : (s.countRetransmission dest).Tidy := by
  unfold State.countRetransmission
  split
  · exact h.setLink
  · exact h

theorem evRetransmitTimeout_tidy (h : s.Tidy) : Result.Tidy (evRetransmitTimeout s) := by
  unfold evRetransmitTimeout
  split
  · exact h
  · exact .ite h (.ite h.of_tables.countRetransmission.sendPacket h.answerRequest)

theorem State.Tidy.onHomeCrew {hd : Nat} {f : Nat → HomeReply × State} (h : s.Tidy) (hf : ∀ k, (f k).2.Tidy) :
    (s.onHomeCrew hd f).2.Tidy := by
  unfold State.onHomeCrew
  split
  · exact hf _
  · exact h

theorem State.Tidy.performHalf {a : Access} (h : s.Tidy) : (s.performHalf a).2.2.Tidy := h.perform

theorem State.Tidy.peerHalves {k : Nat} {a : Access} (h : s.Tidy) : (s.peerHalves k a).2.Tidy := by
  unfold State.peerHalves
  split
  · exact h.of_tables.perform
  · exact h.perform.of_tables.ite_snd h.perform.perform

theorem State.Tidy.peerAccess {src seq : Nat} {a : Access} (h : s.Tidy) : (s.peerAccess src seq a).2.Tidy := by
  unfold State.peerAccess
  split
  · exact h
  · split
    · exact h.peerHalves
    · dsimp only
      split
      · exact h.perform.serveAccess
      · exact h.perform
      · exact h.ite_snd h.of_tables

theorem State.Tidy.preemptGtid {gtid : Word64} (h : s.Tidy) : (s.preemptGtid gtid).Tidy := by
  unfold State.preemptGtid
  split
  · exact h.request
  · exact h

theorem State.Tidy.peerWithdraw {src seq : Nat} (h : s.Tidy) : (s.peerWithdraw src seq).Tidy := h.ite h.of_tables.saveReply

theorem State.Tidy.peerBlock {k : Nat} (h : s.Tidy) : (s.peerBlock k).2.Tidy := by
  unfold State.peerBlock
  split
  · exact h
  · dsimp only
    exact h.foldl fun _ _ h1 => h1.correct.detect

theorem State.Tidy.peerPerform {src seq : Nat} {a : PeerOp} (h : s.Tidy) : (s.peerPerform src seq a).2.Tidy := by
  cases a with
  | access => exact h.peerAccess
  | arrive => exact h.onHomeCrew fun _ => h.peerArrive
  | join => exact h.onHomeCrew fun _ => h.joinCrew
  | leave => exact h.onHomeCrew fun _ => h.leaveCrew
  | stat => exact h.onHomeCrew fun _ => h
  | free => exact h.onHomeCrew fun _ => h.tryFree
  | find => exact h
  | await => exact h.onHomeCrew fun _ => h.peerAwait
  | depart => exact h.faultDeparts.ite h.departAll
  | release => exact h.takeRelease
  | odd => exact h.breakMember
  | broken => exact h.takeBroken
  | left => exact h.takeLeft
  | joined => exact h.takeJoined
  | waits => exact h.takeWaits
  | gang => exact h.takeGang
  | preempt => exact h.preemptGtid
  | withdraw => exact h.peerWithdraw
  | block => exact h.peerBlock

theorem State.Tidy.see {src seq : Nat} (h : s.Tidy) : (s.see src seq).Tidy := h.of_tables

theorem State.Tidy.performArrived {r : InRequest} (h : s.Tidy) : (s.performArrived r).Tidy := by
  unfold State.performArrived
  split
  · dsimp only
    split
    · next e => exact (h.of_tables.peerPerform.out e).saveReply
    · next e => exact (h.of_tables.peerPerform.out e).of_tables
  · dsimp only
    split
    · next e => exact (h.of_tables.peerPerform.out e).saveReply
    · next e => exact h.of_tables.peerPerform.out e

theorem State.Tidy.meetHeldOver (h : s.Tidy) : s.meetHeldOver.Tidy := by
  unfold State.meetHeldOver
  refine h.foldl fun _ _ h1 => ?_
  split
  · next e => exact (h1.peerPerform.out e).of_tables.saveReply
  · exact h1

theorem State.Tidy.performAll {n : Nat} (h : s.Tidy) : (State.performAll n s).Tidy := by
  induction n generalizing s with
  | zero => exact h
  | succ n ih =>
    unfold State.performAll
    split
    · exact ih h.performArrived
    · exact h

theorem evPacketRequest_tidy (h : s.Tidy) : Result.Tidy (evPacketRequest s) :=
  .ite h (.ite h.deliver.sendPacket (.ite h.deliver.performArrived.performAll (.ite h.deliver h.deliver.of_tables.performAll)))

theorem evReplyAck_tidy (h : s.Tidy) : Result.Tidy (evReplyAck s) := .ite h h.deliver.of_tables

/-! ## Machine/Logic -/

theorem State.Tidy.logicOp {e : Fields} {f : Nat → Nat → Nat} (h : s.Tidy) : Result.Tidy (s.logicOp e f) := h.wholewise

theorem State.Tidy.movOp {e : Fields} (h : s.Tidy) : Result.Tidy (s.movOp e) := by
  unfold State.movOp
  split
  · trivial
  · exact .ite h.put h.wholewise

theorem State.Tidy.selOp {e : Fields} (h : s.Tidy) : Result.Tidy (s.selOp e) := h.withSources fun _ _ _ _ h1 => h1.finishLanes

theorem State.Tidy.shufOp {e : Fields} (h : s.Tidy) : Result.Tidy (s.shufOp e) := h.wholewise

theorem State.Tidy.bcastOp {e : Fields} (h : s.Tidy) : Result.Tidy (s.bcastOp e) := h.wholewise

theorem State.Tidy.extOp {e : Fields} (h : s.Tidy) : Result.Tidy (s.extOp e) := .onThread fun _ => h.put.ite (h.trap.ite h.finish)

theorem State.Tidy.insOp {e : Fields} (h : s.Tidy) : Result.Tidy (s.insOp e) := h.withSources fun _ _ _ _ h1 => h1.finishLanes

theorem State.Tidy.packOp {e : Fields} (h : s.Tidy) : Result.Tidy (s.packOp e) := h.wholewise

theorem State.Tidy.unpackOp {e : Fields} (h : s.Tidy) : Result.Tidy (s.unpackOp e) := h.wholewise

/-! ## Machine/Memory -/

theorem State.Tidy.ldOp {e : Fields} (h : s.Tidy) : Result.Tidy (s.ldOp e) :=
  .onThread fun _ => h.put.ite (h.memOperand fun _ _ _ h1 => h1.issue)

theorem State.Tidy.stOp {e : Fields} (h : s.Tidy) : Result.Tidy (s.stOp e) :=
  .onThread fun _ => h.put.ite (h.trap.ite (h.memOperand fun _ _ _ h1 => h1.issue))

theorem State.Tidy.ldsOp {e : Fields} (h : s.Tidy) : Result.Tidy (s.ldsOp e) :=
  h.scalar fun _ => h.memOperand fun _ _ _ h1 => h1.issue

theorem State.Tidy.stsOp {e : Fields} (h : s.Tidy) : Result.Tidy (s.stsOp e) :=
  h.scalar fun _ => h.trap.ite (h.memOperand fun _ _ _ h1 => h1.issue)

theorem State.Tidy.needFull {k va : Nat} {go : State} (h : s.Tidy) (hgo : go.Tidy) : (s.needFull k va go).Tidy := hgo.ite h.trap

theorem State.Tidy.feOp {e : Fields} {op : AccessOp} {perm : Nat} {rights : List Right} {load : Bool} (h : s.Tidy) :
    Result.Tidy (s.feOp e op perm rights load) :=
  h.scalar fun _ => h.trap.ite (h.memOperand fun _ _ _ h1 => h1.needFull h1.issue)

theorem State.Tidy.fefillOp {e : Fields} (h : s.Tidy) : Result.Tidy (s.fefillOp e) :=
  .onThread fun _ => h.put.ite (h.memOperand fun _ _ _ h1 => h1.needFull h1.issue)

theorem State.Tidy.needAtomics {k va : Nat} {go : State} (h : s.Tidy) (hgo : go.Tidy) : (s.needAtomics k va go).Tidy :=
  hgo.ite h.trap

theorem State.Tidy.atomOp {e : Fields} (h : s.Tidy) : Result.Tidy (s.atomOp e) :=
  h.scalar fun _ => h.trap.ite (h.memOperand fun _ _ _ h1 => h1.needAtomics h1.issue)

theorem State.Tidy.casOp {e : Fields} (h : s.Tidy) : Result.Tidy (s.casOp e) :=
  h.scalar fun _ => h.trap.ite (h.memOperand fun _ _ _ h1 => h1.needAtomics h1.issue)

theorem State.Tidy.ldcapOp {e : Fields} (h : s.Tidy) : Result.Tidy (s.ldcapOp e) :=
  h.scalar fun _ => h.memOperand fun _ _ _ h1 => h1.issue

theorem State.Tidy.stcapOp {e : Fields} (h : s.Tidy) : Result.Tidy (s.stcapOp e) :=
  h.scalar fun _ => h.memOperand fun _ _ _ h1 => h1.issue

theorem State.Tidy.cclrOp {e : Fields} (h : s.Tidy) : Result.Tidy (s.cclrOp e) :=
  h.scalar fun _ => h.memOperand fun _ _ _ h1 => h1.issue

/-! ## Machine/Predicate -/

theorem State.Tidy.compareOp {e : Fields} {tys : BitVec 32} {k : Nat → Nat → Nat → Bool} (h : s.Tidy) :
    Result.Tidy (s.compareOp e tys k) :=
  h.withSources fun _ _ _ _ h1 => h1.put

theorem State.Tidy.nibbleOp {e : Fields} {f : Thread → Thread} (h : s.Tidy) : Result.Tidy (s.nibbleOp e f) :=
  .onThread fun _ => h.put.ite h.put

theorem State.Tidy.pcntOp {e : Fields} (h : s.Tidy) : Result.Tidy (s.pcntOp e) := h.scalar fun _ => h.finish

theorem State.Tidy.pfirstOp {e : Fields} (h : s.Tidy) : Result.Tidy (s.pfirstOp e) := h.scalar fun _ => h.finish

/-! ## Machine/Privileged -/

theorem State.Tidy.privOp {e : Fields} {f : Thread → State} (h : s.Tidy) (hf : ∀ t, (f t).Tidy) : Result.Tidy (s.privOp e f) :=
  .onThread fun _ => h.trap.ite ((hf _).ite h.put)

theorem State.Tidy.finishNow {e : Fields} {v : QReg} (h : s.Tidy) : (s.finishNow e v).Tidy := by
  unfold State.finishNow
  split
  · exact h.finish
  · exact h

theorem State.Tidy.stopWork {c : Nat} (h : s.Tidy) : (s.stopWork c).Tidy := by
  unfold State.stopWork
  refine h.suspendGraphs.mapQueues fun _ => ?_
  split <;> rfl

theorem State.Tidy.stopCtx {c : Nat} {w : Stopping} (h : s.Tidy) : (s.stopCtx c w).Tidy :=
  (h.beginStop.foldl fun _ _ h1 => h1.spreadGang).stopWork.endStop

theorem State.Tidy.resumeCtx {c : Nat} (h : s.Tidy) : (s.resumeCtx c).Tidy := by
  unfold State.resumeCtx
  refine .resumeGraphs (h.editCtx.mapQueues fun _ => ?_)
  split <;> rfl

theorem State.Tidy.settleStops {before : State} (h : s.Tidy) : (before.settleStops s).Tidy :=
  h.foldl fun _ _ h1 => h1.stopWork.ite h1

theorem State.Tidy.discardThread {n : Nat} (h : s.Tidy) : (s.discardThread n).Tidy := by
  unfold State.discardThread
  split
  · exact h
  · split
    · exact h.departAll.setThread
    · exact h.departAll.setThread
    · dsimp only
      split
      · exact h.departAll.withdraw
      · exact h.departAll.withdraw.emptySlot.ite h.departAll.withdraw.setThread

theorem State.Tidy.dropHoldings {c : Nat} (h : s.Tidy) : (s.dropHoldings c).Tidy := by
  unfold State.dropHoldings
  extract_lets s1 s2 s3 s4 s5 s6 s7
  have h3 : s3.Tidy := h.dropSaved.dropConts.dropQueues
  have h4 : s4.Tidy := h3.withGraphs (Store.rising_filter _ _ h3.graphs)
  have h6 : s6.Tidy := (h4.foldl fun _ _ h5 => h5.dropCopies).foldl fun _ _ h5 => h5.freePage
  have h7 : s7.Tidy := .of_tables (h6.withHandles (Store.rising_map _ (fun e => by split <;> rfl) _ h6.handles)) rfl
  exact h7.foldl fun _ _ h8 => h8.setCrew

theorem State.Tidy.teardown {c : Nat} (h : s.Tidy) : (s.teardown c).Tidy :=
  ((State.Tidy.foldl h.editCtx fun _ _ h1 => h1.discardThread).dropHoldings).setCtx (Ctx.Tidy.none.of_tables)

theorem evTeardownEnd_tidy (h : s.Tidy) : Result.Tidy (evTeardownEnd s) := (h.setCtx Ctx.Tidy.none).ite h

theorem State.Tidy.createCtx {c v : Nat} (h : s.Tidy) : (s.createCtx c v).Tidy := h.setCtx Ctx.Tidy.none

theorem State.Tidy.cxswRecord {t : Thread} {e : Fields} {c : Nat} (h : s.Tidy) : (s.cxswRecord t e c).Tidy := by
  unfold State.cxswRecord
  dsimp only
  split
  · exact h.trap
  · split
    · exact h.trap
    · split
      · exact h.trap
      · refine h.withKey fun _ _ h1 => ?_
        split
        · exact h1.takeFree.farTag.farTag.createCtx.finish.ite h1.takeFree.farTag.farTag.finish
        · split
          · exact h1.detect.trap
          · exact (h1.foldl fun _ _ h2 => h2.correct).createCtx.finish.ite (h1.foldl fun _ _ h2 => h2.correct).finish

theorem State.Tidy.cxswAct {c act core : Nat} (h : s.Tidy) : (s.cxswAct c act core).Tidy := by
  unfold State.cxswAct
  split
  · exact h.editCtx
  · exact h.stopCtx
  · exact h.resumeCtx
  · exact h.teardown
  · exact h.editCtx.ite h.stopCtx
  · exact h.editCtx
  · exact h.preemptCore
  · exact h

theorem State.Tidy.cxswOp {e : Fields} {force : Option Nat} (h : s.Tidy) : Result.Tidy (s.cxswOp e force) := by
  unfold State.cxswOp
  refine h.privOp fun _ => ?_
  split
  · exact h.trap
  · exact h.finish.ite (h.finish.ite (h.cxswRecord.ite h.finish.cxswAct))

theorem State.Tidy.ownSlot {n owner : Nat} {pin : Bool} (h : s.Tidy) : (s.ownSlot n owner pin).Tidy := h.setSlot.ite h.setSlot

theorem State.Tidy.maskSlots {core mask : Nat} (h : s.Tidy) : (s.maskSlots core mask).Tidy := h.foldl fun _ _ h1 => h1.setSlot

theorem State.Tidy.setGovernor {par v : Nat} (h : s.Tidy) : TidySome (s.setGovernor par v) := by
  unfold State.setGovernor
  split
  · dsimp only
    split
    · exact h.of_tables
    · trivial
  · dsimp only
    split
    · exact h.of_tables
    · trivial
  · split
    · trivial
    · exact h.maskSlots
  · split
    · trivial
    · exact h.of_tables
  · trivial

/-! ## Machine/Reliability -/

theorem evScrubPass_tidy (h : s.Tidy) : Result.Tidy (evScrubPass s) := .ite h (h.credit.hitWord.ite h.credit).correct.detect

theorem State.Tidy.controlReport (h : s.Tidy) : s.controlReport.Tidy := h.of_tables.postMessage

theorem State.Tidy.failCore {core : Nat} (h : s.Tidy) : (s.failCore core).Tidy := h.setCore.foldl fun _ _ h1 => h1.coreFault

theorem State.Tidy.haltUnserved (h : s.Tidy) : s.haltUnserved.Tidy := h.ite (h.foldl fun _ _ h1 => h1.haltEnded.ite h1)

theorem State.Tidy.failUnit {g unit : Nat} (h : s.Tidy) : (s.failUnit g unit).Tidy :=
  (h.setGrove.foldl fun _ _ h1 => h1.haltEnded).haltUnserved

theorem State.Tidy.failLanding {die : Nat} (h : s.Tidy) : (s.failLanding die).Tidy :=
  h.of_tables.foldl fun _ _ h1 => h1.abandonGraph

theorem evControlFault_tidy (h : s.Tidy) : Result.Tidy (evControlFault s) := by
  unfold evControlFault
  dsimp only
  split
  · exact h.of_tables.failCore.controlReport.ite h.of_tables.controlReport
  · exact h.of_tables.failUnit.controlReport.ite h.of_tables.controlReport
  · exact h.of_tables.failLanding.controlReport.ite h.of_tables.controlReport
  · exact h.of_tables.controlReport

theorem State.Tidy.stepClock {offset : Int} (h : s.Tidy) : (s.stepClock offset).Tidy := h.of_tables

theorem State.Tidy.losePort {port : Nat} (h : s.Tidy) : (s.losePort port).Tidy := by
  unfold State.losePort
  split
  all_goals
    split
    all_goals
      dsimp only
      split <;> exact h.of_tables

theorem evPtpMessage_tidy (h : s.Tidy) : Result.Tidy (evPtpMessage s) := .ite h (.ite h.losePort (h.stepClock.ite h).of_tables)

/-! ## Machine/Dispatch -/

theorem execMovRaw_tidy {e : Fields} (h : s.Tidy) : Result.Tidy (execMovRaw e s) := .onThread fun _ => h.put.ite h.finish

theorem execCmp_tidy {e : Fields} (h : s.Tidy) : Result.Tidy (execCmp e s) := h.compareOp

theorem execFcmp_tidy {e : Fields} (h : s.Tidy) : Result.Tidy (execFcmp e s) := h.compareOp

theorem execExit_tidy {e : Fields} (h : s.Tidy) : Result.Tidy (execExit e s) :=
  h.scalar fun _ => h.orElsePending (h.put.creditWake.departAll.ite h.put.creditWake.departAll.handOn).endStop

theorem execRecv_tidy {e : Fields} (h : s.Tidy) : Result.Tidy (execRecv e s) := by
  unfold execRecv
  refine h.scalar fun _ => ?_
  split
  · next e => exact (h.takeEntry.out e).put.redeliver
  · exact h.put

theorem execRecvTry_tidy {e : Fields} (h : s.Tidy) : Result.Tidy (execRecvTry e s) := by
  unfold execRecvTry
  refine h.scalar fun _ => ?_
  split
  · next e => exact (h.takeEntry.out e).put.redeliver
  · exact h.put

theorem execCset_tidy {e : Fields} (h : s.Tidy) : Result.Tidy (execCset e s) := h.deriveOp

theorem execCsetX_tidy {e : Fields} (h : s.Tidy) : Result.Tidy (execCsetX e s) := h.deriveOp

theorem execCjoin_tidy {e : Fields} (h : s.Tidy) : Result.Tidy (execCjoin e s) := h.memberOp fun _ _ _ h1 => h1.joinCrew

theorem execCjoinX_tidy {e : Fields} (h : s.Tidy) : Result.Tidy (execCjoinX e s) := h.memberOp fun _ _ _ h1 => h1.joinCrew

theorem execCleave_tidy {e : Fields} (h : s.Tidy) : Result.Tidy (execCleave e s) := h.memberOp fun _ _ _ h1 => h1.leaveCrew

theorem execCleaveX_tidy {e : Fields} (h : s.Tidy) : Result.Tidy (execCleaveX e s) := h.memberOp fun _ _ _ h1 => h1.leaveCrew

theorem execCbar_tidy {e : Fields} (h : s.Tidy) : Result.Tidy (execCbar e s) := h.collective

theorem execCbarX_tidy {e : Fields} (h : s.Tidy) : Result.Tidy (execCbarX e s) := h.collective

theorem execCarr_tidy {e : Fields} (h : s.Tidy) : Result.Tidy (execCarr e s) := h.collective

theorem execCarrX_tidy {e : Fields} (h : s.Tidy) : Result.Tidy (execCarrX e s) := h.collective

theorem execCvote_tidy {e : Fields} (h : s.Tidy) : Result.Tidy (execCvote e s) := h.collective

theorem execCvoteX_tidy {e : Fields} (h : s.Tidy) : Result.Tidy (execCvoteX e s) := h.collective

theorem execCmake_tidy {e : Fields} (h : s.Tidy) : Result.Tidy (execCmake e s) := by
  unfold execCmake
  refine h.scalar fun _ => ?_
  dsimp only
  split
  · exact h.crewDone
  · split
    · exact h.crewDone
    · split
      · exact h.crewDone
      · next e => exact (h.takeCrew.out e).crewDone

theorem execTres_tidy {e : Fields} (h : s.Tidy) : Result.Tidy (execTres e s) := by
  unfold execTres
  refine h.scalar fun _ => ?_
  dsimp only
  split
  · exact h.trap
  · split
    · split
      · exact h.finish.ite (.goOnResult h.goOnSaved)
      · exact h.finish
    · split
      · exact h.finish
      · exact h.finish.ite (.goOnResult h.goOn)

theorem execTlbi_tidy {e : Fields} (h : s.Tidy) : Result.Tidy (execTlbi e s) := h.tlbiOp

theorem execYield_tidy {e : Fields} (h : s.Tidy) : Result.Tidy (execYield e s) := h.scalar fun _ => h.release h.put.honour

theorem execCtrSel_tidy {e : Fields} (h : s.Tidy) : Result.Tidy (execCtrSel e s) := h.scalar fun _ => h.trap.ite h.setCounter.put

theorem execRcread_tidy {e : Fields} (h : s.Tidy) : Result.Tidy (execRcread e s) := by
  unfold execRcread
  refine h.scalar fun _ => ?_
  split
  · exact h.trap
  · exact h.finish

theorem execTstat_tidy {e : Fields} (h : s.Tidy) : Result.Tidy (execTstat e s) := by
  unfold execTstat
  refine h.scalar fun _ => ?_
  split
  · exact h.trap
  · exact h.trap.ite (h.setQueue.ite h).finish

theorem execGsub_tidy {e : Fields} (h : s.Tidy) : Result.Tidy (execGsub e s) := by
  unfold execGsub
  refine h.recordOp fun _ _ _ _ h1 => ?_
  split
  · exact h1.finishMem
  · exact h1.finishMem.of_tables.finishMem.enterGraph

theorem execTpost_tidy {e : Fields} (h : s.Tidy) : Result.Tidy (execTpost e s) := by
  unfold execTpost
  refine h.recordOp fun _ _ _ _ h1 => ?_
  split
  · exact h1.finishMem
  · split
    · exact h1.finishMem
    · exact h1.finishMem.setGraph

theorem execTrig_tidy {e : Fields} (h : s.Tidy) : Result.Tidy (execTrig e s) :=
  h.scalar fun _ => h.put.ite (h.orElsePending (h.retry.ite h.put.handOn))

theorem execVread_tidy {e : Fields} (h : s.Tidy) : Result.Tidy (execVread e s) :=
  h.scalar fun _ => (h.trap.ite h.finishMem).ite h.finishMem

theorem execGstat_tidy {e : Fields} (h : s.Tidy) : Result.Tidy (execGstat e s) := by
  unfold execGstat
  refine h.scalar fun _ => ?_
  split
  · exact h.trap
  · exact h.finishMem
  · exact h.finishMem

theorem execGabort_tidy {e : Fields} (h : s.Tidy) : Result.Tidy (execGabort e s) := by
  unfold execGabort
  refine h.scalar fun _ => ?_
  split
  · exact h.trap
  · split
    · exact h.put.abandonGraph
    · exact h.put

theorem execNwait_tidy {e : Fields} (h : s.Tidy) : Result.Tidy (execNwait e s) := by
  unfold execNwait
  refine h.scalar fun _ => ?_
  split
  · next e => exact (h.nextNotice.out e).put
  · exact h.put.editCtx

theorem execNwaitTry_tidy {e : Fields} (h : s.Tidy) : Result.Tidy (execNwaitTry e s) := by
  unfold execNwaitTry
  refine h.scalar fun _ => ?_
  split
  · next e => exact (h.nextNotice.out e).put
  · exact h.put

theorem execCfind_tidy {e : Fields} (h : s.Tidy) : Result.Tidy (execCfind e s) := by
  unfold execCfind
  refine h.scalar fun _ => ?_
  split
  · exact h.trap
  · exact h.put.ask.ite h.crewDone

theorem execCfree_tidy {e : Fields} (h : s.Tidy) : Result.Tidy (execCfree e s) := by
  unfold execCfree
  refine h.onCrew fun _ _ => ?_
  refine .crewDone ?_
  split
  · exact h
  · exact h.ite_snd h.freeCrew

theorem execHnew_tidy {e : Fields} (h : s.Tidy) : Result.Tidy (execHnew e s) := h.handleOp fun _ _ _ _ h1 => h1.hnew

theorem execHfork_tidy {e : Fields} (h : s.Tidy) : Result.Tidy (execHfork e s) := h.handleOp fun _ _ _ _ h1 => h1.hfork

theorem execHrel_tidy {e : Fields} (h : s.Tidy) : Result.Tidy (execHrel e s) := h.handleOp fun _ _ _ _ h1 => h1.hrel

theorem execHstat_tidy {e : Fields} (h : s.Tidy) : Result.Tidy (execHstat e s) := h.scalar fun _ => h.trap.ite h.finishMem

theorem execPark_tidy {e : Fields} (h : s.Tidy) : Result.Tidy (execPark e s) := by
  unfold execPark
  dsimp only
  refine h.scalar fun _ => ?_
  split
  · exact h.creditWake.trap
  · split
    · exact h.creditWake.trap
    · refine h.creditWake.withBlock fun _ _ h1 => ?_
      split
      · exact h1.trap
      · split
        · exact h1.trap
        · refine h1.withKey fun _ _ h2 => ?_
          split
          · exact h2.trap
          · refine h2.release ?_
            split
            · exact h2.meet
            · split
              · exact h2.parkRefusal
              · next e =>
                  split
                  · exact h2.detect.trap
                  · exact h2.parkNow

theorem execWake_tidy {e : Fields} (h : s.Tidy) : Result.Tidy (execWake e s) := by
  unfold execWake
  refine h.scalar fun _ => ?_
  split
  · exact h.trap
  · exact h.wordOperand fun _ _ _ h1 => h1.release h1.issueOrdinary

theorem execLpro_tidy {e : Fields} (h : s.Tidy) : Result.Tidy (execLpro e s) := by
  unfold execLpro
  refine h.scalar fun _ => ?_
  split
  · exact h.trap
  · refine h.wordOperand fun _ _ _ h1 => ?_
    split
    · exact h1.lproNow.put.ite h1.put
    · exact h1.put

theorem execLstat_tidy {e : Fields} (h : s.Tidy) : Result.Tidy (execLstat e s) :=
  h.scalar fun _ => h.wordOperand fun _ _ _ h1 => h1.finishMem

theorem execThaw_tidy {e : Fields} (h : s.Tidy) : Result.Tidy (execThaw e s) := by
  unfold execThaw
  refine h.privOp fun _ => ?_
  split
  · exact h.trap
  · split
    · exact h.trap.ite h.finish
    · split
      · dsimp only
        split
        · exact h.trap
        · split
          · split
            · exact .ite (.goOnResult h.goOn) h.finish
            · exact h.finish
          · split
            · exact h.finish.ite (.goOnResult h.goOnSaved)
            · exact h.finish
      · exact h.trap.ite (h.finish.ite h.thawQueue.finishNow)
      · exact h.trap.ite (h.finish.ite h.of_tables.finish)
      · exact h.trap.ite h.finish

theorem execSlotw_tidy {e : Fields} (h : s.Tidy) : Result.Tidy (execSlotw e s) :=
  h.privOp fun _ => h.trap.ite (h.finish.ite (h.foldl fun _ _ h1 => h1.ownSlot).finish)

theorem execGovset_tidy {e : Fields} (h : s.Tidy) : Result.Tidy (execGovset e s) := by
  unfold execGovset
  refine h.privOp fun _ => ?_
  split
  · exact h.trap
  · split
    · exact h.trap
    · split
      · exact h.finish
      · next e =>
          split
          · exact (h.setGovernor.out e).finish
          · exact h.setGovernor.out e

/-- Every instruction and every event. -/
theorem exec_tidy {i : Instr} (h : s.Tidy) : Result.Tidy (exec i s) := by
  cases i with
  | add | addX | sub | subX | mul | mulX | mulhi | mulhiX | div | divX | rem | remX | min | minX | max | maxX => exact h.intOp
  | and | andX | or | orX | xor | xorX | andn | andnX => exact h.logicOp
  | shl | shlX | shr | shrX | sar | sarX | rot | rotX => exact h.shiftOp
  | addsat | addsatX | subsat | subsatX => exact h.intOp
  | abs | absX | neg | negX | clz | clzX | ctz | ctzX | popc | popcX => exact h.intOp1
  | mov | movX => exact h.movOp
  | movTag => exact h.scalar fun _ => h.finish
  | movRaw => exact execMovRaw_tidy h
  | sel | selX => exact h.selOp
  | shuf | shufX => exact h.shufOp
  | bcast | bcastX => exact h.bcastOp
  | ext | extX => exact h.extOp
  | pack | packX => exact h.packOp
  | unpack | unpackX => exact h.unpackOp
  | mad | madX => exact h.intOp
  | ins | insX => exact h.insOp
  | fadd | faddX | fsub | fsubX | fmul | fmulX | fma | fmaX => exact h.floatOp
  | fmin | fminX | fmax | fmaxX | fabs | fabsX | fneg | fnegX => exact h.exactOp
  | frcp | frcpX | frsq | frsqX | fsqrt | fsqrtX => exact h.specialOp
  | fexp2 | fexp2X | flog2 | flog2X => exact h.seriesOp
  | fdot | fdotX => exact h.fdotOp
  | fcvt | fcvtX => exact h.fcvtOp
  | fround | froundX => exact h.froundOp
  | cmp => exact execCmp_tidy h
  | fcmp => exact execFcmp_tidy h
  | plop | pmov | pmovNz => exact h.nibbleOp
  | pget => exact h.scalar fun _ => h.finish
  | pgetMask => exact h.nibbleOp
  | pcnt | pcntX => exact h.pcntOp
  | setgf => exact h.scalar fun _ => h.put
  | pfirst | pfirstX => exact h.pfirstOp
  | br | brX => exact h.brOp
  | jmp => exact h.jumpOp
  | jmpTable => exact h.scalar fun _ => h.trap.ite h.put
  | call | callX => exact h.callOp
  | callr | ret => exact h.jumpOp
  | exit => exact execExit_tidy h
  | safe => exact h.scalar fun _ => h.safePoint
  | brk | brkX => exact h.stopAfter
  | ld | ldX => exact h.ldOp
  | st | stX => exact h.stOp
  | lds | ldsX => exact h.ldsOp
  | sts | stsX => exact h.stsOp
  | ldfe | ldfeX | stef | stefX | ldff | ldffX => exact h.feOp
  | fefill | fefillX => exact h.fefillOp
  | atom | atomX => exact h.atomOp
  | cas | casX => exact h.casOp
  | fence | fenceX => exact h.fenceOp
  | wait | waitX => exact h.waitOp
  | ldcap | ldcapX => exact h.ldcapOp
  | stcap | stcapX => exact h.stcapOp
  | send | sendX => exact h.sendOp
  | recv => exact execRecv_tidy h
  | recvTry => exact execRecvTry_tidy h
  | cset => exact execCset_tidy h
  | csetX => exact execCsetX_tidy h
  | cperm | cpermX | cinc | cincX => exact h.deriveOp
  | cget | cgetX => exact h.cgetOp
  | ctest => exact h.scalar fun _ => h.put
  | ctestFit => exact h.scalar fun _ => h.trap.ite h.put
  | cseal | csealX => exact h.csealOp
  | cunseal | cunsealX => exact h.cunsealOp
  | cclr | cclrX => exact h.cclrOp
  | cjoin => exact execCjoin_tidy h
  | cjoinX => exact execCjoinX_tidy h
  | cleave => exact execCleave_tidy h
  | cleaveX => exact execCleaveX_tidy h
  | cbar => exact execCbar_tidy h
  | cbarX => exact execCbarX_tidy h
  | carr => exact execCarr_tidy h
  | carrX => exact execCarrX_tidy h
  | cwait | cwaitPh => exact h.cwaitOp
  | cvote => exact execCvote_tidy h
  | cvoteX => exact execCvoteX_tidy h
  | cred | credX => exact h.collective
  | cmake => exact execCmake_tidy h
  | trap | trapX => exact h.stopAfter
  | tres => exact execTres_tidy h
  | gets | getsX => exact h.getsOp
  | puts | putsX => exact h.putsOp
  | migr | migrX => exact h.migrOp
  | tlbi => exact execTlbi_tidy h
  | tlbiCtx | tlbiVa => exact h.tlbiOp
  | yield => exact execYield_tidy h
  | ctrRead | ctrReadX => exact h.ctrReadOp
  | ctrStart | ctrStop => exact h.runCounters
  | ctrSel => exact execCtrSel_tidy h
  | tmm | tgmm | tsfx | tred | tcvt | tzero | rcsnap => exact h.tileInstr
  | rcread => exact execRcread_tidy h
  | tstat => exact execTstat_tidy h
  | cpy | cpy2 | cpyg | cfill => exact h.copyInstr
  | qjoin => exact h.scalar fun _ => h.trap.ite h.enqueue
  | qstat => exact h.qstatHandle.ite h.qstatPlain
  | gsub => exact execGsub_tidy h
  | tpost => exact execTpost_tidy h
  | trig => exact execTrig_tidy h
  | vread => exact execVread_tidy h
  | gstat => exact execGstat_tidy h
  | gabort => exact execGabort_tidy h
  | nwait => exact execNwait_tidy h
  | nwaitTry => exact execNwaitTry_tidy h
  | cfind => exact execCfind_tidy h
  | cfree => exact execCfree_tidy h
  | cstat => exact h.onCrew fun _ _ => h.crewDone
  | hnew => exact execHnew_tidy h
  | hext => exact h.handleOp fun _ _ _ _ h1 => h1.hext
  | hxl => exact h.handleOp fun _ _ _ _ h1 => h1.hxl
  | hfork => exact execHfork_tidy h
  | hrel => exact execHrel_tidy h
  | hcow => exact h.handleOp fun _ _ _ _ h1 => h1.hcow
  | hstat => exact execHstat_tidy h
  | park => exact execPark_tidy h
  | wake => exact execWake_tidy h
  | lpro => exact execLpro_tidy h
  | lstat => exact execLstat_tidy h
  | thaw => exact execThaw_tidy h
  | cxswCreate => exact h.cxswOp
  | slotw => exact execSlotw_tidy h
  | govset => exact execGovset_tidy h
  | qstatHandle => exact h.qstatHandle
  | cxswRun | cxswSuspend | cxswResume | cxswTeardown | cxswFreeze | cxswThawContext | cxswPreemptCore => exact h.cxswOp
  | breakpointMatch => exact evBreakpointMatch_tidy h
  | fetchBlockReturn => exact evFetchBlockReturn_tidy h
  | accessPerformed => exact evAccessPerformed_tidy h
  | relaxedAccessDone => exact evRelaxedAccessDone_tidy h
  | sendAccept => exact evSendAccept_tidy h
  | hostCompletionTimeout => exact evHostCompletionTimeout_tidy h
  | threadDrainEnd => exact evThreadDrainEnd_tidy h
  | taskPlacement => exact evTaskPlacement_tidy h
  | wavePlacement => exact evWavePlacement_tidy h
  | landingTick => exact evLandingTick_tidy h
  | graphAbandoned => exact evGraphAbandoned_tidy h
  | kernelCopyComplete => exact evKernelCopyComplete_tidy h
  | kernelUnregister => exact evKernelUnregister_tidy h
  | unitDispatch => exact evUnitDispatch_tidy h
  | ballastSliceEnd => exact evBallastSliceEnd_tidy h
  | tileOpComplete => exact evTileOpComplete_tidy h
  | copyComplete => exact evCopyComplete_tidy h
  | engineTranslationFault => exact evEngineTranslationFault_tidy h
  | engineDataError => exact evEngineDataError_tidy h
  | engineCapabilityViolation => exact evEngineCapabilityViolation_tidy h
  | joinResolve => exact evJoinResolve_tidy h
  | queueResume => exact evQueueResume_tidy h
  | queueDiscard => exact evQueueDiscard_tidy h
  | handlerMessageDeliver => exact evHandlerMessageDeliver_tidy h
  | hardPreemption => exact evHardPreemption_tidy h
  | saveFrameFree => exact evSaveFrameFree_tidy h
  | threadResume => exact evThreadResume_tidy h
  | teardownEnd => exact evTeardownEnd_tidy h
  | slotReassign => exact evSlotReassign_tidy h
  | coreOverheat => exact evCoreOverheat_tidy h
  | migrationTransfer => exact evMigrationTransfer_tidy h
  | migrationRemap => exact evMigrationRemap_tidy h
  | shareWrite => exact evShareWrite_tidy h
  | budgetRefill => exact evBudgetRefill_tidy h
  | governorWindowEnd => exact evGovernorWindowEnd_tidy h
  | parkSaveWritten => exact evParkSaveWritten_tidy h
  | thbmExpiry => exact evThbmExpiry_tidy h
  | tcxlExpiry => exact evTcxlExpiry_tidy h
  | pageMoveStart => exact evPageMoveStart_tidy h
  | blockMoveComplete => exact evBlockMoveComplete_tidy h
  | continuationPlacement => exact evContinuationPlacement_tidy h
  | kernelRegister => exact evKernelRegister_tidy h
  | kernelEvict => exact evKernelEvict_tidy h
  | graphSubmit => exact evGraphSubmit_tidy h
  | kvpoolWrite => exact evKvpoolWrite_tidy h
  | qpCreate => exact evQpCreate_tidy h
  | qpModify => exact evQpModify_tidy h
  | qpDestroy => exact evQpDestroy_tidy h
  | qpDoorbellSend => exact evQpDoorbellSend_tidy h
  | qpDoorbellRecv => exact evQpDoorbellRecv_tidy h
  | workRequest => exact evWorkRequest_tidy h
  | workRequestComplete => exact evWorkRequestComplete_tidy h
  | rdmaWriteIn => exact evRdmaWriteIn_tidy h
  | rdmaReadIn => exact evRdmaReadIn_tidy h
  | rdmaAtomicIn => exact evRdmaAtomicIn_tidy h
  | sendIn => exact evSendIn_tidy h
  | debugResume => exact evDebugResume_tidy h
  | debugStep => exact evDebugStep_tidy h
  | debugStop => exact evDebugStop_tidy h
  | stepStop => exact evStepStop_tidy h
  | logEnable => exact evLogEnable_tidy h
  | logDeltaOverflow => exact evLogDeltaOverflow_tidy h
  | sampleEnable => exact evSampleEnable_tidy h
  | pcSample => exact evPcSample_tidy h
  | rasClear => exact evRasClear_tidy h
  | systemRegisterWrite => exact evSystemRegisterWrite_tidy h
  | hostRegisterRead32 => exact evHostRegisterRead32_tidy h
  | hostRequest => exact evHostRequest_tidy h
  | scrubPass => exact evScrubPass_tidy h
  | controlFault => exact evControlFault_tidy h
  | ptpMessage => exact evPtpMessage_tidy h
  | linkTrainingEnd => exact evLinkTrainingEnd_tidy h
  | laneFailure => exact evLaneFailure_tidy h
  | linkLoss => exact evLinkLoss_tidy h
  | linkRetrain => exact evLinkRetrain_tidy h
  | flitReceive => exact evFlitReceive_tidy h
  | packetRequest => exact evPacketRequest_tidy h
  | packetReply => exact evPacketReply_tidy h
  | replyAck => exact evReplyAck_tidy h
  | retransmitTimeout => exact evRetransmitTimeout_tidy h
  | powerOnReset => exact evPowerOnReset_tidy
  | recoveryFirmware => exact evRecoveryFirmware_tidy h
  | recoveryConfig => exact evRecoveryConfig_tidy h
  | recoveryVerifyEnd => exact evRecoveryVerifyEnd_tidy h
  | getVersion => exact evGetVersion_tidy h
  | getCapabilities => exact evGetCapabilities_tidy h
  | negotiateAlgorithms => exact evNegotiateAlgorithms_tidy h
  | getCertificate => exact evGetCertificate_tidy h
  | challenge => exact evChallenge_tidy h
  | getMeasurements => exact evGetMeasurements_tidy h
  | pageWalkEnd => exact evPageWalkEnd_tidy h
  | currentBlockEnd => exact evCurrentBlockEnd_tidy h
  | degradedRetrain => exact evDegradedRetrain_tidy h
  | qpRetryTimeout => exact evQpRetryTimeout_tidy h

/-! ## Machine/Issue -/

theorem State.Tidy.chargeAt {n c : Nat} {graph : Option Nat} {pj : Nat} (h : s.Tidy) : (s.chargeAt n c graph pj).Tidy :=
  h.setSlot.setCore.credit

theorem State.Tidy.chargeIssue {n : Nat} {t : Thread} {graph : Option Nat} {own acc : Nat} (h : s.Tidy) :
    (s.chargeIssue n t graph own acc).Tidy :=
  h.chargeAt.chargeAt.ite h.chargeAt

theorem State.Tidy.countIssue {c : Nat} {i : Instr} {live borrowed forfeited : Bool} (h : s.Tidy) :
    (s.countIssue c i live borrowed forfeited).Tidy :=
  h.ite ((h.countEvent.ite h).countEvent.ite ((h.countEvent.ite h).countEvent.countEvent.ite (h.countEvent.ite h).countEvent))

theorem State.Tidy.noteTurn {core : Nat} {v : IssueNote} (h : s.Tidy) : (s.noteTurn core v).Tidy := h.setCore

theorem State.Tidy.noteIssue {n : Nat} {t : Thread} {v : IssueNote} (h : s.Tidy) : (s.noteIssue n t v).Tidy :=
  h.noteTurn.setCore.ite h.noteTurn

theorem State.Tidy.noteBubble {n : Nat} (h : s.Tidy) : (s.noteBubble n).Tidy := h.noteTurn

theorem State.Tidy.afterIssue {before : State} {n : Nat} {t : Thread} {i : Instr} {borrowed : Bool} {offered : Nat} (h : s.Tidy) :
    (before.afterIssue s n t i borrowed offered).Tidy := by
  unfold State.afterIssue
  extract_lets forfeited s1 live own s2 s3 s4
  have h1 : s1.Tidy := by
    unfold s1
    split
    · exact h.setThread
    · exact h
  have h3 : s3.Tidy := State.Tidy.ite h1.chargeIssue h1.chargeIssue.countIssue
  exact h3.noteIssue.of_tables.stepped

theorem State.Tidy.mismatchAt {n : Nat} {t : Thread} (h : s.Tidy) : (s.mismatchAt n t).Tidy := h.coreFault.ite h.of_tables.rollback

theorem State.Tidy.countTime {u ns : Nat} (h : s.Tidy) : (s.countTime u ns).Tidy := h.foldl fun _ _ h1 => h1.countEvent.countEvent

theorem State.Tidy.slewBy {u ns : Nat} (h : s.Tidy) : (s.slewBy u ns).2.Tidy := h.ite_snd h.of_tables

theorem State.Tidy.elapse {u : Nat} (h : s.Tidy) : (s.elapse u).Tidy := h.slewBy.countTime.of_tables.closeCycles

theorem State.Tidy.passTlbi (h : s.Tidy) : s.passTlbi.Tidy := h.foldl fun _ _ h1 => h1.setThread

theorem State.Tidy.settleWakes (h : s.Tidy) : s.settleWakes.Tidy := h.foldl fun _ _ h1 => h1.movesEnded

theorem State.Tidy.askAll (h : s.Tidy) : s.askAll.Tidy := h.foldl fun _ _ h1 => h1.askRelaxed

theorem State.Tidy.askPeers (h : s.Tidy) : s.askPeers.Tidy := h.of_tables.foldl fun _ _ h1 => h1.ask

theorem State.Tidy.takeDue (h : s.Tidy) : s.takeDue.Tidy := h.foldl fun _ _ h1 => h1.setThread.withdraw.stopThread

theorem State.Tidy.settleStep {before : State} (h : s.Tidy) : (before.settleStep s).Tidy :=
  have h1 := h.haltUnserved.settleStops.settleWakes.passTlbi.leaveTracks.takeDue.takeStops.meetRequests.discardSends
  h1.askAll.withdrawFar.meetHeldOver.tellWaits.askPeers.sendRequests.logChanges.drainHalted.takeRecords

theorem Result.Tidy.afterMove {before : State} {r : Result} (h : Result.Tidy r) : Result.Tidy (afterMove before r) := by
  cases r with
  | next s => exact State.Tidy.settleStep h
  | fault => trivial
  | refused => trivial

/-! ## Machine/Turn -/

theorem State.Tidy.atIssue {n : Nat} {t : Thread} {buf : List CodeBlock} (h : s.Tidy) : (s.atIssue n t buf).Tidy :=
  h.setThread.of_tables

theorem State.Tidy.beforeIssue {n : Nat} {t : Thread} {buf : List CodeBlock} {offered : Nat} (h : s.Tidy) :
    (s.beforeIssue n t buf offered).Tidy :=
  h.setThread.checkpoint.noteBubble

theorem State.Tidy.issueOnly {n : Nat} {t : Thread} {i : Instr} {borrowed : Bool} {offered : Nat} (h : s.Tidy) :
    (s.issueOnly n t i borrowed offered).Tidy :=
  h.chargeIssue.noteIssue

theorem State.Tidy.countEcc (h : s.Tidy) : s.countEcc.Tidy := h.of_tables.ite h

theorem State.Tidy.runInstr {n : Nat} {t : Thread} {buf : List CodeBlock} {i : Instr} {borrowed : Bool} {offered : Nat}
    (h : s.Tidy) :
    Result.Tidy (s.runInstr n t buf i borrowed offered) := by
  unfold State.runInstr
  refine .ite (.next h.beforeIssue) (.ite (.next h.mismatchAt.issueOnly) ?_)
  split
  · exact h.of_tables.take.issueOnly
  · generalize hr : exec i _ = r
    have h1 : Result.Tidy r := hr ▸ exec_tidy h.countEcc.of_tables.atIssue
    cases r with
    | next s1 => exact State.Tidy.afterIssue (before := s) h1
    | _ => trivial

theorem State.Tidy.issueTurn {n : Nat} {borrowed : Bool} {offered : Nat} {late : State → Result} (h : s.Tidy)
    (hlate : ∀ s1, s1.Tidy → Result.Tidy (late s1)) : Result.Tidy (s.issueTurn n borrowed offered late) := by
  unfold State.issueTurn
  split
  · exact h
  · dsimp only
    split
    · next e => exact (h.of_tables.debugTurn.out e).noteBubble
    · split
      · next e => exact hlate _ (h.of_tables.fetch.out e)
      · next e => exact hlate _ (h.of_tables.fetch.out e).setThread
      · next e => exact (h.of_tables.fetch.out e).stopThread.noteBubble
      · next e => exact (h.of_tables.fetch.out e).take.noteBubble
      · next e =>
          split
          · exact (h.of_tables.fetch.out e).stopThread.noteBubble
          · exact (h.of_tables.fetch.out e).noteBubble
          · exact .ite (h.of_tables.fetch.out e).noteBubble (h.of_tables.fetch.out e).runInstr

theorem State.Tidy.lendTurn {n : Nat} (h : s.Tidy) : Result.Tidy (State.lendTurn n s) :=
  (h.of_tables.issueTurn fun _ h1 => .next h1.noteBubble).ite h.noteBubble

theorem State.Tidy.finishOwn {n : Nat} (h : s.Tidy) : (s.finishOwn n).Tidy := by
  unfold State.finishOwn
  split
  · split
    · exact h.performUpper.afterReturn.ite h
    · exact h
  · exact h

theorem State.Tidy.turn {n : Nat} {o : TurnOpts} (h : s.Tidy) : Result.Tidy (s.turn n o) :=
  (h.of_tables.finishOwn.finishOwn.issueTurn fun _ h1 => h1.lendTurn).ite h.of_tables.finishOwn.finishOwn.lendTurn

theorem State.Tidy.coreTurn {core : Nat} {o : TurnOpts} (h : s.Tidy) : Result.Tidy (s.coreTurn core o) := .ite h h.setCore.turn

theorem State.Tidy.move {a : Move} (h : s.Tidy) : Result.Tidy (s.move a) := by
  unfold State.move
  split
  · exact h.coreTurn
  · exact (exec_tidy h.of_tables).ite h

theorem State.Tidy.nextInput (h : s.Tidy) : s.nextInput.2.Tidy := by
  unfold State.nextInput
  split
  · exact h.of_tables.foldl fun _ _ h1 => h1.hitWord
  · exact h.of_tables

/-! ## Machine/Step -/

theorem step_tidy (h : s.Tidy) : Result.Tidy (step s) := h.nextInput.elapse.move.afterMove

/-- Settles O60: `step` is composed of operations each of which keeps a machine tidy. -/
theorem tidyKept : Obligations.TidyKept := by
  unfold Obligations.TidyKept
  intro s s' h e
  have h1 : Result.Tidy (step s) := step_tidy h
  rw [e] at h1
  exact h1

end Sys2Proof.Machine
end

section
/-!
PROOF. An instruction that is not live only advances the PC (04 R63): `exec` gives every scalar row the form `State.scalar`, and every
row on lanes asks for an active lane before it checks or reads anything.
-/
namespace Sys2Proof.Machine

section
variable {s : State} {t : Thread} {i : Instr} {e : Fields} {w : Nat}

/-! ## Scalar rows -/

theorem execQstat_eq_scalar (s : State) (e : Fields) : ∃ f, execQstat e s = s.scalar e f := by
  unfold execQstat
  split
  · exact ⟨_, rfl⟩
  · exact ⟨_, rfl⟩

/-- The meaning of a scalar row runs where lane 0 of its guard is active. -/
theorem exec_eq_scalar_of_scalarRow (s : State) (h : scalarRow i = some e) : ∃ f, exec i s = s.scalar e f := by
  cases i with
  | qstat => cases h; exact execQstat_eq_scalar s e
  | movTag | pget | pcnt | pcntX | setgf | pfirst | pfirstX | br | brX | jmp | jmpTable | call | callX | callr | ret | exit | safe
  | brk | brkX | lds | ldsX | sts | stsX | ldfe | ldfeX | stef | stefX | ldff | ldffX | atom | atomX | cas | casX | fence | fenceX
  | wait | waitX | ldcap | ldcapX | stcap | stcapX | send | sendX | recv | recvTry | cset | csetX | cperm | cpermX | cinc | cincX
  | cget | cgetX | ctest | ctestFit | cseal | csealX | cunseal | cunsealX | cclr | cclrX | cjoin | cjoinX | cleave | cleaveX
  | cbar | cbarX | carr | carrX | cwait | cwaitPh | cvote | cvoteX | cred | credX | cmake | trap | trapX | tres | gets | getsX
  | puts | putsX | migr | migrX | tlbi | tlbiCtx | tlbiVa | yield | ctrRead | ctrReadX | ctrStart | ctrStop | ctrSel | tmm | tgmm
  | tsfx | tred | tcvt | tzero | rcsnap | rcread | tstat | cpy | cpy2 | cpyg | cfill | qjoin | gsub | tpost | trig | vread | gstat
  | gabort | nwait | nwaitTry | cfind | cfree | cstat | hnew | hext | hxl | hfork | hrel | hcow | hstat | park | wake | lpro
  | lstat => cases h; exact ⟨_, rfl⟩
  | _ => cases h

theorem exec_scalarRow_dead (ht : s.thread s.cur = some t) (h : scalarRow i = some e) (hl : t.live0 e.g = false) :
    exec i s = .next (s.put (t.next e)) := by
  obtain ⟨f, hf⟩ := exec_eq_scalar_of_scalarRow s h
  rw [hf, State.scalar_dead s e f t ht hl]

/-! ## Rows on lanes -/

/-- What asks first for an active lane of width `w` only passes where there is none. -/
theorem State.onThread_lanes_dead {f : Thread → State} (ht : s.thread s.cur = some t) (hl : t.live e.g w = false) :
    (s.onThread fun t => if !t.live e.g w then s.put (t.next e) else f t) = .next (s.put (t.next e)) := by
  rw [State.onThread_some _ _ t ht]
  simp [hl]

theorem State.withSources_dead {u : LaneUse} {width : Nat → Nat} {go : State → Thread → Nat → Sources → State}
    (ht : s.thread s.cur = some t) (hl : t.live e.g (if u.nib then 4 else Nat.max 4 (width (t.typeOf e))) = false) :
    s.withSources e u width go = .next (s.put (t.next e)) := by
  unfold State.withSources
  rw [State.onThread_some _ _ t ht]
  simp [hl]

theorem State.lanewise_dead {u : LaneUse} {f : Nat → Nat → Nat → Nat → Nat → Nat × Nat} (ht : s.thread s.cur = some t)
    (hl : t.live e.g (if u.nib then 4 else Nat.max 4 (laneWidth (t.typeOf e))) = false) :
    s.lanewise e u f = .next (s.put (t.next e)) :=
  State.withSources_dead ht hl

theorem State.wholewise_dead {u : LaneUse} {width tag : Nat → Nat} {f : Sources → Nat} (ht : s.thread s.cur = some t)
    (hl : t.live e.g (if u.nib then 4 else Nat.max 4 (width (t.typeOf e))) = false) :
    s.wholewise e u width tag f = .next (s.put (t.next e)) :=
  State.withSources_dead ht hl

section
variable (ht : s.thread s.cur = some t) (hl : t.live e.g (max 4 (laneWidth (t.typeOf e))) = false)
include ht hl

theorem State.intOp_dead {useC sat : Bool} {f : Nat → Int → Int → Int → Int} :
    s.intOp e useC sat f = .next (s.put (t.next e)) := State.lanewise_dead ht hl

theorem State.shiftOp_dead {f : Nat → Nat → Nat → Nat} : s.shiftOp e f = .next (s.put (t.next e)) := State.lanewise_dead ht hl

theorem State.intOp1_dead {f : Nat → Nat → Nat} : s.intOp1 e f = .next (s.put (t.next e)) := State.lanewise_dead ht hl

theorem State.floatOp_dead {useB useC : Bool} {f : Bool → Val → Val → Val → Val} :
    s.floatOp e useB useC f = .next (s.put (t.next e)) := State.lanewise_dead ht hl

theorem State.exactOp_dead {useB : Bool} {f : FloatFmt → Nat → Nat → Nat} :
    s.exactOp e useB f = .next (s.put (t.next e)) := State.lanewise_dead ht hl

theorem State.specialOp_dead {f : Val → Val} : s.specialOp e f = .next (s.put (t.next e)) := State.floatOp_dead ht hl

theorem State.seriesOp_dead {f : FloatFmt → Rnd → Bool → Bool → Nat → Val → Nat} :
    s.seriesOp e f = .next (s.put (t.next e)) := State.lanewise_dead ht hl

theorem State.froundOp_dead : s.froundOp e = .next (s.put (t.next e)) := State.lanewise_dead ht hl

theorem State.bcastOp_dead : s.bcastOp e = .next (s.put (t.next e)) := State.wholewise_dead ht hl

theorem State.insOp_dead : s.insOp e = .next (s.put (t.next e)) := State.withSources_dead ht hl

theorem State.compareOp_dead {tys : BitVec 32} {k : Nat → Nat → Nat → Bool} :
    s.compareOp e tys k = .next (s.put (t.next e)) := State.withSources_dead ht hl

theorem execCmp_dead : execCmp e s = .next (s.put (t.next e)) := State.compareOp_dead ht hl

theorem execFcmp_dead : execFcmp e s = .next (s.put (t.next e)) := State.compareOp_dead ht hl

end

section
variable (ht : s.thread s.cur = some t) (hl : t.live e.g 4 = false)
include ht hl

theorem State.logicOp_dead {f : Nat → Nat → Nat} : s.logicOp e f = .next (s.put (t.next e)) := State.wholewise_dead ht hl

theorem State.selOp_dead : s.selOp e = .next (s.put (t.next e)) := State.withSources_dead ht hl

theorem State.shufOp_dead : s.shufOp e = .next (s.put (t.next e)) := State.wholewise_dead ht hl

end

theorem State.packOp_dead (ht : s.thread s.cur = some t) (hl : t.live e.g (max 4 (laneWidth (t.typeOf e) / 2)) = false) :
    s.packOp e = .next (s.put (t.next e)) := State.wholewise_dead ht hl

theorem State.unpackOp_dead (ht : s.thread s.cur = some t) (hl : t.live e.g (max 4 (2 * laneWidth (t.typeOf e))) = false) :
    s.unpackOp e = .next (s.put (t.next e)) := State.wholewise_dead ht hl

theorem State.ldOp_dead (ht : s.thread s.cur = some t) (hl : t.live e.g (liveWidth e.ty.toNat) = false) :
    s.ldOp e = .next (s.put (t.next e)) := State.onThread_lanes_dead ht hl

theorem State.stOp_dead (ht : s.thread s.cur = some t) (hl : t.live e.g (liveWidth e.ty.toNat) = false) :
    s.stOp e = .next (s.put (t.next e)) := State.onThread_lanes_dead ht hl

theorem State.fefillOp_dead (ht : s.thread s.cur = some t) (hl : t.live e.g 64 = false) :
    s.fefillOp e = .next (s.put (t.next e)) := State.onThread_lanes_dead ht hl

theorem execMovRaw_dead (ht : s.thread s.cur = some t) (hl : t.live e.g 4 = false) :
    execMovRaw e s = .next (s.put (t.next e)) := State.onThread_lanes_dead ht hl

theorem State.nibbleOp_dead {f : Thread → Thread} (ht : s.thread s.cur = some t) (hl : t.live e.g 4 = false) :
    s.nibbleOp e f = .next (s.put (t.next e)) := by
  unfold State.nibbleOp
  rw [State.onThread_some _ _ t ht]
  simp [hl]

theorem State.fdotOp_dead (ht : s.thread s.cur = some t) (hl : t.live e.g (if t.typeOf e = 0 then 4 else 32) = false) :
    s.fdotOp e = .next (s.put (t.next e)) := by
  refine State.withSources_dead ht ?_
  by_cases h0 : t.typeOf e = 0
  · simpa [h0] using hl
  · simpa [h0] using hl

/-- An `ext` without a type is judged by 4-bit lanes, another by lane 0. -/
theorem State.extOp_dead (ht : s.thread s.cur = some t)
    (hl : (if t.typeOf e = 0 then t.live e.g 4 else t.live0 e.g) = false) : s.extOp e = .next (s.put (t.next e)) := by
  unfold State.extOp
  rw [State.onThread_some _ _ t ht]
  simp [hl]

/-- The `mov` that copies a capability whole (07 R129). -/
theorem State.movOp_dead_cap (ht : s.thread s.cur = some t) (hc : e.hasLit = false ∧ e.ty = 0 ∧ (t.reg e.a).cap = true)
    (hl : t.live0 e.g = false) : s.movOp e = .next (s.put (t.next e)) := by
  obtain ⟨hlit, hty, hcap⟩ := hc
  simp [State.movOp, ht, hlit, hty, hcap, hl]

theorem State.movOp_dead_data (ht : s.thread s.cur = some t) (hc : ¬ (e.hasLit = false ∧ e.ty = 0 ∧ (t.reg e.a).cap = true))
    (hl : t.live e.g 4 = false) : s.movOp e = .next (s.put (t.next e)) := by
  have hcond : (!e.hasLit && e.ty == 0 && (t.reg e.a).cap) = false := by
    simpa [and_assoc] using hc
  simp only [State.movOp, ht, hcond, Bool.false_eq_true, if_false]
  exact State.wholewise_dead ht hl

theorem laneRow_mov (t : Thread) (e : Fields) :
    laneRow t (.mov e) = if e.hasLit = false ∧ e.ty = 0 ∧ (t.reg e.a).cap = true then none else some (e, 4) := rfl

theorem laneRow_ext (t : Thread) (e : Fields) : laneRow t (.ext e) = if t.typeOf e = 0 then some (e, 4) else none := rfl

theorem movOp_dead_of_laneRow (ht : s.thread s.cur = some t) {e' : Fields} (h : laneRow t (.mov e') = some (e, w))
    (hl : t.live e.g w = false) : s.movOp e' = .next (s.put (t.next e)) := by
  rw [laneRow_mov] at h
  split at h
  · cases h
  · next hc => cases h; exact State.movOp_dead_data ht hc hl

theorem extOp_dead_of_laneRow (ht : s.thread s.cur = some t) {e' : Fields} (h : laneRow t (.ext e') = some (e, w))
    (hl : t.live e.g w = false) : s.extOp e' = .next (s.put (t.next e)) := by
  rw [laneRow_ext] at h
  split at h
  · next h0 => cases h; exact State.extOp_dead ht (by rw [if_pos h0, hl])
  · cases h

theorem exec_laneRow_dead (ht : s.thread s.cur = some t) (h : laneRow t i = some (e, w)) (hl : t.live e.g w = false) :
    exec i s = .next (s.put (t.next e)) := by
  cases i with
  | add | addX | sub | subX | mul | mulX | mulhi | mulhiX | div | divX | rem | remX | min | minX | max | maxX | addsat | addsatX
  | subsat | subsatX | mad | madX => cases h; exact State.intOp_dead ht hl
  | shl | shlX | shr | shrX | sar | sarX | rot | rotX => cases h; exact State.shiftOp_dead ht hl
  | abs | absX | neg | negX | clz | clzX | ctz | ctzX | popc | popcX => cases h; exact State.intOp1_dead ht hl
  | fadd | faddX | fsub | fsubX | fmul | fmulX | fma | fmaX => cases h; exact State.floatOp_dead ht hl
  | fmin | fminX | fmax | fmaxX | fabs | fabsX | fneg | fnegX => cases h; exact State.exactOp_dead ht hl
  | frcp | frcpX | frsq | frsqX | fsqrt | fsqrtX => cases h; exact State.specialOp_dead ht hl
  | fexp2 | fexp2X | flog2 | flog2X => cases h; exact State.seriesOp_dead ht hl
  | fround | froundX => cases h; exact State.froundOp_dead ht hl
  | bcast | bcastX => cases h; exact State.bcastOp_dead ht hl
  | ins | insX => cases h; exact State.insOp_dead ht hl
  | cmp => cases h; exact execCmp_dead ht hl
  | fcmp => cases h; exact execFcmp_dead ht hl
  | and | andX | or | orX | xor | xorX | andn | andnX => cases h; exact State.logicOp_dead ht hl
  | sel | selX => cases h; exact State.selOp_dead ht hl
  | shuf | shufX => cases h; exact State.shufOp_dead ht hl
  | pack | packX => cases h; exact State.packOp_dead ht hl
  | unpack | unpackX => cases h; exact State.unpackOp_dead ht hl
  | plop | pmov | pmovNz | pgetMask => cases h; exact State.nibbleOp_dead ht hl
  | movRaw => cases h; exact execMovRaw_dead ht hl
  | ld | ldX => cases h; exact State.ldOp_dead ht hl
  | st | stX => cases h; exact State.stOp_dead ht hl
  | fefill | fefillX => cases h; exact State.fefillOp_dead ht hl
  | fdot | fdotX => cases h; exact State.fdotOp_dead ht hl
  | mov | movX => exact movOp_dead_of_laneRow ht h hl
  | ext | extX => exact extOp_dead_of_laneRow ht h hl
  | _ => cases h

/-! ## The copy of a capability, `ext` and `fcvt` -/

theorem exec_movRow (s : State) (h : movRow i = some e) : exec i s = s.movOp e := by
  cases i with
  | mov | movX => cases h; rfl
  | _ => cases h

theorem exec_extRow (s : State) (h : extRow i = some e) : exec i s = s.extOp e := by
  cases i with
  | ext | extX => cases h; rfl
  | _ => cases h

theorem exec_fcvtRow (s : State) (h : fcvtRow i = some e) : exec i s = s.fcvtOp e := by
  cases i with
  | fcvt | fcvtX => cases h; rfl
  | _ => cases h

theorem cvtLive_eq_false_iff {d : Nat} :
    cvtLive t e d = false ↔ ∀ k, k < elemCount d → t.guardBit e.g (fmtWidth d * k / 4) = false := by
  simp [cvtLive, cvtActive]

/-- An `fcvt` of one word whose fa gives no type is judged by 4-bit lanes. -/
theorem State.fcvtOp_dead_untyped (ht : s.thread s.cur = some t)
    (hu : e.hasWord1 = false ∧ ((t.reg e.a).cap = true ∨ (t.reg e.a).tag = 0)) (hl : t.live e.g 4 = false) :
    s.fcvtOp e = .next (s.put (t.next e)) := by
  obtain ⟨hw, hr⟩ := hu
  unfold State.fcvtOp
  rw [State.onThread_some _ _ t ht]
  rcases hr with hr | hr
  · simp [hw, hr, hl]
  · simp [hw, hr, hl]

/-- Another is live where an element of its destination is active (07 R118). -/
theorem State.fcvtOp_dead_typed (ht : s.thread s.cur = some t)
    (hu : ¬ (e.hasWord1 = false ∧ ((t.reg e.a).cap = true ∨ (t.reg e.a).tag = 0))) (hl : cvtLive t e (cvtDest e) = false) :
    s.fcvtOp e = .next (s.put (t.next e)) := by
  have hcond : (!e.hasWord1 && ((t.reg e.a).cap || (t.reg e.a).tag.toNat = 0)) = false := by
    rw [← Bool.not_eq_true]
    simpa [BitVec.toNat_eq] using hu
  unfold State.fcvtOp
  rw [State.onThread_some _ _ t ht]
  simp only [hcond, hl, Bool.not_false, Bool.false_eq_true, if_true, if_false]

end

/-- Settles O24: each row asks for its active lane before it does anything else. -/
theorem notLiveOnlyPasses : Obligations.NotLiveOnlyPasses := by
  unfold Obligations.NotLiveOnlyPasses
  intro i s t ht passes
  refine ⟨fun e h hl => exec_scalarRow_dead ht h hl, fun e w h hl => exec_laneRow_dead ht h hl, ?mov, ?ext, ?fcvt⟩
  case mov =>
    intro e h hlit hty hcap hl
    exact (exec_movRow s h).trans (State.movOp_dead_cap ht ⟨hlit, hty, hcap⟩ hl)
  case ext =>
    intro e h hty hl
    exact (exec_extRow s h).trans (State.extOp_dead ht (by rw [if_neg hty, hl]))
  case fcvt =>
    intro e h
    constructor
    · intro hu hl
      exact (exec_fcvtRow s h).trans (State.fcvtOp_dead_untyped ht hu hl)
    · intro hu hl
      exact (exec_fcvtRow s h).trans (State.fcvtOp_dead_typed ht hu (cvtLive_eq_false_iff.2 hl))

end Sys2Proof.Machine
end

section
/-!
PROOF. Decoding and encoding agree (06 R99 to R111): words and bytes, the fields of the words, and the rows that `select` gives.
-/
namespace Sys2Proof

/-! ## Words and bytes -/

theorem word32_bytesOfWord (w : Word32) :
    word32 (w.extractLsb' 0 8) (w.extractLsb' 8 8) (w.extractLsb' 16 8) (w.extractLsb' 24 8) = w := by
  unfold word32
  rw [BitVec.extractLsb'_append_extractLsb'_eq_extractLsb' (by rfl), BitVec.extractLsb'_append_extractLsb'_eq_extractLsb' (by rfl),
    BitVec.extractLsb'_append_extractLsb'_eq_extractLsb' (by rfl)]
  exact BitVec.extractLsb'_eq_self

theorem bytesOfWord_word32 (b0 b1 b2 b3 : Byte) : bytesOfWord (word32 b0 b1 b2 b3) = [b0, b1, b2, b3] := by
  have h0 : (word32 b0 b1 b2 b3).extractLsb' 0 8 = b0 := BitVec.extractLsb'_append_eq_right
  have h1 : (word32 b0 b1 b2 b3).extractLsb' 8 8 = b1 :=
    (BitVec.extractLsb'_append_eq_of_le (by decide)).trans BitVec.extractLsb'_append_eq_right
  have h2 : (word32 b0 b1 b2 b3).extractLsb' 16 8 = b2 :=
    (BitVec.extractLsb'_append_eq_of_le (by decide)).trans <|
      (BitVec.extractLsb'_append_eq_of_le (by decide)).trans BitVec.extractLsb'_append_eq_right
  have h3 : (word32 b0 b1 b2 b3).extractLsb' 24 8 = b3 :=
    (BitVec.extractLsb'_append_eq_of_le (by decide)).trans <|
      (BitVec.extractLsb'_append_eq_of_le (by decide)).trans BitVec.extractLsb'_append_eq_left
  rw [bytesOfWord, h0, h1, h2, h3]

theorem wordsOfBytes_flatMap_append (ws : List Word32) (rest : List Byte) :
    wordsOfBytes (ws.flatMap bytesOfWord ++ rest) = ws ++ wordsOfBytes rest := by
  induction ws with
  | nil => rfl
  | cons w ws ih =>
    simp only [List.flatMap_cons, bytesOfWord, List.cons_append, List.nil_append, wordsOfBytes, word32_bytesOfWord, ih]

theorem flatMap_bytesOfWord_prefix {bs : List Byte} {ws : List Word32} (h : ws <+: wordsOfBytes bs) :
    ws.flatMap bytesOfWord <+: bs := by
  induction ws generalizing bs with
  | nil => exact List.nil_prefix
  | cons w ws ih =>
    match bs with
    | b0 :: b1 :: b2 :: b3 :: r =>
      obtain ⟨rfl, hr⟩ := List.cons_prefix_cons.1 h
      rw [List.flatMap_cons, bytesOfWord_word32]
      exact (List.prefix_append_right_inj _).2 (ih hr)
    | [] | [_] | [_, _] | [_, _, _] => simp [wordsOfBytes] at h

/-! ## The fields of the words (R99 to R102) -/

/-- Word 0 as the encoder writes it (R99 Table 1). -/
def Fields.word0 (op : Nat) (e : Fields) : Word32 := e.form.len ++ e.g ++ BitVec.ofNat 7 op ++ e.d ++ e.a ++ e.b

/-- Word 1 as the encoder writes it (R101 Table 3). -/
def Fields.word1 (e : Fields) : Word32 := e.xop ++ e.c ++ e.ty ++ e.mod

section
variable (op : Nat) (e : Fields)

theorem Fields.word0_b : (e.word0 op).extractLsb' 0 5 = e.b := BitVec.extractLsb'_append_eq_right

theorem Fields.word0_a : (e.word0 op).extractLsb' 5 5 = e.a := by
  unfold Fields.word0
  rw [BitVec.extractLsb'_append_eq_of_le (by decide)]
  exact BitVec.extractLsb'_append_eq_right

theorem Fields.word0_d : (e.word0 op).extractLsb' 10 5 = e.d := by
  unfold Fields.word0
  iterate 2 rw [BitVec.extractLsb'_append_eq_of_le (by decide)]
  exact BitVec.extractLsb'_append_eq_right

theorem Fields.word0_op : (e.word0 op).extractLsb' 15 7 = BitVec.ofNat 7 op := by
  unfold Fields.word0
  iterate 3 rw [BitVec.extractLsb'_append_eq_of_le (by decide)]
  exact BitVec.extractLsb'_append_eq_right

theorem Fields.word0_g : (e.word0 op).extractLsb' 22 8 = e.g := by
  unfold Fields.word0
  iterate 4 rw [BitVec.extractLsb'_append_eq_of_le (by decide)]
  exact BitVec.extractLsb'_append_eq_right

theorem Fields.word0_len : (e.word0 op).extractLsb' 30 2 = e.form.len := by
  unfold Fields.word0
  iterate 4 rw [BitVec.extractLsb'_append_eq_of_le (by decide)]
  exact BitVec.extractLsb'_append_eq_left

theorem Fields.word1_mod : e.word1.extractLsb' 0 12 = e.mod := BitVec.extractLsb'_append_eq_right

theorem Fields.word1_ty : e.word1.extractLsb' 12 5 = e.ty := by
  unfold Fields.word1
  rw [BitVec.extractLsb'_append_eq_of_le (by decide)]
  exact BitVec.extractLsb'_append_eq_right

theorem Fields.word1_c : e.word1.extractLsb' 17 5 = e.c := by
  unfold Fields.word1
  iterate 2 rw [BitVec.extractLsb'_append_eq_of_le (by decide)]
  exact BitVec.extractLsb'_append_eq_right

theorem Fields.word1_xop : e.word1.extractLsb' 22 10 = e.xop := by
  unfold Fields.word1
  iterate 2 rw [BitVec.extractLsb'_append_eq_of_le (by decide)]
  exact BitVec.extractLsb'_append_eq_left

end

theorem append_extractLsb'_halves (v : Word64) : v.extractLsb' 32 32 ++ v.extractLsb' 0 32 = v := by
  rw [BitVec.extractLsb'_append_extractLsb'_eq_extractLsb' (by rfl)]
  exact BitVec.extractLsb'_eq_self

/-! ## Length codes (R100) -/

theorem Form.len_formOfLen (w : Word32) : (formOfLen w).len = w.extractLsb' 30 2 := by
  apply BitVec.eq_of_getLsbD_eq
  intro i hi
  unfold formOfLen
  split <;> split
  all_goals interval_cases i <;> simp_all [Form.len]

theorem Form.len_injective {f f' : Form} (h : f.len = f'.len) : f = f' := by
  revert h
  cases f <;> cases f' <;> decide

theorem formOfLen_word0 (op : Nat) (e : Fields) : formOfLen (e.word0 op) = e.form :=
  Form.len_injective (by rw [Form.len_formOfLen, Fields.word0_len])

theorem opOfWord_word0 {op : Nat} (h : op < 128) (e : Fields) : opOfWord (e.word0 op) = op := by
  rw [opOfWord, Fields.word0_op, BitVec.toNat_ofNat, Nat.mod_eq_of_lt h]

/-! ## Parsing what the encoder writes, and the other way -/

theorem fieldsOfWords_words (op : Nat) (e : Fields) :
    fieldsOfWords e.form (e.word0 op) e.word1 e.imm (e.lit.extractLsb' 0 32) (e.lit.extractLsb' 32 32) = e := by
  simp only [fieldsOfWords, Fields.word0_g, Fields.word0_d, Fields.word0_a, Fields.word0_b, Fields.word1_c, Fields.word1_xop,
    Fields.word1_ty, Fields.word1_mod, append_extractLsb'_halves]

section
variable {op : Nat} {e : Fields}

theorem encodeFields_one (h : e.form = .one) : encodeFields op e = [e.word0 op] := by
  simp only [encodeFields, Fields.word0, h]

theorem encodeFields_ext (h : e.form = .ext) : encodeFields op e = [e.word0 op, e.word1, e.imm] := by
  simp only [encodeFields, Fields.word0, Fields.word1, h]

theorem encodeFields_lit (h : e.form = .lit) :
    encodeFields op e = [e.word0 op, e.lit.extractLsb' 0 32, e.lit.extractLsb' 32 32] := by
  simp only [encodeFields, Fields.word0, h]

theorem encodeFields_extLit (h : e.form = .extLit) :
    encodeFields op e = [e.word0 op, e.word1, e.imm, e.lit.extractLsb' 0 32, e.lit.extractLsb' 32 32] := by
  simp only [encodeFields, Fields.word0, Fields.word1, h]

/-- The words that a form does not carry are zero. -/
theorem Fields.canonical_word1 (hc : e.canonical = true) (h : e.hasWord1 = false) : e.word1 = 0 ∧ e.imm = 0 := by
  simp only [Fields.canonical, h, Bool.false_or, Bool.and_eq_true, beq_iff_eq] at hc
  obtain ⟨⟨⟨⟨⟨hc, hx⟩, ht⟩, hm⟩, hi⟩, -⟩ := hc
  exact ⟨by rw [Fields.word1, hc, hx, ht, hm]; rfl, hi⟩

theorem Fields.canonical_lit (hc : e.canonical = true) (h : e.hasLit = false) : e.lit = 0 := by
  simpa [Fields.canonical, h] using (Bool.and_eq_true_iff.1 hc).2

theorem parse_encodeFields (hop : op < 128) (hc : e.canonical = true) (rest : List Word32) :
    parse (encodeFields op e ++ rest) = some (op, e) := by
  have he := fieldsOfWords_words op e
  cases h : e.form with
  | one =>
    obtain ⟨hw, hi⟩ := Fields.canonical_word1 hc (by rw [Fields.hasWord1, h]; rfl)
    have hl := Fields.canonical_lit hc (by rw [Fields.hasLit, h]; rfl)
    rw [h, hw, hi, hl] at he
    simp only [encodeFields_one h, List.cons_append, parse, formOfLen_word0, h, opOfWord_word0 hop]
    exact congrArg (fun x => some (op, x)) he
  | ext =>
    have hl := Fields.canonical_lit hc (by rw [Fields.hasLit, h]; rfl)
    rw [h, hl] at he
    simp only [encodeFields_ext h, List.cons_append, parse, formOfLen_word0, h, opOfWord_word0 hop]
    exact congrArg (fun x => some (op, x)) he
  | lit =>
    obtain ⟨hw, hi⟩ := Fields.canonical_word1 hc (by rw [Fields.hasWord1, h]; rfl)
    rw [h, hw, hi] at he
    simp only [encodeFields_lit h, List.cons_append, parse, formOfLen_word0, h, opOfWord_word0 hop, he]
  | extLit =>
    rw [h] at he
    simp only [encodeFields_extLit h, List.cons_append, parse, formOfLen_word0, h, opOfWord_word0 hop, he]

end

theorem word0_fieldsOfWords (w0 w1 w2 l0 l1 : Word32) : (fieldsOfWords (formOfLen w0) w0 w1 w2 l0 l1).word0 (opOfWord w0) = w0 := by
  simp only [Fields.word0, fieldsOfWords, Form.len_formOfLen, opOfWord, BitVec.ofNat_toNat, BitVec.setWidth_eq]
  iterate 5 rw [BitVec.extractLsb'_append_extractLsb'_eq_extractLsb' (by rfl)]
  exact BitVec.extractLsb'_eq_self

theorem word1_fieldsOfWords (f : Form) (w0 w1 w2 l0 l1 : Word32) : (fieldsOfWords f w0 w1 w2 l0 l1).word1 = w1 := by
  simp only [Fields.word1, fieldsOfWords]
  iterate 3 rw [BitVec.extractLsb'_append_extractLsb'_eq_extractLsb' (by rfl)]
  exact BitVec.extractLsb'_eq_self

theorem lit_fieldsOfWords (f : Form) (w0 w1 w2 l0 l1 : Word32) :
    (fieldsOfWords f w0 w1 w2 l0 l1).lit.extractLsb' 0 32 = l0 ∧ (fieldsOfWords f w0 w1 w2 l0 l1).lit.extractLsb' 32 32 = l1 :=
  ⟨BitVec.extractLsb'_append_eq_right, BitVec.extractLsb'_append_eq_left⟩

theorem encodeFields_of_parse {ws : List Word32} {op : Nat} {e : Fields} (h : parse ws = some (op, e)) :
    encodeFields op e <+: ws ∧ e.canonical = true := by
  cases ws with
  | nil => cases h
  | cons w0 r =>
    simp only [parse] at h
    split at h
    case h_1 hf =>
      cases h
      refine ⟨?_, rfl⟩
      rw [encodeFields_one rfl, ← hf, word0_fieldsOfWords]
      exact List.prefix_append [w0] _
    case h_2 w1 w2 _ hf =>
      cases h
      refine ⟨?_, rfl⟩
      rw [encodeFields_ext rfl, ← hf, word0_fieldsOfWords, word1_fieldsOfWords]
      exact List.prefix_append [w0, w1, w2] _
    case h_3 l0 l1 _ hf =>
      cases h
      refine ⟨?_, rfl⟩
      obtain ⟨h0, h1⟩ := lit_fieldsOfWords .lit w0 0 0 l0 l1
      rw [encodeFields_lit rfl, h0, h1, ← hf, word0_fieldsOfWords]
      exact List.prefix_append [w0, l0, l1] _
    case h_4 w1 w2 l0 l1 _ hf =>
      cases h
      refine ⟨?_, rfl⟩
      obtain ⟨h0, h1⟩ := lit_fieldsOfWords .extLit w0 w1 w2 l0 l1
      rw [encodeFields_extLit rfl, h0, h1, ← hf, word0_fieldsOfWords, word1_fieldsOfWords]
      exact List.prefix_append [w0, w1, w2, l0, l1] _
    case h_5 => cases h

/-! ## The rows (R108 to R111) -/

theorem opForms_of_row {i : Instr} {r : RowInfo} {e : Fields} (h : i.row = some (r, e)) :
    ∃ fs, opForms r.op = some fs ∧ ∀ f ∈ r.forms, f ∈ fs := by
  cases i <;> cases h <;> exact ⟨_, rfl, by decide⟩

/-- With a form of the row and a subfunction of it, `select` computes to the row's instruction. -/
theorem select_of_row {i : Instr} {r : RowInfo} {e : Fields} (h : i.row = some (r, e))
    (hf : e.form ∈ r.forms) (hx : r.xopOk e = true) (hp : r.pick e = true) : select r.op e = some i := by
  obtain ⟨f, g, d, a, b, c, x, ty, mod, imm, lit⟩ := e
  simp only [RowInfo.xopOk, Bool.and_eq_true, decide_eq_true_eq] at hx hf
  obtain ⟨hlo, hhi⟩ := hx
  have hlit : r.xopLo = r.xopHi → x = BitVec.ofNat 10 r.xopLo := fun e => by
    rw [← BitVec.toNat_inj, BitVec.toNat_ofNat, Nat.mod_eq_of_lt (by omega)]; omega
  cases i with
  | unpackX | fefillX | atomX | csetX | cgetX | cvoteX | credX =>
    cases h
    fin_cases hf <;> exact if_pos hhi
  | nwait =>
    cases h
    cases hlit rfl
    exact congrArg some (if_neg (by simpa using hp))
  | nwaitTry =>
    cases h
    cases hlit rfl
    exact congrArg some (if_pos hp)
  | cmp | fcmp | brkX =>
    cases h
    fin_cases hf <;> rfl
  | _ =>
    cases h
    all_goals cases hlit rfl
    all_goals fin_cases hf <;> rfl

section
variable {r : RowInfo} {e : Fields} {k : BitVec 10}

theorem RowInfo.xopOk_of_eq (h : (e.xop == k) = true) (hlo : r.xopLo = k.toNat) (hhi : r.xopHi = k.toNat) : r.xopOk e = true := by
  rw [beq_iff_eq] at h
  simp [RowInfo.xopOk, hlo, hhi, h]

theorem RowInfo.xopOk_of_le (h : e.xop ≤ k) (hlo : r.xopLo = 0) (hhi : r.xopHi = k.toNat) : r.xopOk e = true := by
  simpa [RowInfo.xopOk, hlo, hhi] using BitVec.le_def.1 h

theorem RowInfo.xopOk_of_full (hlo : r.xopLo = 0) (hhi : r.xopHi = 1023) : r.xopOk e = true := by
  simpa [RowInfo.xopOk, hlo, hhi] using Nat.le_of_lt_succ e.xop.isLt

theorem RowInfo.xopOk_of_one (hone : e.form = .one → e.xop = 0) (h : e.form ∈ [Form.one]) (hlo : r.xopLo = 0) : r.xopOk e = true := by
  simp [RowInfo.xopOk, hlo, hone (List.mem_singleton.1 h)]
end

/-- The row of an instruction is one of an opcode, holds these fields and is told by them from the other rows of its subfunction;
a form of the row comes with a subfunction of it. -/
def Instr.Fits (i : Instr) (op : Nat) (e : Fields) : Prop :=
  ∃ r, i.row = some (r, e) ∧ r.op = op ∧ r.pick e = true ∧ (e.form ∈ r.forms → r.xopOk e = true)

/-- Each branch of `select` gives an instruction whose row is told by the branch's own test of the subfunction: by its value or its
bound, by nothing where the row takes every subfunction, and by the form in a one-word row, where the subfunction is zero. -/
theorem Instr.fits_of_select {op : Nat} {e : Fields} {i : Instr} (hone : e.form = .one → e.xop = 0) (h : select op e = some i) :
    i.Fits op e := by
  revert h
  unfold select
  split
  all_goals repeat' split
  all_goals rintro ⟨⟩
  all_goals refine ⟨_, rfl, rfl, ?_, fun _ => ?_⟩
  any_goals exact RowInfo.xopOk_of_eq (by assumption) rfl rfl
  any_goals exact RowInfo.xopOk_of_le (by assumption) rfl rfl
  any_goals exact RowInfo.xopOk_of_full rfl rfl
  any_goals rfl
  any_goals exact RowInfo.xopOk_of_one hone (by assumption) rfl
  · assumption
  · simp_all

theorem Instr.wf_iff {i : Instr} {r : RowInfo} {e : Fields} (h : i.row = some (r, e)) :
    i.wf = true ↔ e.canonical = true ∧ e.form ∈ r.forms ∧ r.xopOk e = true ∧ r.pick e = true ∧ r.violation e = none := by
  simp [Instr.wf, h, and_assoc]

theorem op_lt_of_opForms {op : Nat} {fs : List Form} (h : opForms op = some fs) : op < 128 := by
  by_contra hop
  have hnone : opForms op = none := if_pos (by simp [show 0x78 ≤ op by omega])
  simp [hnone] at h

theorem classify_of_wf {i : Instr} {r : RowInfo} {e : Fields} (h : i.row = some (r, e)) (hwf : i.wf = true) :
    classify r.op e = .ok i := by
  obtain ⟨-, hform, hxop, hpick, hviol⟩ := (Instr.wf_iff h).1 hwf
  obtain ⟨fs, hfs, hsub⟩ := opForms_of_row h
  simp [classify, hfs, hsub _ hform, select_of_row h hform hxop hpick, h, hform, hviol]

theorem Fields.canonical_xop {e : Fields} (hc : e.canonical = true) (h : e.form = .one) : e.xop = 0 := by
  have hw : e.hasWord1 = false := by rw [Fields.hasWord1, h]; rfl
  rw [← Fields.word1_xop, (Fields.canonical_word1 hc hw).1]
  rfl

theorem wf_of_classify {op : Nat} {i : Instr} {e : Fields} (hc : e.canonical = true) (h : classify op e = .ok i) :
    i.wf = true ∧ ∃ r, i.row = some (r, e) ∧ r.op = op := by
  unfold classify at h
  split at h
  · cases h
  split at h
  · cases h
  split at h
  · cases h
  next j hsel =>
    obtain ⟨r, hrow, hop, hpick, hxop⟩ := Instr.fits_of_select (Fields.canonical_xop hc) hsel
    simp only [hrow] at h
    split at h
    · cases h
    next hform =>
      split at h
      · cases h
      next hviol =>
        cases h
        have hform : e.form ∈ r.forms := by simpa using hform
        exact ⟨(Instr.wf_iff hrow).2 ⟨hc, hform, hxop hform, hpick, hviol⟩, r, hrow, hop⟩

/-! ## Instructions -/

theorem decodeWords_encode {i : Instr} (hrow : i.row ≠ none) (hwf : i.wf = true) (rest : List Word32) :
    decodeWords (encode i ++ rest) = .ok i := by
  obtain ⟨⟨r, e⟩, hrow⟩ := Option.ne_none_iff_exists'.1 hrow
  obtain ⟨fs, hfs, -⟩ := opForms_of_row hrow
  have hc := ((Instr.wf_iff hrow).1 hwf).1
  have hparse := parse_encodeFields (op_lt_of_opForms hfs) hc rest
  simp only [decodeWords, encode, hrow, hparse, classify_of_wf hrow hwf]

theorem encode_of_decodeWords {ws : List Word32} {i : Instr} (h : decodeWords ws = .ok i) :
    i.wf = true ∧ i.row ≠ none ∧ encode i <+: ws := by
  unfold decodeWords at h
  split at h
  · cases h
  next op e hparse =>
    obtain ⟨hpre, hc⟩ := encodeFields_of_parse hparse
    obtain ⟨hwf, r, hrow, rfl⟩ := wf_of_classify hc h
    refine ⟨hwf, by simp [hrow], ?_⟩
    simpa only [encode, hrow] using hpre

/-- Settles O56: bytes are words, the words give opcode and fields, and these select the row. -/
theorem decodeRoundTrip : Obligations.DecodeRoundTrip := by
  unfold Obligations.DecodeRoundTrip
  constructor
  · intro i r e rest hrow hwf
    rw [decode, encodeBytes, wordsOfBytes_flatMap_append]
    exact decodeWords_encode (by simp [hrow]) hwf _
  · intro bytes i h
    obtain ⟨hwf, hrow, hpre⟩ := encode_of_decodeWords h
    exact ⟨hwf, hrow, List.prefix_iff_eq_take.1 (flatMap_bytesOfWord_prefix hpre)⟩

/-- The words that the encoder writes of a well-formed instruction decode to it. -/
theorem decodeWords_of_encode {ws : List Word32} {i : Instr} (hwf : i.wf = true) (hrow : i.row ≠ none) (he : encode i = ws) :
    decodeWords ws = .ok i := by
  rw [← he, ← List.append_nil (encode i), decodeWords_encode hrow hwf]

theorem decodeWords_of_reserved {w : Word32} (hlen : formOfLen w = .one) (hop : opForms (opOfWord w) = none) :
    decodeWords [w] = .error (.cause 1) := by
  simp only [decodeWords, parse, hlen, classify, hop]

/-- Settles O57: seven of the words are what the encoder writes of well-formed instructions; the opcode of the last is reserved. -/
theorem sampleWords : Obligations.SampleWords := by
  unfold Obligations.SampleWords
  refine ⟨?fma, ?fadd, ?cmp, ?call, ?ret, ?cinc, ?qstat, ?reserved⟩
  case reserved => exact decodeWords_of_reserved (by decide) (by decide)
  all_goals exact decodeWords_of_encode (by decide) (by decide) (by decide)

end Sys2Proof
end

section
/-!
PROOF. A turn's choices stay as its input gives them while an access is finished and an instruction is fetched: one lemma per
operation that these are composed of.
-/
namespace Sys2Proof.Machine
variable {s : State} {o : TurnOpts}

/-- The choices of the turn stand at `o`. -/
def State.HasOpts (s : State) (o : TurnOpts) : Prop := s.opts = o

namespace State.HasOpts

/-! ## Branches and loops -/

theorem ite {c : Prop} [Decidable c] {x y : State} (hx : x.HasOpts o) (hy : y.HasOpts o) : (if c then x else y).HasOpts o := by
  split <;> assumption

theorem ite_snd {α : Type} {c : Prop} [Decidable c] {x y : α × State} (hx : x.2.HasOpts o) (hy : y.2.HasOpts o) :
    (if c then x else y).2.HasOpts o := by
  split <;> assumption

theorem out {α : Type} {p : α × State} {a : α} (h : p.2.HasOpts o) (e : p = (a, s)) : s.HasOpts o := by
  subst e; exact h

theorem foldl {β : Type} {f : State → β → State} {l : List β} (h : s.HasOpts o)
    (hf : ∀ x b, x.HasOpts o → (f x b).HasOpts o) : (l.foldl f s).HasOpts o :=
  foldl_keeps (fun x : State => x.HasOpts o) f hf l s h

theorem setGrove {g : Nat} {v : Grove} (h : s.HasOpts o) : (s.setGrove g v).HasOpts o := h

/-! ## Crews -/

theorem breakHeld {ci b cause : Nat} {l : List MemberId} (h : s.HasOpts o) : (s.breakHeld ci b cause l).HasOpts o :=
  h.foldl fun _ _ h1 => ite h1 h1

theorem setCrew {ci : Nat} {c : Crew} (h : s.HasOpts o) : (s.setCrew ci c).HasOpts o := h
theorem giveResults {ci b : Nat} {bar : Barrier} (h : s.HasOpts o) : (s.giveResults ci b bar).HasOpts o := h
theorem heldTaken {ci b phase : Nat} (h : s.HasOpts o) : (s.heldTaken ci b phase).HasOpts o := h
theorem tell {pkgs : List Nat} {op : PeerOp} (h : s.HasOpts o) : (s.tell pkgs op).HasOpts o := h

theorem applyBoundary {ci : Nat} (h : s.HasOpts o) : (s.applyBoundary ci).HasOpts o :=
  ((h.setCrew.foldl fun _ _ h1 => h1.tell).foldl fun _ _ h1 => h1.tell).foldl fun _ _ h1 => h1.breakHeld

theorem releaseOnce {ci b : Nat} (h : s.HasOpts o) : (s.releaseOnce ci b).HasOpts o :=
  (ite h.applyBoundary h).giveResults.tell.setCrew.breakHeld.heldTaken

theorem settle {ci n : Nat} (h : s.HasOpts o) : (s.settle ci n).HasOpts o := by
  induction n generalizing s with
  | zero => exact h
  | succ n ih => exact ite (ih h.releaseOnce) (ite (ih h.releaseOnce) (ite (ih h.releaseOnce) (ite (ih h.releaseOnce) h)))

theorem departCrew {m : MemberId} {fault : Bool} {ci : Nat} (h : s.HasOpts o) : (s.departCrew m fault ci).HasOpts o :=
  ite h.setCrew.tell.settle h.setCrew.settle

theorem departAll {m : MemberId} {fault : Bool} (h : s.HasOpts o) : (s.departAll m fault).HasOpts o :=
  h.foldl fun _ _ h1 => h1.departCrew

/-! ## Exceptions -/

theorem stopThread {n kind cause detail : Nat} {info : Word32} {addr : Nat} (h : s.HasOpts o) :
    (s.stopThread n kind cause detail info addr).HasOpts o :=
  (s.stopThread_opts ..).trans h

theorem coreFault {n cause addr : Nat} (h : s.HasOpts o) : (s.coreFault n cause addr).HasOpts o := by
  unfold State.coreFault
  split
  · exact h
  · exact h.stopThread.departAll.foldl fun _ _ h1 => h1.stopThread

theorem freezeThread {n kind addr : Nat} (h : s.HasOpts o) : (s.freezeThread n kind addr).HasOpts o := by
  unfold State.freezeThread
  split
  · exact h
  · next t _ =>
    have hreport : ∀ u : Thread, ((s.setThread n u).report n u kind 0 0 0 addr).HasOpts o :=
      fun u => (State.report_opts ..).trans h
    exact ite (hreport _) (hreport _)

theorem take {n : Nat} {x : Trap} (h : s.HasOpts o) : (s.take n x).HasOpts o := by
  cases x with
  | data cause addr own => exact ite h.coreFault h.stopThread
  | capability addr => exact h.freezeThread
  | protection addr => exact h.freezeThread
  | _ => exact h.stopThread

/-! ## Accesses -/

theorem detect {k : Nat} (h : s.HasOpts o) : (s.detect k).HasOpts o := ite h h
theorem correct {k : Nat} (h : s.HasOpts o) : (s.correct k).HasOpts o := ite h h

theorem readAccess {a : Access} (h : s.HasOpts o) : (s.readAccess a).1.HasOpts o := h.foldl fun _ _ h1 => h1.correct

theorem writeAccess {a : Access} {v : Nat} (h : s.HasOpts o) : (s.writeAccess a v).HasOpts o := by
  rw [State.writeAccess_only]
  exact h

theorem wakeMile {c : Continuation} (h : s.HasOpts o) : (s.wakeMile c).HasOpts o := by
  unfold State.wakeMile
  split <;> exact h

theorem wakeWrite {word v : Nat} (h : s.HasOpts o) : (s.wakeWrite word v).HasOpts o := by
  unfold State.wakeWrite
  split
  · exact h
  · exact ite h.wakeMile h.wakeMile

theorem storeAccess {a : Access} {v : Nat} (h : s.HasOpts o) : (s.storeAccess a v).HasOpts o :=
  h.writeAccess.foldl fun _ _ h1 => h1.wakeWrite

theorem perform {a : Access} (h : s.HasOpts o) : (s.perform a).state.HasOpts o := by
  cases hop : a.op with
  | load | ldcap =>
    simp only [State.perform, hop]
    split <;> [exact h.detect; exact h.readAccess]
  | store =>
    simp only [State.perform, hop]
    split <;> [exact h.detect; exact h.storeAccess]
  | wake k =>
    simp only [State.perform, hop]
    exact h.storeAccess
  | ldfe | ldff =>
    simp only [State.perform, hop]
    split
    · split <;> [exact h.detect; exact h.readAccess]
    · exact h
  | stef =>
    simp only [State.perform, hop]
    split <;> [exact h; exact h.storeAccess]
  | fefill empty =>
    simp only [State.perform, hop]
    exact h.foldl fun _ _ h1 => h1
  | atom op =>
    simp only [State.perform, hop]
    split <;> [exact h.detect; exact h.readAccess.storeAccess]
  | cas pair =>
    simp only [State.perform, hop]
    split <;> [exact h.detect; exact ite h.readAccess.storeAccess h.readAccess]
  | stcap =>
    simp only [State.perform, hop]
    exact h.writeAccess
  | cclr =>
    simp only [State.perform, hop]
    exact h

theorem performUpper {n : Nat} {t : Thread} {a : Access} {e : Fields} {low : Nat} (h : s.HasOpts o) :
    (s.performUpper n t a e low).HasOpts o := by
  unfold State.performUpper
  split
  · exact h.detect.take
  · exact h.perform

theorem afterReturn {n : Nat} (h : s.HasOpts o) : (s.afterReturn n).HasOpts o := by
  unfold State.afterReturn
  split
  · exact ite h h
  · exact h

theorem finishOwn {n : Nat} (h : s.HasOpts o) : (s.finishOwn n).HasOpts o := by
  unfold State.finishOwn
  split
  · split
    · exact ite h.performUpper.afterReturn h
    · exact h
  · exact h

/-! ## Translation and fetch -/

theorem correctWalk {c va : Nat} {w : Walk} (h : s.HasOpts o) : (s.correctWalk c va w).HasOpts o := by
  unfold State.correctWalk
  split
  · exact h
  · have h1 := h.foldl (f := State.correct) (l := s.walkKeys va 5 (s.ctx c).regs.ptroot) fun _ _ => correct
    split
    · exact h1.detect
    · exact h1.foldl fun _ _ => correct
    · exact h1

theorem translationOf {c va : Nat} {w : Walk} (h : s.HasOpts o) : (s.translationOf c va w).2.HasOpts o := by
  unfold State.translationOf
  split
  · exact h.correctWalk
  · exact h.correctWalk
  · exact ite_snd (ite_snd h.correctWalk h.correctWalk) h.correctWalk

theorem mapped {c va : Nat} (h : s.HasOpts o) : (s.mapped c va).2.HasOpts o := h.translationOf

theorem translate {g c va : Nat} (h : s.HasOpts o) : (s.translate g c va).2.HasOpts o := by
  unfold State.translate
  split
  · exact h
  · dsimp only
    split <;> exact h.mapped

theorem beginWalk {g c va : Nat} (h : s.HasOpts o) : (s.beginWalk g c va).HasOpts o := by
  unfold State.beginWalk
  split
  next m s1 e => exact ite h (h.mapped.out e).setGrove

theorem askBlock {n : Nat} {t : Thread} {va k : Nat} (h : s.HasOpts o) : (s.askBlock n t va k).HasOpts o := ite h h

theorem refill {n : Nat} {t : Thread} {va : Nat} (h : s.HasOpts o) : (s.refill n t va).2.HasOpts o := by
  unfold State.refill
  dsimp only
  refine ite_snd h (ite_snd h (ite_snd h.beginWalk ?_))
  have h1 : (s.translate (slotGrove n) t.ctx va).2.HasOpts o := h.translate
  split
  · exact h1
  · exact h1
  · refine ite_snd h1 (ite_snd h1 ?_)
    split
    · exact h1
    · refine ite_snd h1.askBlock ?_
      dsimp only
      exact h1.foldl fun _ _ h2 => h2.correct.detect

theorem getBlock {n : Nat} {t : Thread} {va : Nat} (h : s.HasOpts o) : (s.getBlock n t va).2.HasOpts o := by
  unfold State.getBlock
  split
  · exact h
  · exact h.refill

theorem fetch {m : Nat} {t : Thread} (h : s.HasOpts o) : (s.fetch m t).2.HasOpts o := by
  unfold State.fetch
  dsimp only
  split
  · exact h
  split
  case h_6 b s1 e =>
    have h1 := h.getBlock.out e
    split
    · exact h1
    split
    · split <;> exact h1
    split
    case h_6 e' => split <;> exact h1.getBlock.out e'
    all_goals next e' => exact h1.getBlock.out e'
  all_goals next e => exact h.getBlock.out e

end State.HasOpts

end Sys2Proof.Machine
end

section
/-!
PROOF. What a fetch gives where a held translation maps the block at the PC (06 R111, R113 to R117): the bytes that memory holds there,
from its home or from a copy that agrees with it.
-/
namespace Sys2Proof.Machine

/-! ## Bytes read one by one -/

theorem lane_readNum (s : State) (k n j : Nat) (h : j < n) : lane (s.readNum k n) 8 j = (s.byte (k + j)).toNat := by
  induction n generalizing k j with
  | zero => omega
  | succ n ih =>
    have hb : (s.byte k).toNat < 256 := (s.byte k).isLt
    cases j with
    | zero =>
      simp only [State.readNum, lane, Nat.mul_zero, Nat.pow_zero, Nat.div_one, Nat.add_zero]
      omega
    | succ j =>
      have hdiv : s.readNum k (n + 1) / 2 ^ (8 * 1) = s.readNum (k + 1) n := by
        simp only [State.readNum]
        omega
      rw [Nat.add_comm j 1, ← lane_div, hdiv, ih (k + 1) j (by omega), Nat.add_assoc]

theorem State.readBytes_eq_lanes (s : State) (k n : Nat) :
    ((List.range n).map fun j => BitVec.ofNat 8 (lane (s.readNum k n) 8 j)) = s.readBytes k n := by
  refine List.map_congr_left fun j hj => ?_
  rw [lane_readNum s k n j (List.mem_range.1 hj), BitVec.ofNat_toNat, BitVec.setWidth_eq]

theorem State.readBytes_words (s : State) (k : Nat) :
    ((List.range 8).flatMap fun j => s.readBytes (k + 8 * j) 8) = s.readBytes k 64 := rfl

theorem State.readBytes_slice (s : State) (k n off m : Nat) (h : off + m ≤ n) :
    ((s.readBytes k n).drop off).take m = s.readBytes (k + off) m := by
  refine List.ext_getElem (by simp [State.readBytes]; omega) fun i _ _ => ?_
  simp [State.readBytes, Nat.add_assoc]

/-! ## Corrections leave the bytes -/

@[simp] theorem State.correct_byte (s : State) (k j : Nat) : (s.correct k).byte j = s.byte j :=
  s.quiet_byte _ (s.correct_quiet k) j

@[simp] theorem State.detect_byte (s : State) (k j : Nat) : (s.detect k).byte j = s.byte j := by
  unfold State.detect
  split <;> rfl

theorem State.foldl_correct_detect_byte (s : State) (key j : Nat) (l : List Nat) :
    (l.foldl (fun s i => (s.correct (key + 8 * i)).detect (key + 8 * i)) s).byte j = s.byte j :=
  foldl_keeps (fun x : State => x.byte j = s.byte j) _ (fun x i h => by rw [State.detect_byte, State.correct_byte, h]) l s rfl

/-! ## Refills through a held translation -/

section
variable {s : State} {n va : Nat} {t : Thread} {y : Translation}

theorem State.translate_held {g c : Nat} (hy : tlbFind (s.grove g).tlb c va = some y) (hr : s.reaches y va = true) :
    s.translate g c va = (.page y, s) := by
  simp [State.translate, hy, State.within, hr]

/-- Nothing keeps the thread in slot `n` from a refill at `va` through the translation `y` that its grove holds. -/
structure State.Refills (s : State) (n : Nat) (t : Thread) (va : Nat) (y : Translation) : Prop where
  low : va < 2 ^ 57
  present : t.absent = none
  held : tlbFind (s.grove (slotGrove n)).tlb t.ctx va = some y
  reaches : s.reaches y va = true
  fetchable : fetchable y.leaf = true
  prompt : s.opts.late = false

theorem State.Refills.refill_copy (h : s.Refills n t va y) {r : Resident} {i : Nat}
    (hs : s.servedBy (slotGrove n) t.ctx va = some (r, i)) :
    s.refill n t va = (.block (s.copyBlock r i va (y.key va)).1, (s.copyBlock r i va (y.key va)).2) := by
  simp [-Nat.reducePow, State.refill, h.low.not_ge, h.present, State.mustWalk, h.held, State.translate_held h.held h.reaches,
    h.fetchable, h.prompt, hs]

theorem State.Refills.refill_home (h : s.Refills n t va y) (hs : s.servedBy (slotGrove n) t.ctx va = none)
    (hl : s.isLocal (y.key va) = true) :
    s.refill n t va = (.block (s.readBlock va (y.key va)),
      (List.range 8).foldl (fun s i => (s.correct (y.key va + 8 * i)).detect (y.key va + 8 * i)) s) := by
  simp [-Nat.reducePow, State.refill, h.low.not_ge, h.present, State.mustWalk, h.held, State.translate_held h.held h.reaches,
    h.fetchable, h.prompt, hs, hl]

/-- A refill gives the 64 bytes that memory holds from a key, without an error, and leaves the bytes of memory. -/
def State.RefillsFrom (s : State) (n : Nat) (t : Thread) (va key : Nat) : Prop :=
  ∃ b s', s.refill n t va = (.block b, s') ∧ b.bytes = s.readBytes key 64 ∧ b.bad = [] ∧ ∀ j, s'.byte j = s.byte j

theorem State.Refills.from_home (h : s.Refills n t va y) (hs : s.servedBy (slotGrove n) t.ctx va = none)
    (hl : s.isLocal (y.key va) = true) (hp : ∀ j, y.key va ≤ j → j < y.key va + 64 → s.poisoned j = false) :
    s.RefillsFrom n t va (y.key va) := by
  refine ⟨_, _, h.refill_home hs hl, rfl, ?_, fun j => s.foldl_correct_detect_byte _ j _⟩
  refine List.filter_eq_nil_iff.2 fun i hi => ?_
  have := List.mem_range.1 hi
  simp [hp (y.key va + 8 * i) (by omega) (by omega)]

/-- Words of a copy that agree with memory are not free, and the block from them is the one that memory holds. -/
theorem State.copyBlock_same {r : Resident} {i key : Nat}
    (hw : ∀ j, j < 8 → r.code[i + j]? = some (s.readNum (key + 8 * j) 8, false)) :
    (s.copyBlock r i va key).1 = { va, bytes := s.readBytes key 64, bad := [] } := by
  unfold State.copyBlock
  dsimp only
  rw [List.map_congr_left (g := fun j => (s.readNum (key + 8 * j) 8, false)) fun j hj => by simp [hw j (List.mem_range.1 hj)]]
  simp only [List.flatMap_map, State.readBytes_eq_lanes, State.readBytes_words]
  rfl

theorem State.Refills.from_copy (h : s.Refills n t va y) {r : Resident} {i : Nat}
    (hs : s.servedBy (slotGrove n) t.ctx va = some (r, i))
    (hw : ∀ j, j < 8 → r.code[i + j]? = some (s.readNum (y.key va + 8 * j) 8, false)) :
    s.RefillsFrom n t va (y.key va) :=
  ⟨_, _, h.refill_copy hs, by rw [State.copyBlock_same hw], by rw [State.copyBlock_same hw], fun _ => rfl⟩

end

/-! ## The instruction in a block -/

/-- An instruction that ends within the block of its PC is the bytes of the block from the PC on. -/
theorem State.fetch_of_refill {s : State} {m key : Nat} {t : Thread} (hpc : t.pc.toNat % 4 = 0) (hbuf : t.fbuf = [])
    (hr : s.RefillsFrom m t (t.pc.toNat / 64 * 64) key)
    (hlen : t.pc.toNat % 64 + lengthOf (s.byte (key + t.pc.toNat % 64 + 3)) ≤ 64) :
    ∃ buf s', s.fetch m t = (.bytes (s.readBytes (key + t.pc.toNat % 64) (lengthOf (s.byte (key + t.pc.toNat % 64 + 3)))) buf, s') ∧
      ∀ j, s'.byte j = s.byte j := by
  obtain ⟨b, s', hb, hbytes, hbad, hkeep⟩ := hr
  have hget : s.getBlock m t (t.pc.toNat / 64 * 64) = (.block b, s') := by
    simp [State.getBlock, hbuf, findBlock, hb]
  have hfirst : ((s.readBytes key 64).drop (t.pc.toNat % 64 + 3)).headD 0 = s.byte (key + t.pc.toNat % 64 + 3) := by
    simp [State.readBytes, show t.pc.toNat % 64 + 3 < 64 by omega, Nat.add_assoc]
  refine ⟨b :: (findBlock t.fbuf (t.pc.toNat / 64 * 64 + 64)).toList, s', ?_, hkeep⟩
  simp only [State.fetch, hpc, hget, CodeBlock.badIn, hbad, List.find?_nil, Option.map_none, hfirst, hlen, if_true, ne_eq,
    not_true_eq_false, if_false, CodeBlock.slice, hbytes, State.readBytes_slice _ _ _ _ _ hlen]

end Sys2Proof.Machine
end

section
/-!
PROOF. A step runs the decoded instruction (06 R111, 02 R27, R29): what a turn does with each result of its fetch, and which thread a
turn of a core goes to.
-/
namespace Sys2Proof.Machine

/-! ## Claims of the debugger (27 R423) -/

theorem State.breakAt_none {s : State} {t : Thread} (h : t.skipBp = true ∨ ∀ i, i < 8 → ¬ s.breakMatches t i) :
    s.breakAt t = none := by
  unfold State.breakAt
  split
  · rfl
  next hskip =>
    have hno := h.resolve_left hskip
    refine List.find?_eq_none.2 fun i hi hm => hno i (List.mem_range.1 hi) ?_
    simp only [bit, bits, Bool.and_eq_true, beq_iff_eq, Nat.pow_zero, Nat.div_one, Nat.pow_one] at hm
    obtain ⟨⟨hon, haddr⟩, hkey⟩ := hm
    simp only [State.breakMatches, List.getD_eq_getElem?_getD]
    refine ⟨hon, haddr.symm, ?_⟩
    split at hkey <;> simp_all

/-! ## A turn and its fetch -/

section
variable {s s3 : State} {m n : Nat} {lent : Bool} {late : State → Result} {t : Thread} {l : List Byte} {buf : List CodeBlock}

/-- The turn of slot `n` that the thread `t` in slot `m` takes is claimed by no debug stop and no breakpoint. -/
structure State.Unclaimed (s : State) (m : Nat) (t : Thread) : Prop where
  thread : s.thread m = some t
  noStop : t.debugStop = false
  noBreak : s.breakAt t = none

theorem State.Unclaimed.debugTurn (h : s.Unclaimed m t) : s.debugTurn m = none := by
  simp [State.debugTurn, h.thread, h.noStop, h.noBreak]

/-- With no lockstep pair and no error in a store, the instruction is executed in the machine as it issues. -/
theorem State.runInstr_plain {i : Instr} {s' : State} (hp : t.pair = false) (he : s.opts.ecc = 0)
    (hx : exec i (({ s with spent := 0 } : State).atIssue m t buf) = .next s') :
    s.runInstr m t buf i lent n = .next (State.afterIssue s s' m t i lent n) := by
  simp [State.runInstr, Thread.needsCheckpoint, hp, State.storeError, State.countEcc, he, hx]

section
variable (h : ({ s with cur := m } : State).Unclaimed m t)
include h

theorem State.Unclaimed.issueTurn_fault {c d a : Nat} (hf : ({ s with cur := m } : State).fetch m t = (.fault c d a, s3)) :
    s.issueTurn m lent n late = .next ((s3.stopThread m 3 c d 0 a).noteBubble n) := by
  have ht : s.thread m = some t := h.thread
  simp only [State.issueTurn, ht, h.debugTurn, hf]

theorem State.Unclaimed.issueTurn_bad {a : Nat} (hf : ({ s with cur := m } : State).fetch m t = (.bad a, s3)) :
    s.issueTurn m lent n late = .next ((s3.take m (.data 0 a (s3.ownCode m t a))).noteBubble n) := by
  have ht : s.thread m = some t := h.thread
  simp only [State.issueTurn, ht, h.debugTurn, hf]

section
variable (hf : ({ s with cur := m } : State).fetch m t = (.bytes l buf, s3))
include hf

theorem State.Unclaimed.issueTurn_illegal {c : Nat} (hd : decode l = .error (.cause c)) :
    s.issueTurn m lent n late = .next ((s3.stopThread m 1 c 0 0 0).noteBubble n) := by
  have ht : s.thread m = some t := h.thread
  simp only [State.issueTurn, ht, h.debugTurn, hf, hd]

theorem State.Unclaimed.issueTurn_long {i : Instr} (hd : decode l = .ok i) (hlent : lent = true) (hlong : isLong i = true) :
    s.issueTurn m lent n late = .next (s3.noteBubble n) := by
  have ht : s.thread m = some t := h.thread
  simp only [State.issueTurn, ht, h.debugTurn, hf, hd, hlent, hlong, Bool.and_self, if_true]

theorem State.Unclaimed.issueTurn_runs {i : Instr} {s' : State} (hd : decode l = .ok i) (hl : lent = false ∨ isLong i = false)
    (hp : t.pair = false) (he : s.opts.ecc = 0) (hx : exec i (({ s3 with spent := 0 } : State).atIssue m t buf) = .next s') :
    s.issueTurn m lent n late = .next (State.afterIssue s3 s' m t i lent n) := by
  have ht : s.thread m = some t := h.thread
  have h3 : s3.opts = s.opts := (State.HasOpts.fetch (s := { s with cur := m }) rfl).out hf
  have hshort : (lent && isLong i) = false := Bool.and_eq_false_iff.2 hl
  simp only [State.issueTurn, ht, h.debugTurn, hf, hd, hshort, Bool.false_eq_true, if_false]
  exact State.runInstr_plain hp (by rw [h3, he]) hx

end
end

end

/-! ## The turn of a core -/

section
variable {s : State} {x : Input} {r : List Input}

/-- The machine that has taken an input of its agenda, in which the input's time has passed. -/
def State.taking (s : State) (x : Input) (r : List Input) : State :=
  (x.hits.foldl State.hitWord { s with agenda := r, busy := x.busy }).elapse x.elapsed

theorem step_eq (h : s.agenda = x :: r) : step s = afterMove s ((s.taking x r).move x.move) := by
  simp only [step, State.nextInput, h, State.taking]

theorem State.coreTurn_taken {core : Nat} {o : TurnOpts} (h : s.cycle core < (s.core core).taken) : s.coreTurn core o = .next s := by
  simp only [State.coreTurn, h, if_true]

theorem State.coreTurn_due {core : Nat} {o : TurnOpts} (h : (s.core core).taken ≤ s.cycle core) :
    s.coreTurn core o =
      (s.setCore core { s.core core with taken := s.cycle core + 1 }).turn (core * 16 + s.cycle core % 16) o := by
  simp only [State.coreTurn, h.not_gt, if_false]
end

/-- Settles O58: the turn's slot is found, its fetch decides what becomes of it, and the choices of the turn stand at its issue. -/
theorem stepRunsInstruction : Obligations.StepRunsInstruction := by
  unfold Obligations.StepRunsInstruction
  intro s x r hs later
  have hstep : step s = afterMove s (later.move x.move) := step_eq hs
  constructor
  · intro core o hm c n s0 s1 runs
    have hcore : step s = afterMove s (later.coreTurn core o) := by rw [hstep, hm]; rfl
    have hopts : s1.opts = o := (State.HasOpts.finishOwn (State.HasOpts.finishOwn (s := s0) rfl))
    have hruns : ∀ m lent (s2 : State) late, step s = afterMove s (s2.issueTurn m lent n late) → (o.ecc = 0 → s2.opts.ecc = 0) →
        runs m lent { s2 with cur := m } := by
      intro m lent s2 late hturn hecc t ht hd he hb
      have hfree : ({ s2 with cur := m } : State).Unclaimed m t := ⟨ht, hd, State.breakAt_none hb⟩
      refine ⟨?bytes, ?fault, ?bad, ?fetched⟩
      case bytes =>
        intro l buf s3 hf
        refine ⟨?long, ?runs, ?illegal⟩
        case long =>
          intro i hi hl hlong
          rw [hturn, hfree.issueTurn_long hf hi hl hlong]
          rfl
        case runs =>
          intro i hi hl hp t' s' hx
          rw [hturn, hfree.issueTurn_runs hf hi hl hp (hecc he) hx]
          rfl
        case illegal =>
          intro c hc
          rw [hturn, hfree.issueTurn_illegal hf hc]
          rfl
      case fault =>
        intro c d a s3 hf
        rw [hturn, hfree.issueTurn_fault hf]
        rfl
      case bad =>
        intro a s3 hf
        rw [hturn, hfree.issueTurn_bad hf]
        rfl
      case fetched =>
        intro y h4 hbuf h57 hlate habs block off hy hr hx key len hlen hcode
        have hrefills : ({ s2 with cur := m } : State).Refills m t block y := ⟨by omega, habs, hy, hr, hx, hlate⟩
        refine State.fetch_of_refill h4 hbuf (key := key) ?_ hlen
        rcases hcode with ⟨hserved, hlocal, hgood⟩ | ⟨q, i, hserved, hwords⟩
        · exact hrefills.from_home hserved hlocal hgood
        · exact hrefills.from_copy hserved hwords
    have hdue : (later.core core).taken ≤ c →
        step s = afterMove s (if s1.ready n then s1.issueTurn n false n (State.lendTurn n) else s1.lendTurn n) := by
      intro hd
      rw [hcore, State.coreTurn_due hd]
      rfl
    refine ⟨?taken, ?bubble, ?own, ?lent⟩
    case taken =>
      intro ht
      rw [hcore, State.coreTurn_taken ht]
      rfl
    case bubble =>
      intro hd hr hb
      rw [hdue hd, hr, if_neg Bool.false_ne_true, State.lendTurn, hb]
      rfl
    case own =>
      intro hd hr
      exact hruns n false s1 (State.lendTurn n) (by rw [hdue hd, hr]; rfl) (fun he => by rw [hopts, he])
    case lent =>
      intro hd hr hb
      refine hruns (lender n) true { s1 with opts := { s1.opts with late := s1.opts.lateLent } } (fun s => .next (s.noteBubble n)) ?_
        (fun he => by rw [← he, ← hopts])
      rw [hdue hd, hr, if_neg Bool.false_ne_true, State.lendTurn, hb]
      rfl
  · intro i a hm hrow hev s' hx
    rw [hstep, hm, State.move, if_pos hev, hx]
    rfl

end Sys2Proof.Machine
end

section
/-!
PROOF. What `fence` and `wait` wait for (08 R175 to R177), and what a thread sends and receives (08 R188 to R190).
-/
namespace Sys2Proof.Machine

section
variable {s : State} {t : Thread} {e : Fields} {i : Instr}

/-! ## fence and wait -/

/-- Where no pending error lies in the scope, what follows goes on. -/
theorem State.orElsePending_none {scope : Nat} {k : State}
    (h : ∀ p ∈ t.pendErr, s.inScope (slotCore s.cur) scope p.key = false) : s.orElsePending t scope k = k := by
  have hfind : (t.pendErr.find? fun p => s.inScope (slotCore s.cur) scope p.key) = none :=
    List.find?_eq_none.2 fun p hp => by simp [h p hp]
  simp only [State.orElsePending, hfind]

theorem State.fenceOp_live (ht : s.thread s.cur = some t) (hl : t.live0 e.g = true)
    (hp : ∀ p ∈ t.pendErr, s.inScope (slotCore s.cur) e.scope p.key = false) :
    s.fenceOp e = .next (if t.rx.any fun r => s.inScope (slotCore s.cur) e.scope r.acc.key
      then s.put { t with wait := .drain e.scope false, reissue := true }
      else (s.dropFetches s.cur).put { t.next e with fbuf := [] }) := by
  unfold State.fenceOp
  rw [State.scalar_live s e _ t ht hl, State.orElsePending_none hp]
  rfl

theorem Thread.belowLimits_iff {l : Word32} : t.belowLimits l = true ↔
    t.ld ≤ l.toNat % 16 ∧ t.st ≤ l.toNat / 16 % 16 ∧ t.cp ≤ l.toNat / 256 % 256 ∧ t.tl ≤ l.toNat / 65536 % 256 := by
  simp only [Thread.belowLimits, Bool.and_eq_true, decide_eq_true_eq, and_assoc]
  simp [bits]

theorem waitTakes_eq_false_iff {p : PendingError} {l : Word32} :
    waitTakes p l = false ↔ 8 ≤ l.toNat / (if p.inSt then 16 else 1) % 16 := by
  cases h : p.inSt
  · simp [waitTakes, bits, h]
  · simp [waitTakes, bits, h]

theorem State.waitOp_live (ht : s.thread s.cur = some t) (hl : t.live0 e.g = true)
    (hp : ∀ p ∈ t.pendErr, waitTakes p e.imm = false) :
    s.waitOp e = .next (s.put (if t.belowLimits e.imm then t.next e else { t with wait := .counters e.imm, reissue := true })) := by
  have hfind : (t.pendErr.find? fun p => waitTakes p e.imm) = none := List.find?_eq_none.2 fun p hp' => by simp [hp p hp']
  unfold State.waitOp
  rw [State.scalar_live s e _ t ht hl]
  simp only [hfind]
  split
  · rfl
  · rfl

/-! ## Channels -/

/-- The integer source of R182 is what the instruction takes. -/
theorem Thread.intB_of_sourceB {n : Nat} (h : sourceB t e n) : t.intB e = some n := by
  unfold sourceB at h
  unfold Thread.intB
  split at h
  next hl => rw [if_pos hl, h]
  next hl =>
    obtain ⟨hc, htag, rfl⟩ := h
    have hint : (t.reg e.b).isInt = true := by
      simpa [QReg.isInt, hc, or_assoc] using htag
    rw [if_neg hl, if_pos hint, QReg.lo]

/-- With nothing outstanding or pending, an implicit release has nothing to wait for. -/
theorem State.release_idle {scope : Nat} {k : State} (hrx : t.rx = []) (hp : t.pendErr = []) : s.release t scope false k = k := by
  unfold State.release
  rw [State.orElsePending_none (by simp [hp])]
  simp [hrx]

/-- A live `send` whose word names a slot waits with its entry. -/
theorem State.sendOp_waits {word : Nat} (ht : s.thread s.cur = some t) (hl : t.live0 e.g = true) (hw : sourceB t e word)
    (h17 : word < 2 ^ 17) (hrx : t.rx = []) (hp : t.pendErr = [])
    (hcore : word / 2 ^ 16 = 1 ∨ ∃ core, Store.get none (s.ctx t.ctx).remap (word % 4096) = some core) :
    let core := if word / 2 ^ 16 = 1 then none else some (word % 4096)
    s.sendOp e = .next { s.put { t with wait := .send (t.reg e.a) core (word / 2 ^ 12 % 16) e } with
      sendWait := s.sendWait ++ [s.cur] } := by
  intro core
  have hself : bit word 16 = decide (word / 2 ^ 16 = 1) := by
    have hb : word / 2 ^ 16 % 2 = word / 2 ^ 16 := by omega
    rw [bit, hb]
    rfl
  have hmap : (!decide (word / 2 ^ 16 = 1) && (Store.get none (s.ctx t.ctx).remap (word % 4096)).isNone) = false := by
    rcases hcore with h | ⟨core, h⟩
    · rw [decide_eq_true h]; rfl
    · simp [h]
  unfold State.sendOp
  rw [State.scalar_live s e _ t ht hl, Thread.intB_of_sourceB hw]
  simp only [hself, Nat.div_eq_of_lt h17, ne_eq, not_true_eq_false, if_false, hmap, Bool.false_eq_true, State.release_idle hrx hp,
    decide_eq_true_eq]
  rfl

theorem State.takeEntry_cons {n : Nat} {d : BitVec 5} {v : Entry} {r : List Entry} (h : (s.slot n).chan = v :: r) :
    s.takeEntry n t d = some (t.setReg d v, s.setSlot n { s.slot n with chan := r }) := by
  simp only [State.takeEntry, h]

theorem State.takeEntry_nil {n : Nat} {d : BitVec 5} (h : (s.slot n).chan = []) : s.takeEntry n t d = none := by
  simp only [State.takeEntry, h]

/-- Where no entry of the thread has been spilled, nothing moves up. -/
theorem State.redeliver_idle {n f : Nat} (ht : s.thread n = some t) (hs : s.hasSpill t.ctx (slotDie n) t.gtid = false) :
    s.redeliver n f = s := by
  have hfind : ((Store.get [] (s.ctx t.ctx).spill (slotDie n)).find? fun v => v.gtid == t.gtid) = none := by
    rw [List.find?_eq_none]
    exact fun v hv => by simpa using List.any_eq_false.1 hs v hv
  cases f with
  | zero => rfl
  | succ f => simp only [State.redeliver, ht, hfind]

/-- A thread that has taken an entry and spilled none stands with the rest of its channel. -/
theorem State.redeliver_taken {u : Thread} {r : List Entry} {f : Nat} (hu : s.hasSpill u.ctx (slotDie s.cur) u.gtid = false) :
    (((s.setSlot s.cur { s.slot s.cur with chan := r }).put u).redeliver s.cur f) =
      (s.setSlot s.cur { s.slot s.cur with chan := r }).put u :=
  State.redeliver_idle (State.setThread_thread _ _ _) hu

theorem State.taken_slot {u : Thread} {x : Slot} (hx : x ≠ Slot.empty) :
    ((s.setSlot s.cur x).put u).slot s.cur = { x with thread := some u } := by
  have h : ((s.setSlot s.cur x).put u).slot s.cur = { (s.setSlot s.cur x).slot s.cur with thread := some u } :=
    State.put_slot (s.setSlot s.cur x) u
  rw [h, State.setSlot_slot_ne _ _ _ hx]

end

/-- Settles O23: no pending error is taken, and what is outstanding decides between passing and waiting. -/
theorem fencesAndWaits : Obligations.FencesAndWaits := by
  unfold Obligations.FencesAndWaits
  intro i e s t ht hl
  constructor
  · rintro (rfl | rfl) hp
    · exact State.fenceOp_live ht hl hp
    · exact State.fenceOp_live ht hl hp
  · intro hi hp
    have hexec : exec i s = s.waitOp e := by
      rcases hi with rfl | rfl
      · rfl
      · rfl
    rw [hexec, State.waitOp_live ht hl fun p hp' => waitTakes_eq_false_iff.2 (hp p hp')]
    simp only [Thread.belowLimits_iff]

/-- Settles O30: a send waits with its entry, and a receiver takes the head of its channel. -/
theorem channels : Obligations.Channels := by
  unfold Obligations.Channels
  intro e s t ht hl
  refine ⟨?send, ?taken, ?empty⟩
  case send =>
    intro i word hi hw h17 hrx hp hcore
    have hexec : exec i s = s.sendOp e := by
      rcases hi with rfl | rfl
      · rfl
      · rfl
    rw [hexec, State.sendOp_waits ht hl hw h17 hrx hp hcore]
    exact ⟨_, rfl, rfl, rfl, State.put_thread s _⟩
  case taken =>
    intro v r hc hs
    have hne : ({ s.slot s.cur with chan := r } : Slot) ≠ Slot.empty := fun h => by
      have hthread : (s.slot s.cur).thread = none := congrArg Slot.thread h
      rw [show (s.slot s.cur).thread = some t from ht] at hthread
      cases hthread
    constructor
    · refine ⟨(s.setSlot s.cur { s.slot s.cur with chan := r }).put ((t.setReg e.d v).next e), ?_, ?_, State.put_thread _ _⟩
      · show execRecv e s = _
        unfold execRecv
        rw [State.scalar_live s e _ t ht hl, State.takeEntry_cons hc]
        exact congrArg _ (State.redeliver_taken (u := (t.setReg e.d v).next e) hs)
      · rw [State.taken_slot hne]
    · refine ⟨(s.setSlot s.cur { s.slot s.cur with chan := r }).put (((t.setReg e.d v).setPair e.a.toNat 16 true).next e), ?_, ?_,
        State.put_thread _ _⟩
      · show execRecvTry e s = _
        unfold execRecvTry
        rw [State.scalar_live s e _ t ht hl, State.takeEntry_cons hc]
        exact congrArg _ (State.redeliver_taken (u := ((t.setReg e.d v).setPair e.a.toNat 16 true).next e) hs)
      · rw [State.taken_slot hne]
  case empty =>
    intro hc
    constructor
    · show execRecv e s = _
      unfold execRecv
      rw [State.scalar_live s e _ t ht hl, State.takeEntry_nil hc]
    · show execRecvTry e s = _
      unfold execRecvTry
      rw [State.scalar_live s e _ t ht hl, State.takeEntry_nil hc]

end Sys2Proof.Machine
end

section
/-!
PROOF. What the derivations and inspections of capabilities give (08 R183 to R187, 04 R70 to R72).
-/
namespace Sys2Proof.Machine

/-! ## The fields of a capability (04 R70) -/

theorem capHigh_lt (b : Word128) : capHigh b < 2 ^ 64 := by
  have := b.isLt
  unfold capHigh
  omega

theorem capCursor_lt (b : Word128) : capCursor b < 2 ^ 64 := Nat.mod_lt _ (by decide)

theorem capPerms_lt (b : Word128) : capPerms b < 2 ^ 10 := Nat.mod_lt _ (by decide)

theorem capBase_lt (b : Word128) : capBase b < 2 ^ 64 := by
  unfold capBase wrap
  omega

@[simp] theorem capCursor_setHigh (b : Word128) (h : Nat) : capCursor (setHigh b h) = capCursor b := by
  have := capCursor_lt b
  unfold setHigh
  rw [capCursor, BitVec.toNat_ofNat]
  omega

@[simp] theorem capHigh_setHigh (b : Word128) (h : Nat) : capHigh (setHigh b h) = h % 2 ^ 64 := by
  have := capCursor_lt b
  unfold setHigh
  rw [capHigh, BitVec.toNat_ofNat]
  omega

/-- A capability of KIND memory or execute is not sealed. -/
theorem not_sealed_of_isMem {r : QReg} (h : r.isMem = true) : (r.cap && capKind r.bits == kindSealed) = false := by
  simp only [QReg.isMem, Bool.and_eq_true, Bool.or_eq_true, beq_iff_eq] at h
  obtain ⟨-, hk | hk⟩ := h
  · simp [hk, kindMemory, kindSealed]
  · simp [hk, kindExecute, kindSealed]

theorem cap_of_isMem {r : QReg} (h : r.isMem = true) : r.cap = true := by
  simp only [QReg.isMem, Bool.and_eq_true] at h
  exact h.1

/-! ## Bounds (R183) -/

/-- The bounds from `b` to `t`, rounded to units of `2 ^ e`, are no longer than the units reach. -/
def BoundsFit (b t e : Nat) : Prop := (t + 2 ^ e - 1) / 2 ^ e * 2 ^ e - b / 2 ^ e * 2 ^ e ≤ 2 ^ (e + 20)

/-- Where some exponent within the fuel fits, the search gives the least from its start that does. -/
theorem leastE_least (b t j : Nat) (hj : BoundsFit b t j) : ∀ f e, e ≤ j → j < e + f →
    BoundsFit b t (leastE b t f e) ∧ ∀ i, e ≤ i → i < leastE b t f e → ¬ BoundsFit b t i := by
  intro f
  induction f with
  | zero => intro e h1 h2; omega
  | succ f ih =>
    intro e h1 h2
    by_cases he : BoundsFit b t e
    · rw [show leastE b t (f + 1) e = e from if_pos he]
      exact ⟨he, fun i hi1 hi2 => by omega⟩
    · rw [show leastE b t (f + 1) e = leastE b t f (e + 1) from if_neg he]
      have hne : e ≠ j := fun h => he (h ▸ hj)
      obtain ⟨hfit, hleast⟩ := ih (e + 1) (by omega) (by omega)
      refine ⟨hfit, fun i hi1 hi2 => ?_⟩
      rcases Nat.eq_or_lt_of_le hi1 with rfl | hi
      · exact he
      · exact hleast i hi hi2

theorem roundUp_sub_roundDown_lt (b n u : Nat) (hu : 0 < u) : (b + n + u - 1) / u * u - b / u * u < n + 2 * u := by
  have hup := Nat.div_mul_le_self (b + n + u - 1) u
  have hdown := Nat.lt_div_mul_add (a := b) hu
  omega

/-- Exponent 45 holds every length below 2^64. -/
theorem boundsFit_45 (b n : Nat) (hn : n < 2 ^ 64) : BoundsFit b (b + n) 45 := by
  have hroom : n + 2 * 2 ^ 45 ≤ 2 ^ (45 + 20) := by omega
  exact le_trans (roundUp_sub_roundDown_lt b n (2 ^ 45) (Nat.two_pow_pos 45)).le hroom

/-- The high half keeps what stands above E. -/
theorem mkCap_fields (b : Word128) (e bf tf c : Nat) : mkCap (capPerms b) (capSpace b) (capKind b) e bf tf c =
    BitVec.ofNat 128 ((capHigh b / 2 ^ 48 * 2 ^ 48 + e * 2 ^ 42 + bf * 2 ^ 21 + tf) * 2 ^ 64 + c) := by
  have h := capHigh_lt b
  have habove : capPerms b * 2 ^ 54 + capSpace b * 2 ^ 51 + capKind b * 2 ^ 48 = capHigh b / 2 ^ 48 * 2 ^ 48 := by
    simp only [capPerms, capSpace, capKind, bits]
    omega
  rw [mkCap, habove]

theorem capSetBounds_eq {r : QReg} {n k : Nat} {exact : Bool} (hcap : r.cap = true)
    (hk : leastE (capCursor r.bits) (capCursor r.bits + n) 46 0 = k) :
    let b := capCursor r.bits
    let low := b / 2 ^ k * 2 ^ k
    let high := (b + n + 2 ^ k - 1) / 2 ^ k * 2 ^ k
    capSetBounds r n exact =
      if k ≤ 37 ∧ b + n ≤ 2 ^ 64 ∧ capBase r.bits ≤ low ∧ high ≤ capTop r.bits ∧ (exact = true → low = b ∧ high = b + n)
      then ⟨BitVec.ofNat 128 ((capHigh r.bits / 2 ^ 48 * 2 ^ 48 + k * 2 ^ 42 + low / 2 ^ k % 2 ^ 21 * 2 ^ 21 + high / 2 ^ k % 2 ^ 21)
        * 2 ^ 64 + b), true, r.tag⟩
      else ⟨r.bits, false, 0⟩ := by
  intro b low high
  unfold capSetBounds
  simp only [hk, mkCap_fields, hcap]
  refine ite_congr (propext ?_) (fun _ => rfl) fun _ => rfl
  cases exact
  · simp [b, low, high, and_assoc]
  · simp [b, low, high, and_assoc]

/-! ## Derivations (R182 to R184) -/

section
variable {s : State} {t : Thread} {e : Fields} {n : Nat}

/-- A derivation of a memory or execute capability by an integer completes. -/
theorem State.deriveOp_live {f : QReg → Nat → QReg} (ht : s.thread s.cur = some t) (hl : t.live0 e.g = true)
    (hn : sourceB t e n) (hm : (t.reg e.a).isMem = true) :
    s.deriveOp e f = .next (s.put ((t.setReg e.d (f (t.reg e.a) n)).next e)) := by
  unfold State.deriveOp
  rw [State.scalar_live s e _ t ht hl, Thread.intB_of_sourceB hn]
  simp only [not_sealed_of_isMem hm, hm, Bool.false_eq_true, if_false, Bool.not_true]
  rfl

theorem sourceB_lt (h : sourceB t e n) : n < 2 ^ 64 := by
  unfold sourceB at h
  split at h
  · rw [h]; exact e.lit.isLt
  · obtain ⟨-, -, rfl⟩ := h; exact Nat.mod_lt _ (by decide)
end

theorem capMask_eq {r : QReg} (hcap : r.cap = true) (n : Nat) : capMask r n =
    ⟨BitVec.ofNat 128 (((capPerms r.bits &&& n % 1024) * 2 ^ 54 + capHigh r.bits % 2 ^ 54) * 2 ^ 64 + capCursor r.bits), true, r.tag⟩ := by
  have hp : capPerms r.bits &&& n % 1024 ≤ n % 1024 := Nat.and_le_right
  unfold capMask setHigh
  rw [hcap, Nat.mod_eq_of_lt (by omega : (capPerms r.bits &&& n % 1024) * 2 ^ 54 + capHigh r.bits % 2 ^ 54 < 2 ^ 64)]

/-- The window of R72, without signs. -/
theorem inWindow_iff (b : Word128) (c : Nat) :
    inWindow b c = true ↔ capBase b ≤ c + 2 ^ (capE b + 19) ∧ c < capTop b + 2 ^ (capE b + 19) := by
  have hcast : ((2 ^ (capE b + 19) : Nat) : Int) = 2 ^ (capE b + 19) := by push_cast; rfl
  simp only [inWindow, ← hcast, Bool.and_eq_true, decide_eq_true_eq]
  omega

theorem capMove_eq {r : QReg} (hcap : r.cap = true) (n : Nat) :
    let c := (capCursor r.bits + n) % 2 ^ 64
    let stays := capBase r.bits ≤ c + 2 ^ (capE r.bits + 19) ∧ c < capTop r.bits + 2 ^ (capE r.bits + 19)
    capMove r n = ⟨BitVec.ofNat 128 (capHigh r.bits * 2 ^ 64 + c), decide stays, if stays then r.tag else 0⟩ := by
  intro c stays
  have hc : wrap 64 ((r.lo : Int) + n) = c := by
    simp only [wrap, QReg.lo, c, capCursor]
    omega
  have hlt : c % 2 ^ 64 = c := Nat.mod_mod _ _
  unfold capMove moveCursor setCursor
  rw [hc, hlt, if_pos hcap]
  by_cases h : stays
  · rw [if_pos ((inWindow_iff _ _).2 h), hcap, decide_eq_true h, if_pos h]
  · rw [if_neg (mt (inWindow_iff _ _).1 h), decide_eq_false h, if_neg h]

/-! ## Fields and tests (R185, R186) -/

theorem wrap64_eq (v : Int) : wrap 64 v = (v % 2 ^ 64).toNat := by
  unfold wrap
  push_cast
  rfl

/-- The fields that `cget` names, in their order. -/
def capFields (b : Word128) : List Nat :=
  [capBase b, capTop b % 2 ^ 64, (capTop b - capBase b) % 2 ^ 64, ((capCursor b - capBase b : Int) % 2 ^ 64).toNat, capPerms b,
    capSpace b, capKind b, capE b, capCursor b]

theorem capFields_lt (b : Word128) : ∀ v ∈ capFields b, v < 2 ^ 64 := by
  have hbits : ∀ hi lo, hi + 1 - lo ≤ 64 → bits (capHigh b) hi lo < 2 ^ 64 := fun hi lo h =>
    Nat.lt_of_lt_of_le (Nat.mod_lt _ (Nat.two_pow_pos _)) (Nat.pow_le_pow_right (by decide) h)
  have hoff : ((capCursor b - capBase b : Int) % 2 ^ 64).toNat < 2 ^ 64 := by omega
  simp only [capFields, List.forall_mem_cons]
  exact ⟨capBase_lt b, Nat.mod_lt _ (by decide), Nat.mod_lt _ (by decide), hoff, hbits 63 54 (by decide), hbits 53 51 (by decide),
    hbits 50 48 (by decide), hbits 47 42 (by decide), capCursor_lt b, nofun⟩

theorem capField_of_data {r : QReg} (h : r.cap = false) (f : Nat) : capField r f = 0 := if_pos (by rw [h]; rfl)

theorem capField_of_cap {r : QReg} {f v : Nat} (h : r.cap = true) (hv : (capFields r.bits)[f]? = some v) : capField r f = v := by
  refine (if_neg (by rw [h]; decide)).trans ?_
  split
  case h_4 => exact (wrap64_eq _).trans (Option.some.inj hv)
  case h_9 h0 h1 h2 h3 h4 h5 h6 h7 =>
    obtain ⟨hlen, -⟩ := List.getElem?_eq_some_iff.1 hv
    have hlast : f < 9 := hlen
    simp only [imp_false] at h0 h1 h2 h3 h4 h5 h6 h7
    obtain rfl : f = 8 := by omega
    exact Option.some.inj hv
  all_goals exact Option.some.inj hv

section
variable {s : State} {t : Thread} {e : Fields}

theorem Thread.setPair_pred_even {d k : Nat} {v : Bool} (hd : d % 2 = 0) (hk : k / 2 = d / 2) (he : k % 2 = 0) (w : Nat) :
    (t.setPair d w v).pred k = if v then t.pred k ||| BitVec.ofNat 32 (2 ^ w - 1) else t.pred k &&& ~~~BitVec.ofNat 32 (2 ^ w - 1) := by
  obtain rfl : k = d := by omega
  unfold Thread.setPair
  rw [Thread.setPred_pred_other _ _ _ _ (by omega), Thread.setPred_pred]

theorem Thread.setPair_pred_odd {d k : Nat} {v : Bool} (hd : d % 2 = 0) (hk : k / 2 = d / 2) (ho : k % 2 ≠ 0) (w : Nat) :
    (t.setPair d w v).pred k = if v then t.pred k &&& ~~~BitVec.ofNat 32 (2 ^ w - 1) else t.pred k ||| BitVec.ofNat 32 (2 ^ w - 1) := by
  obtain rfl : k = d + 1 := by omega
  unfold Thread.setPair
  rw [Thread.setPred_pred]
  cases v <;> rfl

theorem Thread.setPair_pred_other {d k w : Nat} {v : Bool} (hd : d < 8) (he : d % 2 = 0) (hk : k < 8) (h : k / 2 ≠ d / 2) :
    (t.setPair d w v).pred k = t.pred k := by
  unfold Thread.setPair
  rw [Thread.setPred_pred_other _ _ _ _ (by omega), Thread.setPred_pred_other _ _ _ _ (by omega)]

/-- Bit `j` of a predicate with its low 16 bits set or cleared. -/
theorem getLsbD_low16 (p : Word32) (v : Bool) {j : Nat} (hj : j < 32) :
    (if v then p ||| BitVec.ofNat 32 (2 ^ 16 - 1) else p &&& ~~~BitVec.ofNat 32 (2 ^ 16 - 1)).getLsbD j =
      if j < 16 then v else p.getLsbD j := by
  have hm : (BitVec.ofNat 32 (2 ^ 16 - 1)).getLsbD j = decide (j < 16) := by
    rw [BitVec.getLsbD_ofNat, Nat.testBit_two_pow_sub_one]
    simp [hj]
  cases v
  · simp only [Bool.false_eq_true, if_false, BitVec.getLsbD_and, BitVec.getLsbD_not, hm, hj]
    by_cases h : j < 16
    · simp [h]
    · simp [h]
  · simp only [if_true, BitVec.getLsbD_or, hm]
    by_cases h : j < 16
    · simp [h]
    · simp [h]

/-- A pair written by a test: bits 15:0 of its members, and nothing else. -/
theorem Thread.setPair_predsWritten (t : Thread) (e : Fields) {d : Nat} (hd : d < 8) (he : d % 2 = 0) (v : Bool) :
    t.predsWritten ((t.setPair d 16 v).next e) e
      fun k j => if j < 16 ∧ k / 2 = d / 2 then some (if k % 2 = 0 then v else !v) else none := by
  refine ⟨rfl, rfl, rfl, rfl, fun k hk j hj => ?_⟩
  show ((t.setPair d 16 v).pred k).getLsbD j = _
  by_cases hpair : k / 2 = d / 2
  · by_cases heven : k % 2 = 0
    · rw [Thread.setPair_pred_even he hpair heven, getLsbD_low16 _ _ hj]
      by_cases h16 : j < 16
      · simp [h16, hpair, heven]
      · simp [h16]
    · rw [Thread.setPair_pred_odd he hpair heven]
      have hflip := getLsbD_low16 (t.pred k) (!v) hj
      by_cases h16 : j < 16
      · cases v <;> simpa [h16, hpair, heven] using hflip
      · cases v <;> simpa [h16] using hflip
  · rw [Thread.setPair_pred_other hd he hk hpair]
    simp [hpair]

/-! ## Sealing (R187) -/

theorem capHigh_setKind (b : Word128) {k : Nat} (hk : k < 8) (px : Bool) :
    capHigh (setKind b k px) = (if px then capPerms b - (capPerms b &&& permPX) else capPerms b) * 2 ^ 54 + capSpace b * 2 ^ 51 +
      k * 2 ^ 48 + capHigh b % 2 ^ 48 := by
  have hp := capPerms_lt b
  have hs : capSpace b < 8 := Nat.mod_lt _ (by decide)
  have hq : (if px then capPerms b - (capPerms b &&& permPX) else capPerms b) < 2 ^ 10 := by
    split
    · omega
    · exact hp
  unfold setKind
  simp only [capHigh_setHigh]
  generalize (if px then capPerms b - (capPerms b &&& permPX) else capPerms b) = perms at hq ⊢
  rw [Nat.mod_eq_of_lt]
  · rfl
  · simp only [capSpace] at hs
    omega

/-- What another KIND keeps and changes. -/
theorem setKind_fields (b : Word128) {k : Nat} (hk : k < 8) (px : Bool) :
    capCursor (setKind b k px) = capCursor b ∧ capHigh (setKind b k px) % 2 ^ 48 = capHigh b % 2 ^ 48 ∧
    capSpace (setKind b k px) = capSpace b ∧ capKind (setKind b k px) = k ∧
    capPerms (setKind b k px) = if px then capPerms b - (capPerms b &&& permPX) else capPerms b := by
  have hp := capPerms_lt b
  have hs : capSpace b < 8 := Nat.mod_lt _ (by decide)
  have hq : (if px then capPerms b - (capPerms b &&& permPX) else capPerms b) < 2 ^ 10 := by
    split
    · omega
    · exact hp
  have hh := capHigh_setKind b hk px
  generalize (if px then capPerms b - (capPerms b &&& permPX) else capPerms b) = perms at hq hh ⊢
  refine ⟨capCursor_setHigh _ _, ?_, ?_, ?_, ?_⟩
  · rw [hh]; omega
  · rw [capSpace, hh, bits]; omega
  · rw [capKind, hh, bits]; omega
  · rw [capPerms, hh, bits]; omega

theorem authority_cap {a b : QReg} {perm : Nat} (h : authority b a perm = true) : b.cap = true := by
  simp only [authority, Bool.and_eq_true] at h
  exact h.1.1.1.1

theorem State.csealOp_live (ht : s.thread s.cur = some t) (hl : t.live0 e.g = true)
    (hauth : authority (t.reg e.b) (t.reg e.a) permPSEAL = true) (hm : (t.reg e.a).isMem = true) :
    s.csealOp e = .next (s.put ((t.setReg e.d { t.reg e.a with
      bits := setKind (t.reg e.a).bits kindSealed (capKind (t.reg e.a).bits == kindMemory) }).next e)) := by
  unfold State.csealOp
  rw [State.scalar_live s e _ t ht hl]
  simp only [authority_cap hauth, not_sealed_of_isMem hm, hm, hauth, Bool.not_true, Bool.false_eq_true, if_false]
  rfl

theorem State.cunsealOp_live (ht : s.thread s.cur = some t) (hl : t.live0 e.g = true)
    (hauth : authority (t.reg e.b) (t.reg e.a) permPUNS = true) (hc : (t.reg e.a).cap = true)
    (hk : capKind (t.reg e.a).bits = kindSealed) :
    s.cunsealOp e = .next (s.put ((t.setReg e.d { t.reg e.a with
      bits := setKind (t.reg e.a).bits (if capPerms (t.reg e.a).bits &&& permPX = 0 then kindMemory else kindExecute) false }).next e)) := by
  unfold State.cunsealOp
  rw [State.scalar_live s e _ t ht hl]
  simp only [authority_cap hauth, hc, hk, hauth, beq_self_eq_true, Bool.and_self, Bool.not_true, Bool.or_self, Bool.false_eq_true, if_false]
  rfl

/-- A `ctest.fit` of an integer whose fields are in their places writes the pair. -/
theorem State.ctestFit_live (ht : s.thread s.cur = some t) (hl : t.live0 e.g = true) (hint : (t.reg e.b).isInt = true)
    (hlo : (t.reg e.b).lo < 2 ^ 42) : execCtestFit e s = .next (s.put ((t.setPair e.d.toNat 16
      (capFits (t.reg e.a) ((t.reg e.b).lo % 2 ^ 32) ((t.reg e.b).lo / 2 ^ 32))).next e)) := by
  have hperm : (t.reg e.b).lo / 2 ^ 32 % 1024 = (t.reg e.b).lo / 2 ^ 32 := by omega
  have hhigh : (t.reg e.b).lo / 2 ^ 42 = 0 := Nat.div_eq_of_lt hlo
  unfold execCtestFit
  rw [State.scalar_live s e _ t ht hl]
  simp only [hint, hhigh, hperm, Bool.not_true, ne_eq, not_true_eq_false, decide_false, Bool.or_self, Bool.false_eq_true, if_false]

end

/-- Settles O28: each derivation is one function of the capability, in the spec's arithmetic. -/
theorem capabilityDerivation : Obligations.CapabilityDerivation := by
  unfold Obligations.CapabilityDerivation
  intro e s t n ht hl hn hm r b low high fits moved
  have hcap : r.cap = true := cap_of_isMem hm
  have hfits : ∀ k, fits k ↔ BoundsFit b (b + n) k := fun k => by
    simp only [fits, high, low, BoundsFit, Nat.add_sub_assoc (Nat.two_pow_pos k)]
  refine ⟨?cset, ?cperm, ?cinc⟩
  case cset =>
    intro i hi
    have hexec : exec i s = s.deriveOp e fun r n => capSetBounds r n (e.xop == 1) := by
      rcases hi with rfl | rfl
      · rfl
      · rfl
    obtain ⟨hfit, hleast⟩ := leastE_least b (b + n) 45 (boundsFit_45 b n (sourceB_lt hn)) 46 0 (by omega) (by omega)
    refine ⟨leastE b (b + n) 46 0, (hfits _).2 hfit, fun j hj => mt (hfits j).1 (hleast j (by omega) hj), ?_⟩
    rw [hexec, State.deriveOp_live ht hl hn hm, capSetBounds_eq hcap rfl]
    simp only [high, low, b, r, beq_iff_eq, Nat.add_sub_assoc (Nat.two_pow_pos _)]
  case cperm =>
    intro i hi
    have hexec : exec i s = s.deriveOp e capMask := by
      rcases hi with rfl | rfl
      · rfl
      · rfl
    rw [hexec, State.deriveOp_live ht hl hn hm, capMask_eq hcap]
  case cinc =>
    intro i hi
    have hexec : exec i s = s.deriveOp e capMove := by
      rcases hi with rfl | rfl
      · rfl
      · rfl
    rw [hexec, State.deriveOp_live ht hl hn hm, capMove_eq hcap]

theorem exec_cgetRow {i : Instr} {e : Fields} (s : State) (h : cgetRow i = some e) : exec i s = s.cgetOp e := by
  cases i with
  | cget | cgetX => cases h; rfl
  | _ => cases h

theorem exec_csealRow {i : Instr} {e : Fields} {seal_ : Bool} (s : State) (h : csealRow i = some (e, seal_)) :
    exec i s = if seal_ then s.csealOp e else s.cunsealOp e := by
  cases i with
  | cseal | csealX | cunseal | cunsealX => cases h; rfl
  | _ => cases h

/-- Settles O29: fields and tests as they are read, and a KIND that changes alone. -/
theorem capabilityInspection : Obligations.CapabilityInspection := by
  unfold Obligations.CapabilityInspection
  intro e s t ht hl r fields
  refine ⟨?cget, ?ctest, ?ctestFit, ?sealed⟩
  case cget =>
    intro i v hi hv
    rw [exec_cgetRow s hi, State.cgetOp, State.scalar_live s e _ t ht hl]
    cases hc : r.cap
    case false => rw [capField_of_data hc]; rfl
    case true =>
      have hlt : v < 2 ^ 64 := capFields_lt r.bits v (List.mem_of_getElem? hv)
      rw [capField_of_cap hc hv, State.finish, data64, Nat.mod_eq_of_lt hlt]
      rfl
  case ctest =>
    intro h8 heven
    refine ⟨(t.setPair e.d.toNat 16 (r.cap && capKind r.bits != 4)).next e, ?_, Thread.setPair_predsWritten t e h8 heven _⟩
    show execCtest e s = _
    unfold execCtest
    rw [State.scalar_live s e _ t ht hl]
    rfl
  case ctestFit =>
    intro h8 heven hint hlo
    exact ⟨_, State.ctestFit_live ht hl hint hlo, Thread.setPair_predsWritten t e h8 heven _⟩
  case sealed =>
    intro i seal_ hi hauth hkind
    rw [exec_csealRow s hi]
    cases seal_
    case true =>
      have hm : (t.reg e.a).isMem = true := hkind
      obtain ⟨hc, hh, hs, hk, hp⟩ := setKind_fields r.bits (k := kindSealed) (by decide) (capKind r.bits == kindMemory)
      have hcap : (t.reg e.a).cap = true := cap_of_isMem hm
      exact ⟨_, State.csealOp_live ht hl hauth hm, hcap, rfl, hc, hh, hs, hk, hp⟩
    case false =>
      have hc : (t.reg e.a).cap = true ∧ capKind (t.reg e.a).bits = kindSealed := hkind
      obtain ⟨hcur, hh, hs, hk, hp⟩ := setKind_fields r.bits
        (k := if capPerms r.bits &&& permPX = 0 then kindMemory else kindExecute) (by split <;> decide) false
      exact ⟨_, State.cunsealOp_live ht hl hauth hc.1 hc.2, hc.1, rfl, hcur, hh, hs, hk, hp⟩

end Sys2Proof.Machine
end

section
/-!
PROOF. How the address of an operand is formed and translated (04 R71, 22 R362 to R367), and what that leaves of the machine.
-/
namespace Sys2Proof.Machine

/-! ## What looking up, reading and spending leave -/

/-- Between `s` and `s'` only single-bit errors and their counts, the energy of the issue, the groves and the count of free values
differ, and memory keeps its canonical form. -/
structure State.Calm (s s' : State) : Prop where
  same : s' = { s with mem := { s.mem with single := s'.mem.single }, ras := s'.ras, spent := s'.spent, groves := s'.groves, fresh := s'.fresh }
  wf : s.mem.wf = true → s'.mem.wf = true

namespace State.Calm
variable {s s' s'' : State}

theorem refl (s : State) : s.Calm s := ⟨rfl, id⟩

theorem trans (h : s.Calm s') (h' : s'.Calm s'') : s.Calm s'' := ⟨by rw [h'.same, h.same], h'.wf ∘ h.wf⟩

theorem byte (h : s.Calm s') (k : Nat) : s'.byte k = s.byte k := by rw [h.same]; rfl
theorem isFull (h : s.Calm s') (k : Nat) : s'.isFull k = s.isFull k := by rw [h.same]; rfl
theorem hasTag (h : s.Calm s') (k : Nat) : s'.hasTag k = s.hasTag k := by rw [h.same]; rfl
theorem isTagByte (h : s.Calm s') (k j : Nat) : s'.isTagByte k j = s.isTagByte k j := by rw [h.same]; rfl
theorem badWord (h : s.Calm s') (a : Access) (p : Bool) : s'.badWord a p = s.badWord a p := by rw [h.same]; rfl
theorem slots (h : s.Calm s') : s'.slots = s.slots := by rw [h.same]
theorem cur (h : s.Calm s') : s'.cur = s.cur := by rw [h.same]
theorem opts (h : s.Calm s') : s'.opts = s.opts := by rw [h.same]
theorem feWait (h : s.Calm s') : s'.feWait = s.feWait := by rw [h.same]
theorem reaches (h : s.Calm s') (x : Translation) (va : Nat) : s'.reaches x va = s.reaches x va := by rw [h.same]; rfl
theorem inCore (h : s.Calm s') (c k : Nat) : s'.inCore c k = s.inCore c k := by rw [h.same]; rfl
theorem isLocal (h : s.Calm s') (k : Nat) : s'.isLocal k = s.isLocal k := by rw [h.same]; rfl

theorem readNum (h : s.Calm s') (k n : Nat) : s'.readNum k n = s.readNum k n := State.readNum_congr _ _ _ _ fun j _ _ => h.byte j

theorem correct (s : State) (k : Nat) : s.Calm (s.correct k) := ⟨by unfold State.correct; split <;> rfl, State.correct_wf s k⟩

theorem foldl {β : Type} {f : State → β → State} (hf : ∀ (s : State) (b : β), s.Calm (f s b)) (l : List β) (s : State) :
    s.Calm (l.foldl f s) :=
  foldl_keeps s.Calm f (fun x b h => h.trans (hf x b)) l s (.refl s)

theorem readAccess (s : State) (a : Access) : s.Calm (s.readAccess a).1 :=
  foldl (f := fun s (w : Nat × Nat) => s.correct w.1) (fun s w => correct s w.1) a.words s

theorem takeBank (s : State) (k : Nat) : s.Calm (s.takeBank k) := by
  unfold State.takeBank
  split
  · exact ⟨rfl, id⟩
  · exact .refl s

theorem spendAccess (s : State) (a : Access) : s.Calm (s.spendAccess a) := by
  unfold State.spendAccess
  split
  · exact .refl s
  · have hspend : s.Calm (s.spend (slotCore s.cur) a.key) := ⟨rfl, id⟩
    exact hspend.trans (takeBank _ _)

theorem tlbFill (s : State) (g : Nat) (x : Translation) : s.Calm (s.tlbFill g x) := ⟨rfl, id⟩

end State.Calm

/-! ## Walks and translations (22 R362 to R365) -/

/-- The page of a translation holds an address of a context. -/
def Translation.Holds (x : Translation) (c va : Nat) : Prop := x.ctx = c ∧ x.base ≤ va ∧ va < x.base + x.size

theorem Translation.holds_aligned (c va leaf : Nat) {n : Nat} (hn : 0 < n) :
    ({ ctx := c, base := va / n * n, size := n, leaf } : Translation).Holds c va :=
  ⟨rfl, Nat.div_mul_le_self va n, Nat.lt_div_mul_add hn⟩

section
variable {s s1 : State} {g c va : Nat} {x : Translation}

theorem State.Calm.correctWalk_leaf (s : State) (c va level e key : Nat) : s.Calm (s.correctWalk c va (.leaf level e key)) := by
  unfold State.correctWalk
  split
  · exact .refl s
  · have hwalk := State.Calm.foldl (f := State.correct) .correct (s.walkKeys va 5 (s.ctx c).regs.ptroot) s
    cases level with
    | zero => exact hwalk.trans (.foldl (fun s i => .correct s _) _ _)
    | succ _ => exact hwalk

theorem State.groupPage_page {key : Nat} (h : s.groupPage c va key = (.page x, s1)) : s.Calm s1 ∧ x.Holds c va := by
  unfold State.groupPage at h
  split at h
  · obtain ⟨hpage, rfl⟩ := Prod.mk.inj h
    split at hpage
    · cases hpage
    · cases hpage
      exact ⟨.refl s, Translation.holds_aligned c va _ (by decide)⟩
  · obtain ⟨hpage, rfl⟩ := Prod.mk.inj h
    split at hpage
    · cases hpage
    · split at hpage
      · cases hpage
      · cases hpage
        exact ⟨⟨rfl, id⟩, Translation.holds_aligned c va _ (by decide)⟩

theorem State.translationOf_page {w : Walk} (h : s.translationOf c va w = (.page x, s1)) : s.Calm s1 ∧ x.Holds c va := by
  unfold State.translationOf at h
  cases w with
  | absent | bad => cases h
  | leaf level e key =>
    have hcalm := State.Calm.correctWalk_leaf s c va level e key
    dsimp only at h
    split at h
    · obtain ⟨h1, hx⟩ := State.groupPage_page h
      exact ⟨hcalm.trans h1, hx⟩
    · cases h
      exact ⟨hcalm, Translation.holds_aligned c va e (Nat.two_pow_pos _)⟩

theorem State.within_page {m : Mapped} (h : s.within va m = .page x) : m = .page x ∧ s.reaches x va = true := by
  cases m with
  | absent | bad => cases h
  | page y =>
    simp only [State.within] at h
    split at h
    next hr =>
      cases h
      exact ⟨rfl, hr⟩
    next => cases h

theorem State.mapped_page (h : s.mapped c va = (.page x, s1)) : s.Calm s1 ∧ x.Holds c va ∧ s1.reaches x va = true := by
  unfold State.mapped at h
  obtain ⟨hm, rfl⟩ := Prod.mk.inj h
  obtain ⟨hpage, hr⟩ := State.within_page hm
  obtain ⟨hcalm, hx⟩ := State.translationOf_page (x := x) (s1 := (s.translationOf c va (s.walk c va)).2) (Prod.ext hpage rfl)
  exact ⟨hcalm, hx, hr⟩

theorem tlbFind_tlbFill (h : x.Holds c va) : tlbFind ((s.tlbFill g x).grove g).tlb c va = some x := by
  obtain ⟨hc, hlo, hhi⟩ := h
  have htlb : ((s.tlbFill g x).grove g).tlb = x :: ((s.grove g).tlb.filter (· != x)).take 2047 := by
    unfold State.tlbFill
    rw [State.setGrove_grove_ne _ _ _ fun he => by simpa [Grove.empty] using congrArg Grove.tlb he]
    rfl
  rw [htlb, tlbFind, List.find?_cons_of_pos]
  simp [hc, hlo, hhi]

/-- A translation that gives a page leaves a TLB that holds it. -/
theorem State.translate_page (h : s.translate g c va = (.page x, s1)) :
    s.Calm s1 ∧ tlbFind (s1.grove g).tlb c va = some x ∧ s1.reaches x va = true := by
  unfold State.translate at h
  split at h
  next y hy =>
    obtain ⟨hm, rfl⟩ := Prod.mk.inj h
    obtain ⟨hpage, hr⟩ := State.within_page hm
    cases hpage
    exact ⟨.refl s, hy, hr⟩
  next =>
    rcases hmap : s.mapped c va with ⟨m, s2⟩
    rw [hmap] at h
    obtain ⟨rfl, rfl⟩ := Prod.mk.inj h
    obtain ⟨hcalm, hx, hr⟩ := State.mapped_page hmap
    exact ⟨hcalm.trans (.tlbFill s2 g x), tlbFind_tlbFill hx, hr⟩

/-- A page once translated is held, and translated again without a change. -/
theorem State.translate_again (h : s.translate g c va = (.page x, s1)) : s1.translate g c va = (.page x, s1) := by
  obtain ⟨-, hfind, hr⟩ := State.translate_page h
  exact State.translate_held hfind hr

end

/-! ## The key of an operand (R159) -/

/-- A fold whose every step leads to one value, and leaves it, ends there. -/
theorem foldl_settles {α β : Type} {f : α → β → α} {a b : α} {l : List β} (hl : l ≠ []) (ha : ∀ x ∈ l, f a x = b)
    (hb : ∀ x ∈ l, f b x = b) : l.foldl f a = b := by
  cases l with
  | nil => exact absurd rfl hl
  | cons x r =>
    rw [List.foldl_cons, ha x List.mem_cons_self]
    exact foldl_keeps_mem (· = b) f r (fun y z hz h => by rw [h, hb z (List.mem_cons_of_mem x hz)]) b rfl

section
variable {s s1 : State} {t : Thread} {va k : Nat} {rights : List Right} {go : State → Nat → State}

theorem State.form_physical {core space : Nat} {r : Right} (hs : space ≤ 2) (hf : s.formPhysical t.ctx core space va = .key k) :
    s.form t.ctx core space va r = (.key k, s) := by
  unfold State.form
  rw [if_neg (by omega), hf]

theorem State.form_translated {core : Nat} {r : Right} {x : Translation} (h57 : va < 2 ^ 57)
    (hx : s.translate (core / 16) t.ctx va = (.page x, s1)) (hr : leafHas x.leaf r = true) :
    s.form t.ctx core 3 va r = (.key (x.key va), s1) := by
  unfold State.form
  rw [if_pos rfl, if_neg (by omega), hx]
  simp only [hr, if_true]

theorem State.withKey_physical {space : Nat} (hs : space ≤ 2) (hf : s.formPhysical t.ctx (slotCore s.cur) space va = .key k)
    (hm : s.remapping t.ctx space va = none) (hr : rights ≠ []) : s.withKey t space va rights go = go s k := by
  have h3 : (space == 3) = false := by simp; omega
  unfold State.withKey
  simp only [h3, Bool.false_and, Bool.false_eq_true, if_false]
  rw [foldl_settles (b := (.key k, s)) hr (fun r _ => State.form_physical hs hf) (fun r _ => State.form_physical hs hf)]
  simp only [hm]

theorem State.withKey_translated {x : Translation} (h57 : va < 2 ^ 57) (hn : s.reachedNow t va)
    (hx : s.translate (slotGrove s.cur) t.ctx va = (.page x, s1)) (hall : ∀ r ∈ rights, leafHas x.leaf r = true) (hr : rights ≠ []) :
    s.withKey t 3 va rights go = go s1 (x.key va) := by
  obtain ⟨hwalk, habs, hmove⟩ := hn
  have hcur : s1.cur = s.cur := (State.translate_page hx).1.cur
  have hgrove : slotCore s.cur / 16 = slotGrove s.cur := by unfold slotCore slotGrove; omega
  have habs' : (t.absent == some (va / 4096)) = false := by simpa using habs
  have hfirst := fun r (h : r ∈ rights) => State.form_translated (core := slotCore s.cur) h57 (by rw [hgrove, hx]) (hall r h)
  have hagain := fun r (h : r ∈ rights) =>
    State.form_translated (s := s1) (core := slotCore s.cur) h57 (by rw [hgrove, State.translate_again hx]) (hall r h)
  unfold State.withKey
  simp only [habs', hwalk, hmove, Bool.and_false, Bool.false_eq_true, if_false]
  rw [foldl_settles (b := (.key (x.key va), s1)) hr hfirst hagain]
  rfl

end

section
variable {s s1 : State} {t : Thread} {u : AccessUse} {k : Nat}

/-- Forming the address of an operand changes nothing that the program sees. -/
theorem State.operandAt_calm (h : s.operandAt t u s1 k) : s.Calm s1 := by
  obtain ⟨-, -, -, ⟨-, -, -, rfl⟩ | ⟨-, -, -, x, hx, -, -⟩⟩ := h
  · exact .refl s1
  · exact (State.translate_page hx).1

/-- An operand that passes its checks goes on with its key. -/
theorem State.memOperand_formed {go : State → Nat → Nat → State} (h : s.operandAt t u s1 k) (hr : u.use.rights ≠ []) :
    s.memOperand t u.e u.use go = go s1 k (t.memAddr u.e) := by
  obtain ⟨halign, hmem, hcheck, hform⟩ := h
  unfold State.memOperand
  simp only [halign, hmem, hcheck, ne_eq, not_true_eq_false, if_false, Bool.and_self, Bool.not_true, Bool.false_eq_true]
  rcases hform with ⟨hs, hf, hm, rfl⟩ | ⟨hs, h57, hn, x, hx, hall, rfl⟩
  · exact State.withKey_physical hs hf hm hr
  · rw [hs]
    exact State.withKey_translated h57 hn hx hall hr

end

end Sys2Proof.Machine
end

section
/-!
PROOF. What an access does at its home (08 R164 to R181): the words it covers, what it returns, and what it leaves of memory.
-/
namespace Sys2Proof.Machine

/-! ## The words and nibbles of an access -/

theorem bit_ofNat32 (m : Nat) {i : Nat} (h : i < 32) : bit (BitVec.ofNat 32 m).toNat i = bit m i := by
  have hbit : ∀ n, bit n i = n.testBit i := fun n => by
    rw [bit, Nat.testBit_eq_decide_div_mod_eq, Bool.beq_eq_decide_eq]
  rw [hbit, hbit, BitVec.toNat_ofNat, Nat.testBit_mod_two_pow, decide_eq_true h, Bool.true_and]

/-- Every nibble of up to 16 bytes. -/
theorem bit_allNibbles {n i : Nat} (hn : n ≤ 16) (hi : i < 2 * n) : bit (BitVec.ofNat 32 (2 ^ (2 * n) - 1)).toNat i = true := by
  rw [bit_ofNat32 _ (by omega), bit_ones _ _ hi]

section
variable {s : State} {a : Access} {w : Nat × Nat} {j : Nat}

theorem Access.mem_words (h : w ∈ a.words) : w.1 = a.key / 8 * 8 ∨ w.1 = a.key / 8 * 8 + 8 ∧ a.wordMask 1 ≠ 0 := by
  obtain ⟨hw, hm⟩ := List.mem_filter.1 (show w ∈ List.filter _ _ from h)
  simp only [List.mem_cons, List.not_mem_nil, or_false] at hw
  rcases hw with rfl | rfl
  · exact .inl rfl
  · exact .inr ⟨rfl, by simpa using hm⟩

/-- An access with a nibble in its second word reaches that word. -/
theorem Access.second_word_covered (h : a.wordMask 1 ≠ 0) : a.key / 8 * 8 + 8 < a.key + a.size := by
  by_contra hout
  have hpow : 2 ^ (2 * a.size) * 2 ^ (2 * (a.key % 8)) ≤ 2 ^ (16 * 1) := by
    rw [← Nat.pow_add]
    exact Nat.pow_le_pow_right (by decide) (by omega)
  have hlt : a.mask.toNat % 2 ^ (2 * a.size) * 2 ^ (2 * (a.key % 8)) < 2 ^ (2 * a.size) * 2 ^ (2 * (a.key % 8)) :=
    Nat.mul_lt_mul_of_pos_right (Nat.mod_lt _ (Nat.two_pow_pos _)) (Nat.two_pow_pos _)
  exact h (by rw [Access.wordMask, Nat.div_eq_of_lt (Nat.lt_of_lt_of_le hlt hpow), Nat.zero_mod])

/-- Of an access below the CXL tiers, only a second word that lies in one can have a tag byte, and the access covers that word. -/
theorem Access.isTagByte_word (hk : keyTgt a.key ≤ 3) (hw : w ∈ a.words) (ht : s.isTagByte w.1 j) :
    w.1 = a.key / 8 * 8 + 8 ∧ a.key / 8 * 8 + 8 < a.key + a.size := by
  rcases a.mem_words hw with h | ⟨h, hm⟩
  · have hsame : keyTgt (a.key / 8 * 8) = keyTgt a.key := by unfold keyTgt; omega
    have hhigh := ht.1
    rw [h, hsame] at hhigh
    omega
  · exact ⟨h, a.second_word_covered hm⟩

theorem Access.isTagByte_covered (hk : keyTgt a.key ≤ 3) (hw : w ∈ a.words) (ht : s.isTagByte w.1 j) :
    ∃ i, i < a.size ∧ s.isTagByte (a.key + i) j := by
  obtain ⟨h, hin⟩ := a.isTagByte_word hk hw ht
  refine ⟨a.key / 8 * 8 + 8 - a.key, by omega, ?_⟩
  rw [show a.key + (a.key / 8 * 8 + 8 - a.key) = w.1 by omega]
  exact ht

/-- A tag byte lies in HBM. -/
theorem State.isTagByte_tgt {k : Nat} (h : s.isTagByte k j) : keyTgt j = 0 ∧ (keyTgt k = 4 ∨ keyTgt k = 5) := by
  obtain ⟨hhigh, g, hg, rfl⟩ := h
  constructor
  · unfold State.tagByte memKey keyTgt
    omega
  · unfold State.cxlGranule at hg
    split at hg
    next h4 => exact .inl h4.1
    next =>
      split at hg
      next h5 => exact .inr h5.1
      next => cases hg

/-- No byte of an access below the CXL tiers is a tag byte of its words. -/
theorem Access.not_isTagByte_inside (hk : keyTgt a.key ≤ 3) (hn : a.size ≤ 16) (hw : w ∈ a.words) (h1 : a.key ≤ j)
    (h2 : j < a.key + a.size) : ¬ s.isTagByte w.1 j := by
  intro ht
  obtain ⟨hj, hw45⟩ := State.isTagByte_tgt ht
  obtain ⟨h, -⟩ := a.isTagByte_word hk hw ht
  rw [h] at hw45
  unfold keyTgt at hk hj hw45
  omega

end

/-! ## What stores leave -/

section
variable {s : State} {a : Access} {v : Nat}

theorem State.storeAccess_bytesOutside (hk : keyTgt a.key ≤ 3) : s.bytesOutside (s.storeAccess a v) a.key a.size := by
  intro j hj hout
  refine State.storeAccess_byte_other s a v j (fun w hw ht => ?_) hj
  obtain ⟨i, hi, hti⟩ := a.isTagByte_covered hk hw ht
  exact hout i hi hti

/-- A store of every nibble reads as the value. -/
theorem State.storeAccess_readNum_whole (hwf : s.mem.wf = true) (hk : keyTgt a.key ≤ 3) (hn : a.size ≤ 16)
    (hm : ∀ i, i < 2 * a.size → bit a.mask.toNat i = true) : (s.storeAccess a v).readNum a.key a.size = v % 2 ^ (8 * a.size) := by
  rw [State.readNum_congr (s.writeNibbles a.key a.size v a.mask.toNat) _ _ _ fun j h1 h2 =>
    State.storeAccess_byte s a v j fun w hw => a.not_isTagByte_inside hk hn hw h1 h2]
  exact State.writeNibbles_whole s _ _ _ _ hwf hm

theorem State.eccWrite_full (s : State) (w : Nat × Nat) : (s.eccWrite w).mem.full = s.mem.full := by
  unfold State.eccWrite
  split
  · rfl
  · unfold State.correct
    split
    · rfl
    · rfl

theorem State.setTag_full (s : State) (k : Nat) (b : Bool) : (s.setTag k b).mem.full = s.mem.full := by
  show (s.withTag k b).full = _
  unfold State.withTag
  split
  · rfl
  · split
    · rfl
    · rfl

theorem State.writeAccess_full (s : State) (a : Access) (v : Nat) : (s.writeAccess a v).mem.full = s.mem.full := by
  unfold State.writeAccess
  refine foldl_keeps (fun x : State => x.mem.full = s.mem.full) _ (fun x w h => by rw [State.setTag_full, h]) _ _ ?_
  refine foldl_keeps (fun x : State => x.mem.full = s.mem.full) _ (fun x w h => by rw [State.eccWrite_full, h]) _ _ ?_
  rw [State.writeNibbles_mem]

theorem State.storeAccess_isFull (s : State) (a : Access) (v j : Nat) : (s.storeAccess a v).isFull j = s.isFull j := by
  unfold State.isFull
  rw [State.storeAccess_mem, State.writeAccess_full]

theorem State.setFull_isFull (hwf : s.mem.wf = true) (k j : Nat) (b : Bool) :
    (s.setFull k b).isFull j = if j / 8 = k / 8 then b else s.isFull j := by
  have hfull : NatSet.wf s.mem.full = true := ((Memory.wf_iff _).1 hwf).2.1
  unfold State.setFull State.isFull
  by_cases h : j / 8 = k / 8
  · cases b
    · simp [h, NatSet.mem_del_self _ _ hfull]
    · simp [h]
  · cases b
    · simp [h, NatSet.mem_del_ne _ _ _ h]
    · simp [h, NatSet.mem_add_ne _ _ _ h]

/-- Full/empty bits of several words set to one value. -/
theorem State.foldl_setFull_isFull (b : Bool) (j : Nat) (l : List (Nat × Nat)) (s : State) (hwf : s.mem.wf = true) :
    (l.foldl (fun s w => s.setFull w.1 b) s).isFull j = if (∃ w ∈ l, w.1 / 8 = j / 8) then b else s.isFull j := by
  induction l generalizing s with
  | nil => simp
  | cons w r ih =>
    rw [List.foldl_cons, ih _ (State.setFull_wf s w.1 b hwf), State.setFull_isFull hwf]
    by_cases hr : ∃ x ∈ r, x.1 / 8 = j / 8
    · have hall : ∃ x ∈ w :: r, x.1 / 8 = j / 8 := hr.imp fun x h => ⟨List.mem_cons_of_mem _ h.1, h.2⟩
      rw [if_pos hr, if_pos hall]
    · rw [if_neg hr]
      by_cases hw : w.1 / 8 = j / 8
      · rw [if_pos hw.symm, if_pos ⟨w, List.mem_cons_self, hw⟩]
      · rw [if_neg (Ne.symm hw), if_neg]
        rintro ⟨x, hx, hxj⟩
        rcases List.mem_cons.1 hx with rfl | hx
        · exact hw hxj
        · exact hr ⟨x, hx, hxj⟩

end

/-! ## The outcome of each kind of access -/

section
variable {s : State} {a : Access}

theorem State.perform_load (h : a.op = .load) (hb : s.badWord a false = none) :
    s.perform a = ⟨(s.readAccess a).1, .ok, s.readNum a.key a.size, false⟩ := by
  simp only [State.perform, h, hb, State.readAccess]

theorem State.perform_ldcap (h : a.op = .ldcap) (hb : s.badWord a false = none) :
    s.perform a = ⟨(s.readAccess a).1, .ok, s.readNum a.key a.size, s.hasTag a.key⟩ := by
  rw [← (State.Calm.readAccess s a).hasTag]
  simp only [State.perform, h, hb, State.readAccess]

theorem State.perform_ldfe (h : a.op = .ldfe) (hf : s.isFull a.key = true) (hb : s.badWord a false = none) :
    s.perform a = ⟨(s.readAccess a).1.setFull a.key false, .ok, s.readNum a.key a.size, false⟩ := by
  simp only [State.perform, h, hf, hb, State.readAccess, if_true]

theorem State.perform_ldff (h : a.op = .ldff) (hf : s.isFull a.key = true) (hb : s.badWord a false = none) :
    s.perform a = ⟨(s.readAccess a).1, .ok, s.readNum a.key a.size, false⟩ := by
  simp only [State.perform, h, hf, hb, State.readAccess, if_true]

theorem State.perform_stef (h : a.op = .stef) (hf : s.isFull a.key = false) :
    s.perform a = ⟨(s.storeAccess a a.data.bits.toNat).setFull a.key true, .ok, 0, false⟩ := by
  simp only [State.perform, h, hf, Bool.false_eq_true, if_false]

theorem State.perform_fefill {empty : Bool} (h : a.op = .fefill empty) :
    s.perform a = ⟨a.words.foldl (fun s w => s.setFull w.1 (!empty)) s, .ok, 0, false⟩ := by
  simp only [State.perform, h]

/-- A full/empty access that does not find the bit in its required state waits, and does nothing. -/
theorem State.perform_waits (h : (a.op = .ldfe ∨ a.op = .ldff) ∧ s.isFull a.key = false ∨ a.op = .stef ∧ s.isFull a.key = true) :
    s.perform a = ⟨s, .waits, 0, false⟩ := by
  rcases h with ⟨h | h, hf⟩ | ⟨h, hf⟩
  · simp only [State.perform, h, hf, Bool.false_eq_true, if_false]
  · simp only [State.perform, h, hf, Bool.false_eq_true, if_false]
  · simp only [State.perform, h, hf, if_true]

theorem State.perform_atom {op : Nat} (h : a.op = .atom op) (hb : s.badWord a false = none) :
    s.perform a = ⟨(s.readAccess a).1.storeAccess a (atomValue op a.ty.toNat (s.readNum a.key a.size) a.data.lo), .ok,
      s.readNum a.key a.size, false⟩ := by
  simp only [State.perform, h, hb, State.readAccess]

theorem State.perform_cas {pair : Option Nat} (h : a.op = .cas pair) (hb : s.badWord a false = none) :
    s.perform a = ⟨if s.readNum a.key a.size = a.expected then (s.readAccess a).1.storeAccess a a.data.bits.toNat else (s.readAccess a).1,
      .ok, s.readNum a.key a.size, false⟩ := by
  simp only [State.perform, h, hb, State.readAccess]
  rfl

/-- Of R171's operations, all but the floating sum are those of integers and patterns. -/
theorem atomValue_of_atomNew {op ty old b new : Nat} (h : atomNew op ty old b = some new) : atomValue op ty old b = new := by
  match op with
  | 0 | 1 | 2 | 3 | 4 | 5 | 6 => exact Option.some.inj h
  | op + 7 => cases h

end

/-! ## What an access leaves of the rest of the machine -/

/-- Between `s` and `s'` only memory, its error counts, continuations and graphs differ. -/
def State.MemoryOnly (s s' : State) : Prop :=
  s' = { s with mem := s'.mem, ras := s'.ras, conts := s'.conts, graphs := s'.graphs }

namespace State.MemoryOnly
variable {s s' s'' : State}

theorem refl (s : State) : s.MemoryOnly s := rfl

theorem trans (h : s.MemoryOnly s') (h' : s'.MemoryOnly s'') : s.MemoryOnly s'' := by
  unfold State.MemoryOnly at *
  rw [h', h]

theorem slots (h : s.MemoryOnly s') : s'.slots = s.slots := by rw [State.MemoryOnly] at h; rw [h]
theorem cur (h : s.MemoryOnly s') : s'.cur = s.cur := by rw [State.MemoryOnly] at h; rw [h]
theorem feWait (h : s.MemoryOnly s') : s'.feWait = s.feWait := by rw [State.MemoryOnly] at h; rw [h]

theorem detect (s : State) (k : Nat) : s.MemoryOnly (s.detect k) := by
  unfold State.detect
  split
  · rfl
  · rfl

theorem readAccess (s : State) (a : Access) : s.MemoryOnly (s.readAccess a).1 :=
  foldl_keeps s.MemoryOnly _ (fun x w h => h.trans (by unfold State.correct; split <;> rfl)) _ s (.refl s)

theorem storeAccess (s : State) (a : Access) (v : Nat) : s.MemoryOnly (s.storeAccess a v) := State.storeAccess_only s a v

theorem writeAccess (s : State) (a : Access) (v : Nat) : s.MemoryOnly (s.writeAccess a v) := by
  unfold State.MemoryOnly
  rw [State.writeAccess_only]

theorem setFull (s : State) (k : Nat) (b : Bool) : s.MemoryOnly (s.setFull k b) := rfl

theorem perform (s : State) (a : Access) : s.MemoryOnly (s.perform a).state := by
  unfold State.perform
  dsimp only
  split
  case h_1 | h_10 => split <;> [exact detect s _; exact readAccess s a]
  case h_2 => split <;> [exact detect s _; exact storeAccess s a _]
  case h_3 => exact storeAccess s a _
  case h_4 =>
    split
    · split <;> [exact detect s _; exact (readAccess s a).trans (setFull _ _ _)]
    · exact refl s
  case h_5 =>
    split
    · split <;> [exact detect s _; exact readAccess s a]
    · exact refl s
  case h_6 => split <;> [exact refl s; exact (storeAccess s a _).trans (setFull _ _ _)]
  case h_7 => exact foldl_keeps s.MemoryOnly _ (fun x w h => h.trans (setFull x _ _)) _ s (.refl s)
  case h_8 => split <;> [exact detect s _; exact (readAccess s a).trans (storeAccess _ _ _)]
  case h_9 =>
    split
    · exact detect s _
    · dsimp only
      split
      · exact (readAccess s a).trans (storeAccess _ _ _)
      · exact readAccess s a
  case h_11 => exact (writeAccess s a _).trans rfl
  case h_12 => rfl

end State.MemoryOnly

end Sys2Proof.Machine
end

section
/-!
PROOF. Loads, full/empty accesses, atomics and relaxed accesses (08 R157 to R174): what their rows issue, what a thread keeps of a result,
and what is left when the access returns.
-/
namespace Sys2Proof.Machine

/-! ## The result at the thread (R157, R159) -/

/-- The predicate pair that an access writes. -/
def Thread.pairBack (t : Thread) (a : Access) (old : Nat) : Thread :=
  match a.op with
  | .cas (some k) => t.setPair k (2 * a.size) (old == a.expected)
  | .wake k => t.setPair k 16 (old == 1)
  | _ => t

/-- The register that an access writes, of what was there. -/
def Access.result (a : Access) (r : QReg) (old : Nat) (cap : Bool) : QReg :=
  match a.op with
  | .ldcap => if cap then ⟨BitVec.ofNat 128 old, true, 27⟩ else ⟨BitVec.ofNat 128 old, false, 0⟩
  | .load => ⟨BitVec.ofNat 128 (if a.size = 16 then mergeNibbles r.bits.toNat old a.mask.toNat else old), false, a.ty⟩
  | _ => ⟨BitVec.ofNat 128 old, false, a.ty⟩

section
variable {t : Thread} {e : Fields} {a : Access} {old : Nat} {cap : Bool} {d : BitVec 5}

theorem Thread.writeBack_none (h : a.dest = none) : t.writeBack a old cap = t.pairBack a old := by
  obtain ⟨op, key, va, size, mask, data, expected, dest, ty, pc, space, page, stale⟩ := a
  obtain rfl : dest = none := h
  cases op with
  | cas pair => cases pair <;> rfl
  | _ => rfl

theorem Thread.writeBack_some (h : a.dest = some d) :
    t.writeBack a old cap = (t.pairBack a old).setReg d (a.result (t.reg d) old cap) := by
  obtain ⟨op, key, va, size, mask, data, expected, dest, ty, pc, space, page, stale⟩ := a
  obtain rfl : dest = some d := h
  cases op with
  | cas pair => cases pair <;> rfl
  | _ => rfl

theorem Thread.pairBack_only : t.pairBack a old = { t with p := (t.pairBack a old).p } := by
  unfold Thread.pairBack
  split
  · rfl
  · rfl
  · rfl

theorem Thread.pairBack_of_not_pair (hc : ∀ k, a.op ≠ .cas (some k)) (hw : ∀ k, a.op ≠ .wake k) : t.pairBack a old = t := by
  unfold Thread.pairBack
  split
  next k h => exact absurd h (hc k)
  next k h => exact absurd h (hw k)
  next => rfl

theorem Thread.pairBack_reg (r : BitVec 5) : (t.pairBack a old).reg r = t.reg r := by rw [Thread.pairBack_only]; rfl

theorem Thread.postInc_only : t.postInc e = { t with q := (t.postInc e).q } := by
  unfold Thread.postInc
  split
  · rfl
  · rfl

theorem Thread.postInc_reg (r : BitVec 5) : (t.postInc e).reg r =
    if e.post && r == e.a then moveCursor (t.reg r) (wrap 64 ((t.reg r).lo + e.imm.toInt)) else t.reg r := by
  unfold Thread.postInc
  cases e.post
  · rfl
  · by_cases hr : r = e.a
    · subst hr; simp
    · simp [hr]

/-- The thread of an access that has returned `old`, in its wait for the return. -/
def Thread.returns (t : Thread) (e : Fields) (a : Access) (old : Nat) (cap : Bool) (w : Wait) : Thread :=
  { t.complete e a old cap with wait := w }

variable {w : Wait}

theorem Thread.returns_only : t.returns e a old cap w = { t with
    q := (t.returns e a old cap w).q, p := (t.returns e a old cap w).p, pc := t.pc + BitVec.ofNat 64 (4 * e.form.words), reissue := false
    prio := false, skipBp := false, absent := none, wait := w } := by
  unfold Thread.returns Thread.complete
  cases hd : a.dest with
  | none => rw [Thread.writeBack_none hd, Thread.pairBack_only, Thread.postInc_only]; rfl
  | some d => rw [Thread.writeBack_some hd, Thread.pairBack_only, Thread.postInc_only]; rfl

theorem Thread.returns_p (hc : ∀ k, a.op ≠ .cas (some k)) (hw : ∀ k, a.op ≠ .wake k) : (t.returns e a old cap w).p = t.p := by
  show ((t.postInc e).writeBack a old cap).p = t.p
  cases hd : a.dest with
  | none => rw [Thread.writeBack_none hd, Thread.pairBack_of_not_pair hc hw, Thread.postInc_only]
  | some d =>
    rw [Thread.writeBack_some hd, Thread.pairBack_of_not_pair hc hw]
    show (t.postInc e).p = t.p
    rw [Thread.postInc_only]

theorem Thread.returns_dest (hd : a.dest = some d) :
    (t.returns e a old cap w).reg d = a.result ((t.postInc e).reg d) old cap := by
  show ((t.postInc e).writeBack a old cap).reg d = _
  rw [Thread.writeBack_some hd, Thread.setReg_reg]

theorem Thread.returns_baseMoved_dest (hd : a.dest = some e.d) : t.baseMoved (t.returns e a old cap w) e true := by
  intro r hr
  show ((t.postInc e).writeBack a old cap).reg r = _
  rw [Thread.writeBack_some hd, Thread.setReg_reg_other _ _ _ _ (hr rfl), Thread.pairBack_reg, Thread.postInc_reg]

theorem Thread.returns_baseMoved_none (hd : a.dest = none) : t.baseMoved (t.returns e a old cap w) e false := by
  intro r _
  show ((t.postInc e).writeBack a old cap).reg r = _
  rw [Thread.writeBack_none hd, Thread.pairBack_reg, Thread.postInc_reg]

/-- A load of 16 bytes merges the active nibbles, one of fewer gives its number (R164, R165). -/
theorem Access.result_load (h : a.op = .load) (r : QReg) : a.result r old cap =
    ⟨BitVec.ofNat 128 (if a.size = 16 then mergeNibbles r.bits.toNat old a.mask.toNat else old), false, a.ty⟩ := by
  unfold Access.result
  rw [h]

theorem Access.result_plain (h1 : a.op ≠ .load) (h2 : a.op ≠ .ldcap) (r : QReg) :
    a.result r old cap = ⟨BitVec.ofNat 128 old, false, a.ty⟩ := by
  unfold Access.result
  split
  next h => exact absurd h h2
  next h => exact absurd h h1
  next => rfl

theorem Access.result_ldcap (h : a.op = .ldcap) (r : QReg) :
    (a.result r old cap).bits = BitVec.ofNat 128 old ∧ (a.result r old cap).cap = cap := by
  unfold Access.result
  rw [h]
  cases cap
  · exact ⟨rfl, rfl⟩
  · exact ⟨rfl, rfl⟩

end

/-! ## What a row issues -/

section
variable {i : Instr} {s s1 : State} {t : Thread} {u : AccessUse} {k : Nat}

theorem accessRow_rights (h : accessRow t i = some u) : u.use.rights ≠ [] := by
  cases i with
  | ld | ldX | st | stX | lds | ldsX | sts | stsX | ldfe | ldfeX | stef | stefX | ldff | ldffX | fefill | fefillX | atom | atomX
  | cas | casX | ldcap | ldcapX | stcap | stcapX | cclr | cclrX => cases h; exact List.cons_ne_nil _ _
  | _ => cases h

theorem accessRow_key (h : accessRow t i = some u) (va : Nat) : (u.access k va).key = k := by
  cases i with
  | ld | ldX | st | stX | lds | ldsX | sts | stsX | ldfe | ldfeX | stef | stefX | ldff | ldffX | fefill | fefillX | atom | atomX
  | cas | casX | ldcap | ldcapX | stcap | stcapX | cclr | cclrX => cases h; rfl
  | _ => cases h

/-- What the access of a row is, with what it stores and where its result goes. -/
inductive AccessUse.Does (t : Thread) (u : AccessUse) : Prop
  | load (hn : u.use.size ≤ 16) (h : ∀ k va, u.access k va = mkAccess t .load k va u.use.size u.use.mask QReg.zero (some u.e.d) u.e.ty)
  | store (h : ∀ k va, (u.access k va).op = .store)
  | loadFull (op : AccessOp) (hop : op = .ldfe ∨ op = .ldff)
      (h : ∀ k va, u.access k va = mkAccess t op k va 8 (2 ^ (2 * 8) - 1) QReg.zero (some u.e.d) u.e.ty)
  | storeEmpty (h : ∀ k va, u.access k va = mkAccess t .stef k va 8 (2 ^ (2 * 8) - 1) (t.reg u.e.d) none u.e.ty)
  | fill (empty : Bool) (h : ∀ k va, u.access k va = mkAccess t (.fefill empty) k va u.use.size u.use.mask QReg.zero none 0)
  | atomic (op n : Nat) (hn : n ≤ 8) (h : ∀ k va, u.access k va =
      mkAccess t (.atom op) k va n (2 ^ (2 * n) - 1) (data64 ((t.atomB u.e).lo % 2 ^ (8 * n)) 0) (some u.e.d) (atomType u.e))
  | swap (pair : Option Nat) (n : Nat) (hn : n ≤ 8) (h : ∀ k va, u.access k va =
      { mkAccess t (.cas pair) k va n (2 ^ (2 * n) - 1) (data64 ((t.atomB u.e).lo % 2 ^ (8 * n)) 0) (some u.e.d) (atomType u.e) with
        expected := (t.reg u.e.d).lo % 2 ^ (8 * n) })
  | loadCap (h : ∀ k va, u.access k va = mkAccess t .ldcap k va 16 (2 ^ (2 * 16) - 1) QReg.zero (some u.e.d) 0)
  | tag (op : AccessOp) (hop : op = .stcap ∨ op = .cclr) (h : ∀ k va, (u.access k va).op = op)

theorem fmtWidth_le (c : Nat) : fmtWidth c ≤ 64 := by
  unfold fmtWidth
  split <;> decide

theorem scalarBytes_le (e : Fields) : scalarBytes e ≤ 8 := by
  have := fmtWidth_le e.ty.toNat
  unfold scalarBytes
  split <;> omega

theorem accessRow_does (h : accessRow t i = some u) : u.Does t := by
  have h8 : ∀ c, fmtWidth c / 8 ≤ 8 := fun c => by have := fmtWidth_le c; omega
  cases i with
  | ld | ldX => cases h; exact .load (Nat.le_refl 16) fun _ _ => rfl
  | lds e | ldsX e => cases h; exact .load ((scalarBytes_le e).trans (by decide)) fun _ _ => rfl
  | st | stX | sts | stsX => cases h; exact .store fun _ _ => rfl
  | ldfe | ldfeX => cases h; exact .loadFull .ldfe (.inl rfl) fun _ _ => rfl
  | ldff | ldffX => cases h; exact .loadFull .ldff (.inr rfl) fun _ _ => rfl
  | stef | stefX => cases h; exact .storeEmpty fun _ _ => rfl
  | fefill | fefillX => cases h; exact .fill _ fun _ _ => rfl
  | atom | atomX => cases h; exact .atomic _ _ (h8 _) fun _ _ => rfl
  | cas | casX => cases h; exact .swap _ _ (h8 _) fun _ _ => rfl
  | ldcap | ldcapX => cases h; exact .loadCap fun _ _ => rfl
  | stcap | stcapX => cases h; exact .tag .stcap (.inl rfl) fun _ _ => rfl
  | cclr | cclrX => cases h; exact .tag .cclr (.inr rfl) fun _ _ => rfl
  | _ => cases h

theorem liveWidth_ne_zero (ty : Nat) : liveWidth ty ≠ 0 := by
  unfold liveWidth
  split
  · decide
  · assumption

theorem AccessUse.live_wide {e : Fields} {w perm : Nat} {sources : Bool} {right : Right} {op : AccessOp} {data : QReg}
    {dest : Option (BitVec 5)} {ty : BitVec 5} (hw : w ≠ 0) (h : (wideUse t e w sources perm right op data dest ty).live t) :
    t.live e.g w = true ∧ sources = true := by
  obtain ⟨hlive, hs⟩ := h
  exact ⟨(if_neg hw).mp hlive, hs⟩

/-- A live row whose sources and operand pass their checks, and whose level serves it, issues its access. -/
theorem exec_issues (ht : s.thread s.cur = some t) (hrow : accessRow t i = some u) (hlive : u.live t) (hop : s.operandAt t u s1 k)
    (hserves : levelServes (u.access k (t.memAddr u.e)) = true) :
    exec i s = .next (s1.issue t u.e (u.access k (t.memAddr u.e))) := by
  have hformed : ∀ go : State → Nat → Nat → State, s.memOperand t u.e u.use go = go s1 k (t.memAddr u.e) := fun _ =>
    State.memOperand_formed hop (accessRow_rights hrow)
  cases i with
  | ld e | ldX e =>
    cases hrow
    obtain ⟨hl, -⟩ := AccessUse.live_wide (liveWidth_ne_zero _) hlive
    show s.ldOp e = _
    unfold State.ldOp
    rw [State.onThread_some _ _ t ht]
    simp only [hl, Bool.not_true, Bool.false_eq_true, if_false]
    exact congrArg _ (hformed _)
  | st e | stX e =>
    cases hrow
    obtain ⟨hl, hs⟩ := AccessUse.live_wide (liveWidth_ne_zero _) hlive
    show s.stOp e = _
    unfold State.stOp
    rw [State.onThread_some _ _ t ht]
    simp only [hl, hs, Bool.not_true, Bool.false_eq_true, if_false]
    exact congrArg _ (hformed _)
  | fefill e | fefillX e =>
    cases hrow
    obtain ⟨hl, -⟩ := AccessUse.live_wide (by decide) hlive
    show s.fefillOp e = _
    unfold State.fefillOp
    rw [State.onThread_some _ _ t ht]
    simp only [hl, Bool.not_true, Bool.false_eq_true, if_false]
    refine congrArg _ ((hformed _).trans ?_)
    exact if_pos hserves
  | lds e | ldsX e =>
    cases hrow
    exact (State.scalar_live s e _ t ht hlive.1).trans (congrArg _ (hformed _))
  | ldcap e | ldcapX e =>
    cases hrow
    exact (State.scalar_live s e _ t ht hlive.1).trans (congrArg _ (hformed _))
  | stcap e | stcapX e =>
    cases hrow
    exact (State.scalar_live s e _ t ht hlive.1).trans (congrArg _ (hformed _))
  | cclr e | cclrX e =>
    cases hrow
    exact (State.scalar_live s e _ t ht hlive.1).trans (congrArg _ (hformed _))
  | ldfe e | ldfeX e | ldff e | ldffX e =>
    cases hrow
    refine (State.scalar_live s e _ t ht hlive.1).trans (congrArg _ ?_)
    simp only [Bool.not_true, Bool.false_and, Bool.false_eq_true, if_false, if_true]
    refine (hformed _).trans ?_
    exact if_pos hserves
  | sts e | stsX e =>
    cases hrow
    obtain ⟨hl, hs⟩ := hlive
    have hs : storeOk e (t.reg e.d) = true := hs
    refine (State.scalar_live s e _ t ht hl).trans (congrArg _ ?_)
    simp only [hs, Bool.not_true, Bool.false_eq_true, if_false]
    exact hformed _
  | stef e | stefX e =>
    cases hrow
    obtain ⟨hl, hs⟩ := hlive
    have hs : storeOk e (t.reg e.d) = true := hs
    refine (State.scalar_live s e _ t ht hl).trans (congrArg _ ?_)
    simp only [hs, Bool.not_true, Bool.and_false, Bool.false_eq_true, if_false]
    refine (hformed _).trans ?_
    exact if_pos hserves
  | atom e | atomX e =>
    cases hrow
    obtain ⟨hl, hs⟩ := hlive
    have hs : atomOk (atomType e) (t.atomB e) = true := hs
    refine (State.scalar_live s e _ t ht hl).trans (congrArg _ ?_)
    simp only [hs, Bool.not_true, Bool.false_eq_true, if_false]
    refine (hformed _).trans ?_
    exact if_pos hserves
  | cas e | casX e =>
    cases hrow
    obtain ⟨hl, hs⟩ := hlive
    have hs : (atomOk (atomType e) (t.reg e.d) && atomOk (atomType e) (t.atomB e)) = true := hs
    refine (State.scalar_live s e _ t ht hl).trans (congrArg _ ?_)
    simp only [hs, Bool.not_true, Bool.false_eq_true, if_false]
    refine (hformed _).trans ?_
    exact if_pos hserves
  | _ => cases hrow

end

end Sys2Proof.Machine
end

section
/-!
PROOF. Accesses performed in their issuing step (08 R160): the completion that every kind of access shares, and the obligations on
loads, full/empty accesses, atomics and relaxed accesses.
-/
namespace Sys2Proof.Machine

/-! ## Serving the full/empty waiters -/

section
variable {s : State} {a : Access}

theorem State.serveWord_idle (h : s.feWait = []) (w n : Nat) : State.serveWord w n s = s := by
  cases n with
  | zero => rfl
  | succ n =>
    unfold State.serveWord
    rw [h]
    rfl

/-- With no full/empty access waiting, none is served. -/
theorem State.serveAccess_idle (h : s.feWait = []) : s.serveAccess a = s := by
  have hfold : a.words.foldl (fun x w => State.serveWord (w.1 / 8) (x.feWait.length + 1) x) s = s :=
    foldl_keeps (· = s) _ (fun x w hx => by rw [hx]; exact State.serveWord_idle h _ _) _ _ rfl
  unfold State.serveAccess
  split <;> [exact hfold; exact hfold; exact hfold; rfl]

/-- Only an access that changes a full/empty bit serves those that wait for one. -/
theorem State.serveAccess_plain (h : a.op ≠ .ldfe ∧ a.op ≠ .stef ∧ ∀ empty, a.op ≠ .fefill empty) : s.serveAccess a = s := by
  obtain ⟨h1, h2, h3⟩ := h
  unfold State.serveAccess
  split
  next ha => exact absurd ha h1
  next ha => exact absurd ha h2
  next empty ha => exact absurd ha (h3 empty)
  next => rfl

end

/-! ## Issuing -/

section
variable {s s1 : State} {t : Thread} {u : AccessUse} {a : Access} {e : Fields}

theorem State.issue_keeps_errors (h : e.rel = true → ∀ p ∈ t.pendErr, s.inScope (slotCore s.cur) e.scope p.key = false) :
    s.issue t e a = if e.rx then s.issueRelaxed t e a else s.issueOrdinary t e a := by
  unfold State.issue
  dsimp only
  split
  next hr => exact State.orElsePending_none (h hr)
  next => rfl

/-- An access that waits for nothing is performed as it is issued. -/
theorem State.issue_performs (h : s.performsNow t u a) :
    s.issue t u.e a = (s.spendAccess a).performOrdinary t u.e (s.located t u.e a) := by
  obtain ⟨hrx, hlocal, hrel, herr, hbank, hsplit⟩ := h
  have hcalm := State.Calm.spendAccess s a
  have hpre : (t.rx.any fun r => s.precedes (slotCore s.cur) r (s.located t u.e a) u.e.rel u.e.scope) = false :=
    List.any_eq_false.2 fun r hr => by rw [show s.precedes (slotCore s.cur) r (s.located t u.e a) u.e.rel u.e.scope = false from hrel r hr]; decide
  have hbank' : s.losesBank t (s.located t u.e a) = false := hbank
  have hlocal' : (s.spendAccess (s.located t u.e a)).isLocal (s.located t u.e a).key = true := (hcalm.isLocal _).trans hlocal
  have hsplit' : ((s.spendAccess (s.located t u.e a)).opts.split && (s.located t u.e a).halves) = false :=
    by
    show ((s.spendAccess a).opts.split && a.halves) = false
    rw [hcalm.opts, hsplit]
  rw [State.issue_keeps_errors herr, hrx]
  unfold State.issueOrdinary
  simp only [hpre, hbank', hlocal', hsplit', Bool.not_true, Bool.false_eq_true, if_false]
  rfl

theorem State.performOrdinary_ok {s2 : State} {old : Nat} {cap : Bool} (hp : s.perform a = ⟨s2, .ok, old, cap⟩)
    (hserve : ∀ x : State, x.feWait = s.feWait → x.serveAccess a = x) :
    s.performOrdinary t e a = s2.put (t.returns e a old cap (if s.inCore (slotCore s.cur) a.key then .none else .memory)) := by
  have hfe : s2.feWait = s.feWait := by simpa [hp] using (State.MemoryOnly.perform s a).feWait
  unfold State.performOrdinary
  rw [hp]
  exact hserve _ hfe

theorem State.performOrdinary_waits (hp : s.perform a = ⟨s, .waits, 0, false⟩) :
    s.performOrdinary t e a = { s.put { t with wait := .fullEmpty a e } with feWait := s.feWait ++ [s.cur] } := by
  unfold State.performOrdinary
  rw [hp]

theorem State.spendAccess_mem (s : State) (a : Access) : (s.spendAccess a).mem = s.mem := by
  unfold State.spendAccess
  split
  · rfl
  · unfold State.takeBank
    split
    · rfl
    · rfl

end

/-! ## Completion -/

/-- The thread that issued the access of `u`, when it has returned `old`. -/
def State.accessDone (s : State) (t : Thread) (u : AccessUse) (k old : Nat) (cap : Bool) : Thread :=
  t.returns u.e (u.access k (t.memAddr u.e)) old cap (if s.inCore (slotCore s.cur) k then .none else .memory)

section
variable {i : Instr} {s s1 s2 : State} {t : Thread} {u : AccessUse} {k old : Nat} {cap : Bool}

theorem State.returned_accessDone : s.returned t (s.accessDone t u k old cap) u.e k := Thread.returns_only

/-- The register that the access writes, after its base has moved. -/
theorem State.accessDone_reg {d : BitVec 5} (hd : (u.access k (t.memAddr u.e)).dest = some d) :
    (s.accessDone t u k old cap).reg d = (u.access k (t.memAddr u.e)).result ((t.postInc u.e).reg d) old cap := Thread.returns_dest hd

/-- An access that its home performs at once returns to its thread, with the machine that its home leaves. -/
theorem exec_completes (ht : s.thread s.cur = some t) (hrow : accessRow t i = some u) (hlive : u.live t) (hop : s.operandAt t u s1 k)
    (hserves : levelServes (u.access k (t.memAddr u.e)) = true) (hnow : s1.performsNow t u (u.access k (t.memAddr u.e)))
    (hp : (s1.spendAccess (u.access k (t.memAddr u.e))).perform (u.access k (t.memAddr u.e)) = ⟨s2, .ok, old, cap⟩)
    (hserve : ∀ x : State, x.feWait = s.feWait → x.serveAccess (u.access k (t.memAddr u.e)) = x) :
    exec i s = .next (s2.put (s.accessDone t u k old cap)) ∧
    (s2.put (s.accessDone t u k old cap)).thread s.cur = some (s.accessDone t u k old cap) ∧
    ∀ n, n ≠ s.cur → (s2.put (s.accessDone t u k old cap)).slot n = s.slot n := by
  set a := u.access k (t.memAddr u.e)
  have hcalm := (State.operandAt_calm hop).trans (.spendAccess s1 a)
  have honly : (s1.spendAccess a).MemoryOnly s2 := by simpa [hp] using State.MemoryOnly.perform (s1.spendAccess a) a
  have hcur : s2.cur = s.cur := honly.cur.trans hcalm.cur
  have hslots : s2.slots = s.slots := honly.slots.trans hcalm.slots
  have hkey : a.key = k := accessRow_key hrow _
  refine ⟨?_, ?_, fun n hn => ?_⟩
  · rw [exec_issues ht hrow hlive hop hserves, State.issue_performs hnow,
      State.performOrdinary_ok (a := s1.located t u.e a) hp fun x hx => hserve x (hx.trans hcalm.feWait)]
    have hwait : (s1.spendAccess a).inCore (slotCore (s1.spendAccess a).cur) (s1.located t u.e a).key = s.inCore (slotCore s.cur) k := by
      rw [show (s1.located t u.e a).key = k from hkey, hcalm.inCore, hcalm.cur]
    rw [hwait]
    rfl
  · rw [← hcur]
    exact State.put_thread s2 _
  · rw [State.put_slot_other _ _ _ (by rw [hcur]; exact hn)]
    unfold State.slot
    rw [hslots]

end

end Sys2Proof.Machine
end

section
/-!
PROOF. The obligations on loads, full/empty accesses, atomics and relaxed accesses (08 R161 to R172, R179).
-/
namespace Sys2Proof.Machine

/-! ## The machine that an access meets at its home -/

section
variable {s s1 : State} {t : Thread} {u : AccessUse} {k : Nat} {a : Access}

theorem State.operandAt_spent_calm (hop : s.operandAt t u s1 k) (a : Access) : s.Calm (s1.spendAccess a) :=
  (State.operandAt_calm hop).trans (.spendAccess s1 a)

theorem State.spendAccess_badWord {p : Bool} : (s1.spendAccess a).badWord a p = s1.badWord a p := (State.Calm.spendAccess s1 a).badWord a p

theorem State.Calm.readsBack {s2 : State} (h : s.Calm s2) (a : Access) : s.Calm (s2.readAccess a).1 := h.trans (.readAccess s2 a)

theorem State.put_readNum {n : Nat} : (s.put t).readNum k n = s.readNum k n := State.readNum_congr _ _ _ _ fun _ _ _ => rfl

theorem State.Calm.put_thread {s2 : State} (h : s.Calm s2) (t : Thread) : (s2.put t).thread s.cur = some t := by
  rw [← h.cur]
  exact State.put_thread s2 t

/-- Bytes outside an access, of a machine that differs calmly from the one it met. -/
theorem State.Calm.bytesOutside {s2 s' : State} {n : Nat} (h : s.Calm s2) (h' : s2.bytesOutside s' k n) : s.bytesOutside s' k n :=
  fun j hj hout => (h' j hj fun i hi ht => hout i hi (h.isTagByte _ _ ▸ ht)).trans (h.byte j)

end

/-! ## Loads (R164, R165, R179) -/

section
variable {a : Access} {r : QReg} {s : State}

/-- What a load leaves in its register, of the number it read. -/
theorem Access.result_load_lanes {n : Nat} (h : a.op = .load) (hs : a.size = 16) {l : Nat} (hl : l < 32) {cap : Bool} :
    lane (a.result r n cap).bits.toNat 4 l = if bit a.mask.toNat l then lane n 4 l else lane r.bits.toNat 4 l := by
  rw [Access.result_load h, if_pos hs, lane_ofNat _ _ _ (by omega), lane_mergeNibbles _ _ _ _ hl]

theorem State.readNum_toNat (k : Nat) {n : Nat} (hn : n ≤ 16) : (BitVec.ofNat 128 (s.readNum k n)).toNat = s.readNum k n := by
  rw [BitVec.toNat_ofNat]
  exact Nat.mod_eq_of_lt (Nat.lt_of_lt_of_le (State.readNum_lt s k n) (Nat.pow_le_pow_right (by decide) (by omega)))

end

/-- The accesses that read alone: their destination, their size, and what selects their result. -/
theorem AccessUse.Does.reads {t : Thread} {u : AccessUse} {k va : Nat} (h : u.Does t)
    (hk : (u.access k va).op = .load ∨ (u.access k va).op = .ldcap) :
    (u.access k va).dest = some u.e.d ∧ (u.access k va).size ≤ 16 ∧
    ((u.access k va).op = .load → (u.access k va).ty = u.e.ty ∧ (u.access k va).mask = BitVec.ofNat 32 u.use.mask) ∧
    ((u.access k va).op = .ldcap → (u.access k va).size = 16) := by
  cases h with
  | load hn h => rw [h]; exact ⟨rfl, hn, fun _ => ⟨rfl, rfl⟩, fun hop => AccessOp.noConfusion hop⟩
  | loadCap h => rw [h]; exact ⟨rfl, Nat.le_refl 16, fun hop => AccessOp.noConfusion hop, fun _ => rfl⟩
  | store h => rw [h] at hk; rcases hk with hk | hk <;> cases hk
  | loadFull op hop h => rw [h] at hk; rcases hop with rfl | rfl <;> rcases hk with hk | hk <;> cases hk
  | storeEmpty h | fill _ h => rw [h] at hk; rcases hk with hk | hk <;> cases hk
  | atomic _ _ _ h | swap _ _ _ h => rw [h] at hk; rcases hk with hk | hk <;> cases hk
  | tag op hop h => rw [h] at hk; rcases hop with rfl | rfl <;> rcases hk with hk | hk <;> cases hk

section
variable {i : Instr} {s s1 : State} {t : Thread} {u : AccessUse} {k : Nat}

/-- Settles O17: the home reads without a change but for corrected errors, and the result reaches fd after the base has moved. -/
theorem loadsRead : Obligations.LoadsRead := by
  intro i s s1 t u k ht hrow hlive hop a hkind hnow hbad
  have hkey : a.key = k := accessRow_key hrow _
  have hspent := State.operandAt_spent_calm hop a
  have hcalm := hspent.readsBack a
  have hnum : (s1.spendAccess a).readNum a.key a.size = s.readNum k a.size := by rw [hspent.readNum, hkey]
  have hbad' := State.spendAccess_badWord.trans hbad
  have hserves : levelServes a = true := by unfold levelServes; rcases hkind with h | h <;> rw [h]
  have hplain : ∀ x : State, x.serveAccess a = x := fun x => State.serveAccess_plain (by rcases hkind with h | h <;> simp [h])
  have hp : ∃ cap, (s1.spendAccess a).perform a = ⟨((s1.spendAccess a).readAccess a).1, .ok, s.readNum k a.size, cap⟩ ∧
      (a.op = .ldcap → cap = s.hasTag k) := by
    rcases hkind with h | h
    · exact ⟨false, by rw [State.perform_load h hbad', hnum], fun h' => by rw [h] at h'; cases h'⟩
    · exact ⟨s.hasTag k, by rw [State.perform_ldcap h hbad', hnum, hspent.hasTag, hkey], fun _ => rfl⟩
  obtain ⟨cap, hp, hcap⟩ := hp
  obtain ⟨hexec, hthread, hslots⟩ := exec_completes ht hrow hlive hop hserves hnow hp fun x _ => hplain x
  obtain ⟨hd, hsize, hload, hldcap⟩ := (accessRow_does hrow).reads hkind
  have hreg := State.accessDone_reg (s := s) (old := s.readNum k a.size) (cap := cap) hd
  refine ⟨_, _, hexec, hthread, State.returned_accessDone, ?_, Thread.returns_baseMoved_dest hd,
    fun j => ⟨hcalm.byte j, hcalm.isFull j, hcalm.hasTag j⟩, hslots, fun h => ?_, fun h => ?_⟩
  · refine Thread.returns_p (fun pair h => ?_) fun pair h => ?_
    · exact absurd hkind (by simp [a, h])
    · exact absurd hkind (by simp [a, h])
  · obtain ⟨hty, hmask⟩ := hload h
    refine ⟨by rw [hreg, Access.result_load h], by rw [hreg, Access.result_load h, hty], fun hs l hl => ?_, fun hs => ?_⟩
    · rw [hreg, Access.result_load_lanes h hs hl, hmask, bit_ofNat32 _ hl, hs]
    · rw [hreg, Access.result_load h, if_neg (by omega), State.readNum_toNat k hsize]
  · obtain ⟨hbits, hc⟩ := Access.result_ldcap (old := s.readNum k a.size) (cap := cap) h ((t.postInc u.e).reg u.e.d)
    have hs : a.size = 16 := hldcap h
    exact ⟨by rw [hreg, hbits, State.readNum_toNat k hsize, hs], by rw [hreg, hc, hcap h]⟩

end

/-! ## Relaxed accesses (R161) -/

/-- Settles O21: the access joins the relaxed ones of its thread, and spends its energy. -/
theorem relaxedAccesses : Obligations.RelaxedAccesses := by
  intro i s s1 t u k ht hrow hlive hop a hrx hlen herr hbank hserves
  have hform := State.operandAt_calm hop
  have hspent := State.operandAt_spent_calm hop a
  have hissue : s1.issue t u.e a = (s1.spendAccess a).put { (t.postInc u.e).next u.e with
      rx := t.rx ++ [{ acc := s1.located t u.e a, acq := u.e.acq, rel := u.e.rel, scope := u.e.scope, req := 0, low := none }] } := by
    have hbank' : s1.losesBank t (s1.located t u.e a) = false := hbank
    rw [State.issue_keeps_errors (by rwa [hform.cur]), hrx, if_pos rfl]
    unfold State.issueRelaxed
    simp only [if_neg (Nat.not_le.2 hlen), hbank', Bool.false_eq_true, if_false]
    rfl
  refine ⟨_, _, (exec_issues ht hrow hlive hop hserves).trans (congrArg _ hissue), hspent.put_thread _, ?_, ?_,
    fun r _ => Thread.postInc_reg r, ?_, State.spendAccess_mem s1 a⟩
  · rw [Thread.postInc_only]
    rfl
  · rfl
  · rw [Thread.postInc_only]
    rfl

/-! ## Full/empty accesses (R167 to R170) -/

section
variable {t : Thread} {u : AccessUse} {k va : Nat}

theorem AccessUse.Does.loadsFull (h : u.Does t) (hk : (u.access k va).op = .ldfe ∨ (u.access k va).op = .ldff) :
    (u.access k va).dest = some u.e.d ∧ (u.access k va).size = 8 ∧ (u.access k va).ty = u.e.ty := by
  cases h with
  | loadFull op hop h => rw [h]; exact ⟨rfl, rfl, rfl⟩
  | tag op hop h => rw [h] at hk; rcases hop with rfl | rfl <;> rcases hk with hk | hk <;> cases hk
  | load _ h | store h | storeEmpty h | fill _ h | atomic _ _ _ h | swap _ _ _ h | loadCap h =>
    rw [h] at hk; rcases hk with hk | hk <;> cases hk

theorem AccessUse.Does.storesEmpty (h : u.Does t) (hk : (u.access k va).op = .stef) :
    u.access k va = mkAccess t .stef k va 8 (2 ^ (2 * 8) - 1) (t.reg u.e.d) none u.e.ty := by
  cases h with
  | storeEmpty h => exact h k va
  | loadFull op hop h | tag op hop h => rw [h] at hk; rcases hop with rfl | rfl <;> cases hk
  | load _ h | store h | fill _ h | atomic _ _ _ h | swap _ _ _ h | loadCap h => rw [h] at hk; cases hk

theorem AccessUse.Does.fills {empty : Bool} (h : u.Does t) (hk : (u.access k va).op = .fefill empty) : (u.access k va).dest = none := by
  cases h with
  | fill _ h => rw [h]; rfl
  | loadFull op hop h | tag op hop h => rw [h] at hk; rcases hop with rfl | rfl <;> cases hk
  | load _ h | store h | storeEmpty h | atomic _ _ _ h | swap _ _ _ h | loadCap h => rw [h] at hk; cases hk

end

/-- A store of a scalar reads as its value. -/
theorem State.storeAccess_readNum_every {s : State} {a : Access} {v : Nat} (hwf : s.mem.wf = true) (ht : keyTgt a.key ≤ 3)
    (hs : a.size ≤ 16) (hm : a.mask = BitVec.ofNat 32 (2 ^ (2 * a.size) - 1)) :
    (s.storeAccess a v).readNum a.key a.size = v % 2 ^ (8 * a.size) :=
  State.storeAccess_readNum_whole hwf ht hs fun _ hl => hm ▸ bit_allNibbles hs hl

theorem State.foldl_setFull_byte (b : Bool) (l : List (Nat × Nat)) (s : State) (j : Nat) :
    (l.foldl (fun s w => s.setFull w.1 b) s).byte j = s.byte j :=
  foldl_keeps (fun x : State => x.byte j = s.byte j) (fun s (w : Nat × Nat) => s.setFull w.1 b) (fun _ _ h => h) l s rfl

/-- The levels with full/empty bits, and those that perform atomics, lie below the CXL tiers. -/
theorem levelServes_tgt {a : Access} (h : (∃ op, a.op = .atom op) ∨ a.op = .stef ∨ ∃ pair, a.op = .cas pair) (hs : levelServes a = true) :
    keyTgt a.key ≤ 3 := by
  unfold levelServes at hs
  rcases h with ⟨op, h⟩ | h | ⟨pair, h⟩
  · rw [h] at hs
    exact of_decide_eq_true hs
  · rw [h] at hs
    exact of_decide_eq_true (Bool.and_eq_true_iff.1 hs).2
  · rw [h] at hs
    exact of_decide_eq_true hs

/-- A full word that `ldfe` or `ldff` reads keeps its bytes, and `ldfe` empties it. -/
theorem State.perform_loadFull {s : State} {a : Access} (hk : a.op = .ldfe ∨ a.op = .ldff) (hf : s.isFull a.key = true)
    (hb : s.badWord a false = none) (hwf : s.mem.wf = true) :
    ∃ s2, s.perform a = ⟨s2, .ok, s.readNum a.key a.size, false⟩ ∧ (∀ j, s2.byte j = s.byte j) ∧
      ∀ j, s2.isFull j = if a.op = .ldfe ∧ j / 8 = a.key / 8 then false else s.isFull j := by
  have hcalm := State.Calm.readAccess s a
  rcases hk with h | h
  · refine ⟨_, State.perform_ldfe h hf hb, hcalm.byte, fun j => ?_⟩
    rw [State.setFull_isFull (hcalm.wf hwf), hcalm.isFull, h]
    simp
  · refine ⟨_, State.perform_ldff h hf hb, hcalm.byte, fun j => ?_⟩
    rw [hcalm.isFull, h]
    simp

/-- An empty word that `stef` writes holds its 8 bytes, and is full. -/
theorem State.perform_storeEmpty {s : State} {a : Access} (hk : a.op = .stef) (hs : a.size = 8)
    (hm : a.mask = BitVec.ofNat 32 (2 ^ (2 * 8) - 1)) (hf : s.isFull a.key = false) (ht : keyTgt a.key ≤ 3) (hwf : s.mem.wf = true) :
    ∃ s2, s.perform a = ⟨s2, .ok, 0, false⟩ ∧ s.bytesOutside s2 a.key 8 ∧ s2.readNum a.key 8 = a.data.bits.toNat % 2 ^ 64 ∧
      ∀ j, s2.isFull j = if j / 8 = a.key / 8 then true else s.isFull j := by
  have hout := State.storeAccess_bytesOutside (s := s) (v := a.data.bits.toNat) ht
  have hnum := State.storeAccess_readNum_every (v := a.data.bits.toNat) hwf ht (by omega) (hs ▸ hm)
  rw [hs] at hout hnum
  refine ⟨_, State.perform_stef hk hf, hout, hnum, fun j => ?_⟩
  rw [State.setFull_isFull (State.storeAccess_wf _ _ _ hwf), State.storeAccess_isFull]

/-- `fefill` sets the bits of its words alone. -/
theorem State.perform_fill {s : State} {a : Access} {empty : Bool} (hk : a.op = .fefill empty) (hwf : s.mem.wf = true) :
    ∃ s2, s.perform a = ⟨s2, .ok, 0, false⟩ ∧ (∀ j, s2.byte j = s.byte j) ∧
      ∀ j, s2.isFull j = if (∃ w ∈ a.words, w.1 / 8 = j / 8) then !empty else s.isFull j :=
  ⟨_, State.perform_fefill hk, State.foldl_setFull_byte _ _ _, fun j => State.foldl_setFull_isFull _ j _ _ hwf⟩

/-- Settles O19: each finds its bit by the rules of its kind, and with none waiting no other access follows from it. -/
theorem fullEmptyAccesses : Obligations.FullEmptyAccesses := by
  refine ⟨?_, ?_⟩
  · intro i s s1 t u k ht hrow hlive hop a hnow hserves hidle hwf
    have hkey : a.key = k := accessRow_key hrow _
    have hcalm := State.operandAt_spent_calm hop a
    have hserve : ∀ x : State, x.feWait = s.feWait → x.serveAccess a = x := fun x hx => State.serveAccess_idle (hx.trans hidle)
    have hfull1 : (s1.spendAccess a).isFull a.key = s1.isFull k := by rw [hkey, (State.Calm.spendAccess s1 a).isFull]
    refine ⟨fun hkind hfull hbad => ?_, fun hkind hempty => ?_, fun empty hkind => ?_⟩
    · obtain ⟨hd, hsize, hty⟩ := (accessRow_does hrow).loadsFull hkind
      obtain ⟨s2, hp, hmem, hbits⟩ := State.perform_loadFull hkind (hfull1.trans hfull) (State.spendAccess_badWord.trans hbad)
        (hcalm.wf hwf)
      obtain ⟨hexec, hthread, -⟩ := exec_completes ht hrow hlive hop hserves hnow hp hserve
      refine ⟨_, _, hexec, hthread, State.returned_accessDone, Thread.returns_baseMoved_dest hd, ?_,
        fun j => (hmem j).trans (hcalm.byte j), fun j => (hbits j).trans ?_⟩
      · rw [State.accessDone_reg hd, Access.result_plain (by rcases hkind with h | h <;> rw [h] <;> decide)
          (by rcases hkind with h | h <;> rw [h] <;> decide), hcalm.readNum, hkey]
        exact congrArg₂ (fun n ty => (⟨BitVec.ofNat 128 (s.readNum k n), false, ty⟩ : QReg)) hsize hty
      · rw [hcalm.isFull, hkey]
    · have ha := (accessRow_does hrow).storesEmpty hkind
      have hd : a.dest = none := congrArg Access.dest ha
      have hdata : a.data = t.reg u.e.d := congrArg Access.data ha
      obtain ⟨s2, hp, hout, hnum, hbits⟩ := State.perform_storeEmpty hkind (congrArg Access.size ha) (congrArg Access.mask ha)
        (hfull1.trans hempty) (levelServes_tgt (.inr (.inl hkind)) hserves) (hcalm.wf hwf)
      obtain ⟨hexec, hthread, -⟩ := exec_completes ht hrow hlive hop hserves hnow hp hserve
      rw [hkey] at hout hnum hbits
      exact ⟨_, _, hexec, hthread, State.returned_accessDone, Thread.returns_baseMoved_none hd, hcalm.bytesOutside hout,
        hnum.trans (by rw [hdata]), fun j => (hbits j).trans (by rw [hcalm.isFull])⟩
    · have hd := (accessRow_does hrow).fills hkind
      obtain ⟨s2, hp, hmem, hbits⟩ := State.perform_fill hkind (hcalm.wf hwf)
      obtain ⟨hexec, hthread, -⟩ := exec_completes ht hrow hlive hop hserves hnow hp hserve
      exact ⟨_, _, hexec, hthread, State.returned_accessDone, Thread.returns_baseMoved_none hd,
        fun j => (hmem j).trans (hcalm.byte j), fun j => (hbits j).trans (by rw [hcalm.isFull])⟩
  · intro i s s1 t u k ht hrow hlive hop a hnow hserves hkind
    have hkey : a.key = k := accessRow_key hrow _
    have hcalm := State.operandAt_spent_calm hop a
    have hfull1 : (s1.spendAccess a).isFull a.key = s1.isFull k := by rw [hkey, (State.Calm.spendAccess s1 a).isFull]
    have hp : (s1.spendAccess a).perform (s1.located t u.e a) = ⟨s1.spendAccess a, .waits, 0, false⟩ :=
      State.perform_waits (by rw [← hfull1] at hkind; exact hkind)
    have hexec := exec_issues ht hrow hlive hop hserves
    rw [State.issue_performs hnow, State.performOrdinary_waits hp] at hexec
    refine ⟨_, hexec, ?_, ?_, State.spendAccess_mem s1 a⟩
    · exact hcalm.put_thread _
    · show (s1.spendAccess a).feWait ++ [(s1.spendAccess a).cur] = _
      rw [hcalm.feWait, hcalm.cur]

/-! ## Atomics (R171, R172) -/

section
variable {s : State} {a : Access}

/-- An atomic of R171 returns what it found and leaves its new value. -/
theorem State.perform_atomic {op : Nat} (hk : a.op = .atom op) (hb : s.badWord a false = none) (hwf : s.mem.wf = true)
    (ht : keyTgt a.key ≤ 3) (hs : a.size ≤ 8) (hm : a.mask = BitVec.ofNat 32 (2 ^ (2 * a.size) - 1)) :
    ∃ s2, s.perform a = ⟨s2, .ok, s.readNum a.key a.size, false⟩ ∧ s.bytesOutside s2 a.key a.size ∧ (∀ j, s2.isFull j = s.isFull j) ∧
      s2.readNum a.key a.size = atomValue op a.ty.toNat (s.readNum a.key a.size) a.data.lo % 2 ^ (8 * a.size) := by
  have hcalm := State.Calm.readAccess s a
  exact ⟨_, State.perform_atom hk hb, hcalm.bytesOutside (State.storeAccess_bytesOutside ht),
    fun j => (State.storeAccess_isFull _ a _ j).trans (hcalm.isFull j),
    State.storeAccess_readNum_every (hcalm.wf hwf) ht (hs.trans (by decide)) hm⟩

/-- A `cas` returns what it found, and leaves its operand where that is what it expected. -/
theorem State.perform_swap {pair : Option Nat} (hk : a.op = .cas pair) (hb : s.badWord a false = none) (hwf : s.mem.wf = true)
    (ht : keyTgt a.key ≤ 3) (hs : a.size ≤ 8) (hm : a.mask = BitVec.ofNat 32 (2 ^ (2 * a.size) - 1)) :
    ∃ s2, s.perform a = ⟨s2, .ok, s.readNum a.key a.size, false⟩ ∧ s.bytesOutside s2 a.key a.size ∧ (∀ j, s2.isFull j = s.isFull j) ∧
      s2.readNum a.key a.size =
        if s.readNum a.key a.size = a.expected then a.data.bits.toNat % 2 ^ (8 * a.size) else s.readNum a.key a.size := by
  have hcalm := State.Calm.readAccess s a
  refine ⟨_, State.perform_cas hk hb, ?_⟩
  split
  · exact ⟨hcalm.bytesOutside (State.storeAccess_bytesOutside ht), fun j => (State.storeAccess_isFull _ a _ j).trans (hcalm.isFull j),
      State.storeAccess_readNum_every (hcalm.wf hwf) ht (hs.trans (by decide)) hm⟩
  · exact ⟨fun j _ _ => hcalm.byte j, hcalm.isFull, hcalm.readNum _ _⟩

/-- The number of a register's low bytes is that of its low half. -/
theorem QReg.lo_mod (r : QReg) {n : Nat} (hn : n ≤ 8) : r.lo % 2 ^ (8 * n) = r.bits.toNat % 2 ^ (8 * n) := by
  unfold QReg.lo
  exact Nat.mod_mod_of_dvd _ (Nat.pow_dvd_pow 2 (by omega))

end

section
variable {t : Thread} {u : AccessUse} {k va : Nat}

/-- What the accesses of atomics share. -/
def AccessUse.Updates (u : AccessUse) (k va : Nat) : Prop :=
  (u.access k va).dest = some u.e.d ∧ (u.access k va).ty = atomType u.e ∧ (u.access k va).size ≤ 8 ∧
  (u.access k va).mask = BitVec.ofNat 32 (2 ^ (2 * (u.access k va).size) - 1)

theorem AccessUse.Does.updates {op : Nat} (h : u.Does t) (hk : (u.access k va).op = .atom op) : u.Updates k va := by
  unfold AccessUse.Updates
  cases h with
  | atomic _ n hn h => rw [h]; exact ⟨rfl, rfl, hn, rfl⟩
  | loadFull op hop h | tag op hop h => rw [h] at hk; rcases hop with rfl | rfl <;> cases hk
  | load _ h | store h | storeEmpty h | fill _ h | swap _ _ _ h | loadCap h => rw [h] at hk; cases hk

theorem AccessUse.Does.swaps {pair : Option Nat} (h : u.Does t) (hk : (u.access k va).op = .cas pair) :
    u.Updates k va ∧ (u.access k va).expected = (t.reg u.e.d).lo % 2 ^ (8 * (u.access k va).size) := by
  unfold AccessUse.Updates
  cases h with
  | swap _ n hn h => rw [h]; exact ⟨⟨rfl, rfl, hn, rfl⟩, rfl⟩
  | loadFull op hop h | tag op hop h => rw [h] at hk; rcases hop with rfl | rfl <;> cases hk
  | load _ h | store h | storeEmpty h | fill _ h | atomic _ _ _ h | loadCap h => rw [h] at hk; cases hk

end

/-- Settles O20: the home returns the old number to fd, and what it leaves at the key is the new one. -/
theorem atomicsUpdate : Obligations.AtomicsUpdate := by
  intro i s s1 t u k ht hrow hlive hop a hnow hserves hbad hwf old completes
  have hkey : a.key = k := accessRow_key hrow _
  have hcalm := State.operandAt_spent_calm hop a
  have hbad' := State.spendAccess_badWord.trans hbad
  have hold : (s1.spendAccess a).readNum k a.size = old := hcalm.readNum k a.size
  have hcompletes : ∀ s2, (∃ op, a.op = .atom op) ∨ (∃ pair, a.op = .cas pair) → u.Updates k (t.memAddr u.e) →
      (s1.spendAccess a).perform a = ⟨s2, .ok, old, false⟩ → (s1.spendAccess a).bytesOutside s2 k a.size →
      (∀ j, s2.isFull j = (s1.spendAccess a).isFull j) →
      completes (s2.put (s.accessDone t u k old false)) (s.accessDone t u k old false) := by
    rintro s2 hkind ⟨hd, hty, -, -⟩ hp hout hfull
    have hplain : a.op ≠ .load ∧ a.op ≠ .ldcap ∧ a.op ≠ .ldfe ∧ a.op ≠ .stef ∧ ∀ empty, a.op ≠ .fefill empty := by
      rcases hkind with ⟨op, h⟩ | ⟨pair, h⟩ <;> simp [h]
    obtain ⟨h1, h2, hidle⟩ := hplain
    obtain ⟨hexec, hthread, -⟩ := exec_completes ht hrow hlive hop hserves hnow hp fun x _ => State.serveAccess_plain hidle
    refine ⟨hexec, hthread, State.returned_accessDone, Thread.returns_baseMoved_dest hd, ?_, hcalm.bytesOutside hout,
      fun j => (hfull j).trans (hcalm.isFull j)⟩
    rw [State.accessDone_reg hd, Access.result_plain h1 h2, hty]
  refine ⟨fun op hk => ?_, fun pair hk => ?_⟩
  · have hu := (accessRow_does hrow).updates hk
    have ⟨_, hty, hsize, hmask⟩ := hu
    obtain ⟨s2, hp, hout, hfull, hnum⟩ :=
      State.perform_atomic hk hbad' (hcalm.wf hwf) (levelServes_tgt (.inl ⟨op, hk⟩) hserves) hsize hmask
    rw [hkey] at hp hout hnum
    rw [hold] at hp hnum
    refine ⟨_, _, hcompletes s2 (.inl ⟨op, hk⟩) hu hp hout hfull, ?_, fun new hnew => ?_⟩
    · exact Thread.returns_p (fun _ h => AccessOp.noConfusion (hk.symm.trans h)) fun _ h => AccessOp.noConfusion (hk.symm.trans h)
    · rw [← hty] at hnew
      rw [← atomValue_of_atomNew hnew]
      exact State.put_readNum.trans hnum
  · obtain ⟨hu, hexp⟩ := (accessRow_does hrow).swaps hk
    have ⟨_, _, hsize, hmask⟩ := hu
    obtain ⟨s2, hp, hout, hfull, hnum⟩ :=
      State.perform_swap hk hbad' (hcalm.wf hwf) (levelServes_tgt (.inr (.inr ⟨pair, hk⟩)) hserves) hsize hmask
    rw [hkey] at hp hout hnum
    rw [hold] at hp hnum
    refine ⟨_, _, hcompletes s2 (.inr ⟨pair, hk⟩) hu hp hout hfull, ?_, State.put_readNum.trans (hnum.trans ?_)⟩
    · rintro rfl
      refine Thread.returns_p (fun _ h => ?_) fun _ h => AccessOp.noConfusion (hk.symm.trans h)
      injection hk.symm.trans h with h
      cases h
    · rw [hexp, ← QReg.lo_mod _ hsize]

end Sys2Proof.Machine
end

section
/-!
PROOF. A store to CXL flash whose byte and whose word have their tag bits in two bytes of the tag region: the counterexample to the
statement on stores (08 R166, 22 R369, log 83).

The model numbers the granules of TGT 5 after those of the CXL DRAM, from its capacity. Where that is not a multiple of 16, the bytes of
one word lie in two numbered granules. Here the capacity is 127: flash byte 0 is in granule 7, whose tag bit is in byte 0 of the tag
region, and flash byte 1 in granule 8, whose tag bit is in byte 1. A store of flash byte 1 clears the tag bit of its word's key, that of
flash byte 0.
-/
namespace Sys2Proof.Machine.UnevenTier

/-- A page of CXL flash at address 0 of context 0, readable and writable. -/
def flashPage : Translation := { ctx := 0, base := 0, size := 4096, leaf := 2 ^ 63 + 2 ^ 62 + 2 ^ 61 + 5 * 2 ^ 52 }

/-- A thread with a capability of SPACE 3 at address 1 in q1. -/
def storer : Thread := (Thread.blank.setPred 0 0xFFFFFFFF).setReg 1 (memCap 0x3FF 3 0 0x10000 1)

/-- A machine with 127 bytes of CXL DRAM, whose tag region, at HBM byte 0, has the tag bit of granule 7 set. -/
def machine : State :=
  ({ State.reset with
      mem := { Memory.empty with bytes := [(0, 0x80)] }, cxlDram := 127, cxlFlash := 4096, cur := 0
      slots := [(0, { Slot.empty with quota := 1, thread := some storer })] } : State).setGrove 0 { Grove.empty with tlb := [flashPage] }

/-- `sts` of one byte of q0 at q1. -/
def storeByte : Fields := { form := .ext, g := 0xFF, d := 0, a := 1, b := 0, c := 0, xop := 0, ty := 1, mod := 0, imm := 0, lit := 0 }

def use : AccessUse := scalarUse storer storeByte (scalarBytes storeByte) (storeOk storeByte (storer.reg storeByte.d)) permPS [.store] .store
  (storer.reg storeByte.d) none storeByte.ty

/-- The key of flash byte 1. -/
def key : Nat := memKey 0 5 1

theorem use_live : use.live storer := by unfold AccessUse.live; decide +kernel

theorem operandAt : machine.operandAt storer use machine key :=
  ⟨by decide +kernel, by decide +kernel, by decide +kernel, .inr ⟨by decide +kernel, by decide +kernel,
    by unfold State.reachedNow; decide +kernel, flashPage, State.translate_held (by decide +kernel) (by decide +kernel),
    by decide +kernel, by decide +kernel⟩⟩

theorem performsNow : machine.performsNow storer use (use.access key (storer.memAddr use.e)) := by unfold State.performsNow; decide +kernel

/-- The tag bit of flash byte 1 is in byte 1 of the tag region. -/
theorem not_isTagByte_zero : ¬ machine.isTagByte key 0 := by
  rintro ⟨-, g, hg, h0⟩
  obtain rfl : 8 = g := Option.some.inj ((show machine.cxlGranule key = some 8 by decide +kernel).symm.trans hg)
  exact absurd h0 (by decide +kernel)

/-- The store clears byte 0 of the tag region. -/
theorem store_clears_zero {s' : State} (h : exec (.stsX storeByte) machine = .next s') : s'.byte 0 = 0 := by
  have hrun : (match exec (.stsX storeByte) machine with | .next s => s.byte 0 == 0 | _ => false) = true := by decide +kernel
  rw [h] at hrun
  exact eq_of_beq hrun

end Sys2Proof.Machine.UnevenTier

namespace Sys2Proof.Machine

/-- Refutes O18: with a CXL DRAM capacity that is no multiple of 16, which no hypothesis excludes, a store to flash writes a byte of the
tag region that holds no tag bit of the granules of its bytes. -/
theorem not_storesWrite : ¬ Obligations.StoresWrite := by
  intro h
  obtain ⟨s', t', hexec, -, -, -, -, -, -, hout, -⟩ := h (.stsX UnevenTier.storeByte) UnevenTier.machine UnevenTier.machine UnevenTier.storer
    UnevenTier.use UnevenTier.key (by decide +kernel) rfl UnevenTier.use_live UnevenTier.operandAt (.inl rfl) UnevenTier.performsNow
    (by decide +kernel) (fun _ => by decide +kernel)
  have hkept : s'.byte 0 = UnevenTier.machine.byte 0 :=
    hout 0 (.inl (by decide +kernel)) fun i hi => by
      obtain rfl : i = 0 := Nat.lt_one_iff.1 hi
      exact UnevenTier.not_isTagByte_zero
  rw [UnevenTier.store_clears_zero hexec] at hkept
  exact absurd hkept (by decide +kernel)

end Sys2Proof.Machine
end

section
/-!
PROOF. A relaxed load that meets a double-bit error which nothing has met before: the counterexample to the statement on the events of
threads (26 R417).

The load marks the word as poisoned and counts an uncorrectable error, so that its error is not all that the event leaves.
-/
namespace Sys2Proof.Machine.UnmetError

/-- A relaxed load of the 8 bytes of HBM at 0, whose home has yet to perform it. -/
def load : Relaxed :=
  { acc := mkAccess Thread.blank .load 0 0 8 (2 ^ (2 * 8) - 1) QReg.zero (some 5) 4, acq := false, rel := false, scope := 0, req := 0, low := none }

def loader : Thread := { Thread.blank with rx := [load] }

/-- A machine with a double-bit error in the first word of HBM, and the thread in slot 0. -/
def machine : State :=
  { State.reset with
      mem := { Memory.empty with double := [0] }, arg := Arg.none, slots := [(0, { Slot.empty with quota := 1, thread := some loader })] }

theorem tidy : machine.Tidy := by constructor <;> decide +kernel

/-- The event leaves no unmet error. -/
theorem event_meets_error {s' : State} (h : exec .relaxedAccessDone machine = .next s') : s'.mem.double = [] := by
  have hrun : (match exec .relaxedAccessDone machine with | .next s => s.mem.double == [] | _ => false) = true := by decide +kernel
  rw [h] at hrun
  exact eq_of_beq hrun

end Sys2Proof.Machine.UnmetError

namespace Sys2Proof.Machine

/-- Refutes O46: the clause on a relaxed load that meets an error has memory and the error counts as they were, but a double-bit error
met for the first time becomes poison. -/
theorem not_threadEvents : ¬ Obligations.ThreadEvents := by
  intro h
  obtain ⟨-, hrelaxed, -⟩ := h.1 UnmetError.machine UnmetError.loader (by decide +kernel) UnmetError.tidy
  obtain ⟨hwhole, -⟩ := hrelaxed UnmetError.load [] rfl rfl (by decide +kernel) (by decide +kernel)
  obtain ⟨-, -, herror⟩ := hwhole rfl (.inl (by decide +kernel))
  have hnext := herror 0 rfl (by decide +kernel) rfl
  have hmet := UnmetError.event_meets_error hnext
  exact absurd hmet (by decide +kernel)

end Sys2Proof.Machine
end

section
/-!
PROOF. A host write of one byte to the machine of `UnevenTier`: the counterexample to the statement on the events of the system (09 R207,
22 R369, log 83).

The write of flash byte 1, whose tag bit is in byte 1 of the tag region, clears the tag bit of its word's key as a thread's store does,
and so changes byte 0 of the region. A capacity of the CXL DRAM that is a multiple of 16 excludes this; `State.Tidy` does not ask for one.
-/
namespace Sys2Proof.Machine.UnevenTier

/-- The machine after boot, with a request of host function 0 to write 1 to flash byte 1. -/
def hosted : State :=
  { machine with boot := { Boot.reset with stage := 5 }, arg := { Arg.none with index2 := 1, addr := key, data := [1] } }

theorem hosted_tidy : hosted.Tidy := by constructor <;> decide +kernel

/-- The only byte that holds a tag bit of what the host writes is byte 1 of the tag region. -/
theorem eq_one_of_isTagByte_hosted {j : Nat} (h : hosted.isTagByte key j) : j = 1 := by
  obtain ⟨-, g, hg, hj⟩ := h
  obtain rfl : 8 = g := Option.some.inj ((show hosted.cxlGranule key = some 8 by decide +kernel).symm.trans hg)
  exact hj.trans (by decide +kernel)

/-- No tag bit of what the host writes stands in what it writes. -/
theorem hosted_tagsClear : hosted.tagsClear key 1 key 1 := by
  intro i j hi hj h
  obtain rfl : i = 0 := Nat.lt_one_iff.1 hi
  obtain rfl : j = 0 := Nat.lt_one_iff.1 hj
  exact absurd (eq_one_of_isTagByte_hosted h) (by decide +kernel)

/-- The host's write clears byte 0 of the tag region. -/
theorem hostRequest_clears_zero {s' : State} (h : exec .hostRequest hosted = .next s') : s'.byte 0 = 0 := by
  have hrun : (match exec .hostRequest hosted with | .next s => s.byte 0 == 0 | _ => false) = true := by decide +kernel
  rw [h] at hrun
  exact eq_of_beq hrun

end Sys2Proof.Machine.UnevenTier

namespace Sys2Proof.Machine

/-- Refutes O53: the clause on a write by the host keeps every byte but those written and those with the tag bits of their granules, but
where the capacity of the CXL DRAM is no multiple of 16, the write clears a tag bit in another byte. -/
theorem not_systemEvents : ¬ Obligations.SystemEvents := by
  intro h
  obtain ⟨-, hhost, -⟩ := h UnevenTier.hosted UnevenTier.hosted_tidy
  obtain ⟨-, -, -, hwrite, -⟩ := hhost (by decide +kernel) (by decide +kernel)
  obtain ⟨s', hexec, -, hout, -⟩ := hwrite UnevenTier.key (.inl ⟨rfl, rfl⟩) (by decide +kernel) (fun _ _ _ => rfl)
    UnevenTier.hosted_tagsClear
  have hkept : s'.byte 0 = UnevenTier.hosted.byte 0 :=
    hout 0 (.inl (by decide +kernel)) fun i hi htag => by
      obtain rfl : i = 0 := Nat.lt_one_iff.1 hi
      exact absurd (UnevenTier.eq_one_of_isTagByte_hosted htag) (by decide)
  rw [UnevenTier.hostRequest_clears_zero hexec] at hkept
  exact absurd hkept (by decide +kernel)

end Sys2Proof.Machine
end

section
/-!
PROOF. What the operations on an engine queue leave (15 R277 to R286): one lemma for each of what it changes, and one for the queue
that results.
-/
namespace Sys2Proof.Machine

section
variable {s : State} {k : Nat} {op : EngineOp}

/-! ## The issuer's counters and the task (R201, R213, 13 R259) -/

theorem State.countOp_only (s : State) (gtid : Word64) (tile : Bool) (f : Nat → Nat) :
    s.countOp gtid tile f = { s with slots := (s.countOp gtid tile f).slots, ctxs := (s.countOp gtid tile f).ctxs } := by
  unfold State.countOp
  dsimp only
  split
  · split <;> rfl
  · rfl

theorem State.uncount_only (s : State) (op : EngineOp) (code : Nat) :
    s.uncount op code = { s with slots := (s.uncount op code).slots, ctxs := (s.uncount op code).ctxs } := by
  unfold State.uncount
  split
  · rfl
  · rw [State.countOp_only]

theorem State.failTask_only (s : State) (op : EngineOp) : s.failTask op = { s with graphs := (s.failTask op).graphs } := by
  unfold State.failTask
  split <;> rfl

theorem State.uncount_of_isTask (h : op.isTask = true) (s : State) (code : Nat) : s.uncount op code = s := by
  unfold State.uncount
  rw [if_pos h]

@[simp] theorem State.uncount_mem (s : State) (op : EngineOp) (code : Nat) : (s.uncount op code).mem = s.mem := by
  rw [State.uncount_only]
@[simp] theorem State.uncount_queue (s : State) (op : EngineOp) (code j : Nat) : (s.uncount op code).queue j = s.queue j := by
  rw [State.uncount_only]; rfl
@[simp] theorem State.failTask_mem (s : State) (op : EngineOp) : (s.failTask op).mem = s.mem := by rw [State.failTask_only]
@[simp] theorem State.failTask_queue (s : State) (op : EngineOp) (j : Nat) : (s.failTask op).queue j = s.queue j := by
  rw [State.failTask_only]; rfl
@[simp] theorem State.failTask_ctx (s : State) (op : EngineOp) (c : Nat) : (s.failTask op).ctx c = s.ctx c := by
  rw [State.failTask_only]; rfl

/-! ## Heads -/

theorem Queue.ne_empty_of_ops {q : Queue} (h : q.ops ≠ []) : q ≠ Queue.empty := fun e => h (congrArg Queue.ops e)

theorem State.stampHead_queue (h : (s.queue k).ops ≠ []) : (s.stampHead k).queue k = { s.queue k with since := s.stamp } :=
  State.setQueue_queue_ne s k _ (Queue.ne_empty_of_ops h)

@[simp] theorem State.stampHead_queue_other {j : Nat} (h : j ≠ k) : (s.stampHead k).queue j = s.queue j :=
  State.setQueue_queue_other s k j _ h

/-- A new head begins without progress. -/
theorem State.newHead_queue (h : (s.queue k).ops ≠ []) :
    (s.newHead k).queue k = { s.queue k with prog := 0, restarts := 0, rrow := 0, since := s.stamp } := by
  have hset := State.setQueue_queue_ne s k { s.queue k with prog := 0, restarts := 0, rrow := 0 } (Queue.ne_empty_of_ops h)
  unfold State.newHead
  rw [State.stampHead_queue (by rw [hset]; exact h), hset]
  rfl

@[simp] theorem State.newHead_queue_other {j : Nat} (h : j ≠ k) : (s.newHead k).queue j = s.queue j := by
  unfold State.newHead
  rw [State.stampHead_queue_other h, State.setQueue_queue_other s k j _ h]

/-- A queue whose head has left, before the next begins to wait. -/
def Queue.popped (q : Queue) : Queue :=
  { q with ops := q.ops.drop 1, unit := 0, started := false, headEnded := false, recompute := false, rowBuf := []
           snap := none, ahead := [], loop := none, plan := [], planEnd := 0, planGens := [], whole := false, stopping := 0 }

theorem State.popHead_only (s : State) (k : Nat) :
    s.popHead k = { s with queues := (s.popHead k).queues, far := (s.popHead k).far, stamp := (s.popHead k).stamp } := by
  unfold State.popHead
  dsimp only
  split <;> rfl

theorem State.popHead_queue (h : s.Tidy) : (s.popHead k).queue k =
    if 1 < (s.queue k).ops.length then { (s.queue k).popped with prog := 0, restarts := 0, rrow := 0, since := s.stamp }
    else (s.queue k).popped := by
  have hset : ((s.setQueue k (s.queue k).popped).setFar k []).queue k = (s.queue k).popped :=
    State.setQueue_queue_of s k _ h.queues
  show (if 1 < (s.queue k).ops.length then ((s.setQueue k (s.queue k).popped).setFar k []).newHead k
    else (s.setQueue k (s.queue k).popped).setFar k []).queue k = _
  split
  next hlen =>
    rw [State.newHead_queue, hset]
    · rfl
    · rw [hset, Queue.popped, ne_eq, List.drop_eq_nil_iff]
      omega
  next => exact hset

@[simp] theorem State.popHead_mem (s : State) (k : Nat) : (s.popHead k).mem = s.mem := by rw [State.popHead_only]

@[simp] theorem State.popHead_queue_other {j : Nat} (h : j ≠ k) : (s.popHead k).queue j = s.queue j := by
  have hset : ((s.setQueue k (s.queue k).popped).setFar k []).queue j = s.queue j := State.setQueue_queue_other s k j _ h
  unfold State.popHead
  dsimp only
  split
  · exact (State.newHead_queue_other h).trans hset
  · exact hset

/-- What a queue keeps when its head leaves: all but what it holds of the head. -/
theorem State.popHead_keeps (h : s.Tidy) : ((s.popHead k).queue k).ops = (s.queue k).ops.drop 1 ∧ ((s.popHead k).queue k).unit = 0 ∧
    ((s.popHead k).queue k).mode = (s.queue k).mode ∧ ((s.popHead k).queue k).done = (s.queue k).done ∧
    ((s.popHead k).queue k).exlat = (s.queue k).exlat ∧ ((s.popHead k).queue k).edata = (s.queue k).edata ∧
    ((s.popHead k).queue k).eres = (s.queue k).eres := by
  rw [State.popHead_queue h]
  split <;> exact ⟨rfl, rfl, rfl, rfl, rfl, rfl, rfl⟩

/-! ## Entries -/

theorem Queue.ended_ops (q : Queue) (op : EngineOp) : (q.ended op).ops = q.ops := by
  unfold Queue.ended
  split <;> rfl
theorem Queue.ended_prog (q : Queue) (op : EngineOp) : (q.ended op).prog = q.prog := by
  unfold Queue.ended
  split <;> rfl

end

end Sys2Proof.Machine
end

section
/-!
PROOF. How the head of an engine queue ends, and what its issuer and its context's handler learn of it (15 R280, 17 R308, 13 R259).
-/
namespace Sys2Proof.Machine

/-! ## The issuer (R201) -/

/-- An entry of a table in order is the value at its key. -/
theorem Store.get_of_mem {α : Type} (d : α) {m : Store α} {k : Nat} {v : α} (hr : Store.rising m = true) (h : (k, v) ∈ m) :
    Store.get d m k = v := by
  induction m with
  | nil => cases h
  | cons e r ih =>
    rw [Store.rising_cons, Bool.and_eq_true] at hr
    rcases List.mem_cons.1 h with rfl | hmem
    · exact if_pos rfl
    · have hlt : e.1 < k := of_decide_eq_true (List.all_eq_true.1 hr.1 _ hmem)
      rw [Store.get, if_neg (Nat.ne_of_lt hlt)]
      exact ih hr.2 hmem

section
variable {s : State} {k n : Nat} {op : EngineOp} {r : List EngineOp} {t : Thread}

/-- A slot with a thread is listed. -/
theorem State.slot_mem_of_thread (h : s.thread n = some t) : (n, s.slot n) ∈ s.slots := by
  rcases Store.get_mem Slot.empty s.slots n with hn | hm
  · rw [State.thread, State.slot, hn] at h
    cases h
  · exact hm

/-- Where one placed thread alone has the identifier, its counter changes. -/
theorem State.countOp_thread {gtid : Word64} (tile : Bool) (f : Nat → Nat) (hs : Store.rising s.slots = true)
    (hone : ∀ x ∈ s.slots, x.1 ≠ n → ∀ u, x.2.thread = some u → u.gtid ≠ gtid) (ht : s.thread n = some t) (hg : t.gtid = gtid) :
    (s.countOp gtid tile f).thread n = some (if tile then { t with tl := f t.tl } else { t with cp := f t.cp }) := by
  have hn : (match (s.slot n).thread with | some t => t.gtid == gtid | none => false) = true := by
    rw [show (s.slot n).thread = some t from ht]
    exact beq_iff_eq.2 hg
  unfold State.countOp
  dsimp only
  split
  next x hx =>
    have hmem := List.mem_of_find?_eq_some hx
    have hp := List.find?_some hx
    have hkey : x.1 = n := by
      by_contra hne
      cases hu : x.2.thread with
      | none => simp [hu] at hp
      | some u => exact hone x hmem hne u hu (by simpa [hu] using hp)
    have hslot : x.2.thread = some t := by
      rw [← Store.get_of_mem Slot.empty hs (show (x.1, x.2) ∈ s.slots from hmem), hkey]
      exact ht
    rw [hslot, hkey]
    exact State.setThread_thread ..
  next hx => exact absurd hn (List.find?_eq_none.1 hx _ (State.slot_mem_of_thread ht))

/-- The counter of the entry's issuer falls. -/
theorem State.uncount_thread (hs : Store.rising s.slots = true) (htask : op.isTask = false)
    (hone : ∀ x ∈ s.slots, x.1 ≠ n → ∀ u, x.2.thread = some u → u.gtid ≠ op.gtid) (ht : s.thread n = some t) (hg : t.gtid = op.gtid)
    (code : Nat) :
    (s.uncount op code).thread n = some (if code ≤ 4 then { t with tl := t.tl - 1 } else { t with cp := t.cp - 1 }) := by
  unfold State.uncount
  rw [if_neg (by simp [htask]), State.countOp_thread _ _ hs hone ht hg]
  simp only [decide_eq_true_eq]

/-! ## Messages (17 R308) -/

theorem State.countEvent_messages (h : s.Tidy) (c ev m d : Nat) : ((s.countEvent c ev m).ctx d).messages = (s.ctx d).messages := by
  unfold State.countEvent
  dsimp only
  split
  · by_cases hd : d = c
    · subst hd
      rw [State.setCtx_ctx_of s d _ h.ctxs]
    · rw [State.setCtx_ctx_other s c d _ hd]
  · rfl

theorem State.postMessage_messages (h : s.Tidy) (c : Nat) (m : Message) :
    ((s.postMessage c m).ctx c).messages = (s.ctx c).messages ++ [m] := by
  have hhold : s.holdMessage c m = s.setCtx c { s.ctx c with messages := (s.ctx c).messages ++ [m] } := rfl
  have htidy : (s.holdMessage c m).Tidy := h.editCtx
  rw [State.postMessage, State.countEvent_messages htidy, hhold, State.setCtx_ctx_of s c _ h.ctxs]

theorem State.uncount_messages (h : s.Tidy) (op : EngineOp) (code c : Nat) :
    ((s.uncount op code).ctx c).messages = (s.ctx c).messages := by
  unfold State.uncount
  split
  · rfl
  · unfold State.countOp
    dsimp only
    split
    · split <;> rfl
    · by_cases hc : c = op.gtid.toNat / 2 ^ 52
      · subst hc
        rw [State.setCtx_ctx_of s _ _ h.ctxs]
      · rw [State.setCtx_ctx_other s _ c _ hc]

/-- Two 64-bit halves side by side. -/
theorem lanes64_bits (lo hi : Nat) (tag : BitVec 5) : (lanes64 lo hi tag).bits = BitVec.ofNat 64 hi ++ BitVec.ofNat 64 lo := by
  have hlo : lo % 2 ^ 64 < 2 ^ 64 := Nat.mod_lt _ (Nat.two_pow_pos 64)
  have hhi : hi % 2 ^ 64 < 2 ^ 64 := Nat.mod_lt _ (Nat.two_pow_pos 64)
  have hfit : hi % 2 ^ 64 * 2 ^ 64 + lo % 2 ^ 64 < 2 ^ 128 := by omega
  refine BitVec.eq_of_toNat_eq ?_
  rw [lanes64, BitVec.toNat_append, BitVec.toNat_ofNat, BitVec.toNat_ofNat, BitVec.toNat_ofNat,
    ← Nat.shiftLeft_add_eq_or_of_lt hlo, Nat.shiftLeft_eq, Nat.mod_eq_of_lt hfit]

theorem State.queueMessage_only (s : State) (k kind cause addr : Nat) :
    s.queueMessage k kind cause addr = { s with ctxs := (s.queueMessage k kind cause addr).ctxs } := by
  unfold State.queueMessage
  rw [State.postMessage_only]

@[simp] theorem State.queueMessage_mem (s : State) (k kind cause addr : Nat) : (s.queueMessage k kind cause addr).mem = s.mem := by
  rw [State.queueMessage_only]
@[simp] theorem State.queueMessage_queue (s : State) (k kind cause addr j : Nat) :
    (s.queueMessage k kind cause addr).queue j = s.queue j := by
  rw [State.queueMessage_only]; rfl
@[simp] theorem State.queueMessage_graph (s : State) (k kind cause addr g : Nat) :
    (s.queueMessage k kind cause addr).graph g = s.graph g := by
  rw [State.queueMessage_only]; rfl

theorem State.queueMessage_messages (h : s.Tidy) (k kind cause addr : Nat) :
    ((s.queueMessage k kind cause addr).ctx (keyCtx k)).messages =
      (s.ctx (keyCtx k)).messages ++ [queueNote k kind cause (s.queue k).prog addr] := by
  have hcause : causeWord kind cause 0 1 0 = kind * 2 ^ 56 + cause * 2 ^ 48 + 0 * 2 ^ 40 + 2 ^ 38 := by simp [causeWord]
  unfold State.queueMessage queueNote messageHead messageTail
  rw [State.postMessage_messages h, lanes64_bits, lanes64_bits, hcause]

/-! ## Halts and freezes (R280) -/

/-- A translation fault halts the queue with its head and its progress. -/
theorem State.haltTranslation_spec (h : s.Tidy) (k a : Nat) :
    (s.haltTranslation k a).queue k = { s.queue k with mode := .halted, unit := 0, exlat := true } ∧
    (s.haltTranslation k a).mem = s.mem ∧ ((s.haltTranslation k a).ctx (keyCtx k)).messages =
      (s.ctx (keyCtx k)).messages ++ [queueNote k 10 1 (s.queue k).prog a] := by
  have hset := State.setQueue_queue_of s k { s.queue k with mode := .halted, unit := 0, exlat := true } h.queues
  unfold State.haltTranslation
  dsimp only
  rw [State.queueMessage_messages h.setQueue, State.queueMessage_queue, State.queueMessage_mem, hset]
  exact ⟨rfl, rfl, rfl⟩

/-- A violation freezes the queue. -/
theorem State.freezeQueue_spec (h : s.Tidy) (k kind a : Nat) :
    (s.freezeQueue k kind a).queue k = { s.queue k with mode := .frozen, unit := 0, ecap := true } ∧
    (s.freezeQueue k kind a).mem = s.mem ∧ ((s.freezeQueue k kind a).ctx (keyCtx k)).messages =
      (s.ctx (keyCtx k)).messages ++ [queueNote k kind 0 (s.queue k).prog a] := by
  have hset := State.setQueue_queue_of s k { s.queue k with mode := .frozen, unit := 0, ecap := true } h.queues
  unfold State.freezeQueue
  dsimp only
  rw [State.queueMessage_messages h.setQueue, State.queueMessage_queue, State.queueMessage_mem, hset]
  exact ⟨rfl, rfl, rfl⟩

/-- A task that an entry performs fails with it. -/
theorem State.failTask_failed {g : Nat} (h : s.Tidy) (htask : op.isTask = true) (hg : s.graphOf op.gtid = some g)
    (hlen : op.gtid.toNat / 2 ^ 16 % 2 ^ 16 < (s.graph g).tasks.length) :
    (((s.failTask op).graph g).task (op.gtid.toNat / 2 ^ 16 % 2 ^ 16)).failed = true := by
  have htaskOf : s.taskOf op = some (g, op.gtid.toNat / 2 ^ 16 % 2 ^ 16) := by
    rw [State.taskOf, if_pos htask, hg]
    rfl
  unfold State.failTask
  rw [htaskOf]
  dsimp only
  rw [State.setGraph_graph_of s g _ h.graphs, Graph.task, List.getElem?_mapIdx, List.getElem?_eq_getElem hlen]
  simp

/-- A queue whose head has ended with an error: 2 of data, 3 of residues. -/
def Queue.endedWith (q : Queue) (op : EngineOp) (cause : Nat) : Queue :=
  { q.ended op with mode := .halted, unit := 0, headEnded := true, done := ((q.ended op).done + 1) % 2 ^ 16
                    edata := (q.ended op).edata || cause == 2, eres := (q.ended op).eres || cause == 3 }

/-- An error ends the head, which stays in the halted queue, and fails its task. -/
theorem State.haltEnded_spec (h : s.Tidy) (hops : (s.queue k).ops = op :: r) (cause a : Nat) :
    (s.haltEnded k cause a).queue k = (s.queue k).endedWith op cause ∧ (s.haltEnded k cause a).mem = s.mem ∧
    ((s.haltEnded k cause a).ctx (keyCtx k)).messages =
      (s.ctx (keyCtx k)).messages ++ [queueNote k 10 cause (s.queue k).prog a] ∧
    ∀ g, op.isTask = true → s.graphOf op.gtid = some g → op.gtid.toNat / 2 ^ 16 % 2 ^ 16 < (s.graph g).tasks.length →
      (((s.haltEnded k cause a).graph g).task (op.gtid.toNat / 2 ^ 16 % 2 ^ 16)).failed = true := by
  have hset := State.setQueue_queue_of s k ((s.queue k).endedWith op cause) h.queues
  have htidy : ((s.setQueue k ((s.queue k).endedWith op cause)).uncount op (keyCode k)).Tidy := h.setQueue.uncount
  have hhalt : s.haltEnded k cause a =
      (((s.setQueue k ((s.queue k).endedWith op cause)).uncount op (keyCode k)).failTask op).queueMessage k 10 cause a := by
    unfold State.haltEnded
    dsimp only
    rw [hops]
    rfl
  rw [hhalt]
  refine ⟨?_, ?_, ?_, fun g htask hg hlen => ?_⟩
  · rw [State.queueMessage_queue, State.failTask_queue, State.uncount_queue, hset]
  · rw [State.queueMessage_mem, State.failTask_mem, State.uncount_mem]
    rfl
  · rw [State.queueMessage_messages htidy.failTask, State.failTask_ctx, State.uncount_messages h.setQueue, State.failTask_queue,
      State.uncount_queue, hset]
    simp only [Queue.endedWith, Queue.ended_prog]
    rfl
  · rw [State.queueMessage_graph]
    refine State.failTask_failed htidy htask ?_ ?_
    · rw [State.uncount_of_isTask htask]
      exact hg
    · rw [State.uncount_of_isTask htask]
      exact hlen

theorem Queue.endedWith_ops (q : Queue) (op : EngineOp) (cause : Nat) : (q.endedWith op cause).ops = q.ops := Queue.ended_ops q op

/-! ## Ends and discards (R201, R260) -/

/-- A head that ends whole is counted in DONE and leaves. -/
theorem State.endHead_cons (hops : (s.queue k).ops = op :: r) : s.endHead k =
    ((s.setQueue k { (s.queue k).ended op with done := ((s.queue k).done + 1) % 2 ^ 16 }).uncount op (keyCode k)).popHead k := by
  unfold State.endHead
  rw [hops]

theorem State.endHead_queue (h : s.Tidy) (hops : (s.queue k).ops = op :: r) : ((s.endHead k).queue k).ops = r ∧
    ((s.endHead k).queue k).unit = 0 ∧ ((s.endHead k).queue k).done = ((s.queue k).done + 1) % 2 ^ 16 := by
  have hset := State.setQueue_queue_of s k { (s.queue k).ended op with done := ((s.queue k).done + 1) % 2 ^ 16 } h.queues
  have hx : ((s.setQueue k { (s.queue k).ended op with done := ((s.queue k).done + 1) % 2 ^ 16 }).uncount op (keyCode k)).Tidy :=
    h.setQueue.uncount
  obtain ⟨hrest, hunit, -, hdone, -⟩ := State.popHead_keeps (k := k) hx
  rw [State.endHead_cons hops]
  refine ⟨?_, hunit, ?_⟩
  · rw [hrest, State.uncount_queue, hset]
    simp only [Queue.ended_ops, hops, List.drop_succ_cons, List.drop_zero]
  · rw [hdone, State.uncount_queue, hset]

@[simp] theorem State.endHead_mem (s : State) (k : Nat) : (s.endHead k).mem = s.mem := by
  unfold State.endHead
  split
  · rfl
  · rw [State.popHead_mem, State.uncount_mem]
    rfl

@[simp] theorem State.endHead_queue_other {j : Nat} (h : j ≠ k) : (s.endHead k).queue j = s.queue j := by
  unfold State.endHead
  split
  · rfl
  · rw [State.popHead_queue_other h, State.uncount_queue, State.setQueue_queue_other _ _ _ _ h]

theorem State.endHead_thread (h : s.Tidy) (hops : (s.queue k).ops = op :: r) (htask : op.isTask = false)
    (hone : ∀ x ∈ s.slots, x.1 ≠ n → ∀ u, x.2.thread = some u → u.gtid ≠ op.gtid) (ht : s.thread n = some t) (hg : t.gtid = op.gtid) :
    (s.endHead k).thread n = some (if keyCode k ≤ 4 then { t with tl := t.tl - 1 } else { t with cp := t.cp - 1 }) := by
  rw [State.endHead_cons hops, State.popHead_only]
  exact State.uncount_thread (s := s.setQueue k _) h.slots htask hone ht hg (keyCode k)

/-- The end of a task's operation changes no thread and no graph. -/
theorem State.endHead_of_isTask (hops : (s.queue k).ops = op :: r) (htask : op.isTask = true) :
    (s.endHead k).slots = s.slots ∧ (s.endHead k).graphs = s.graphs := by
  rw [State.endHead_cons hops, State.uncount_of_isTask htask, State.popHead_only]
  exact ⟨rfl, rfl⟩

/-- A discarded head leaves its queue. -/
theorem State.discardOp_head (hops : (s.queue k).ops = op :: r) : s.discardOp k op =
    (if (s.queue k).headEnded then s else (s.uncount op (keyCode k)).failTask op).popHead k := by
  unfold State.discardOp
  simp [hops]

theorem State.discardOp_queue (h : s.Tidy) (hops : (s.queue k).ops = op :: r) : ((s.discardOp k op).queue k).ops = r ∧
    ((s.discardOp k op).queue k).unit = 0 ∧ (s.discardOp k op).mem = s.mem := by
  have hx : (if (s.queue k).headEnded then s else (s.uncount op (keyCode k)).failTask op).Tidy := h.ite h.uncount.failTask
  have hqueue : (if (s.queue k).headEnded then s else (s.uncount op (keyCode k)).failTask op).queue k = s.queue k := by
    split
    · rfl
    · rw [State.failTask_queue, State.uncount_queue]
  have hmem : (if (s.queue k).headEnded then s else (s.uncount op (keyCode k)).failTask op).mem = s.mem := by
    split
    · rfl
    · rw [State.failTask_mem, State.uncount_mem]
  obtain ⟨hrest, hunit, -⟩ := State.popHead_keeps (k := k) hx
  rw [State.discardOp_head hops]
  refine ⟨?_, hunit, ?_⟩
  · rw [hrest, hqueue, hops]
    rfl
  · rw [State.popHead_mem, hmem]

end

end Sys2Proof.Machine
end

section
/-!
PROOF. What an engine's look-up of an address leaves (11 R239, 22 R362 to R366): whatever its outcome, nothing but the errors it meets
and corrects, their counts, the groves and the count of free values.
-/
namespace Sys2Proof.Machine

/-- Between `s` and `s'` only the errors of memory words, their counts, the groves and the count of free values differ. -/
def State.Looked (s s' : State) : Prop :=
  s' = { s with mem := { s.mem with poison := s'.mem.poison, single := s'.mem.single, double := s'.mem.double }
                ras := s'.ras, groves := s'.groves, fresh := s'.fresh }

namespace State.Looked
variable {s s' s'' : State}

theorem refl (s : State) : s.Looked s := rfl

theorem trans (h : s.Looked s') (h' : s'.Looked s'') : s.Looked s'' := by
  unfold State.Looked at *
  rw [h', h]

theorem byte (h : s.Looked s') (k : Nat) : s'.byte k = s.byte k := by rw [State.Looked] at h; rw [h]; rfl
theorem queue (h : s.Looked s') (k : Nat) : s'.queue k = s.queue k := by rw [State.Looked] at h; rw [h]; rfl
theorem slots (h : s.Looked s') : s'.slots = s.slots := by rw [State.Looked] at h; rw [h]
theorem slot (h : s.Looked s') (n : Nat) : s'.slot n = s.slot n := by rw [State.slot, h.slots]; rfl
theorem cur (h : s.Looked s') : s'.cur = s.cur := by rw [State.Looked] at h; rw [h]

theorem readNum (h : s.Looked s') (k n : Nat) : s'.readNum k n = s.readNum k n := State.readNum_congr _ _ _ _ fun j _ _ => h.byte j

theorem correct (s : State) (k : Nat) : s.Looked (s.correct k) := by
  unfold State.correct
  split <;> rfl

theorem detect (s : State) (k : Nat) : s.Looked (s.detect k) := by
  unfold State.detect
  split <;> rfl

theorem foldl {β : Type} {f : State → β → State} (hf : ∀ (s : State) (b : β), s.Looked (f s b)) (l : List β) (s : State) :
    s.Looked (l.foldl f s) :=
  foldl_keeps s.Looked f (fun x b h => h.trans (hf x b)) l s (.refl s)

theorem correctWalk (s : State) (c va : Nat) (w : Walk) : s.Looked (s.correctWalk c va w) := by
  have hwalk := foldl (f := State.correct) .correct (s.walkKeys va 5 (s.ctx c).regs.ptroot) s
  unfold State.correctWalk
  split
  · exact .refl s
  · dsimp only
    split
    · exact hwalk.trans (.detect _ _)
    · exact hwalk.trans (foldl (fun s i => .correct s _) _ _)
    · exact hwalk

theorem groupPage (s : State) (c va key : Nat) : s.Looked (s.groupPage c va key).2 := by
  unfold State.groupPage
  split <;> rfl

theorem translationOf (s : State) (c va : Nat) (w : Walk) : s.Looked (s.translationOf c va w).2 := by
  have hwalk := correctWalk s c va w
  unfold State.translationOf
  cases w with
  | absent | bad => exact hwalk
  | leaf level e key =>
    dsimp only
    split
    · exact hwalk.trans (.groupPage _ _ _ _)
    · exact hwalk

theorem mapped (s : State) (c va : Nat) : s.Looked (s.mapped c va).2 := translationOf s c va _

theorem translate (s : State) (g c va : Nat) : s.Looked (s.translate g c va).2 := by
  have hmapped := mapped s c va
  unfold State.translate
  split
  · exact .refl s
  · dsimp only
    split
    · exact hmapped.trans rfl
    · exact hmapped

theorem form (s : State) (c core space a : Nat) (r : Right) : s.Looked (s.form c core space a r).2 := by
  have htranslate := translate s (core / 16) c a
  unfold State.form
  split
  · split
    · exact .refl s
    · dsimp only
      split
      · exact htranslate
      · exact htranslate
      · split <;> exact htranslate
  · exact .refl s

theorem beginWalk (s : State) (g c va : Nat) : s.Looked (s.beginWalk g c va) := by
  have hmapped := mapped s c va
  unfold State.beginWalk
  dsimp only
  split
  · exact .refl s
  · exact hmapped.trans rfl

end State.Looked

/-! ## Computations of engines -/

section
variable {α β : Type} {s s1 : State}

/-- A computation goes on from where its first part ended. -/
theorem Eng.run_bind_ok {m : Eng α} {f : α → Eng β} {a : α} (h : m.run.run s = (.ok a, s1)) :
    (m >>= f).run.run s = (f a).run.run s1 := by
  simp only [ExceptT.run_bind, StateT.run_bind, h]
  rfl

/-- A computation stops where its first part does. -/
theorem Eng.run_bind_error {m : Eng α} {f : α → Eng β} {x : EngineStop} (h : m.run.run s = (.error x, s1)) :
    (m >>= f).run.run s = (.error x, s1) := by
  simp only [ExceptT.run_bind, StateT.run_bind, h]
  rfl

/-- Begun in `s`, a computation of an engine looks up addresses and does no more. -/
def Eng.LooksFrom (s : State) (m : Eng α) : Prop := s.Looked (m.run.run s).2

theorem Eng.LooksFrom.pure {a : α} : Eng.LooksFrom s (pure a : Eng α) := .refl s
theorem Eng.LooksFrom.throw_bind {x : EngineStop} {f : α → Eng β} : Eng.LooksFrom s (throw x >>= f) := .refl s
theorem Eng.LooksFrom.throw {x : EngineStop} : Eng.LooksFrom s (throw x : Eng α) := .refl s

theorem Eng.LooksFrom.get_bind {f : State → Eng β} (h : Eng.LooksFrom s (f s)) : Eng.LooksFrom s (get >>= f) := h

theorem Eng.LooksFrom.set_bind {f : PUnit → Eng β} (h : s.Looked s1) (hf : Eng.LooksFrom s1 (f ⟨⟩)) :
    Eng.LooksFrom s (set s1 >>= f) := h.trans hf

theorem Eng.LooksFrom.bind {m : Eng α} {f : α → Eng β} (hm : Eng.LooksFrom s m) (hf : ∀ a s, Eng.LooksFrom s (f a)) :
    Eng.LooksFrom s (m >>= f) := by
  rcases hr : m.run.run s with ⟨x, s1⟩
  have h1 : s.Looked s1 := by rw [show s1 = (m.run.run s).2 by rw [hr]]; exact hm
  cases x with
  | ok a => rw [Eng.LooksFrom, Eng.run_bind_ok hr]; exact h1.trans (hf a s1)
  | error e => rw [Eng.LooksFrom, Eng.run_bind_error hr]; exact h1

theorem Eng.LooksFrom.ite {c : Prop} [Decidable c] {m n : Eng α} (hm : Eng.LooksFrom s m) (hn : Eng.LooksFrom s n) :
    Eng.LooksFrom s (if c then m else n) := by split <;> assumption

theorem EngineOp.key_looks {op : EngineOp} {r : QReg} {a : Nat} {right : Right} : Eng.LooksFrom s (op.key r a right) := by
  have hform := State.Looked.form s (op.gtid.toNat / 2 ^ 52) op.core (capSpace r.bits) a right
  unfold EngineOp.key
  refine .get_bind (.ite .throw_bind (.ite (.set_bind (.beginWalk ..) .throw_bind) ?_))
  dsimp only
  generalize s.form (op.gtid.toNat / 2 ^ 52) op.core (capSpace r.bits) a right = p at hform
  refine .set_bind hform ?_
  cases p.1 with
  | key k => exact .ite .throw .pure
  | _ => exact .throw

theorem EngineOp.wordKey_looks {op : EngineOp} {w : QReg} : Eng.LooksFrom s (op.wordKey w) :=
  .bind EngineOp.key_looks fun _ _ => .ite .pure .throw

/-- The key of a completion word is of a level where atomics are performed. -/
theorem EngineOp.wordKey_tgt {op : EngineOp} {w : QReg} {k : Nat} (h : (op.wordKey w).run.run s = (.ok k, s1)) : keyTgt k ≤ 3 := by
  unfold EngineOp.wordKey at h
  rcases hr : (op.key w w.lo .store).run.run s with ⟨x, s2⟩
  cases x with
  | error e =>
    rw [Eng.run_bind_error hr] at h
    cases h
  | ok k2 =>
    rw [Eng.run_bind_ok hr] at h
    split at h
    next hk =>
      cases h
      exact of_decide_eq_true hk
    next => cases h

end

end Sys2Proof.Machine
end

section
/-!
PROOF. Issuing tile and copy operations (11 R213, 15 R284): the checks of an instruction that appends its operation, and what the
append leaves.
-/
namespace Sys2Proof.Machine

section
variable {s s1 : State} {t : Thread} {e : Fields} {op : EngineOp} {i : Instr} {k code : Nat}

/-! ## The rows -/

theorem exec_tileRow (s : State) (h : tileRow i = some e) : exec i s = s.tileInstr e := by
  cases i with
  | tmm | tgmm | tsfx | tred | tcvt | tzero | rcsnap => cases h; rfl
  | _ => cases h

theorem exec_copyRow (s : State) (h : copyRow i = some e) : exec i s = s.copyInstr e := by
  cases i with
  | cpy | cpy2 | cpyg | cfill => cases h; rfl
  | _ => cases h

/-! ## The completion word -/

theorem State.wordReached.looked (h : s.wordReached op s1) : s.Looked s1 := by
  rcases h with ⟨-, rfl⟩ | ⟨w, k, -, hrun⟩
  · exact .refl _
  · have hlooks := EngineOp.wordKey_looks (s := s) (op := op) (w := w)
    rwa [Eng.LooksFrom, hrun] at hlooks

/-- An operation whose completion word is reached goes on. -/
theorem State.withWord_reached (h : s.wordReached op s1) (go : State → State) : s.withWord t op go = go s1 := by
  unfold State.withWord
  rcases h with ⟨hw, rfl⟩ | ⟨w, k, hw, hrun⟩
  · rw [hw]
  · rw [hw]
    dsimp only
    rw [hrun]

/-! ## The append -/

theorem State.appendOp_only (s : State) (k : Nat) (op : EngineOp) :
    s.appendOp k op = { s with queues := (s.appendOp k op).queues, stamp := (s.appendOp k op).stamp } := by
  unfold State.appendOp
  dsimp only
  split <;> rfl

/-- An entry is appended at the end of its queue, with its number. -/
theorem State.appendOp_queue (s : State) (k : Nat) (op : EngineOp) :
    ((s.appendOp k op).queue k).ops = (s.queue k).ops ++ [{ op with serial := (s.queue k).appended, queue := k }] ∧
    ((s.appendOp k op).queue k).appended = (s.queue k).appended + 1 ∧ ((s.appendOp k op).queue k).mode = (s.queue k).mode := by
  have hset := State.setQueue_queue_ne s k
    { s.queue k with
      ops := (s.queue k).ops ++ [{ op with serial := (s.queue k).appended, queue := k }], appended := (s.queue k).appended + 1
      appendedAt := s.cycle (keyGrove k * 16), before := s.appendedBefore k } (Queue.ne_empty_of_ops (by simp))
  unfold State.appendOp
  dsimp only
  split
  · rw [State.newHead_queue (by rw [hset]; simp), hset]
    exact ⟨rfl, rfl, rfl⟩
  · rw [hset]
    exact ⟨rfl, rfl, rfl⟩

theorem State.appendOp_queue_other (s : State) (op : EngineOp) {j : Nat} (h : j ≠ k) : (s.appendOp k op).queue j = s.queue j := by
  unfold State.appendOp
  dsimp only
  split
  · rw [State.newHead_queue_other h, State.setQueue_queue_other _ _ _ _ h]
  · rw [State.setQueue_queue_other _ _ _ _ h]

/-- A full queue or counter forfeits the turn. -/
theorem State.enqueue_full (h : ¬ s.hasRoom t code) : s.enqueue t e code op = s.put { t with lost := true } := by
  have hfull : (decide (queueDepth code ≤ (s.queue (queueKey t.ctx (slotGrove s.cur) code)).ops.length) ||
      decide (255 ≤ if code ≤ 4 then t.tl else t.cp)) = true := by
    rw [State.hasRoom] at h
    simp only [Bool.or_eq_true, decide_eq_true_eq]
    omega
  unfold State.enqueue
  dsimp only
  rw [if_pos hfull, State.forfeit, Bool.or_false]

/-- With room, the operation is appended and the thread passes, counting it. -/
theorem State.enqueue_room (h : s.hasRoom t code) :
    s.enqueued (s.enqueue t e code op) t e code op ∧ (s.enqueue t e code op).mem = s.mem := by
  have hroom : ¬ (decide (queueDepth code ≤ (s.queue (queueKey t.ctx (slotGrove s.cur) code)).ops.length) ||
      decide (255 ≤ if code ≤ 4 then t.tl else t.cp)) = true := by
    rw [State.hasRoom] at h
    simp only [Bool.or_eq_true, decide_eq_true_eq]
    omega
  unfold State.enqueue
  dsimp only
  rw [if_neg hroom]
  generalize hu : (if code ≤ 4 then { t with tl := t.tl + 1 } else { t with cp := t.cp + 1 } : Thread).next e = u
  have hcounted : u = { t.next e with tl := if code ≤ 4 then t.tl + 1 else t.tl, cp := if code ≤ 4 then t.cp else t.cp + 1 } := by
    rw [← hu]
    split <;> rfl
  obtain ⟨hops, happended, hmode⟩ := (s.put u).appendOp_queue (queueKey t.ctx (slotGrove s.cur) code) op
  refine ⟨⟨hops, happended, hmode, fun j hj => State.appendOp_queue_other _ op hj, fun n hn => ?_, ?_⟩, ?_⟩
  · rw [State.appendOp_only]
    exact State.put_slot_other s n u hn
  · rw [← hcounted, State.appendOp_only]
    exact State.put_thread s u
  · rw [State.appendOp_only]
    rfl

/-! ## Issuing -/

theorem State.Looked.hasRoom_iff (h : s.Looked s1) : s1.hasRoom t code ↔ s.hasRoom t code := by
  unfold State.hasRoom
  rw [h.queue, h.cur]

theorem State.Looked.enqueued {s' : State} (h : s.Looked s1) (he : s1.enqueued s' t e code op) : s.enqueued s' t e code op := by
  unfold State.enqueued at *
  simpa only [h.queue, h.cur, h.slot] using he

/-- An operation that has passed its checks is appended where there is room, and else its turn is forfeited. -/
theorem State.withWord_enqueue (h : s.wordReached op s1) :
    (s.hasRoom t code → s.enqueued (s.withWord t op fun s => s.enqueue t e code op) t e code op ∧
      (s.withWord t op fun s => s.enqueue t e code op).mem = s1.mem) ∧
    (¬ s.hasRoom t code → (s.withWord t op fun s => s.enqueue t e code op) = s1.put { t with lost := true }) := by
  rw [State.withWord_reached h]
  refine ⟨fun hroom => ?_, fun hroom => State.enqueue_full (mt h.looked.hasRoom_iff.1 hroom)⟩
  obtain ⟨henq, hmem⟩ := State.enqueue_room (e := e) (op := op) (h.looked.hasRoom_iff.2 hroom)
  exact ⟨h.looked.enqueued henq, hmem⟩

/-- A tile instruction that passes its checks goes on with its completion word. -/
theorem State.tileInstr_live (ht : s.thread s.cur = some t) (hl : t.live0 e.g = true)
    (hint : (s.tileOp t e).xop = 5 → (s.tileOp t e).b.isInt = true) (hcheck : (s.tileOp t e).tileCheck = none) :
    s.tileInstr e = .next (s.withWord t (s.tileOp t e) fun s' => s'.enqueue t e (bits (s.tileOp t e).flags 3 2) (s.tileOp t e)) := by
  have hfill : ¬ (decide ((s.tileOp t e).xop = 5) && !(s.tileOp t e).b.isInt) = true := by
    simpa using hint
  unfold State.tileInstr
  rw [State.scalar_live s e _ t ht hl]
  dsimp only
  rw [if_neg hfill, hcheck]

/-- A control register that is a capability fails the checks. -/
theorem State.tileInstr_control (ht : s.thread s.cur = some t) (hl : t.live0 e.g = true) (hc : (t.reg e.c).cap = true) :
    s.tileInstr e = .next (s.trap (.format false 0)) := by
  have hformat : (s.tileOp t e).tileFormat = false := by
    unfold EngineOp.tileFormat
    simp [show (s.tileOp t e).f = t.reg e.c from rfl, hc]
  have hcheck : (s.tileOp t e).tileCheck = some (.format false 0) := by
    unfold EngineOp.tileCheck
    rw [hformat]
    simp
  unfold State.tileInstr
  rw [State.scalar_live s e _ t ht hl]
  dsimp only
  rw [hcheck]
  simp only [ite_self]

theorem State.trapped_format (ht : s.thread s.cur = some t) (mis : Bool) (a : Nat) :
    s.trapped (s.trap (.format mis a)) s.cur t (some ⟨2, 0, flag mis, 0⟩) false := by
  refine ⟨_, State.stopThread_thread s s.cur t _ _ _ _ _ ht, ?_, State.stopThread_mem .., State.stopThread_queues ..,
    State.stopThread_crews .., fun m hm => State.stopThread_slot_other s s.cur _ _ _ _ _ m hm⟩
  simp [Thread.stop]

/-- A copy instruction that passes its checks goes on with its completion word. -/
theorem State.copyInstr_live (ht : s.thread s.cur = some t) (hl : t.live0 e.g = true)
    (hgeo : (s.copyOp t e).hasGeometry = true → e.hasLit = false)
    (hcheck : (s.copyOp t e).copyCheck (if e.mod.getLsbD 1 then some (t.reg (BitVec.ofNat 5 (e.imm.toNat / 32 % 32))) else none) t.ctx
      (slotGrove s.cur) = .ok code) :
    s.copyInstr e = .next (s.withWord t (s.copyOp t e) fun s' => s'.enqueue t e code (s.copyOp t e)) := by
  have hlit : ¬ ((s.copyOp t e).hasGeometry && e.hasLit) = true := by
    simpa using hgeo
  unfold State.copyInstr
  rw [State.scalar_live s e _ t ht hl]
  dsimp only
  rw [if_neg hlit, hcheck]

/-- The queue of a copy is that of its handle, or queue 8 (R237). -/
theorem EngineOp.copyCheck_code {h : Option QReg} {c g : Nat} (hcheck : op.copyCheck h c g = .ok code) :
    (h = none → code = 8) ∧ ∀ r, h = some r → handleCode r c g = some code := by
  unfold EngineOp.copyCheck at hcheck
  split_ifs at hcheck
  split at hcheck
  · cases hcheck
  · cases h with
    | none =>
      refine ⟨fun _ => ?_, nofun⟩
      split at hcheck
      next => cases hcheck
      next => exact (Except.ok.inj hcheck).symm
      next hsome => cases hsome
    | some r =>
      refine ⟨nofun, fun x hx => Option.some.inj hx ▸ ?_⟩
      split at hcheck
      next => cases hcheck
      next hnone => cases hnone
      next hsome =>
        cases hsome
        split at hcheck
        next hk => exact hk.trans (congrArg some (Except.ok.inj hcheck))
        next => cases hcheck

/-! ## Joins (R284) -/

theorem State.mem_joinPoints {c g jq mask n x : Nat} : (x, n) ∈ s.joinPoints c g jq mask ↔
    x < 16 ∧ mask.testBit x = true ∧ x ≠ jq ∧ s.entriesBefore (queueKey c g x) n := by
  have hbit : bit mask x = mask.testBit x := by rw [bit, Nat.testBit_eq_decide_div_mod_eq, Bool.beq_eq_decide_eq]
  unfold State.joinPoints State.entriesBefore
  simp only [List.mem_map, List.mem_filter, List.mem_range, Bool.and_eq_true, bne_iff_ne, Prod.mk.injEq]
  constructor
  · rintro ⟨y, ⟨hlt, hy, hne⟩, rfl, rfl⟩
    exact ⟨hlt, hbit ▸ hy, hne, rfl⟩
  · rintro ⟨hlt, hx, hne, rfl⟩
    exact ⟨x, ⟨hlt, hbit.trans hx, hne⟩, rfl, rfl⟩

/-- The entry that `qjoin` appends. -/
def State.joinOp (s : State) (t : Thread) (e : Fields) : EngineOp :=
  { kind := .join (s.joinPoints t.ctx (slotGrove s.cur) (e.imm.toNat / 2 ^ 16 % 32) (e.imm.toNat % 2 ^ 16)), gtid := t.gtid
    isTask := false, ty := 0, mod := 0, imm := e.imm.toNat, d := QReg.zero, a := QReg.zero, b := QReg.zero, f := QReg.zero, w := none
    ia := QReg.zero, ic := QReg.zero, core := slotCore s.cur, serial := 0, queue := 0 }

theorem execQjoin_live (ht : s.thread s.cur = some t) (hl : t.live0 e.g = true)
    (hjq : e.imm.toNat / 2 ^ 16 % 32 ≤ 3 ∨ 8 ≤ e.imm.toNat / 2 ^ 16 % 32 ∧ e.imm.toNat / 2 ^ 16 % 32 ≤ 15)
    (hmask : e.imm.toNat % 2 ^ 16 / 32 % 8 = 0) :
    execQjoin e s = .next (s.enqueue t e (e.imm.toNat / 2 ^ 16 % 32) (s.joinOp t e)) := by
  have hjq' : bits e.imm.toNat 20 16 = e.imm.toNat / 2 ^ 16 % 32 := rfl
  have hmask' : bits e.imm.toNat 15 0 = e.imm.toNat % 2 ^ 16 := by rw [bits, Nat.pow_zero, Nat.div_one]
  have hfits : ¬ (!(decide (e.imm.toNat / 2 ^ 16 % 32 ≤ 3) ||
      (decide (8 ≤ e.imm.toNat / 2 ^ 16 % 32) && decide (e.imm.toNat / 2 ^ 16 % 32 ≤ 15))) ||
      bits (e.imm.toNat % 2 ^ 16) 7 5 != 0) = true := by
    rw [show bits (e.imm.toNat % 2 ^ 16) 7 5 = 0 from hmask]
    simp only [bne_self_eq_false, Bool.or_false, Bool.not_eq_true', Bool.not_eq_false, Bool.or_eq_true, Bool.and_eq_true,
      decide_eq_true_eq]
    exact hjq
  unfold execQjoin
  rw [State.scalar_live s e _ t ht hl]
  dsimp only
  rw [hjq', hmask', if_neg hfits]
  rfl

end

/-- Settles O38: an instruction that passes its checks comes to the append, which takes the operation or forfeits the turn. -/
theorem engineIssue : Obligations.EngineIssue := by
  unfold Obligations.EngineIssue
  intro e s t ht hl
  refine ⟨?tile, ?copy, ?join, ?control⟩
  case tile =>
    intro i s1 hi op code hint hcheck hword
    obtain ⟨hroom, hfull⟩ := State.withWord_enqueue (t := t) (e := e) (code := code) hword
    rw [exec_tileRow s hi, State.tileInstr_live ht hl hint hcheck]
    exact ⟨fun h => ⟨_, rfl, hroom h⟩, fun h => congrArg _ (hfull h)⟩
  case copy =>
    intro i s1 code hi op h hgeo hcheck hword
    obtain ⟨hroom, hfull⟩ := State.withWord_enqueue (t := t) (e := e) (code := code) hword
    obtain ⟨hnone, hsome⟩ := EngineOp.copyCheck_code hcheck
    rw [exec_copyRow s hi, State.copyInstr_live ht hl hgeo hcheck]
    exact ⟨hnone, hsome, fun h => ⟨_, rfl, hroom h⟩, fun h => congrArg _ (hfull h)⟩
  case join =>
    intro jq mask hjq hmask
    have hexec : exec (.qjoin e) s = .next (s.enqueue t e jq (s.joinOp t e)) := execQjoin_live ht hl hjq hmask
    refine ⟨fun hroom => ?_, fun hfull => hexec.trans (congrArg _ (State.enqueue_full hfull))⟩
    obtain ⟨henq, hmem⟩ := State.enqueue_room (e := e) (op := s.joinOp t e) hroom
    exact ⟨_, s.joinOp t e, _, hexec, henq, hmem, rfl, fun c n => State.mem_joinPoints⟩
  case control =>
    intro i hi hc
    exact ⟨_, (exec_tileRow s hi).trans (State.tileInstr_control ht hl hc), State.trapped_format ht false 0⟩

end Sys2Proof.Machine
end

section
/-!
PROOF. Reading route counters and the status of a queue (11 R229, R235, 15 R286).
-/
namespace Sys2Proof.Machine

/-! ## The names of a queue -/

theorem keyCode_queueKey (c g : Nat) {n : Nat} (hn : n < 16) : keyCode (queueKey c g n) = n := by
  unfold keyCode queueKey
  omega

theorem keyGrove_queueKey (c : Nat) {g n : Nat} (hg : g < 192) (hn : n < 16) : keyGrove (queueKey c g n) = g := by
  unfold keyGrove queueKey
  omega

theorem keyCtx_queueKey (c : Nat) {g n : Nat} (hg : g < 192) (hn : n < 16) : keyCtx (queueKey c g n) = c := by
  unfold keyCtx queueKey
  omega

theorem lanes64_lo (lo hi : Nat) (tag : BitVec 5) : (lanes64 lo hi tag).lo = lo % 2 ^ 64 := by
  rw [QReg.lo, lanes64, BitVec.toNat_ofNat]
  omega

theorem lanes64_hi (lo hi : Nat) (tag : BitVec 5) : (lanes64 lo hi tag).hi = hi % 2 ^ 64 := by
  rw [QReg.hi, lanes64, BitVec.toNat_ofNat]
  omega

section
variable {s : State} {t : Thread} {e : Fields} {k n : Nat}

/-! ## The status lane (R235 Table 8) -/

/-- The fields of a number laid out as the status lane is. -/
theorem statusWord_fields {d l st u x a b c f g : Nat} (hd : d < 2 ^ 16) (hl : l < 2 ^ 8) (hst : st < 2 ^ 4) (hu : u < 2 ^ 4)
    (hx : x < 2 ^ 10) (ha : a < 2) (hb : b < 2) (hc : c < 2) (hf : f < 2) (hg : g < 2) :
    let v := d * 2 ^ 48 + l * 2 ^ 40 + st * 2 ^ 36 + u * 2 ^ 32 + x * 2 ^ 22 + a * 2 ^ 15 + b * 2 ^ 14 + c * 2 ^ 13 + f * 2 ^ 12 + g * 2 ^ 11
    v < 2 ^ 64 ∧ v / 2 ^ 48 = d ∧ v / 2 ^ 40 % 2 ^ 8 = l ∧ v / 2 ^ 32 % 2 ^ 4 = u ∧ v / 2 ^ 36 % 2 ^ 4 = st ∧ v / 2 ^ 22 % 2 ^ 10 = x ∧
      v / 2 ^ 15 % 2 = a ∧ v / 2 ^ 14 % 2 = b ∧ v / 2 ^ 13 % 2 = c ∧ v / 2 ^ 12 % 2 = f ∧ v / 2 ^ 11 % 2 = g := by
  omega

theorem flag_lt_two (b : Bool) : flag b < 2 := by cases b <;> decide

theorem testBit_of_flag {v i : Nat} {b : Bool} (h : v / 2 ^ i % 2 = flag b) : v.testBit i = b := by
  rw [Nat.testBit_eq_decide_div_mod_eq, h]
  cases b <;> rfl

theorem State.queueState_lt (s : State) (k : Nat) : s.queueState k < 2 ^ 4 := by
  unfold State.queueState
  dsimp only
  split
  · decide
  · decide
  · split
    · decide
    · split <;> decide

/-- The STATE of a queue (15 R279). -/
theorem State.queueState_cases (s : State) (k : Nat) :
    ((s.queue k).mode = .frozen → s.queueState k = 4) ∧ ((s.queue k).mode = .halted → s.queueState k = 3) ∧
    ((s.queue k).mode = .running → (s.queue k).ops = [] → s.queueState k = 0) ∧
    ((s.queue k).mode = .running → (s.queue k).ops ≠ [] → s.queueState k = if s.blocked k then 2 else 1) := by
  unfold State.queueState
  dsimp only
  cases (s.queue k).mode with
  | frozen => exact ⟨fun _ => rfl, nofun, nofun, nofun⟩
  | halted => exact ⟨nofun, fun _ => rfl, nofun, nofun⟩
  | running =>
    refine ⟨nofun, nofun, fun _ hops => ?_, fun _ hops => ?_⟩
    · rw [hops]
      rfl
    · have hempty : ¬ (s.queue k).ops.isEmpty = true := by simpa using hops
      dsimp only
      rw [if_neg hempty]

/-- The status lane has the fields of Table 8, and needs no more than its 64 bits. -/
theorem State.queueStatus_fields (s : State) (k : Nat) : s.queueStatus k < 2 ^ 64 ∧ s.statusFields k (s.queueStatus k) := by
  obtain ⟨hfrozen, hhalted, hempty, hrunning⟩ := s.queueState_cases k
  have hmod : ∀ v i : Nat, v % 2 ^ i < 2 ^ i := fun v i => Nat.mod_lt v (Nat.two_pow_pos i)
  obtain ⟨hlt, hdone, hlen, hunit, hstate, hxop, heres, hedata, hexlat, hefmt, hecap⟩ :=
    statusWord_fields (hmod (s.queue k).done 16) (hmod (s.queue k).ops.length 8) (s.queueState_lt k) (hmod (s.queue k).unit 4)
      (hmod (match (s.queue k).ops.head? with | some op => op.xop | none => (s.queue k).lastXop) 10) (flag_lt_two (s.queue k).eres)
      (flag_lt_two (s.queue k).edata) (flag_lt_two (s.queue k).exlat) (flag_lt_two (s.queue k).efmt) (flag_lt_two (s.queue k).ecap)
  refine ⟨hlt, hdone, hlen, hunit, fun h => hstate.trans (hfrozen h), fun h => hstate.trans (hhalted h),
    fun h hops => hstate.trans (hempty h hops), fun h hops => hstate.trans (hrunning h hops), fun op r hops => ?_,
    testBit_of_flag heres, testBit_of_flag hedata, testBit_of_flag hexlat, testBit_of_flag hefmt, testBit_of_flag hecap⟩
  have hhead : (match (s.queue k).ops.head? with | some op => op.xop | none => (s.queue k).lastXop) = op.xop := by
    rw [hops]
    rfl
  exact hxop.trans (congrArg (· % 2 ^ 10) hhead)

/-! ## The progress lane (R235 Table 9, R286 Table 4) -/

/-- The progress of a copy queue is its bytes; of a tile queue its rows, restarts and restart row. -/
theorem State.queueProgress_fields (s : State) (k : Nat) : s.queueProgress k < 2 ^ 64 ∧
    let q := s.queue k
    (4 < keyCode k → s.queueProgress k = q.prog % 2 ^ 64) ∧
    (keyCode k ≤ 4 → q.ops ≠ [] → s.queueProgress k / 2 ^ 32 = q.prog % 2 ^ 32 ∧
      s.queueProgress k / 2 ^ 16 % 2 ^ 16 = q.restarts % 2 ^ 16 ∧ s.queueProgress k % 2 ^ 16 = q.rrow % 2 ^ 16) ∧
    (keyCode k ≤ 4 → q.ops = [] → s.queueProgress k / 2 ^ 32 = q.lastRows % 2 ^ 32 ∧
      s.queueProgress k / 2 ^ 16 % 2 ^ 16 = q.lastRestarts % 2 ^ 16 ∧ s.queueProgress k % 2 ^ 16 = q.lastRrow % 2 ^ 16) := by
  have hwords : ∀ a b c : Nat, let v := a % 2 ^ 32 * 2 ^ 32 + b % 2 ^ 16 * 2 ^ 16 + c % 2 ^ 16
      v < 2 ^ 64 ∧ v / 2 ^ 32 = a % 2 ^ 32 ∧ v / 2 ^ 16 % 2 ^ 16 = b % 2 ^ 16 ∧ v % 2 ^ 16 = c % 2 ^ 16 := by
    intro a b c
    omega
  unfold State.queueProgress
  dsimp only
  split
  next hcode => exact ⟨Nat.mod_lt _ (Nat.two_pow_pos 64), fun _ => rfl, fun h => absurd hcode (by omega), fun h => absurd hcode (by omega)⟩
  next hcode =>
    cases hops : (s.queue k).ops with
    | nil =>
      obtain ⟨hlt, hfields⟩ := hwords (s.queue k).lastRows (s.queue k).lastRestarts (s.queue k).lastRrow
      exact ⟨hlt, fun h => absurd h hcode, fun _ h => absurd rfl h, fun _ _ => hfields⟩
    | cons op r =>
      obtain ⟨hlt, hfields⟩ := hwords (s.queue k).prog (s.queue k).restarts (s.queue k).rrow
      exact ⟨hlt, fun h => absurd h hcode, fun _ _ => hfields, nofun⟩

/-- What `tstat` and `qstat` give of a queue. -/
def State.queueWord (s : State) (k : Nat) : QReg := lanes64 (s.queueStatus k) (s.queueProgress k) 0

theorem State.queueWord_lo (s : State) (k : Nat) : (s.queueWord k).lo = s.queueStatus k := by
  rw [State.queueWord, lanes64_lo, Nat.mod_eq_of_lt (s.queueStatus_fields k).1]

theorem State.queueWord_hi (s : State) (k : Nat) : (s.queueWord k).hi = s.queueProgress k := by
  rw [State.queueWord, lanes64_hi, Nat.mod_eq_of_lt (s.queueProgress_fields k).1]

/-! ## The instructions -/

theorem execTstat_live (ht : s.thread s.cur = some t) (hl : t.live0 e.g = true) (hn : sourceB t e n) (h4 : n ≤ 4) :
    let k := queueKey t.ctx (slotGrove s.cur) n
    execTstat e s = .next ((if e.mod.getLsbD 0 then s.setQueue k { s.queue k with efmt := false } else s).finish t e (s.queueWord k)) := by
  unfold execTstat
  rw [State.scalar_live s e _ t ht hl, Thread.intB_of_sourceB hn]
  dsimp only
  rw [if_neg (Nat.not_lt.2 h4)]
  rfl

theorem queueSelOk_iff {n : Nat} : queueSelOk n = true ↔ n ≤ 4 ∨ 8 ≤ n ∧ n ≤ 15 := by
  simp only [queueSelOk, Bool.or_eq_true, Bool.and_eq_true, decide_eq_true_eq]

theorem State.qstatPlain_live (ht : s.thread s.cur = some t) (hl : t.live0 e.g = true) (hn : sourceB t e n)
    (hsel : n ≤ 4 ∨ 8 ≤ n ∧ n ≤ 15) :
    s.qstatPlain e = .next (s.finish t e (s.queueWord (queueKey t.ctx (slotGrove s.cur) n))) := by
  unfold State.qstatPlain
  rw [State.scalar_live s e _ t ht hl, Thread.intB_of_sourceB hn]
  simp only [queueSelOk_iff.2 hsel, Bool.not_true, Bool.false_eq_true, if_false]
  rfl

theorem State.qstatHandle_live (ht : s.thread s.cur = some t) (hl : t.live0 e.g = true) (hn : sourceB t e n)
    (hsel : n ≤ 4 ∨ 8 ≤ n ∧ n ≤ 15) (hown : (t.reg e.a).ownScratch = true) :
    s.qstatHandle e = .next (s.finish t e (queueHandle (queueKey t.ctx (slotGrove s.cur) n))) := by
  unfold State.qstatHandle
  rw [State.scalar_live s e _ t ht hl, Thread.intB_of_sourceB hn]
  simp only [queueSelOk_iff.2 hsel, hown, Bool.not_true, Bool.false_eq_true, if_false]

theorem QReg.ownScratch_of {r : QReg} (hc : r.cap = true) (hk : capKind r.bits = 0) (hs : capSpace r.bits = 0)
    (hb : r.lo.testBit 51 = true) : r.ownScratch = true := by
  have hbit : bit r.lo 51 = true := by
    rwa [Nat.testBit_eq_decide_div_mod_eq, ← Bool.beq_eq_decide_eq] at hb
  simp [QReg.ownScratch, hc, hk, hs, hbit, kindMemory]

end

/-- Settles O39: the two lanes of a queue's status are its fields side by side, and its handle names it. -/
theorem engineStatus : Obligations.EngineStatus := by
  unfold Obligations.EngineStatus
  intro e s t ht hl hs n hn hg k progress
  have hkey : n < 16 → keyCode k = n := keyCode_queueKey _ _
  have hstatus : s.statusFields k (s.queueWord k).lo := by
    rw [State.queueWord_lo]
    exact (s.queueStatus_fields k).2
  have hprogress : n < 16 → progress (s.queueWord k).hi := fun h16 => by
    obtain ⟨-, hfields⟩ := s.queueProgress_fields k
    rw [State.queueWord_hi]
    rwa [hkey h16] at hfields
  refine ⟨?rcread, ?tstat, ?qstat⟩
  case rcread =>
    show execRcread e s = _
    unfold execRcread
    rw [State.scalar_live s e _ t ht hl, Thread.intB_of_sourceB hn]
    rfl
  case tstat =>
    intro h4
    have hexec := execTstat_live ht hl hn h4
    refine ⟨s.queueWord k, rfl, rfl, hstatus, hprogress (by omega), fun hclr => ?_, fun hclr => ?_⟩
    · refine Eq.trans hexec ?_
      rw [hclr]
      rfl
    · rw [hclr] at hexec
      exact ⟨_, hexec, State.put_thread _ _, State.setQueue_queue_of s k _ hs.queues, rfl⟩
  case qstat =>
    intro hsel
    refine ⟨fun hform => ⟨s.queueWord k, rfl, rfl, hstatus, hprogress (by omega), ?_⟩, fun i hi hc hk hsp hb => ?_⟩
    · show execQstat e s = _
      unfold execQstat
      rw [hform]
      exact State.qstatPlain_live ht hl hn hsel
    · have hexec : exec i s = s.qstatHandle e := by
        rcases hi with ⟨rfl, hform⟩ | ⟨rfl, rfl⟩
        · show execQstat e s = _
          unfold execQstat
          rw [hform]
          rfl
        · rfl
      have hid : queueId k = t.ctx * 2 ^ 52 + slotGrove s.cur * 2 ^ 44 + n := by
        rw [queueId, keyCtx_queueKey _ hg (by omega), keyGrove_queueKey _ hg (by omega), hkey (by omega)]
      rw [hexec, State.qstatHandle_live ht hl hn hsel (QReg.ownScratch_of hc hk hsp hb), queueHandle, hid]
      rfl

end Sys2Proof.Machine
end

section
/-!
PROOF. Dispatch, joins, queue control and ballast (11 R212, 15 R282, R284, 26 R414).
-/
namespace Sys2Proof.Machine

section
variable {s : State} {t : Thread} {k g u n : Nat} {op : EngineOp} {r : List EngineOp}

/-! ## The head that has waited longest (R212) -/

/-- Of the oldest so far and another entry of the queue table, the older. -/
def olderHead (b : Option (Nat × Nat)) (e : Nat × Queue) : Option (Nat × Nat) :=
  match b with
  | some x => if e.2.since < x.2 then some (e.1, e.2.since) else b
  | none => some (e.1, e.2.since)

/-- `b` is the oldest entry `x`, or no older one. -/
def NotOlder (x : Nat × Queue) (b : Option (Nat × Nat)) : Prop := ∀ z, b = some z → z = (x.1, x.2.since) ∨ x.2.since < z.2

section
variable {b : Option (Nat × Nat)} {x y : Nat × Queue}

theorem olderHead_self (hb : NotOlder x b) : olderHead b x = some (x.1, x.2.since) := by
  cases b with
  | none => rfl
  | some z =>
    rcases hb z rfl with rfl | hlt
    · exact if_neg (Nat.lt_irrefl _)
    · exact if_pos hlt

theorem olderHead_oldest (hy : x.2.since < y.2.since) : olderHead (some (x.1, x.2.since)) y = some (x.1, x.2.since) :=
  if_neg (Nat.not_lt.2 (Nat.le_of_lt hy))

theorem NotOlder.olderHead (hb : NotOlder x b) (hy : x.2.since < y.2.since) : NotOlder x (olderHead b y) := by
  cases b with
  | none => exact fun z hz => .inr (Option.some.inj hz ▸ hy)
  | some w =>
    intro z hz
    unfold Machine.olderHead at hz
    dsimp only at hz
    split at hz
    · exact .inr (Option.some.inj hz ▸ hy)
    · exact hb z hz

/-- The search for the oldest of the entries that satisfy `p` ends at the one that is older than all others. -/
theorem foldl_olderHead {p : Nat × Queue → Bool} (hp : p x = true) (l : List (Nat × Queue))
    (hmin : ∀ y ∈ l, p y = true → y = x ∨ x.2.since < y.2.since) (b : Option (Nat × Nat)) (hb : NotOlder x b)
    (hx : x ∈ l ∨ b = some (x.1, x.2.since)) :
    l.foldl (fun b e => if p e then olderHead b e else b) b = some (x.1, x.2.since) := by
  induction l generalizing b with
  | nil => exact hx.resolve_left List.not_mem_nil
  | cons y r ih =>
    have hrest : ∀ z ∈ r, p z = true → z = x ∨ x.2.since < z.2.since := fun z hz => hmin z (List.mem_cons_of_mem _ hz)
    rw [List.foldl_cons]
    by_cases hy : p y = true
    · rw [if_pos hy]
      rcases hmin y List.mem_cons_self hy with rfl | hlt
      · rw [olderHead_self hb]
        exact ih hrest _ (fun z hz => .inl (Option.some.inj hz).symm) (.inr rfl)
      · have hne : x ≠ y := fun h => Nat.lt_irrefl _ (h ▸ hlt)
        refine ih hrest _ (hb.olderHead hlt) (hx.imp (fun h => (List.mem_cons.1 h).resolve_left hne) fun h => ?_)
        rw [h, olderHead_oldest hlt]
    · have hne : x ≠ y := fun h => hy (h ▸ hp)
      rw [if_neg hy]
      exact ih hrest b hb (hx.imp_left fun h => (List.mem_cons.1 h).resolve_left hne)

end

/-- Of the waiting heads that a unit serves, it takes the one that is older than all others. -/
theorem State.longestWaiting_oldest (hk : (k, s.queue k) ∈ s.queues) (hg : keyGrove k = g) (hw : s.headWaits k = true)
    (hu : unitServes u (keyCode k) (s.queue k).headXop = true)
    (hmin : ∀ x ∈ s.queues, keyGrove x.1 = g → unitServes u (keyCode x.1) x.2.headXop = true → s.headWaits x.1 = true →
      x = (k, s.queue k) ∨ (s.queue k).since < x.2.since) : s.longestWaiting g u = some k := by
  have hfold := foldl_olderHead (x := (k, s.queue k))
    (p := fun e => keyGrove e.1 == g && unitServes u (keyCode e.1) e.2.headXop && s.headWaits e.1)
    (by simp [hg, hu, hw]) s.queues
    (fun x hx hp => by
      simp only [Bool.and_eq_true, beq_iff_eq] at hp
      exact hmin x hx hp.1.1 hp.1.2 hp.2)
    none nofun (.inl hk)
  exact congrArg (Option.map Prod.fst) hfold

/-! ## Dispatch -/

theorem State.unitFree_find (h : s.unitFree g u = true) :
    (s.queues.find? fun e => keyGrove e.1 == g && e.2.unit == u && u != 0) = none := by
  simp only [State.unitFree, Bool.and_eq_true, Bool.not_eq_true', List.any_eq_false] at h
  obtain ⟨⟨⟨⟨hqueues, -⟩, -⟩, -⟩, -⟩ := h
  rw [List.find?_eq_none]
  intro e he
  have hne := hqueues e he
  simp only [Bool.and_eq_true] at hne ⊢
  exact fun hx => hne hx.1

/-- A free unit takes the head that has waited longest, where its grove's engines have budget left. -/
theorem evUnitDispatch_free (hg : s.arg.index = g) (hu : s.arg.index2 = u) (hfree : s.unitFree g u = true)
    (hbudget : 0 < (s.grove g).budget) (hB : u = 2 → s.unitFree g 1 = false) (hlong : s.longestWaiting g u = some k) :
    evUnitDispatch s = .next (s.startHead k u) := by
  have hgo : ¬ (!s.unitFree g u || decide ((s.grove g).budget ≤ 0) || (u == 2 && s.unitFree g 1)) = true := by
    simp only [hfree, Bool.not_true, Bool.false_or, Bool.or_eq_true, decide_eq_true_eq, Bool.and_eq_true, beq_iff_eq]
    rintro (h | ⟨h2, h1⟩)
    · omega
    · rw [hB h2] at h1
      cases h1
  unfold evUnitDispatch
  dsimp only
  rw [hg, hu, State.unitFree_find hfree]
  dsimp only
  rw [if_neg hgo, hlong]

theorem State.startHead_only (s : State) (k u : Nat) : s.startHead k u = { s with queues := (s.startHead k u).queues } := by
  unfold State.startHead
  dsimp only
  split <;> rfl

theorem State.startHead_queue_other {j : Nat} (h : j ≠ k) : (s.startHead k u).queue j = s.queue j := by
  unfold State.startHead
  dsimp only
  split
  · rfl
  · exact State.setQueue_queue_other _ _ _ _ h

/-- The head that a unit takes stands as it did, with its progress. -/
theorem State.startHead_queue (h : s.Tidy) (hops : (s.queue k).ops = op :: r) : ((s.startHead k u).queue k).unit = u ∧
    ((s.startHead k u).queue k).ops = (s.queue k).ops ∧ ((s.startHead k u).queue k).prog = (s.queue k).prog := by
  unfold State.startHead
  dsimp only
  rw [hops]
  dsimp only
  rw [State.setQueue_queue_of _ _ _ h.queues]
  split
  · exact ⟨rfl, rfl, rfl⟩
  · exact ⟨rfl, hops, rfl⟩

theorem State.headWaits_ops (h : s.headWaits k = true) : ∃ op r, (s.queue k).ops = op :: r := by
  cases hops : (s.queue k).ops with
  | cons op r => exact ⟨op, r, rfl⟩
  | nil => simp [State.headWaits, hops] at h

/-! ## Joins (R284) -/

theorem State.blocked_join {ps : List (Nat × Nat)} (hops : (s.queue k).ops = op :: r) (hkind : op.kind = .join ps)
    (hended : ∀ p ∈ ps, s.endedBefore (queueKey (keyCtx k) (keyGrove k) p.1) p.2 = true) : s.blocked k = false := by
  obtain ⟨kind⟩ := op
  obtain rfl : kind = .join ps := hkind
  unfold State.blocked
  rw [hops]
  dsimp only
  rw [List.any_eq_false]
  intro p hp
  simp [hended p hp]

theorem evJoinResolve_join {ps : List (Nat × Nat)} (hops : (s.queue s.arg.index).ops = op :: r) (hkind : op.kind = .join ps)
    (hmode : (s.queue s.arg.index).mode = .running) (hblocked : s.blocked s.arg.index = false) :
    evJoinResolve s = .next (s.endHead s.arg.index) := by
  obtain ⟨kind⟩ := op
  obtain rfl : kind = .join ps := hkind
  unfold evJoinResolve
  dsimp only
  rw [hops]
  simp [hmode, hblocked]

/-! ## Queue control (R282) -/

/-- An identifier of a queue with an action has the fields of the identifier. -/
theorem withAction_fields {w act : Nat} (hw : w < 2 ^ 64) (hact : act < 16) : bits (withAction w act) 63 52 = w / 2 ^ 52 ∧
    bits (withAction w act) 51 44 = w / 2 ^ 44 % 256 ∧ bits (withAction w act) 43 40 = act ∧ withAction w act % 16 = w % 16 ∧
    bit (withAction w act) 4 = w.testBit 4 := by
  have hbit : withAction w act / 2 ^ 4 % 2 = w / 2 ^ 4 % 2 := by
    unfold withAction bits
    omega
  have hfields : bits (withAction w act) 63 52 = w / 2 ^ 52 ∧ bits (withAction w act) 51 44 = w / 2 ^ 44 % 256 ∧
      bits (withAction w act) 43 40 = act ∧ withAction w act % 16 = w % 16 := by
    unfold withAction bits
    omega
  obtain ⟨hctx, hg, hact, hq⟩ := hfields
  refine ⟨hctx, hg, hact, hq, ?_⟩
  rw [bit, hbit, Nat.testBit_eq_decide_div_mod_eq]
  rfl

/-- A queue control write of a thread acts on a queue of its context on its die. -/
theorem State.writeEvent_queueControl {v : Nat} (hwriter : s.arg.writer = .thread n) (ht : s.thread n = some t) :
    s.writeEvent 0x40 v = .next (s.queueControl t.ctx (slotDie n) v) := by
  unfold State.writeEvent
  rw [hwriter, State.userOf, ht]
  rfl

theorem State.queueControl_action {ctx die w act : Nat} (hw : w < 2 ^ 64) (hctx : w / 2 ^ 52 = ctx) (hg : w / 2 ^ 44 % 256 < 192)
    (hdie : groveDie (w / 2 ^ 44 % 256) = die) (h4 : w.testBit 4 = false) :
    (act = 1 → s.queueControl ctx die (withAction w act) = s.resumeQueue (queueKey ctx (w / 2 ^ 44 % 256) (w % 16))) ∧
    (act = 2 → s.queueControl ctx die (withAction w act) = s.discardQueue (queueKey ctx (w / 2 ^ 44 % 256) (w % 16))) := by
  have hgo : ¬ (decide (ctx ≠ ctx) || decide (192 ≤ w / 2 ^ 44 % 256) || decide (groveDie (w / 2 ^ 44 % 256) ≠ die) || false) = true := by
    simp only [ne_eq, not_true_eq_false, decide_false, Bool.false_or, Bool.or_false, hdie, decide_eq_true_eq]
    exact Nat.not_le.2 hg
  unfold State.queueControl
  constructor
  · rintro rfl
    obtain ⟨hc, hgrove, haction, hqueue, hbit⟩ := withAction_fields (act := 1) hw (by decide)
    simp only [hc, hgrove, haction, hqueue, hbit, hctx, h4, if_neg hgo]
  · rintro rfl
    obtain ⟨hc, hgrove, haction, hqueue, hbit⟩ := withAction_fields (act := 2) hw (by decide)
    simp only [hc, hgrove, haction, hqueue, hbit, hctx, h4, if_neg hgo]

/-- A resumed queue runs, without the errors of its halt and without a head that has ended. -/
theorem State.resumeQueue_halted (h : s.Tidy) (hmode : (s.queue k).mode = .halted) : let q := (s.resumeQueue k).queue k
    q.mode = .running ∧ q.ops = (if (s.queue k).headEnded then (s.queue k).ops.drop 1 else (s.queue k).ops) ∧
    q.exlat = false ∧ q.edata = false ∧ q.eres = false ∧ ((s.queue k).headEnded = false → q.prog = (s.queue k).prog) ∧
    (s.resumeQueue k).mem = s.mem := by
  have hset := State.setQueue_queue_of s k { s.queue k with mode := .running, exlat := false, edata := false, eres := false } h.queues
  unfold State.resumeQueue
  dsimp only
  rw [if_neg (by simp [hmode])]
  generalize hs1 : s.setQueue k { s.queue k with mode := .running, exlat := false, edata := false, eres := false } = s1 at hset ⊢
  have htidy : s1.Tidy := hs1 ▸ h.setQueue
  have hmem : s1.mem = s.mem := by rw [← hs1]; rfl
  split
  next hended =>
    obtain ⟨hrest, -, hrun, -, hexlat, hedata, heres⟩ := State.popHead_keeps (k := k) htidy
    rw [hrest, hrun, hexlat, hedata, heres, hset, State.popHead_mem, hmem]
    exact ⟨rfl, rfl, rfl, rfl, rfl, fun hn => absurd hended (by simp [hn]), rfl⟩
  next =>
    split
    next =>
      rw [hset]
      exact ⟨rfl, rfl, rfl, rfl, rfl, fun _ => rfl, hmem⟩
    next hops =>
      have hne : (s1.queue k).ops ≠ [] := by
        rw [hset]
        simpa using hops
      rw [State.stampHead_queue hne, hset]
      exact ⟨rfl, rfl, rfl, rfl, rfl, fun _ => rfl, hmem⟩

/-- Every entry is discarded in turn, each as the head it has become. -/
theorem State.foldl_discardOp (l : List EngineOp) (h : s.Tidy) (hops : (s.queue k).ops = l) :
    ((l.foldl (fun s op => s.discardOp k op) s).queue k).ops = [] ∧ (l.foldl (fun s op => s.discardOp k op) s).mem = s.mem := by
  induction l generalizing s with
  | nil => exact ⟨hops, rfl⟩
  | cons op r ih =>
    obtain ⟨hrest, -, hmem⟩ := State.discardOp_queue h hops
    obtain ⟨hnil, hkept⟩ := ih h.discardOp hrest
    exact ⟨hnil, hkept.trans hmem⟩

theorem State.discardQueue_halted (h : s.Tidy) (hmode : (s.queue k).mode = .halted) :
    ((s.discardQueue k).queue k).mode = .running ∧ ((s.discardQueue k).queue k).ops = [] ∧ (s.discardQueue k).mem = s.mem := by
  obtain ⟨hnil, hmem⟩ := State.foldl_discardOp (s.queue k).ops h rfl
  have htidy : ((s.queue k).ops.foldl (fun s op => s.discardOp k op) s).Tidy := h.foldl fun _ _ h1 => h1.discardOp
  unfold State.discardQueue
  dsimp only
  rw [if_neg (by simp [hmode]), State.setQueue_queue_of _ _ _ htidy.queues]
  exact ⟨rfl, hnil, hmem⟩

/-! ## Ballast (26 R414) -/

/-- A credit changes the energy of the package, of its context and of its graph. -/
theorem State.credit_only (s : State) (die c : Nat) (g : Option Nat) (pj : Nat) : s.credit die c g pj =
    { s with power := (s.credit die c g pj).power, ctxs := (s.credit die c g pj).ctxs, graphs := (s.credit die c g pj).graphs } := by
  unfold State.credit
  dsimp only
  rw [State.countEvent_only]
  split <;> rfl

/-- The power state after a credit for no graph. -/
theorem State.credit_power (s : State) (die c pj : Nat) : (s.credit die c none pj).power =
    { s.power with die := addAt s.power.die die pj, pkg := s.power.pkg + pj, window := s.power.window + pj } := by
  unfold State.credit
  dsimp only
  rw [State.countEvent_only]
  rfl

/-- The machine with a slice of a unit charged. -/
def State.sliceCharged (s : State) (g u : Nat) : State :=
  let s := s.credit (groveDie g) 0 none (sliceCharge u)
  { s with power := { s.power with ballastPj := s.power.ballastPj + sliceCharge u, windowBallast := s.power.windowBallast + sliceCharge u } }

theorem State.sliceCharged_only (s : State) (g u : Nat) : s.sliceCharged g u =
    { s with power := (s.sliceCharged g u).power, ctxs := (s.sliceCharged g u).ctxs, graphs := (s.sliceCharged g u).graphs } := by
  unfold State.sliceCharged
  dsimp only
  rw [State.credit_only]

theorem State.sliceCharged_power (s : State) (g u : Nat) : (s.sliceCharged g u).power.ballastPj = s.power.ballastPj + sliceCharge u ∧
    (s.sliceCharged g u).power.ballast = s.power.ballast ∧ (s.sliceCharged g u).power.filler = s.power.filler := by
  unfold State.sliceCharged
  dsimp only
  rw [State.credit_power]
  exact ⟨rfl, rfl, rfl⟩

/-- A slice follows on unit `u` of a grove (R413, R414). -/
def State.sliceFollows (s : State) (g u : Nat) (dead : List Nat) : Bool :=
  s.ballastWanted && !s.unitWanted g u && decide (1 ≤ u ∧ u ≤ 3) && !dead.contains u

theorem State.sliceFollows_iff {dead : List Nat} (h1 : 1 ≤ u) (h3 : u ≤ 3) (hdead : dead.contains u = false) :
    s.sliceFollows g u dead = true ↔ (s.power.ballast = true ∧ s.loadWanted = true ∧ (s.power.filler = false ∨ s.fillerLeft = false)) ∧
      s.unitWanted g u = false := by
  simp only [State.sliceFollows, State.ballastWanted, hdead, h1, h3, Bool.and_eq_true, Bool.not_eq_true', Bool.and_eq_false_iff,
    and_self, decide_true, Bool.not_false, and_true, and_assoc]

theorem evBallastSliceEnd_begin (hg : s.arg.index = g) (hu : s.arg.index2 = u) (hnone : (s.grove g).ballast = []) :
    evBallastSliceEnd s = .next (if s.sliceFollows g u (s.grove g).dead && s.unitFree g u
      then s.setGrove g { s.grove g with ballast := [u] } else s) := by
  unfold evBallastSliceEnd
  dsimp only
  rw [hg, hu, hnone]
  rfl

theorem evBallastSliceEnd_end (hg : s.arg.index = g) (hu : s.arg.index2 = u) (hin : (s.grove g).ballast.contains u = true) :
    evBallastSliceEnd s = .next (if (s.sliceCharged g u).sliceFollows g u (s.grove g).dead then s.sliceCharged g u
      else (s.sliceCharged g u).setGrove g { (s.sliceCharged g u).grove g with ballast := (s.grove g).ballast.erase u }) := by
  unfold evBallastSliceEnd
  dsimp only
  rw [hg, hu, if_pos hin]
  rfl

theorem sliceCharge_eq (u : Nat) : sliceCharge u = if u = 3 then 76800 else 524288 := rfl

end

/-- Settles O40: each event comes to one operation on its queue or its grove. -/
theorem queueEvents : Obligations.QueueEvents := by
  unfold Obligations.QueueEvents
  intro s hs k
  refine ⟨?dispatch, ?join, ?control, ?ballast⟩
  case dispatch =>
    intro g u k hg hu h1 h5 hfree hbudget hB hk hkg hw hserves hmin
    obtain ⟨op, r, hops⟩ := State.headWaits_ops hw
    obtain ⟨hunit, hkept, hprog⟩ := State.startHead_queue (u := u) hs hops
    refine ⟨s.startHead k u, evUnitDispatch_free hg hu hfree hbudget hB (State.longestWaiting_oldest hk hkg hw hserves hmin), hunit,
      hkept, hprog, fun j hj => State.startHead_queue_other hj, ?_⟩
    rw [State.startHead_only]
  case join =>
    intro op r ps hops hkind hmode hended
    exact ⟨s.endHead k, evJoinResolve_join hops hkind hmode (State.blocked_join hops hkind hended), (State.endHead_queue hs hops).1,
      State.endHead_mem s k, fun j hj => State.endHead_queue_other hj⟩
  case control =>
    intro w n t hwriter ht hvalue hw hctx hg hdie h4 k hmode
    have hevent : ∀ act, s.writeEvent 0x40 (withAction s.arg.value act) = .next (s.queueControl t.ctx (slotDie n) (withAction w act)) :=
      fun act => by rw [State.writeEvent_queueControl hwriter ht, hvalue]
    constructor
    · have hresume := (State.queueControl_action (s := s) (act := 1) hw hctx hg hdie h4).1 rfl
      exact ⟨s.resumeQueue k, (hevent 1).trans (congrArg _ hresume), State.resumeQueue_halted hs hmode⟩
    · have hdiscard := (State.queueControl_action (s := s) (act := 2) hw hctx hg hdie h4).2 rfl
      exact ⟨s.discardQueue k, (hevent 2).trans (congrArg _ hdiscard), State.discardQueue_halted hs hmode⟩
  case ballast =>
    intro g u hg hu h1 h3 hdead
    refine ⟨fun hball hload hfill hidle hfree hnone => ?_, fun hoff hnone => ?_, fun hin => ?_⟩
    · have hfollows := (State.sliceFollows_iff (s := s) (g := g) h1 h3 hdead).2 ⟨⟨hball, hload, hfill⟩, hidle⟩
      refine ⟨s.setGrove g { s.grove g with ballast := [u] }, (evBallastSliceEnd_begin hg hu hnone).trans (by rw [hfollows, hfree]; rfl), ?_, rfl⟩
      rw [State.setGrove_grove_of _ _ _ hs.groves]
    · have hstays : s.sliceFollows g u (s.grove g).dead = false := by
        rw [Bool.eq_false_iff, ne_eq, State.sliceFollows_iff h1 h3 hdead]
        rintro ⟨⟨hball, hload, -⟩, hidle⟩
        simp [hball, hload, hidle] at hoff
      exact (evBallastSliceEnd_begin hg hu hnone).trans (by rw [hstays]; rfl)
    · obtain ⟨hpj, hball, hfill⟩ := s.sliceCharged_power g u
      have hfollows := State.sliceFollows_iff (s := s.sliceCharged g u) (g := g) h1 h3 hdead
      have hidle : (s.sliceCharged g u).unitWanted g u = s.unitWanted g u := by rw [State.sliceCharged_only]; rfl
      have hgrove : (s.sliceCharged g u).grove g = s.grove g := by rw [State.sliceCharged_only]; rfl
      have hgroves : Store.rising (s.sliceCharged g u).groves = true := by rw [State.sliceCharged_only]; exact hs.groves
      rw [hball, hfill, hidle] at hfollows
      refine ⟨_, evBallastSliceEnd_end hg hu hin, ?_, fun hb hf hi hload => ?_, fun hoff => ?_⟩
      · rw [← sliceCharge_eq]
        split
        · exact hpj
        · exact hpj
      · have hload' : (s.sliceCharged g u).loadWanted = true := by
          split at hload
          · exact hload
          · exact hload
        rw [if_pos (hfollows.2 ⟨⟨hb, hload', .inl hf⟩, hi⟩), hgrove]
      · have hends : ¬ (s.sliceCharged g u).sliceFollows g u (s.grove g).dead = true := by
          intro hgoes
          obtain ⟨⟨hb, hload, -⟩, hi⟩ := hfollows.1 hgoes
          rw [if_pos hgoes] at hoff
          simp [hb, hload, hi] at hoff
        rw [if_neg hends, State.setGrove_grove_of _ _ _ hgroves]

end Sys2Proof.Machine
end

section
/-!
PROOF. How an engine operation ends (11 R222 to R226, R239, 09 R201, R205, 15 R280).
-/
namespace Sys2Proof.Machine

section
variable {s s1 s2 : State} {k kw n : Nat} {op : EngineOp} {r : List EngineOp} {w : QReg} {i : Instr} {x : EngineStop}

/-! ## The events of an operation in progress -/

theorem State.inProgress_head (hmode : (s.queue k).mode = .running) (hunit : (s.queue k).unit ≠ 0) (hops : (s.queue k).ops = op :: r) :
    s.inProgress k = some op := by
  unfold State.inProgress
  dsimp only
  rw [hmode, hops, if_neg (by simp [hunit])]
  rfl

/-- The event of a whole operation finishes it. -/
theorem exec_complete (hin : s.inProgress s.arg.index = some op) (hwork : s.workOn s.arg.index op none = (.ok (), s1))
    (hi : (i = .tileOpComplete ∧ keyCode s.arg.index ≤ 4 ∧ (s.queue s.arg.index).stopping = 0) ∨
      (i = .copyComplete ∧ 4 < keyCode s.arg.index)) : exec i s = .next (s1.finishOp s.arg.index op) := by
  rcases hi with ⟨rfl, hcode, hstop⟩ | ⟨rfl, hcode⟩
  · show evTileOpComplete s = _
    unfold evTileOpComplete
    dsimp only
    rw [hin]
    dsimp only
    rw [if_neg (by simp [hstop, hcode]), hwork]
  · show evCopyComplete s = _
    unfold evCopyComplete
    dsimp only
    rw [hin]
    dsimp only
    rw [if_neg (by omega), hwork]

/-- A second residue mismatch of a block ends a tile operation. -/
theorem evTileOpComplete_residue (hin : s.inProgress s.arg.index = some op) (hcode : keyCode s.arg.index ≤ 4)
    (hstop : (s.queue s.arg.index).stopping = 0) (hwork : s.workOn s.arg.index op none = (.error .residue, s1)) :
    evTileOpComplete s = .next (s1.haltEnded s.arg.index 3 0) := by
  unfold evTileOpComplete
  dsimp only
  rw [hin]
  dsimp only
  rw [if_neg (by simp [hstop, hcode]), hwork]
  rfl

/-- The limit of the work on an operation that is to stop at a row or a byte. -/
theorem Queue.limit_stopping (q : Queue) (p : Prop) [Decidable p] :
    (if p then q.limit none else none) = if p ∧ q.stopping ≠ 0 then some q.stopRow else none := by
  unfold Queue.limit
  by_cases hp : p
  · by_cases hq : q.stopping = 0
    · simp [hp, hq]
    · simp [hp, hq]
  · simp [hp]

/-- An error of the work that its event is about stops the queue. -/
theorem State.engineTrouble_stops {ahead : Bool} {p : EngineStop → Bool} (hahead : ahead = false ∨ s.arg.addr = 0)
    (hin : s.inProgress s.arg.index = some op) (hp : p x = true)
    (hwork : s.workOn s.arg.index op (if (op.hasRows = true ∨ 4 < keyCode s.arg.index) ∧ (s.queue s.arg.index).stopping ≠ 0
      then some (s.queue s.arg.index).stopRow else none) = (.error x, s1)) :
    s.engineTrouble ahead p = .next (s1.engineStop s.arg.index x) := by
  have hnot : ¬ (ahead && s.arg.addr != 0) = true := by
    rcases hahead with h | h
    · simp [h]
    · simp [h]
  unfold State.engineTrouble
  dsimp only
  rw [hin]
  dsimp only
  rw [if_neg hnot, Queue.limit_stopping]
  simp only [Bool.or_eq_true, decide_eq_true_eq]
  rw [hwork]
  exact if_pos hp

/-- At the end of its block, what is whole and abandoned is discarded. -/
theorem evCurrentBlockEnd_ok (hin : s.inProgress s.arg.index = some op) (hstop : (s.queue s.arg.index).stopping = 2)
    (hwork : s.workOn s.arg.index op (if op.hasRows = true ∧ (s.queue s.arg.index).stopRow < op.rows
      then some (s.queue s.arg.index).stopRow else none) = (.ok (), s1)) :
    evCurrentBlockEnd s = .next (s1.discardOp s.arg.index op) := by
  unfold evCurrentBlockEnd
  dsimp only
  rw [hin]
  dsimp only
  rw [if_neg (by omega)]
  simp only [Bool.and_eq_true, decide_eq_true_eq]
  rw [hwork]
  dsimp only
  rw [if_pos hstop]

/-- At the end of its block, what is not whole is discarded where it is abandoned, and else stays to be restarted. -/
theorem evCurrentBlockEnd_pause (hin : s.inProgress s.arg.index = some op) (hstop : (s.queue s.arg.index).stopping ≠ 0)
    (hrows : op.hasRows = true) (hreached : min (s.queue s.arg.index).stopRow op.rows ≤ (s1.queue s.arg.index).prog)
    (hwork : s.workOn s.arg.index op (if op.hasRows = true ∧ (s.queue s.arg.index).stopRow < op.rows
      then some (s.queue s.arg.index).stopRow else none) = (.error .pause, s1)) :
    evCurrentBlockEnd s = .next (if (s.queue s.arg.index).stopping = 2 then s1.discardOp s.arg.index op
      else s1.setQueue s.arg.index { s1.queue s.arg.index with unit := 0, started := true, stopping := 0 }) := by
  unfold evCurrentBlockEnd
  dsimp only
  rw [hin]
  dsimp only
  rw [if_neg hstop]
  simp only [Bool.and_eq_true, decide_eq_true_eq]
  rw [hwork]
  dsimp only
  rw [if_neg (by simp [hrows, Nat.not_lt.2 hreached])]
  split
  · rfl
  · rfl

/-! ## The completion word (R201) -/

/-- The machine in which only the completion word of a queue's head is still to come. -/
def State.headWhole (s : State) (k : Nat) : State := s.setQueue k { s.queue k with whole := true }

/-- A thread's operation that is whole ends. -/
theorem State.finishOp_thread (hinc : op.increment.run.run (s1.headWhole k) = (.ok (), s2)) (htask : op.isTask = false) :
    s1.finishOp k op = (s2.routeAdd k op).endHead k := by
  have hnone : s2.taskOf op = none := if_neg (by simp [htask])
  unfold State.finishOp
  rw [State.headWhole] at hinc
  simp only [hinc, hnone]

/-- A task's operation that is whole ends with its task. -/
theorem State.finishOp_task {g : Nat} (hinc : op.increment.run.run (s1.headWhole k) = (.ok (), s2)) (htask : op.isTask = true)
    (hg : s2.graphOf op.gtid = some g) :
    s1.finishOp k op = ((s2.routeAdd k op).endHead k).taskDone g (op.gtid.toNat / 2 ^ 16 % 2 ^ 16) := by
  have hsome : s2.taskOf op = some (g, op.gtid.toNat / 2 ^ 16 % 2 ^ 16) := by
    rw [State.taskOf, if_pos htask, hg, Option.map_some]
  unfold State.finishOp
  rw [State.headWhole] at hinc
  simp only [hinc, hsome]

/-- A fault of the completion word's translation halts the queue. -/
theorem State.finishOp_translation {c a : Nat} (hinc : op.increment.run.run (s1.headWhole k) = (.error (.translation c a), s2)) :
    s1.finishOp k op = s2.haltTranslation k a := by
  unfold State.finishOp
  dsimp only
  rw [show s1.setQueue k { s1.queue k with whole := true } = s1.headWhole k from rfl, hinc]
  rfl

theorem EngineOp.increment_none (hw : op.w = none) : op.increment.run.run s = (.ok (), s) := by
  unfold EngineOp.increment
  rw [hw]
  rfl

/-- The increment of a completion word of this package. -/
theorem EngineOp.increment_word (hw : op.w = some w) (hkey : (op.wordKey w).run.run s = (.ok kw, s2)) (hlocal : s2.isLocal kw = true)
    (hsound : s2.poisoned kw = false) :
    op.increment.run.run s = (.ok (), s2.writeAccess (unitStore kw w.lo 8 0xFFFF) ((s2.readNum kw 8 + 1) % 2 ^ 64)) := by
  unfold EngineOp.increment
  rw [hw]
  dsimp only
  rw [Eng.run_bind_ok hkey]
  show (if (!s2.isLocal kw) = true then _ else _ : Eng Unit).run.run s2 = _
  rw [hlocal, if_neg (by decide), hsound]
  rfl

theorem EngineOp.increment_error (hw : op.w = some w) (hkey : (op.wordKey w).run.run s = (.error x, s2)) :
    op.increment.run.run s = (.error x, s2) := by
  unfold EngineOp.increment
  rw [hw]
  exact Eng.run_bind_error hkey

/-! ## The end of a head -/

theorem State.routeAdd_only (s : State) (k : Nat) (op : EngineOp) : s.routeAdd k op = { s with groves := (s.routeAdd k op).groves } :=
  iteInduction (motive := fun s' : State => s' = { s with groves := s'.groves }) (fun _ => rfl) (fun _ => rfl)

/-- The end of a head whose work is done, with its route add. -/
theorem State.routeAdd_endHead (h : s2.Tidy) (hq : s2.queue k = (s1.headWhole k).queue k) (hs1 : s1.Tidy)
    (hops : (s1.queue k).ops = op :: r) :
    let s' := (s2.routeAdd k op).endHead k
    (s'.queue k).ops = r ∧ (s'.queue k).unit = 0 ∧ (s'.queue k).done = ((s1.queue k).done + 1) % 2 ^ 16 ∧ s'.mem = s2.mem := by
  have hwhole : (s2.routeAdd k op).queue k = { s1.queue k with whole := true } := by
    rw [State.routeAdd_only]
    exact hq.trans (State.setQueue_queue_of _ _ _ hs1.queues)
  have hops2 : ((s2.routeAdd k op).queue k).ops = op :: r := by rw [hwhole]; exact hops
  obtain ⟨hrest, hunit, hdone⟩ := State.endHead_queue h.routeAdd hops2
  refine ⟨hrest, hunit, ?_, ?_⟩
  · rw [hdone, hwhole]
  · rw [State.endHead_mem, State.routeAdd_only]

/-- The counter of the issuer of a thread's operation falls when it ends. -/
theorem State.routeAdd_endHead_thread {t : Thread} (h : s2.Tidy) (hops : (s2.queue k).ops = op :: r) (htask : op.isTask = false)
    (hslots : s2.slots = s1.slots) (hone : ∀ x ∈ s1.slots, x.1 ≠ n → ∀ u, x.2.thread = some u → u.gtid ≠ op.gtid)
    (ht : s1.thread n = some t) (hg : t.gtid = op.gtid) :
    ((s2.routeAdd k op).endHead k).thread n = some (if keyCode k ≤ 4 then { t with tl := t.tl - 1 } else { t with cp := t.cp - 1 }) := by
  have hadd : (s2.routeAdd k op).slots = s1.slots := by rw [State.routeAdd_only]; exact hslots
  have hqueue : ((s2.routeAdd k op).queue k).ops = op :: r := by rw [State.routeAdd_only]; exact hops
  have hthread : (s2.routeAdd k op).thread n = some t := by
    rw [State.thread, State.slot, hadd]
    exact ht
  exact State.endHead_thread h.routeAdd hqueue htask (by rw [hadd]; exact hone) hthread hg

theorem State.headWhole_ops (h : s1.Tidy) (hops : (s1.queue k).ops = op :: r) : ((s1.headWhole k).queue k).ops = op :: r := by
  rw [State.headWhole, State.setQueue_queue_of _ _ _ h.queues]
  exact hops

end

section
variable {s1 s2 : State} {k kw n : Nat} {op : EngineOp} {r : List EngineOp} {w : QReg}

/-- The look-up of a completion word leaves the machine as it was but for what every look-up may change. -/
theorem EngineOp.wordKey_looked {x : Except EngineStop Nat} (h : s1.Tidy) (hkey : (op.wordKey w).run.run s1 = (x, s2)) :
    s1.Looked s2 ∧ s2.Tidy := by
  have hlook := EngineOp.wordKey_looks (s := s1) (op := op) (w := w)
  unfold Eng.LooksFrom at hlook
  rw [hkey] at hlook
  exact ⟨hlook, (EngineOp.wordKey_tidy.run h).out hkey⟩

/-- The increment of the completion word leaves what it does not name. -/
theorem State.incrementWord_bytesOutside {v : Nat} (hlook : s1.Looked s2) (hkw : keyTgt kw ≤ 3) (va : Nat) :
    s1.bytesOutside (s2.writeAccess (unitStore kw va 8 0xFFFF) v) kw 8 := by
  intro j hj hout
  have htag : ∀ i, s2.isTagByte i j → s1.isTagByte i j := by
    rw [State.Looked] at hlook
    rw [hlook]
    exact fun i h => h
  have hbyte := State.storeAccess_bytesOutside (s := s2) (a := unitStore kw va 8 0xFFFF) (v := v) hkw j hj fun i hi h => hout i hi (htag _ h)
  rw [← hlook.byte j, ← hbyte]
  unfold State.byte
  rw [State.storeAccess_mem]

theorem State.incrementWord_readNum {v : Nat} (h : s2.Tidy) (hkw : keyTgt kw ≤ 3) (va : Nat) :
    (s2.writeAccess (unitStore kw va 8 0xFFFF) v).readNum kw 8 = v % 2 ^ 64 := by
  have hread := State.storeAccess_readNum_every (a := unitStore kw va 8 0xFFFF) (v := v) h.mem hkw (Nat.le_of_ble_eq_true rfl) rfl
  refine (State.readNum_congr _ _ _ _ fun j _ _ => ?_).trans hread
  unfold State.byte
  rw [State.storeAccess_mem]

end

/-- Settles O41: each event comes to the end, the halt, the freeze or the discard of the head, of which the rules above say what it leaves. -/
theorem engineEnds : Obligations.EngineEnds := by
  unfold Obligations.EngineEnds
  intro s s1 op r hs hs1 k here hmode hunit hops task fails
  have hin : s.inProgress k = some op := State.inProgress_head hmode hunit hops
  refine ⟨?complete, ?translation, ?residue, ?data, ?violation, ?block⟩
  case complete =>
    intro i hi hwork hops1 leaves uncounts
    have hexec : exec i s = .next (s1.finishOp k op) := exec_complete hin hwork hi
    have hwhole : (s1.headWhole k).Tidy := hs1.setQueue
    have hwholeOps := State.headWhole_ops hs1 hops1
    refine ⟨fun hw htask => ?_, fun g hw htask hg => ?_, fun w s2 hw htask => ⟨fun kw hkey hlocal hsound h8 => ?_, fun c a hkey => ?_⟩⟩
    · obtain ⟨hrest, hzero, hdone, hmem⟩ := State.routeAdd_endHead (op := op) hwhole rfl hs1 hops1
      refine ⟨_, hexec.trans (congrArg _ (State.finishOp_thread (EngineOp.increment_none hw) htask)), ⟨hrest, hzero, hdone⟩, ?_, hmem⟩
      exact fun n t hone ht hgtid => State.routeAdd_endHead_thread hwhole hwholeOps htask rfl hone ht hgtid
    · obtain ⟨hrest, hzero, hdone, hmem⟩ := State.routeAdd_endHead (op := op) hwhole rfl hs1 hops1
      have hadd : ((s1.headWhole k).routeAdd k op).graphs = s1.graphs ∧ ((s1.headWhole k).routeAdd k op).slots = s1.slots := by
        rw [State.routeAdd_only]
        exact ⟨rfl, rfl⟩
      have hrouted : (((s1.headWhole k).routeAdd k op).queue k).ops = op :: r := by
        rw [State.routeAdd_only]
        exact hwholeOps
      obtain ⟨hslots, hgraphs⟩ := State.endHead_of_isTask hrouted htask
      exact ⟨_, ⟨hrest, hzero, hdone⟩, hgraphs.trans hadd.1, hslots.trans hadd.2, hmem,
        hexec.trans (congrArg _ (State.finishOp_task (EngineOp.increment_none hw) htask hg))⟩
    · obtain ⟨hlook, htidy⟩ := EngineOp.wordKey_looked hwhole hkey
      have hkw := EngineOp.wordKey_tgt hkey
      have hinc := EngineOp.increment_word hw hkey hlocal hsound
      have hstored := State.writeAccess_only s2 (unitStore kw w.lo 8 0xFFFF) ((s2.readNum kw 8 + 1) % 2 ^ 64)
      have hread := State.incrementWord_readNum (v := (s2.readNum kw 8 + 1) % 2 ^ 64) htidy hkw w.lo
      have houtside := State.incrementWord_bytesOutside (v := (s2.readNum kw 8 + 1) % 2 ^ 64) hlook hkw w.lo
      have htidy3 : (s2.writeAccess (unitStore kw w.lo 8 0xFFFF) ((s2.readNum kw 8 + 1) % 2 ^ 64)).Tidy := htidy.writeAccess
      generalize hs3 : s2.writeAccess (unitStore kw w.lo 8 0xFFFF) ((s2.readNum kw 8 + 1) % 2 ^ 64) = s3 at *
      have hqueue : s3.queue k = (s1.headWhole k).queue k := by
        rw [hstored]
        exact hlook.queue k
      have hslots : s3.slots = s1.slots := by
        rw [hstored]
        exact hlook.slots
      obtain ⟨hrest, hzero, hdone, hmem⟩ := State.routeAdd_endHead (op := op) htidy3 hqueue hs1 hops1
      have hbyte : ∀ j, ((s3.routeAdd k op).endHead k).byte j = s3.byte j := fun j => by rw [State.byte, hmem]; rfl
      refine ⟨_, hexec.trans (congrArg _ (State.finishOp_thread hinc htask)), ⟨hrest, hzero, hdone⟩, ?_, ?_, ?_⟩
      · exact fun n t hone ht hgtid => State.routeAdd_endHead_thread htidy3 (hqueue ▸ hwholeOps) htask hslots hone ht hgtid
      · rw [State.readNum_congr _ _ kw 8 fun j _ _ => hbyte j, hread, hlook.readNum, Nat.mod_mod]
        rfl
      · exact fun j hj hout => (hbyte j).trans (houtside j hj hout)
    · obtain ⟨hlook, htidy⟩ := EngineOp.wordKey_looked hwhole hkey
      obtain ⟨hqueue, hmem, -⟩ := State.haltTranslation_spec htidy k a
      refine ⟨_, hexec.trans (congrArg _ (State.finishOp_translation (EngineOp.increment_error hw hkey))), ?_⟩
      rw [hqueue, hlook.queue]
      exact ⟨rfl, rfl, hwholeOps, congrArg Queue.whole (State.setQueue_queue_of s1 k _ hs1.queues), hmem⟩
  case translation =>
    intro c a hwork
    obtain ⟨hqueue, hmem, hnote⟩ := State.haltTranslation_spec hs1 k a
    refine ⟨s1.haltTranslation k a, State.engineTrouble_stops (.inl rfl) hin rfl hwork, ?_⟩
    rw [hqueue]
    exact ⟨rfl, rfl, rfl, rfl, rfl, hmem, hnote⟩
  case residue =>
    intro hwork hcode hstop hops1
    obtain ⟨hqueue, hmem, hnote, hfails⟩ := State.haltEnded_spec hs1 hops1 3 0
    refine ⟨s1.haltEnded k 3 0, evTileOpComplete_residue hin hcode hstop hwork, ?_⟩
    rw [hqueue, Queue.endedWith_ops]
    exact ⟨rfl, Bool.or_true _, rfl, hops1, hmem, hfails, hnote⟩
  case data =>
    intro a hwork hops1 hindex haddr
    obtain ⟨hqueue, hmem, hnote, hfails⟩ := State.haltEnded_spec hs1 hops1 2 a
    have hexec : exec .engineDataError s = .next (s1.haltEnded k 2 a) := by
      show evEngineDataError s = _
      unfold evEngineDataError
      rw [hindex]
      exact State.engineTrouble_stops (.inr haddr) hin rfl hwork
    refine ⟨s1.haltEnded k 2 a, hexec, ?_⟩
    rw [hqueue, Queue.endedWith_ops]
    exact ⟨rfl, Bool.or_true _, rfl, hops1, hmem, hfails, hnote⟩
  case violation =>
    intro kind a hwork
    obtain ⟨hqueue, hmem, hnote⟩ := State.freezeQueue_spec hs1 k kind a
    refine ⟨s1.freezeQueue k kind a, State.engineTrouble_stops (.inl rfl) hin rfl hwork, ?_⟩
    rw [hqueue]
    exact ⟨rfl, rfl, rfl, hmem, hnote⟩
  case block =>
    intro stop last
    refine ⟨fun hwork hstop hops1 _ => ?_, fun hwork hrows hreached => ⟨fun hstop => ?_, fun hstop hops1 _ => ?_⟩⟩
    · exact ⟨_, evCurrentBlockEnd_ok hin hstop hwork, State.discardOp_queue hs1 hops1⟩
    · have hne : (s.queue s.arg.index).stopping ≠ 0 ∧ (s.queue s.arg.index).stopping ≠ 2 := by
        rw [show (s.queue s.arg.index).stopping = 1 from hstop]
        decide
      refine ⟨_, (evCurrentBlockEnd_pause hin hne.1 hrows hreached hwork).trans (congrArg _ (if_neg hne.2)), rfl, ?_⟩
      exact State.setQueue_queue_of _ _ _ hs1.queues
    · have hne : (s.queue s.arg.index).stopping ≠ 0 := fun h => by cases h.symm.trans hstop
      exact ⟨_, (evCurrentBlockEnd_pause hin hne hrows hreached hwork).trans (congrArg _ (if_pos hstop)),
        State.discardOp_queue hs1 hops1⟩

end Sys2Proof.Machine
end

section
/-!
PROOF. The work of `tzero` and `cfill` (11 R234, R239): granule by granule, the bytes that they name are filled.
-/
namespace Sys2Proof.Machine

/-! ## Granules (09 R191, R202) -/

section
variable {s s' : State} {k va v j n : Nat}

/-- A unit's store of a whole granule writes its two words whole. -/
theorem unitStore_granule_words (hk : k % 16 = 0) (va : Nat) :
    (unitStore k va 16 0xFFFFFFFF).words = [(k, 0xFFFF), (k + 8, 0xFFFF)] := by
  have h8 : k % 8 = 0 := by omega
  have hbase : k / 8 * 8 = k := by omega
  have hmask : ∀ i, i < 2 → (unitStore k va 16 0xFFFFFFFF).wordMask i = 0xFFFF := by
    intro i hi
    show 0xFFFFFFFF % 2 ^ 32 * 2 ^ (2 * (k % 8)) / 2 ^ (16 * i) % 2 ^ 16 = 0xFFFF
    rw [h8]
    match i, hi with
    | 0, _ => rfl
    | 1, _ => rfl
  unfold Access.words
  rw [hmask 0 (by decide), hmask 1 (by decide)]
  show [(k / 8 * 8, 0xFFFF), (k / 8 * 8 + 8, 0xFFFF)] = _
  rw [hbase]

/-- Whole words need no read: an error in them stops no store of the granule. -/
theorem State.badWord_granule (hk : k % 16 = 0) (va : Nat) : s.badWord (unitStore k va 16 0xFFFFFFFF) true = none := by
  rw [State.badWord, unitStore_granule_words hk]
  simp

/-- The machine in which a unit has written a granule without a capability. -/
def State.withGranule (s : State) (k va v : Nat) : State := (s.writeAccess (unitStore k va 16 0xFFFFFFFF) v).setTag k false

theorem State.withGranule_only (s : State) (k va v : Nat) : s.withGranule k va v =
    { s with mem := (s.withGranule k va v).mem, ras := (s.withGranule k va v).ras } := by
  unfold State.withGranule
  rw [State.writeAccess_only]
  rfl

/-- Bytes read one by one from bytes written whole. -/
theorem State.writeNibbles_byte {mask : Nat} (h : s.mem.wf = true) (hm : ∀ i, i < 2 * n → bit mask i = true) (hj : j < n) :
    (s.writeNibbles k n v mask).byte (k + j) = BitVec.ofNat 8 (v / 2 ^ (8 * j)) := by
  refine BitVec.eq_of_toNat_eq ?_
  rw [← lane_readNum _ k n j hj, State.writeNibbles_whole s k n v mask h hm, lane_mod _ _ _ _ (by omega), BitVec.toNat_ofNat]
  rfl

theorem State.withGranule_byte (h : s.mem.wf = true) (hk : k % 16 = 0) (htgt : keyTgt k ≤ 3) : (s.withGranule k va v).byte j =
    if k ≤ j ∧ j < k + 16 then BitVec.ofNat 8 (v / 2 ^ (8 * (j - k))) else s.byte j := by
  have htag : ∀ w ∈ (unitStore k va 16 0xFFFFFFFF).words, ¬ s.isTagByte w.1 j := by
    refine Access.not_tagByte s _ j ?_
    rw [unitStore_granule_words hk]
    unfold keyTgt at htgt ⊢
    simp only [List.mem_cons, List.not_mem_nil, or_false, forall_eq_or_imp, forall_eq]
    omega
  have hmask : ∀ i, i < 2 * 16 → bit (BitVec.ofNat 32 0xFFFFFFFF).toNat i = true := fun i hi => bit_allNibbles (Nat.le_refl 16) hi
  unfold State.withGranule
  rw [State.setTag_byte_low _ _ _ _ htgt, State.writeAccess_byte _ _ _ _ htag]
  simp only [unitStore]
  split
  next hin =>
    obtain ⟨i, rfl⟩ := Nat.exists_eq_add_of_le hin.1
    rw [State.writeNibbles_byte h hmask (by omega), Nat.add_sub_cancel_left]
  next hout => exact State.writeNibbles_byte_other _ _ _ _ _ _ (by omega)

theorem State.Tidy.withGranule (h : s.Tidy) : (s.withGranule k va v).Tidy := h.writeAccess.setTag

/-- An address of a physical space lies below the CXL tiers. -/
theorem State.formPhysical_tgt {c core space a : Nat} (h : s.formPhysical c core space a = .key k) : keyTgt k ≤ 3 := by
  have hmem : ∀ p t pa, t ≤ 3 → keyTgt (memKey p t pa) ≤ 3 := by
    intro p t pa ht
    unfold keyTgt memKey
    omega
  unfold State.formPhysical at h
  dsimp only at h
  split at h
  · split at h
    · cases h
    · split at h
      · cases h
        exact hmem _ _ _ (by decide)
      · split at h
        · cases h
        · cases h
          exact hmem _ _ _ (by decide)
  · split at h
    · cases h
    · cases h
      exact hmem _ _ _ (by decide)
  · split at h
    · cases h
    · cases h
      exact hmem _ _ _ (by decide)
  · cases h

end

/-! ## Computations of a unit -/

section
variable {s s' : State} {k a v : Nat} {op : EngineOp} {r : QReg}

/-- The look-up of an address of a physical space. -/
theorem EngineOp.key_physical (right : Right) (hspace : capSpace r.bits ≤ 2)
    (hform : s.formPhysical op.ctx op.core (capSpace r.bits) a = .key k) (hmap : s.remapping op.ctx (capSpace r.bits) a = none) :
    (op.key r a right).run.run s = (.ok k, s) := by
  have h3 : (capSpace r.bits == 3) = false := by
    rw [beq_eq_false_iff_ne]
    omega
  have hf : s.form op.ctx op.core (capSpace r.bits) a right = (.key k, s) := by
    rw [State.form, if_neg (by omega), hform]
  unfold EngineOp.ctx at hf hmap
  unfold EngineOp.key
  rw [Eng.run_bind_ok (show (get : Eng State).run.run s = (.ok s, s) from rfl)]
  simp only [h3, Bool.false_and, hf, hmap]
  rfl

/-- The write of a whole granule of a physical space of this package. -/
theorem EngineOp.writeGranule_physical (hspace : capSpace r.bits ≤ 2) (ha : a % 16 = 0) (hk : k % 16 = 0)
    (hform : s.formPhysical op.ctx op.core (capSpace r.bits) a = .key k) (hmap : s.remapping op.ctx (capSpace r.bits) a = none)
    (hlocal : s.isLocal k = true) : (op.writeGranule r a v 0xFFFFFFFF false).run.run s = (.ok (), s.withGranule k a v) := by
  have hbase : a / 16 * 16 = a := by omega
  unfold EngineOp.writeGranule
  rw [hbase, Eng.run_bind_ok (EngineOp.key_physical .store hspace hform hmap)]
  rw [Eng.run_bind_ok (show (get : Eng State).run.run s = (.ok s, s) from rfl)]
  simp only [hlocal, Bool.not_true, State.badWord_granule hk]
  rfl

/-- A computation repeated over 0 to `n` − 1 keeps what each of its runs keeps. -/
theorem Eng.run_forM_range {P : Nat → State → Prop} {f : Nat → Eng Unit} {n : Nat}
    (hf : ∀ i s, i < n → P i s → ∃ s', (f i).run.run s = (.ok (), s') ∧ P (i + 1) s') (h : P 0 s) :
    ∃ s', ((List.range n).forM f).run.run s = (.ok (), s') ∧ P n s' := by
  have hfrom : ∀ m i s, i + m = n → P i s → ∃ s', ((List.range' i m).forM f).run.run s = (.ok (), s') ∧ P n s' := by
    intro m
    induction m with
    | zero => exact fun i s hi hP => ⟨s, rfl, hi ▸ hP⟩
    | succ m ih =>
      intro i s hi hP
      obtain ⟨s1, hrun, hP1⟩ := hf i s (by omega) hP
      obtain ⟨s2, hrest, hP2⟩ := ih (i + 1) s1 (by omega) hP1
      refine ⟨s2, ?_, hP2⟩
      exact (Eng.run_bind_ok hrun).trans hrest
  rw [List.range_eq_range']
  exact hfrom n 0 s (Nat.zero_add n) h

theorem modQueue_run (f : Queue → Queue) : (modQueue k f).run.run s = (.ok (), s.setQueue k (f (s.queue k))) := rfl

end

/-! ## Fills -/

/-- The operand of a fill lies in a physical space of this package, at keys that follow `key`, and no migration transfers it. -/
structure EngineOp.Fillable (op : EngineOp) (s : State) (key : Nat) : Prop where
  space : capSpace op.d.bits ≤ 2
  form : ∀ i, i < op.b.lo → s.formPhysical op.ctx op.core (capSpace op.d.bits) (op.d.lo + i) = .key (key + i)
  stays : ∀ i, i < op.b.lo → s.remapping op.ctx (capSpace op.d.bits) (op.d.lo + i) = none
  inPackage : ∀ i, i < op.b.lo → s.isLocal (key + i) = true
  aligned : key % 16 = 0 ∧ op.d.lo % 16 = 0

/-- From `s` to `s'`, the first `n` bytes from `key` have been filled with the pattern `v`, and no table but the queues and what they
ask of peers has changed. -/
structure State.Filled (s s' : State) (key n v : Nat) : Prop where
  only : s' = { s with mem := s'.mem, ras := s'.ras, queues := s'.queues, far := s'.far }
  tidy : s'.Tidy
  bytes : ∀ j, s'.byte j = if key ≤ j ∧ j < key + n then BitVec.ofNat 8 (v / 2 ^ (8 * ((j - key) % 16))) else s.byte j

section
variable {s s' : State} {k key n v i : Nat} {op : EngineOp}

namespace State.Filled

theorem zero (h : s.Tidy) : s.Filled s key 0 v := ⟨rfl, h, fun j => (if_neg (by omega)).symm⟩

theorem setQueue (h : s.Filled s' key n v) (q : Queue) : s.Filled (s'.setQueue k q) key n v :=
  ⟨by rw [h.only]; rfl, h.tidy.setQueue, h.bytes⟩

theorem setFar (h : s.Filled s' key n v) (l : List FarPart) : s.Filled (s'.setFar k l) key n v :=
  ⟨by rw [h.only]; rfl, h.tidy.setFar, h.bytes⟩

/-- The next granule is filled. -/
theorem withGranule (h : s.Filled s' key (16 * i) v) (hkey : key % 16 = 0) (htgt : keyTgt (key + 16 * i) ≤ 3) (va : Nat) :
    s.Filled (s'.withGranule (key + 16 * i) va v) key (16 * (i + 1)) v := by
  refine ⟨by rw [State.withGranule_only, h.only], h.tidy.withGranule, fun j => ?_⟩
  rw [State.withGranule_byte h.tidy.mem (by omega) htgt, h.bytes]
  by_cases hin : key + 16 * i ≤ j ∧ j < key + 16 * i + 16
  · have hoff : (j - key) % 16 = j - (key + 16 * i) := by omega
    rw [if_pos hin, if_pos (by omega), hoff]
  · rw [if_neg hin]
    exact if_congr (by omega) rfl rfl

end State.Filled

/-- A granule of the operand is written as long as the fill has changed no more than it may. -/
theorem EngineOp.Fillable.writeGranule_run (hp : op.Fillable s key) (h : s.Filled s' key (16 * i) v) (hi : 16 * i < op.b.lo) :
    (op.writeGranule op.d (op.d.lo + 16 * i) v 0xFFFFFFFF false).run.run s' =
      (.ok (), s'.withGranule (key + 16 * i) (op.d.lo + 16 * i) v) := by
  obtain ⟨hkey, haddr⟩ := hp.aligned
  refine EngineOp.writeGranule_physical hp.space (by omega) (by omega) ?_ ?_ ?_
  · rw [h.only]
    exact hp.form _ hi
  · rw [h.only]
    exact hp.stays _ hi
  · rw [h.only]
    exact hp.inPackage _ hi

theorem EngineOp.Fillable.tgt (hp : op.Fillable s key) (hi : 16 * i < op.b.lo) : keyTgt (key + 16 * i) ≤ 3 :=
  State.formPhysical_tgt (hp.form _ hi)

/-! ## `tzero` (R234) -/

theorem EngineOp.runZero_fills (hp : op.Fillable s key) (h : s.Tidy) (hlen : op.b.lo % 16 = 0) (hend : (s.queue k).planEnd = 0)
    (hahead : (s.queue k).ahead = []) : ∃ s', (op.runZero k none).run.run s = (.ok (), s') ∧ s.Filled s' key op.b.lo 0 := by
  have hloop := Eng.run_forM_range (s := s) (P := fun i s' => s.Filled s' key (16 * i) 0) (n := op.b.lo / 16)
    (f := fun i => do op.zeroGranule (16 * i); modQueue k fun q => { q with planEnd := 16 * i + 16 })
    (fun i s' hi hfill => ?_) (.zero h)
  · obtain ⟨s', hrun, hfill⟩ := hloop
    refine ⟨s', ?_, by rwa [Nat.mul_div_cancel' (Nat.dvd_of_mod_eq_zero hlen)] at hfill⟩
    unfold EngineOp.runZero
    rw [Eng.run_bind_ok (show (get : Eng State).run.run s = (.ok s, s) from rfl)]
    simp only [hend, hahead, Nat.sub_zero, Nat.zero_add]
    exact hrun
  · have hin : 16 * i < op.b.lo := by omega
    refine ⟨_, (Eng.run_bind_ok (hp.writeGranule_run hfill hin)).trans (modQueue_run _), ?_⟩
    exact (hfill.withGranule hp.aligned.1 (hp.tgt hin) _).setQueue _

/-! ## `cfill` (R239) -/

theorem EngineOp.copyBytes_fill (hx : op.xop = 3) : op.copyBytes = op.b.lo := by
  simp [EngineOp.copyBytes, EngineOp.rowLen, EngineOp.rowCount, EngineOp.hasGeometry, hx]

theorem EngineOp.dstAt_fill (hx : op.xop = 3) (hi : n < op.b.lo) : op.dstAt n = op.d.lo + n := by
  have hlen : op.rowLen = op.b.lo := by simp [EngineOp.rowLen, EngineOp.hasGeometry, hx]
  have hstep : op.dstStep = 0 := by simp [EngineOp.dstStep, EngineOp.hasGeometry, hx]
  rw [EngineOp.dstAt, hstep, Nat.mul_zero, Nat.add_zero, EngineOp.rowAt, hlen, Nat.mod_eq_of_lt hi]

/-- A granule of a fill takes its pattern and writes it. -/
theorem EngineOp.Fillable.copyGranule_run (hp : op.Fillable s key) (hx : op.xop = 3)
    (h : s.Filled s' key (16 * i) op.a.bits.toNat) (hi : 16 * i < op.b.lo) :
    ∃ s'', (op.copyGranule k (16 * i)).run.run s' = (.ok (), s'') ∧ s.Filled s'' key (16 * (i + 1)) op.a.bits.toNat := by
  have hsource : (op.sourceGranule k (16 * i)).run.run s' = (.ok (op.a.bits.toNat, false), s') := by
    unfold EngineOp.sourceGranule
    rw [if_pos hx]
    rfl
  refine ⟨_, ?_, (h.withGranule hp.aligned.1 (hp.tgt hi) (op.d.lo + 16 * i)).setFar (k := op.queue)
    (((s'.withGranule (key + 16 * i) (op.d.lo + 16 * i) op.a.bits.toNat).farOf op.queue).filter fun _ => !true)⟩
  unfold EngineOp.copyGranule
  rw [Eng.run_bind_ok hsource, EngineOp.dstAt_fill hx hi, Bool.false_and, Eng.run_bind_ok (hp.writeGranule_run h hi)]
  rfl

/-- The machine in which queue `k` has kept what the operation keeps of its source. -/
def EngineOp.sourceKept (op : EngineOp) (s : State) (k : Nat) : State :=
  s.setQueue k { s.queue k with snap := op.snapshot s (s.queue k).snap }

theorem EngineOp.keepSource_run : (op.keepSource k).run.run s = (.ok (), op.sourceKept s k) := rfl

theorem EngineOp.runCopy_fills (hp : op.Fillable s key) (h : s.Tidy) (hx : op.xop = 3) (hlen : op.b.lo % 16 = 0)
    (hprog : (s.queue k).prog = 0) (hahead : (s.queue k).ahead = []) : ∃ s', (op.runCopy k none).run.run s = (.ok (), s') ∧
      s.Filled s' key op.b.lo op.a.bits.toNat ∧ (s'.queue k).prog = op.b.lo := by
  have hloop := Eng.run_forM_range (s := op.sourceKept s k)
    (P := fun i s' => s.Filled s' key (16 * i) op.a.bits.toNat ∧ (s'.queue k).prog = 16 * i) (n := op.b.lo / 16)
    (f := fun i => do pauseAt k none; op.copyGranule k (16 * i); modQueue k fun q => { q with prog := 16 * i + 16 })
    (fun i s' hi hfill => ?_) ⟨(State.Filled.zero h).setQueue _, ?_⟩
  · obtain ⟨s', hrun, hfill⟩ := hloop
    refine ⟨s', ?_, by rwa [Nat.mul_div_cancel' (Nat.dvd_of_mod_eq_zero hlen)] at hfill⟩
    unfold EngineOp.runCopy
    rw [Eng.run_bind_ok (show (get : Eng State).run.run s = (.ok s, s) from rfl), Eng.run_bind_ok EngineOp.keepSource_run]
    simp only [hprog, hahead, Nat.sub_zero, Nat.zero_add, EngineOp.copyBytes_fill hx]
    exact hrun
  · have hin : 16 * i < op.b.lo := by omega
    obtain ⟨s1, hrun, hfill1⟩ := hp.copyGranule_run (k := k) hx hfill.1 hin
    refine ⟨_, (Eng.run_bind_ok (show (pauseAt k none).run.run s' = (.ok (), s') from rfl)).trans
      ((Eng.run_bind_ok hrun).trans (modQueue_run _)), hfill1.setQueue _, ?_⟩
    rw [State.setQueue_queue_of _ _ _ hfill1.tidy.queues]
    rfl
  · rw [EngineOp.sourceKept, State.setQueue_queue_of _ _ _ h.queues]
    exact hprog

/-! ## Charges (26 R407) -/

theorem State.chargeUnit_only (s : State) (g u : Nat) (gtid : Word64) (pj : Nat) : s.chargeUnit g u gtid pj =
    { s with groves := (s.chargeUnit g u gtid pj).groves, power := (s.chargeUnit g u gtid pj).power
             ctxs := (s.chargeUnit g u gtid pj).ctxs, graphs := (s.chargeUnit g u gtid pj).graphs } := by
  unfold State.chargeUnit
  dsimp only
  rw [State.credit_only]
  rfl

/-- The charge of an engine's work changes the energy of its grove, its context and its graph alone, and their counts. -/
theorem State.chargeWork_only (s : State) (k u : Nat) (op : EngineOp) (q : Queue) (whole : Bool) : s.chargeWork k u op q whole =
    { s with groves := (s.chargeWork k u op q whole).groves, power := (s.chargeWork k u op q whole).power
             ctxs := (s.chargeWork k u op q whole).ctxs, graphs := (s.chargeWork k u op q whole).graphs } := by
  unfold State.chargeWork
  dsimp only
  split
  · rw [State.countEvent_only, State.chargeUnit_only]
  · split
    · rw [State.chargeUnit_only]
    · split
      · rw [State.chargeUnit_only]
      · rw [State.countEvent_only, State.chargeUnit_only]

/-- The machine that a unit begins its work in. -/
def State.atWork (s : State) : State := { s with opts := { s.opts with walk := s.arg.walk } }

theorem State.workOn_run {limit : Option Nat} (hwhole : (s.queue k).whole = false)
    (hrun : (if keyCode k ≤ 4 then op.runTile k limit else op.runCopy k limit).run.run s.atWork = (.ok (), s')) :
    s.workOn k op limit = (.ok (), s'.chargeWork k (s.queue k).unit op (s.queue k) true) := by
  unfold State.workOn
  rw [hwhole, if_neg Bool.false_ne_true]
  unfold State.worked
  dsimp only
  rw [show ({ s with opts := { s.opts with walk := s.arg.walk } } : State) = s.atWork from rfl, hrun]

theorem State.chargeWork_byte (s : State) (k u : Nat) (op : EngineOp) (q : Queue) (whole : Bool) (j : Nat) :
    (s.chargeWork k u op q whole).byte j = s.byte j := by
  rw [State.chargeWork_only]
  rfl

end

/-- Settles O42: granule by granule, the work fills the bytes that the operation names, and its charge changes none. -/
theorem engineFills : Obligations.EngineFills := by
  unfold Obligations.EngineFills
  intro s k op hprog hwhole hahead hend hs hlen haddr key hform hstays hspace hlocal hkey
  have hp : op.Fillable s.atWork key := ⟨hspace, hform, hstays, hlocal, hkey, haddr⟩
  have htidy : s.atWork.Tidy := hs.of_tables
  refine ⟨fun hx hcode => ?_, fun hx hcode => ?_⟩
  · obtain ⟨s1, hrun, hfill⟩ := EngineOp.runZero_fills (k := k) hp htidy hlen hend hahead
    have htile : op.runTile k none = op.runZero k none := by
      unfold EngineOp.runTile
      rw [hx]
      rfl
    refine ⟨_, State.workOn_run hwhole (by rwa [if_pos hcode, htile]), fun j => ?_⟩
    rw [State.chargeWork_byte, hfill.bytes, Nat.zero_div]
    rfl
  · obtain ⟨s1, hrun, hfill, hdone⟩ := EngineOp.runCopy_fills (k := k) hp htidy hx hlen hprog hahead
    refine ⟨_, State.workOn_run hwhole (by rwa [if_neg (by omega)]), ?_, fun j => ?_⟩
    · rw [State.chargeWork_only]
      exact hdone
    · rw [State.chargeWork_byte, hfill.bytes]
      rfl

end Sys2Proof.Machine
end
